-- ==== Sys2Proof/Word.lean ====
section
/-! DEFINITION. The words of the FN7 model: bytes, byte strings and the two sparse containers that State uses. -/

namespace Sys2Proof

/-- One byte of a memory, a frame or a register. -/
abbrev Byte := BitVec 8

/-- A string of bytes, lowest address (or first transmitted) first. -/
abbrev Bytes := List Byte

/-- A sparse table by number, held as a list of pairs with strictly rising keys. -/
abbrev Tbl (α : Type) := List (Nat × α)

end Sys2Proof
end

