-- ==== Sys2Proof/Syntax.lean ====
section
/-! DEFINITION. The commands of the FN7 block and the operand structures that they carry. -/

namespace Sys2Proof

/-- A CTE message as it is applied (14 R362): the header fields that its KIND carries, the sending node, and the data after the header. -/
structure CteMsg where
  node : Nat
  rank : Nat
  gmode : Nat := 0
  parity : Bool := false
  scatter : Bool := false
  fmt : Nat := 0
  id : Nat := 0
  inst : Nat := 0
  step : Nat := 0
  first : Nat := 0
  count : Nat := 0
  addends : Nat := 0
  digest : Nat := 0
  arg : Bytes := []
  data : Bytes := []
  /-- Poisoned units of the data, and whether the transfer check of the transfer that it ends differs (13 R334, R335). -/
  pmask : Nat := 0
  torn : Bool := false
  deriving DecidableEq, Repr

/-- A CVT frame as a port receives it (13 R310, R314): which of the checks of 13 R315 it passes, its source node, its CVT header, payload and transfer check, and whether it carries a CE mark. -/
structure CvtFrame where
  /-- TYPE: a reserved one makes the frame fail its check; else each command sets its own. -/
  type : Nat := 0
  ver : Nat := 1
  fcsOk : Bool := true
  ipOk : Bool := true
  icrcOk : Bool := true
  node : Nat
  /-- Hop limit as received (13 R336, 14 R364). -/
  hop : Nat := 64
  flags : Nat := 0
  dsidx : Nat
  ssidx : Nat
  seq : Nat := 0
  ack : Nat := 0
  daddr : Nat := 0
  credit : Nat := 0
  pmask : Nat := 0
  payload : Bytes := []
  xck : Option Nat := none
  ce : Bool := false
  /-- KIND of the message of a CTE frame; each command sets its own. -/
  kind : Nat := 0
  deriving DecidableEq, Repr

/-- One entry of a cover table (09 R223). -/
structure CoverEnt where
  unit : Nat
  term : Nat
  variant : Nat
  kind : Nat
  latA1 : Nat
  latB0 : Nat
  cover : Nat
  tol : Nat
  deriving DecidableEq, Repr

/-- A cover table that the firmware carries (09 R223, R224). -/
structure CoverTab where
  id : Nat
  steps : Nat
  ents : List CoverEnt
  deriving DecidableEq, Repr

/-- The verified firmware image, as far as the block's behaviour names it (18 R446). -/
structure Firmware where
  svn : Nat := 0
  version : Nat := 0
  ftl : Nat := 0
  covers : List CoverTab := []
  /-- Its other bytes: code of both MGCs, function tables, known-answer CRCs. -/
  rest : Bytes := []
  /-- SHA-384 of IMAGE, of PROFILE and of the owner public key (18 R450, R452). -/
  imageDig : Bytes := []
  profileDig : Bytes := []
  ownerDig : Bytes := []
  /-- The alias and seal keys, the DevID public key, VENDOR_CHAIN with PART_RECORD (18 R446, R450). -/
  aliasKey : Nat := 0
  sealKey : Nat := 0
  devKey : Bytes := []
  vendor : Bytes := []
  deriving DecidableEq, Repr

/-- A port as the board profile sets it (13 R309). -/
structure ProfPort where
  port : Nat
  en : Bool
  mode : Nat
  llr : Bool
  deriving DecidableEq, Repr

/-- The board profile and part record in force (01 R34 to R36, 18 R448). -/
structure Profile where
  node : Nat := 0
  role : Nat := 0
  peers : Nat := 0
  vfIndex : Nat := 0
  grade : Nat := 0
  retired : List Nat := []
  /-- Repair list: stack, kind and row or pseudo-channel, as the boot applies it (12 R299). -/
  repairs : List (Nat × Nat × Nat) := []
  /-- Boot paths of peers 1 to 63: peer, its node, and the egress port of each hop (15 R398). -/
  paths : List (Nat × Nat × List Nat) := []
  ports : List ProfPort := []
  prefix0 : Nat := 0
  prefix1 : Nat := 0
  ledgerPop : Nat := 0
  ledgerDens : Nat := 0
  wardKey : Bytes := []
  floor : Nat := 0
  svnMin : Nat := 0
  sealAuth : Bytes := []
  debug : Bool := false
  deriving DecidableEq, Repr

/-- One poll of the sensors (12 R295, 19 R482): the temperatures of the eight stacks and of the sixteen die sensors in °C, and the package power in W over 10 ms. -/
structure Sensors where
  hbm : List Nat
  dies : List Nat
  power : Nat
  deriving DecidableEq, Repr

/-- A ward frame as a port receives it (17 R438): the frame checks, the body with its TAG, and the payload of a tunnel operation. -/
structure WardFrame where
  fcsOk : Bool := true
  ipOk : Bool := true
  icrcOk : Bool := true
  /-- OP: a reserved one makes the frame a discarded one; else each command sets its own. -/
  op : Nat := 1
  pidx : Nat := 0
  path : List Nat := []
  target : Nat
  source : Nat
  counter : Nat := 0
  /-- TOLL and VERDICT: STEP, and T or the verdict. -/
  step : Nat := 0
  t : Nat := 0
  code : Nat := 0
  stop : Bool := false
  equal : Nat := 0
  /-- Whether the link-retry neighbour sent it. -/
  fromNeighbour : Bool := true
  tag : Bytes := []
  tunnel : Bytes := []
  deriving DecidableEq, Repr

/-- A RoCEv2 packet as the engine takes it, a frame with UDP destination port 4791 (13 R340, Annex A17): kind 0 SEND, 1 RDMA WRITE, 2 WRITE with immediate, 3 RDMA READ request, 4 acknowledge, 5 READ response, 6 congestion notification, 7 negative acknowledge; its place in its message: 0 alone, 1 first, 2 middle, 3 last. `len` is the length of the message, in its first packet. -/
structure RocePkt where
  fcsOk : Bool := true
  ipOk : Bool := true
  icrcOk : Bool := true
  kind : Nat
  udp : Nat := 4791
  pos : Nat := 0
  qpn : Nat
  psn : Nat := 0
  addr : Nat := 0
  rkey : Nat := 0
  len : Nat := 0
  imm : Nat := 0
  ce : Bool := false
  data : Bytes := []
  deriving DecidableEq, Repr

/-- What the ROM reads when a firmware push ends (18 R446, R447): the bytes of the package, none where a read failed; the contents of IMAGE and PROFILE; of the X.509 certificates, whether VENDOR_CHAIN leads to the Broddon root and PART_RECORD verifies, the keys of the firmware signing certificate and of PART_RECORD, and its helper data. -/
structure FwPush where
  pkg : Option Bytes := none
  fw : Firmware := {}
  prof : Profile := {}
  chainOk : Bool := true
  signKey : Bytes := []
  recordOk : Bool := true
  devKey : Bytes := []
  helper : Bytes := []
  deriving DecidableEq, Repr

/-- Who writes a register (01 R31): the host driver through a function's configuration BAR, without the T bit or with it on a selective IDE stream (18 R455), or the MGC of a die. -/
inductive Writer where
  | host (t : Option (Fin 8))
  | mgc (d : Fin 2)
  deriving DecidableEq, Repr

/-- What a PCIe configuration write, or a write of the MSI-X table in BAR4-5, names (15 R372, R373, 18 R455): a BAR dword, the MSI-X table location, NumVFs or another dword of the SR-IOV capability, a dword of an MSI-X table entry (address low and high, data, control), or any other dword. -/
inductive CfgItem where
  | bar (i : Fin 6)
  | msixTable
  | numVfs
  | sriov (i : Fin 16)
  | vector (i : Fin 128) (w : Fin 4)
  | other (off : BitVec 10)
  deriving DecidableEq, Repr

/-- The commands of the FN7 block: one constructor per row of the command table. -/
inductive Instr where
  /-- R104: Multiplies one to sixteen K-tiles of one K-block into an accumulator region, checked against the region cursor. -/
  | mma (p : Fin 8) (v : Fin 96) (op : BitVec 128)
  /-- R106: Scales, converts and writes a closed region to the scratchpad, or sends it to the cluster reduce unit. -/
  | mdrain (p : Fin 8) (v : Fin 96) (op : BitVec 128) (shadow : Option (List Bytes))
  /-- R140: Loads the geometry of a VSE descriptor slot and resets its identity. -/
  | vsdA (p : Fin 8) (v : Fin 96) (op : BitVec 128)
  /-- R140: Loads the identity of a VSE descriptor slot. -/
  | vsdB (p : Fin 8) (v : Fin 96) (op : BitVec 128)
  /-- R153: Stores the eight status accumulators to the scratchpad and optionally clears them. -/
  | vstat (p : Fin 8) (v : Fin 96) (op : BitVec 128)
  /-- R150: Element-wise addition with one rounding. -/
  | vadd (p : Fin 8) (v : Fin 96) (op : BitVec 128)
  /-- R150: Element-wise subtraction with one rounding. -/
  | vsub (p : Fin 8) (v : Fin 96) (op : BitVec 128)
  /-- R150: Element-wise multiplication with one rounding. -/
  | vmul (p : Fin 8) (v : Fin 96) (op : BitVec 128)
  /-- R150: Fused multiply-add with one rounding. -/
  | vfma (p : Fin 8) (v : Fin 96) (op : BitVec 128)
  /-- R150: Element-wise maximum. -/
  | vmax (p : Fin 8) (v : Fin 96) (op : BitVec 128)
  /-- R150: Element-wise minimum. -/
  | vmin (p : Fin 8) (v : Fin 96) (op : BitVec 128)
  /-- R150: Element-wise absolute value. -/
  | vabs (p : Fin 8) (v : Fin 96) (op : BitVec 128)
  /-- R150: Element-wise negation. -/
  | vneg (p : Fin 8) (v : Fin 96) (op : BitVec 128)
  /-- R150: Converts elements to the destination format. -/
  | vcvt (p : Fin 8) (v : Fin 96) (op : BitVec 128)
  /-- R150: Writes a mask bit for a comparison condition. -/
  | vcmp (p : Fin 8) (v : Fin 96) (op : BitVec 128)
  /-- R155: Computes 2^x by the reference algorithm. -/
  | vexp2 (p : Fin 8) (v : Fin 96) (op : BitVec 128)
  /-- R156: Computes log2 x by the reference algorithm. -/
  | vlog2 (p : Fin 8) (v : Fin 96) (op : BitVec 128)
  /-- R157: Computes the reciprocal by the reference algorithm. -/
  | vrcp (p : Fin 8) (v : Fin 96) (op : BitVec 128)
  /-- R157: Computes the reciprocal square root by the reference algorithm. -/
  | vrsq (p : Fin 8) (v : Fin 96) (op : BitVec 128)
  /-- R158: Computes tanh by the reference algorithm. -/
  | vtanh (p : Fin 8) (v : Fin 96) (op : BitVec 128)
  /-- R159: Computes erf by the reference algorithm. -/
  | verf (p : Fin 8) (v : Fin 96) (op : BitVec 128)
  /-- R151: Sums each row in a fixed tree order. -/
  | vrsum (p : Fin 8) (v : Fin 96) (op : BitVec 128)
  /-- R151: Takes the largest element of each row. -/
  | vrmax (p : Fin 8) (v : Fin 96) (op : BitVec 128)
  /-- R151: Takes the smallest element of each row. -/
  | vrmin (p : Fin 8) (v : Fin 96) (op : BitVec 128)
  /-- R152: Gathers table elements by index. -/
  | vgath (p : Fin 8) (v : Fin 96) (op : BitVec 128)
  /-- R152: Scatter-adds values into a table in source order. -/
  | scatadd (p : Fin 8) (v : Fin 96) (op : BitVec 128)
  /-- R152: Scatter-adds values in arrival order as a VAR class 1 operation. -/
  | scataddFast (p : Fin 8) (v : Fin 96) (op : BitVec 128)
  /-- R163: Generates attention mask bits or biases. -/
  | vmask (p : Fin 8) (v : Fin 96) (op : BitVec 128)
  /-- R177: Writes Tambour random values into a stream in the selected mode. -/
  | rfill (p : Fin 8) (v : Fin 96) (op : BitVec 128)
  /-- R189: Stashes activation blocks or recompute tags in the waystation, spilling oldest first. -/
  | wsput (p : Fin 8) (v : Fin 96) (op : BitVec 128)
  /-- R190: Reads stashed blocks back to the scratchpad and checks their CRC. -/
  | wsget (p : Fin 8) (v : Fin 96) (op : BitVec 128)
  /-- R191: Compares recomputed activations with their stored tags. -/
  | wscheck (p : Fin 8) (v : Fin 96) (op : BitVec 128)
  /-- R195: A waystation spill or spill-slot read to HBM completes and the block stream continues. -/
  | wsSpillDone (p : Fin 8) (v : Fin 96)
  /-- R199: Applies an SGD-with-momentum update to a slice. -/
  | usgd (p : Fin 8) (v : Fin 96) (op : BitVec 128)
  /-- R199: Applies an Adam-type update to a slice. -/
  | uadam (p : Fin 8) (v : Fin 96) (op : BitVec 128)
  /-- R199: Applies a Lion-type update to a slice. -/
  | ulion (p : Fin 8) (v : Fin 96) (op : BitVec 128)
  /-- R206: Copies a weight part into the snapshot ring, or counts a drop. -/
  | snap (p : Fin 8) (v : Fin 96) (op : BitVec 128)
  /-- R327: Copies bytes within the device, optionally feeding a digest channel. -/
  | copy (p : Fin 8) (v : Fin 96) (op : BitVec 128)
  /-- R327: Pushes bytes to a stream's peer in frames. -/
  | send (p : Fin 8) (v : Fin 96) (op : BitVec 128)
  /-- R327: Hands a remote chime write to a stream. -/
  | chime (p : Fin 8) (v : Fin 96) (op : BitVec 128)
  /-- R329: Starts a digest channel with a zero value and an END length. -/
  | cdigStart (p : Fin 8) (v : Fin 96) (op : BitVec 128)
  /-- R329: Advances a digest channel over trailing zeros and XORs it into its target. -/
  | cdigFold (p : Fin 8) (v : Fin 96) (op : BitVec 128)
  /-- R328: Gathers and accumulates FP32 blocks in arrival order as VAR class 2. -/
  | gathaccUnord (p : Fin 8) (v : Fin 96) (op : BitVec 128)
  /-- R265: Starts an expectation of a landing count, due a fixed number of run cycles later. -/
  | cexp (p : Fin 8) (v : Fin 96) (op : BitVec 128)
  /-- R265: At its due cycle, or when the landing count arrives after a hold, CEXP moves the count into the chime. -/
  | cexpDue (p : Fin 8) (v : Fin 96)
  /-- R352: Sets the group mode and scatter of a SCOPE 3 tally sum. -/
  | tgroup (p : Fin 8) (v : Fin 96) (op : BitVec 128)
  /-- R356: Gathers parts from a group with version digests. -/
  | agather (p : Fin 8) (v : Fin 96) (op : BitVec 128)
  /-- R356: A gather part still missing after TIMEOUT grid points faults with bell timeout. -/
  | agatherPartTimeout (p : Fin 8) (v : Fin 96)
  /-- R361: Moves state between devices in send, bell and final-copy phases. -/
  | permute (p : Fin 8) (v : Fin 96) (op : BitVec 128)
  /-- R230: Conductor operation with no action. -/
  | nop (p : Fin 8) (v : Fin 96)
  /-- R230: Ends the frame; the conductor issues nothing until the next frame. -/
  | fend (p : Fin 8) (v : Fin 96)
  /-- R230: Ends the step once all four queues are empty and marks the step boundary. -/
  | condSend (p : Fin 8) (v : Fin 96)
  /-- R230: Jumps to the step's first word unless the requested steps are done. -/
  | loop (p : Fin 8) (v : Fin 96)
  /-- R230: Ends the vcore; the context ends when all its vcores have halted. -/
  | halt (p : Fin 8) (v : Fin 96)
  /-- R267: Arrives at a bell context and blocks the queues in QMASK until release. -/
  | bell (p : Fin 8) (v : Fin 96)
  /-- R230: Copies scratchpad bytes to the debug sample path as VAR class 3. -/
  | dsamp (p : Fin 8) (v : Fin 96)
  /-- R233: An instruction word fetched from the code area arrives in the conductor buffer. -/
  | instrFetch (p : Fin 8) (v : Fin 96)
  /-- R260: A queue head starts when both its chime waits are satisfied and consumes their counts. -/
  | entryStart (p : Fin 8) (v : Fin 96) (q : Fin 4)
  /-- R228: An engine entry writes its last result and adds its signals. -/
  | entryComplete (p : Fin 8) (v : Fin 96) (q : Fin 4) (n : Nat)
  /-- R262: A signal is counted in the target chime after its delay. -/
  | chimeSignal (p : Fin 8) (v : Fin 96) (ch : Fin 48) (n : Nat)
  /-- R225: A static-term instruction not complete when its cover plus SLACK elapses faults the context. -/
  | coverViolation (p : Fin 8) (v : Fin 96) (q : Fin 5) (term : Fin 256) (tag : BitVec 16)
  /-- R243: At each grid point the partition takes a beat or skips it. -/
  | gridPoint (p : Fin 8)
  /-- R432: The vcore state copy of a rotation or substitution completes and the beat extension ends. -/
  | rotationCopyDone
  /-- R246: At u − 96 a unit owing a variable-term result tests it and raises a hold request if it is absent. -/
  | holdTest (p : Fin 8) (unit term cause obj u : Nat) (ready : Bool)
  /-- R247: An owed result enters its fixed return path. -/
  | resultReturn (id : Nat)
  /-- R247: The run counter reaches a request's due cycle and every hold gate closes. -/
  | holdGateClose
  /-- R247: 96 cycles after the last owed result returns, the hold gates open. -/
  | holdGateOpen
  /-- R249: Held cycles on one late result exceed TOL and the context faults. -/
  | holdTolFault (id : Nat)
  /-- R268: A bell phase releases at its due cycle and blocked queues resume. -/
  | bellRelease (b : Fin 64)
  /-- R270: A release still absent TIMEOUT grid points after its due cycle faults the context. -/
  | bellTimeout (b : Fin 64)
  /-- R273: After load the device arrives for phase 0 of the muster bell with ARV, DOMAIN and REFCNT. -/
  | musterArrive (p : Fin 8)
  /-- R273: At the first cycle with REFCNT ≥ R_M the anchor is set and a beat is taken. -/
  | musterAnchor (p : Fin 8)
  /-- R274: A muster not released within TIMEOUT intervals faults with bell timeout. -/
  | musterTimeout (p : Fin 8)
  /-- R276: A context stalled through THRESH grid points faults with deadlock. -/
  | deadlockDetect (p : Fin 8)
  /-- R132: An addend block arrives at a CRU and is staged. -/
  | tallyAddend (p : Fin 8) (n : Nat)
  /-- R132: The owner CRU receives local exponent bytes and counts and combines them. -/
  | tallyExponentRound (p : Fin 8) (cl : Fin 12) (tag : BitVec 16)
  /-- R120: On final bytes, a CRU quantises its staged addends into its accumulator. -/
  | tallyQuantise (p : Fin 8) (cl : Fin 12) (tag : BitVec 16)
  /-- R132: Accumulators and code planes are combined at the owner CRU. -/
  | tallyIntegerRound (p : Fin 8) (cl : Fin 12) (tag : BitVec 16)
  /-- R124: Final integers are converted to FP32, delivered, and the consumer chime is signalled. -/
  | tallyConvert (p : Fin 8) (cl : Fin 12) (tag : BitVec 16)
  /-- R267: A device arrival of a bell phase reaches a combining node. -/
  | cteArrive (port : Fin 32) (f : CvtFrame)
  /-- R267: A bell release travels down the tree. -/
  | cteRelease (port : Fin 32) (f : CvtFrame)
  /-- R353: Exponent bytes and counts of a job tally sum travel up. -/
  | cteExpUp (port : Fin 32) (f : CvtFrame)
  /-- R132: Final exponent bytes and count return to participating CRUs. -/
  | cteExpDown (port : Fin 32) (f : CvtFrame)
  /-- R132: Integer blocks and code planes travel up for combination. -/
  | cteIntUp (port : Fin 32) (f : CvtFrame)
  /-- R354: Final integers are returned to receiving OWNER CRUs. -/
  | cteIntDown (port : Fin 32) (f : CvtFrame)
  /-- R359: A gather part arrives and is checked, recorded or compared against the version store. -/
  | ctePart (port : Fin 32) (f : CvtFrame)
  /-- R296: A cadence pair or wanted exponent travels the muster tree. -/
  | cteCadence (port : Fin 32) (f : CvtFrame)
  /-- R366: A new job map arrives with its starting step. -/
  | cteMap (port : Fin 32) (f : CvtFrame)
  /-- R365: Link summaries are combined up the JOB tree and the root chooses a map. -/
  | cteSummary (port : Fin 32) (f : CvtFrame)
  /-- R57: The ledger record of a step is written to the ring. -/
  | ledgerRecordWrite (p : Fin 8)
  /-- R395: A ledger record streams to the host as one LEDGER completion when there is room. -/
  | ledgerStream (p : Fin 8) (corr : Nat) (bad : List Nat)
  /-- R58: A ledger-backpressure hold lasting TIMEOUT grid points faults with ledger overrun. -/
  | ledgerOverrun (p : Fin 8)
  /-- R320: A DATA frame is applied in SEQ order, held in the reorder store, or discarded. -/
  | cvtData (port : Fin 32) (f : CvtFrame)
  /-- R263: A remote chime write is added to the landing count after its stream's earlier data. -/
  | cvtChime (port : Fin 32) (f : CvtFrame)
  /-- R321: An ACK advances the send window, grants credit and completes SENDs. -/
  | cvtAck (port : Fin 32) (f : CvtFrame) (rtt : Option Nat)
  /-- R321: A SACK triggers retransmission of frames lost on the same path. -/
  | cvtSack (port : Fin 32) (f : CvtFrame)
  /-- R317: An OPEN meets a LISTEN entry and is accepted or refused. -/
  | cvtOpen (port : Fin 32) (f : CvtFrame)
  /-- R317: An ACCEPT moves the opening entry to OPEN. -/
  | cvtAccept (port : Fin 32) (f : CvtFrame)
  /-- R318: A REFUSE closes the opening entry and completes its manifest. -/
  | cvtRefuse (port : Fin 32) (f : CvtFrame)
  /-- R320: A CLOSE applied in order closes the stream. -/
  | cvtClose (port : Fin 32) (f : CvtFrame)
  /-- R324: A PROBE is answered with a PROBE_REPLY. -/
  | cvtProbe (port : Fin 32) (f : CvtFrame)
  /-- R324: A PROBE_REPLY records the port's round-trip time. -/
  | cvtProbeReply (port : Fin 32) (f : CvtFrame)
  /-- R324: Each port sends a PROBE every 1 ms. -/
  | probeTimer (n : Fin 32) (dest : Fin 1048576)
  /-- R336: A frame for another node of the plane is forwarded by the transit switch. -/
  | transitFrame (port : Fin 32) (pkt : Bytes) (fcsOk : Bool)
  /-- R321: 1 µs after the first unacknowledged frame, an ACK is sent. -/
  | ackDelayTimer (x : Fin 16384)
  /-- R321: A frame's retransmission timer expires and the frame is resent. -/
  | rtoExpiry (x : Fin 16384) (seq : BitVec 32)
  /-- R317: The opener resends OPEN every 64 µs. -/
  | openResend (x : Fin 16384)
  /-- R382: A stream open not accepted within TIMEOUT completes with TIMEOUT. -/
  | streamOpenTimeout (x : Fin 16384)
  /-- R342: DRAINING ends when streams go quiet or NET_RUNOUT elapses; the stow writes and streams park. -/
  | runoutEnd (p : Fin 8)
  /-- R312: A hello from a directly wired neighbour turns link retry on. -/
  | llrHello (n : Fin 32) (node : Fin 1048576) (peer : Fin 32) (fcsOk : Bool)
  /-- R312: Without an answer, a port resends its hello every 100 ms. -/
  | llrHelloTimer (n : Fin 32)
  /-- R313: A link-retry frame is accepted in LSEQ order or discarded with a NAK. -/
  | llrFrame (n : Fin 32) (lseq lack : BitVec 16) (flags : BitVec 8) (fcsOk : Bool)
  /-- R313: A NAK makes the sender replay from LACK. -/
  | llrNak (n : Fin 32) (lack : BitVec 16)
  /-- R313: After 512 ns without a frame to carry LACK, a CTRL frame is sent. -/
  | llrCtrlTimer (n : Fin 32)
  /-- R313: LACK not advancing for 10 µs starts a replay. -/
  | llrAckTimeout (n : Fin 32)
  /-- R308: A port's PHY reports link. -/
  | portLinkUp (n : Fin 32)
  /-- R337: A port goes down and is cleared from every route mask. -/
  | portLinkDown (n : Fin 32)
  /-- R311: The MGC answers Neighbor Discovery and learns routers from Router Advertisements. -/
  | neighborDiscovery (n : Fin 32) (ra : Bool) (mac : BitVec 48) (src target : Bytes)
  /-- R340: A RoCEv2 packet or congestion notification is handled by the RoCEv2 engine. -/
  | rocePacket (port : Fin 32) (k : RocePkt)
  /-- R435: The root collects TOLL digests and decides verdicts per POSITION group. -/
  | wardToll (port : Fin 32) (w : WardFrame)
  /-- R434: A device resends its TOLL every 64 µs until its VERDICT arrives. -/
  | tollResend (p : Fin 8)
  /-- R437: A VERDICT is recorded; a stop decision faults the context with toll expulsion. -/
  | wardVerdict (port : Fin 32) (w : WardFrame)
  /-- R436: A VERDICT missing TIMEOUT grid points after its due beat faults with bell timeout. -/
  | tollVerdictTimeout (p : Fin 8)
  /-- R439: An accepted ward RESET sets FLOOR and resets the device. -/
  | wardReset (port : Fin 32) (w : WardFrame)
  /-- R398: A ward tunnel frame is relayed along a boot path or delivered to a peer. -/
  | wardTunnel (port : Fin 32) (w : WardFrame)
  /-- R25: A beat group failing its CRC is replayed from the sender's replay buffer. -/
  | bridgeReplay (dir : Fin 2) (again : Bool) (miss : Option (Fin 8 × Nat))
  /-- R287: A sector read is corrected and written back, or poisoned and logged. -/
  | hbmSectorRead (a : BitVec 48) (err : Bytes) (pw : BitVec 32) (later : Bool)
  /-- R291: The patrol scrub reads a raw block and corrects or poisons it. -/
  | scrubRead (h : Fin 8) (errs : List Bytes) (pw : BitVec 32) (later : List Bool)
  /-- R284: Every 1 ms the controller reads the stack's inner correction count. -/
  | innerEccPoll (h : Fin 8) (n : Nat)
  /-- R281: A controller loses its stack after boot; the stack is FAILED and contexts in the half fault. -/
  | hbmStackFail (h : Fin 8)
  /-- R295: Every 1 ms sensors are read and the HBM and package thermal steps start or end. -/
  | sensorPoll (m : Sensors)
  /-- R296: Every CAD_WAIT ms of the cadence step the wanted exponent rises by 1 and is voted. -/
  | cadenceRaise (p : Fin 8)
  /-- R296: After the step ends the wanted exponent falls by 1 each second. -/
  | cadenceLower (p : Fin 8)
  /-- R297: Every 10 ms of the throttle step THR_DUTY rises by 1. -/
  | throttleDutyStep
  /-- R483: A trip comparator stops every context, asserts THERMTRIP_N and holds the device in reset. -/
  | thermalTrip
  /-- R428: A third execution after a mismatch completes and gives the echo verdict. -/
  | echoThirdRun (pc : Fin 108) (r3 : Option (BitVec 64))
  /-- R430: A sentinel test pass completes; a failure retires the sentinel. -/
  | sentinelPassDone (pc : Fin 108) (ok kat : Bool)
  /-- R410: The image is complete and the context becomes STOWED, HELD or EXPORTED. -/
  | stowDone (p : Fin 8) (corr : Nat) (bad : List Nat)
  /-- R415: An image has been read back and the context is resident for its next frame. -/
  | restoreDone (p : Fin 8) (corr : Nat) (bad : List Nat)
  /-- R458: Zeroing of the partition's SRAMs completes and a muster or restore may proceed. -/
  | zeroingDone (p : Fin 8)
  /-- R392: A doorbell write updates SQ_TAIL and CQ_HEAD, or puts the QP into ERROR. -/
  | doorbell (vf : Fin 64) (q : Fin 64) (off : Fin 4096) (width : Fin 9) (v : BitVec 64) (t : Option (Fin 8))
  /-- R393: A manifest fetch from the submission ring completes and SQ_HEAD advances. -/
  | manifestFetch (q : Fin 64) (slot : Option Bytes)
  /-- R390: A completion is written when the ring has room, body first and header last. -/
  | completionWrite (q : Fin 64) (ok : Bool)
  /-- R394: COAL_TIME after the first unannounced header, the QP's vector is sent. -/
  | msixCoalTimer (q : Fin 64)
  /-- R378: A NOP manifest completes at once. -/
  | manifestNop (q : Fin 64)
  /-- R380: Loads and checks a binary, places its plan and starts a context. -/
  | start (q : Fin 64) (bin : Option Bytes)
  /-- R381: Stops a running context at its next taken beat. -/
  | endCmd (q : Fin 64)
  /-- R382: Allocates a stream entry and opens or listens. -/
  | streamOpen (q : Fin 64)
  /-- R382: Queues a CLOSE behind unacknowledged data. -/
  | streamClose (q : Fin 64)
  /-- R382: Frees a FAILED stream entry. -/
  | streamFree (q : Fin 64)
  /-- R383: Copies host memory into the partition's HBM region. -/
  | copyIn (q : Fin 64) (data : Option Bytes)
  /-- R383: When all bytes are readable, COPY_IN adds COUNT to the chime's landing count. -/
  | copyInLand (q : Fin 64)
  /-- R384: Copies device memory to host memory, stopping at a poisoned unit. -/
  | copyOut (q : Fin 64)
  /-- R385: Copies whole snapshot records to host memory. -/
  | snapRead (q : Fin 64) (corr : Nat) (bad : List Nat)
  /-- R386: Creates a RoCEv2 queue pair and memory region. -/
  | roceCreate (q : Fin 64)
  /-- R386: Connects a RoCEv2 queue pair to a remote one. -/
  | roceConnect (q : Fin 64)
  /-- R386: Destroys a RoCEv2 queue pair. -/
  | roceDestroy (q : Fin 64)
  /-- R386: Posts a RoCEv2 SEND. -/
  | rocePostSend (q : Fin 64)
  /-- R386: Posts a RoCEv2 RDMA WRITE. -/
  | rocePostRdmaWrite (q : Fin 64)
  /-- R386: Posts a RoCEv2 RDMA WRITE with immediate. -/
  | rocePostRdmaWriteImm (q : Fin 64)
  /-- R386: Posts a RoCEv2 RDMA READ. -/
  | rocePostRdmaRead (q : Fin 64)
  /-- R408: Requests a stow of a context at a stow point, optionally exporting it. -/
  | stow (q : Fin 64)
  /-- R409: Makes a HELD context eligible or resident, or imports an image from host memory. -/
  | restore (q : Fin 64) (img : Option Bytes) (bin : Option Bytes)
  /-- R374: A peer not answering a forwarded read within 1 ms gets all ones and is marked down. -/
  | peerReadTimeout (n : Fin 64) (off : BitVec 32) (wide : Bool)
  /-- R372: A function-level reset of VF n resets peer n. -/
  | vfFlr (n : Fin 64) (t : Option (Fin 8))
  /-- R8: A write to a register without its own behaviour is applied or rejected. -/
  | regWrite (vf : Fin 64) (off : BitVec 32) (width : Fin 9) (v : BitVec 64) (w : Writer)
  /-- R7: A write to a CW register goes to its shadow, or takes effect at once while the grid is off. -/
  | shadowWrite (off : BitVec 32) (v : BitVec 64) (w : Writer)
  /-- R37: Writing one to a GLB_CFGERR bit clears it and keeps LAST_OFF. -/
  | cfgerrClear (mask : BitVec 17) (w : Writer)
  /-- R59: Setting EN of LDG_CTRL checks the ring and resets SEQ, EPOCH and pointers. -/
  | ledgerEnable (p : Fin 8) (v : BitVec 32) (w : Writer)
  /-- R59: Clearing EN discards unwritten and unstreamed records and ends backpressure holds. -/
  | ledgerDisable (p : Fin 8) (v : BitVec 32) (w : Writer)
  /-- R211: Setting EN of LDG_SNAPCTRL resets the snapshot ring and clears DROPS. -/
  | snapRingEnable (p : Fin 8) (v : BitVec 32) (w : Writer)
  /-- R211: Writing RPTR consumes snapshot records. -/
  | snapRptrWrite (p : Fin 8) (v : BitVec 64) (w : Writer)
  /-- R305: Writing LDG_REGION sets a partition's ledger region and draws new keys. -/
  | ledgerRegionWrite (p : Fin 8) (v : BitVec 64) (w : Writer)
  /-- R242: Setting EN of DBT_PERIOD sets the partition's anchor. -/
  | drumEnable (p : Fin 8) (v : BitVec 32) (w : Writer)
  /-- R279: Setting EN of BEL_CFG resets the bell's state. -/
  | bellEnable (b : Fin 64) (v : BitVec 64) (w : Writer)
  /-- R279: Clearing EN of a bell not serving a running context. -/
  | bellDisable (b : Fin 64) (v : BitVec 64) (w : Writer)
  /-- R138: Writing PEAK_CLR sets PEAK to the current tally store occupancy. -/
  | tstorePeakClear (k : Fin 12) (w : Writer)
  /-- R287: Writing CLR clears the poisoned-sector count. -/
  | poisonlogClear (d : Fin 2) (w : Writer)
  /-- R298: Takes an HBM half into MAINT, or is refused. -/
  | mboxTake (d : Fin 2) (w : Writer)
  /-- R298: Returns an HBM half to ONLINE. -/
  | mboxRelease (d : Fin 2) (w : Writer)
  /-- R299: Mailbox command returning a stack's failing-row log entry. -/
  | eccLog (d : Fin 2) (v : BitVec 64) (w : Writer)
  /-- R299: Mailbox command performing soft post-package repair. -/
  | sppr (d : Fin 2) (v : BitVec 64) (w : Writer)
  /-- R299: Mailbox command performing hard post-package repair. -/
  | hppr (d : Fin 2) (v : BitVec 64) (w : Writer)
  /-- R299: Mailbox command remapping a PC to a spare PC. -/
  | pcSpare (d : Fin 2) (v : BitVec 64) (w : Writer)
  /-- R299: Mailbox command running a march test of a PC. -/
  | mbist (d : Fin 2) (v : BitVec 64) (w : Writer)
  /-- R299: Mailbox command returning a stack mode register. -/
  | readMr (d : Fin 2) (v : BitVec 64) (w : Writer)
  /-- R299: A mailbox command completes, setting DATA and ERR and clearing BUSY. -/
  | mboxCmdDone (d : Fin 2) (data : BitVec 64) (fail : Bool)
  /-- R309: Setting EN of a port, checked against its partner and mode. -/
  | portEnable (n : Fin 32) (v : BitVec 32) (w : Writer)
  /-- R309: Clearing EN removes the port from route masks and then takes the link down. -/
  | portDisable (n : Fin 32) (v : BitVec 32) (w : Writer)
  /-- R333: A feed write absorbs its bytes into a register-fed CRC channel. -/
  | cvuFeed (d : Fin 2) (c : Fin 4) (data : Bytes) (w : Writer)
  /-- R333: Writing INIT resets the selected channels to their initial values. -/
  | cvuInit (d : Fin 2) (v : BitVec 32) (w : Writer)
  /-- R333: A change of MODE resets all channels. -/
  | cvuModeChange (d : Fin 2) (v : BitVec 32) (w : Writer)
  /-- R333: Writing CVU_RUN in MODE 1 loads channel 0's raw running value. -/
  | cvuRunLoad (d : Fin 2) (v : BitVec 64) (w : Writer)
  /-- R377: Setting EN of a QP resets its ring pointers and phase. -/
  | qpEnable (q : Fin 64) (v : BitVec 64) (w : Writer)
  /-- R377: Clearing EN of a QP, refused while manifests or contexts are in progress. -/
  | qpDisable (q : Fin 64) (v : BitVec 64) (w : Writer)
  /-- R396: Writing GO starts the firmware push. -/
  | fwPushGo (w : Writer)
  /-- R447: The ROM finishes reading and verifying the package and sets RESULT and FW_DONE. -/
  | fwPushDone (x : FwPush)
  /-- R399: Writing RESET_n sends a ward reset along peer n's boot path. -/
  | peerReset (n : Fin 64) (w : Writer)
  /-- R402: Setting EN of PTN_CFG, checked for overlaps and stow areas. -/
  | partitionEnable (p : Fin 8) (v : BitVec 64) (w : Writer)
  /-- R461: Writing INSTALL reads and checks a wrapped key blob and unwraps the set key. -/
  | sealInstall (p : Fin 8) (v : BitVec 32) (w : Writer)
  /-- R462: Writing CLEAR destroys the installed seal key. -/
  | sealClear (p : Fin 8) (v : BitVec 32) (w : Writer)
  /-- R440: Writing KICK restarts the watchdog count. -/
  | watchdogKick (d : Fin 2) (v : BitVec 32) (w : Writer)
  /-- R440: A watchdog expires; contexts stop and the MGC drops to ROM recovery. -/
  | watchdogExpire (d : Fin 2)
  /-- R442: A heartbeat from the die 1 MGC arrives over the bridge sideband. -/
  | die1Heartbeat
  /-- R442: After 10 missing heartbeats die 1's MGC is restarted and die 1 runs degraded. -/
  | die1HeartbeatLoss
  /-- R470: Writing TARGET requests a power state, checked against the entry conditions. -/
  | powerTarget (v : BitVec 32) (w : Writer)
  /-- R471: One entry or exit step of the power ladder completes. -/
  | powerStepDone (lpi : BitVec 32) (pme : Bool)
  /-- R472: A wake event stops entry and starts the exit to a shallower state. -/
  | powerWake (kind : Fin 6)
  /-- R470: After IDLE µs of idleness the device enters Rest by itself. -/
  | autoRestTimer
  /-- R478: Power-on reset asserts a full reset and boot. -/
  | porN (low : Bool) (straps : BitVec 4) (tj : Nat)
  /-- R478: Reset input asserts a full reset and boot. -/
  | rstN (low : Bool) (straps : BitVec 4) (tj : Nat)
  /-- R478: PCIe reset, hot reset or link disable resets the device as RST_N does. -/
  | perstN (hot low : Bool)
  /-- R487: A rail out of tolerance for more than 10 µs resets the device as POR_N does. -/
  | supplyFault (hbmRail isOut : Bool)
  /-- R480: A step of the boot order completes and the next one begins. -/
  | bootStepDone (ok : Bool) (bad : List Nat)
  /-- R477: 64 missing DRUM_REF edges stop every context and hold the device in reset. -/
  | drumRefLoss
  /-- R477: DRUM_REF present for 1 ms after a loss boots the device from ROM. -/
  | drumRefReturn
  /-- R495: A DRUM_SYNC pulse zeroes REFCNT[19:0] and updates REF_VALID. -/
  | drumSyncPulse
  /-- R477: DRUM_SYNC silent for two periods clears REF_VALID. -/
  | drumSyncSilence
  /-- R477: Loss of SERDES_REF_d takes every port of the die down. -/
  | serdesRefLoss (d : Fin 2)
  /-- R477: Loss of REFCLK takes the PCIe link down. -/
  | refclkLoss
  /-- R449: A noise-source health test fails after boot and draws stop until a reseed passes. -/
  | entropyFail
  /-- R449: A reseed passes its health tests and waiting draws proceed. -/
  | entropyReseed
  /-- R451: Returns the certificate chain of slot 0. -/
  | spdmGetCertificate (f : Fin 64) (off len : Nat)
  /-- R451: Answers a challenge with an alias-key signature. -/
  | spdmChallenge (f : Fin 64) (nonce : Bytes)
  /-- R452: Returns signed measurement blocks. -/
  | spdmGetMeasurements (f : Fin 64) (n : BitVec 8) (nonce : Bytes)
  /-- R451: Establishes an SPDM secure session. -/
  | spdmKeyExchange (f : Fin 64) (req : Bytes)
  /-- R451: Keeps an SPDM secure session alive. -/
  | spdmHeartbeat (f : Fin 64) (n : Nat) (expired : Bool)
  /-- R454: Sets or switches IDE stream keys without loss of traffic. -/
  | ideKmKeySetGo (f : Fin 64) (st : Fin 9) (keySet : Bool) (key : Option Bytes)
  /-- R454: A TLP failing its IDE check is dropped and bound TDIs enter ERROR. -/
  | ideTlpFail (st : Fin 9)
  /-- R455: Moves a TDI to CONFIG_LOCKED. -/
  | tdispLockInterface (f : Fin 64) (st : Fin 8)
  /-- R455: Moves a TDI to RUN. -/
  | tdispStartInterface (f : Fin 64)
  /-- R456: Takes a TDI out of RUN and starts the scrub of its device. -/
  | tdispStopInterface (f : Fin 64)
  /-- R456: The scrub completes and the TDI enters CONFIG_UNLOCKED. -/
  | tdiScrubDone (f : Fin 64)
  /-- R272: An update of the device's IEEE 1588 time sets REFCNT in DOMAIN 1 and the upper REFCNT bits at a pulse, and makes REF_VALID possible. -/
  | ieee1588TimeUpdate (ns : BitVec 64)
  /-- R297: In each window of 8,192 cycles of the throttle step, the hold gates close for THR_DUTY × 1,024 cycles and then open, each closed run counting as a hold of cause 6. -/
  | throttleWindow
  /-- R442: If the restarted die 1 MGC has not reported within 100 ms, the die 0 MGC enters ROM recovery. -/
  | die1ReportTimeout
  /-- R461: The blob read and unwrap of an INSTALL completes, BUSY clears, and STATUS and KEYED are set. -/
  | sealInstallDone (p : Fin 8) (blob : Option Bytes)
  /-- R474: The zero rewrite of every HBM sector after an exit from Deep ends, HBM_INIT clears, and partitions may be enabled. -/
  | hbmRewriteDone
  /-- R455: A PCIe configuration write, such as to the BARs, the MSI-X table location or the SR-IOV NumVFs, takes effect, and a change to a locked configuration moves the TDI to ERROR. -/
  | configurationRequest (f : Fin 64) (n : CfgItem) (v : BitVec 32)
  /-- R492: A JTAG instruction shifted in selects boundary scan, debug access when DEBUG is set, or the bypass register. -/
  | jtagInstruction (n : Fin 3)
  deriving DecidableEq, Repr

end Sys2Proof
end

