-- ==== Sys2Proof/Decode.lean ====
section
/-! DEFINITION. Table words: the commands that a word spells by the bits of the command table. -/

namespace Sys2Proof

/-- The command that a word spells. The rows of the command table carry no bits: commands reach the block as events, so no word spells one, whatever its length. -/
def decodeTableWord (nbits w : Nat) : Option Instr := match nbits, w with | _, _ => none

end Sys2Proof
end

