-- ==== Sys2Proof/Machine/Bits.lean ====
section
/-! DEFINITION. Bit fields, byte order and signed readings (00 R5): the helpers every unit of the model uses. -/

namespace Sys2Proof.Machine

/-- Bits `hi` down to `lo` of `n`, as the manual writes `n[hi:lo]`. -/
def bits (n hi lo : Nat) : Nat := (n >>> lo) % 2 ^ (hi + 1 - lo)

/-- Bit `i` of `n`. -/
def bit (n i : Nat) : Bool := bits n i i == 1

/-- `n` with bits `hi` down to `lo` replaced by the low bits of `v`. -/
def setBits (n hi lo v : Nat) : Nat :=
  n - (bits n hi lo) * 2 ^ lo + (v % 2 ^ (hi + 1 - lo)) * 2 ^ lo

/-- A Bool as a bit. -/
def b2n (b : Bool) : Nat := if b then 1 else 0

/-- A field value placed at bit `lo`. -/
def at_ (v lo : Nat) : Nat := v * 2 ^ lo

/-- A byte from a number, its low eight bits. -/
def byte (n : Nat) : Byte := BitVec.ofNat 8 n

/-- The `k` little-endian bytes of `n` (00 R5). -/
def leBytes : Nat → Nat → Bytes
  | 0, _ => []
  | k + 1, n => byte n :: leBytes k (n / 256)

/-- The number that bytes spell in little-endian order (00 R5). -/
def leNat : Bytes → Nat
  | [] => 0
  | b :: r => b.toNat + 256 * leNat r

/-- The `k` bytes of `n` in network byte order (00 R5). -/
def beBytes (k n : Nat) : Bytes := (leBytes k n).reverse

/-- The number that bytes spell in network byte order (00 R5). -/
def beNat (b : Bytes) : Nat := leNat b.reverse

/-- `len` bytes of `b` from offset `off`; bytes past the end read as zero. -/
def sliceB (b : Bytes) (off len : Nat) : Bytes :=
  let t := (b.drop off).take len
  t ++ List.replicate (len - t.length) 0

/-- The little-endian field of `len` bytes at offset `off` of a structure in memory. -/
def fieldB (b : Bytes) (off len : Nat) : Nat := leNat (sliceB b off len)

/-- `b` cut or filled with zeros to `n` bytes. -/
def padTo (n : Nat) (b : Bytes) : Bytes := sliceB b 0 n

/-- Sets the bytes of `b` from offset `off` to `v`. -/
def spliceB (b : Bytes) (off : Nat) (v : Bytes) : Bytes :=
  sliceB b 0 off ++ v ++ b.drop (off + v.length)

/-- The two's-complement reading of the low `w` bits of `n`. -/
def sint (w n : Nat) : Int :=
  let m := n % 2 ^ w
  if 2 * m < 2 ^ w then (m : Int) else (m : Int) - (2 ^ w : Nat)

/-- The low `w` bits of an integer in two's complement. -/
def unsint (w : Nat) (z : Int) : Nat := (z % ((2 ^ w : Nat) : Int)).toNat

/-- `a` rounded up to a multiple of `m`. -/
def roundUp (a m : Nat) : Nat := (a + m - 1) / m * m

/-- ⌈log2 n⌉ for n at least 1. -/
def ceilLog2 (n : Nat) : Nat := if n ≤ 1 then 0 else Nat.log2 (n - 1) + 1

/-- Saturating addition at `2^w − 1`. -/
def satAdd (w a b : Nat) : Nat := min (a + b) (2 ^ w - 1)

/-- The positions below `n` of the set bits of `m`, ascending. -/
def setBitsOf (n m : Nat) : List Nat := (List.range n).filter (fun i => m.testBit i)

/-- The number of set bits below `n`. -/
def popCount (n m : Nat) : Nat := (setBitsOf n m).length

/-- All `Fin n`-like numbers `lo, lo+1, …` of a range. -/
def rangeFrom (lo n : Nat) : List Nat := (List.range n).map (lo + ·)

/-- Pieces of `n` bytes of a string, at most `fuel` of them. -/
def chunksB (n : Nat) : Nat → Bytes → List Bytes
  | 0, _ => []
  | f + 1, b => if b.isEmpty then [] else b.take n :: chunksB n f (b.drop n)

end Sys2Proof.Machine
end

