-- ==== Sys2Proof/Machine/Crypto.lean ====
section
/-! DEFINITION. The ciphers and signatures that the manual names by their standards: AES-256 with its CTR, XTS and GCM modes, HKDF-SHA-384, and ECDSA and ECDH on P-384 (12 R304, 18 R446 to R464; PRESUMED, assumption 23: FIPS 197, SP 800-38A, SP 800-38D, IEEE 1619, RFC 5869, FIPS 186, SEC 1). -/

namespace Sys2Proof.Machine

/-! ### AES-256 -/

/-- A byte times x in the field of AES. -/
def aesDouble (a : Nat) : Nat := if a < 128 then 2 * a else (2 * a) ^^^ 0x11B

/-- The product of two bytes: `n` bits of `b` are still to be taken. -/
def aesMulBits : Nat → Nat → Nat → Nat
  | 0, _, _ => 0
  | n + 1, a, b => (if b % 2 = 1 then a else 0) ^^^ aesMulBits n (aesDouble a) (b / 2)
def aesMul (a b : Nat) : Nat := aesMulBits 8 a b

/-- The inverse of a byte, its 254th power; 0 for 0. -/
def aesInv (a : Nat) : Nat :=
  (List.range 6).foldl (fun r _ => aesMul (aesMul r r) a) a |> fun r => aesMul r r

def rotByte (b n : Nat) : Nat := (b * 2 ^ n) % 256 + b * 2 ^ n / 256

/-- The substitution of a byte. -/
def aesSub (b : Nat) : Nat :=
  let i := aesInv b
  i ^^^ rotByte i 1 ^^^ rotByte i 2 ^^^ rotByte i 3 ^^^ rotByte i 4 ^^^ 0x63

def aesTable : List Nat := (List.range 256).map aesSub
def subByte (b : Nat) : Nat := aesTable.getD b 0

def xorAll (a b : List Nat) : List Nat := a.zipWith (· ^^^ ·) b

/-- The words of the key schedule, newest first: `n` more after word `i` − 1. -/
def aesExpand : Nat → Nat → List (List Nat) → List (List Nat)
  | 0, _, w => w
  | n + 1, i, w =>
    let t := w.headD []
    let t := if i % 8 = 0 then xorAll ((t.drop 1 ++ t.take 1).map subByte) [2 ^ (i / 8 - 1), 0, 0, 0]
      else if i % 8 = 4 then t.map subByte else t
    aesExpand n (i + 1) (xorAll (w.getD 7 []) t :: w)

/-- The 15 round keys of a key of 32 bytes. -/
def aesKeys (key : Bytes) : List (List Nat) :=
  let w := (aesExpand 52 8 ((chunksB 4 8 key).map (·.map (·.toNat))).reverse).reverse
  (List.range 15).map (fun r => (w.drop (4 * r)).take 4 |>.flatten)

/-- The rows of a block shifted: row r of column c comes from column c + r. -/
def aesShift (b : List Nat) : List Nat := (List.range 16).map (fun i => b.getD ((i + i % 4 * 4) % 16) 0)

/-- One column mixed. -/
def aesColumn (c : List Nat) : List Nat :=
  (List.range 4).map (fun r => aesDouble (c.getD r 0) ^^^ aesDouble (c.getD ((r + 1) % 4) 0) ^^^ c.getD ((r + 1) % 4) 0
    ^^^ c.getD ((r + 2) % 4) 0 ^^^ c.getD ((r + 3) % 4) 0)
def aesMix (b : List Nat) : List Nat := (List.range 4).flatMap (fun c => aesColumn ((b.drop (4 * c)).take 4))

/-- The rounds after the first key; the last one mixes no columns. -/
def aesRounds : List (List Nat) → List Nat → List Nat
  | [], b => b
  | [k], b => xorAll (aesShift (b.map subByte)) k
  | k :: r, b => aesRounds r (xorAll (aesMix (aesShift (b.map subByte))) k)

/-- One block of 16 bytes under the round keys of a key. -/
def aesBlock (ks : List (List Nat)) (b : Bytes) : Bytes :=
  (aesRounds (ks.drop 1) (xorAll ((padTo 16 b).map (·.toNat)) (ks.headD []))).map byte

/-- Block `i` of the key stream that starts at a 128-bit counter. -/
def aesCtrBlock (ks : List (List Nat)) (ctr i : Nat) : Bytes := aesBlock ks (beBytes 16 ((ctr + i) % 2 ^ 128))

/-- AES-256-CTR: `n` bytes of key stream. -/
def aesCtr (key : Bytes) (ctr n : Nat) : Bytes :=
  let ks := aesKeys key
  ((List.range ((n + 15) / 16)).flatMap (aesCtrBlock ks ctr)).take n

def xorBytes (a b : Bytes) : Bytes := a.zipWith (· ^^^ ·) b

/-- The tweak of the next block of a data unit. -/
def nextTweak (t : Nat) : Nat := (2 * t) % 2 ^ 128 ^^^ (if t < 2 ^ 127 then 0 else 0x87)

/-- The blocks of a data unit, each with its tweak. -/
def xtsBlocks (ks : List (List Nat)) : Nat → List Bytes → Bytes
  | _, [] => []
  | t, b :: r => xorBytes (aesBlock ks (xorBytes b (leBytes 16 t))) (leBytes 16 t) ++ xtsBlocks ks (nextTweak t) r

/-- AES-256-XTS of a data unit of whole blocks under two keys and its number. -/
def aesXts (k1 k2 : Bytes) (unit : Nat) (text : Bytes) : Bytes :=
  xtsBlocks (aesKeys k1) (leNat (aesBlock (aesKeys k2) (leBytes 16 unit))) (chunksB 16 (text.length / 16) text)

/-! ### GCM -/

/-- A product in the field of GHASH, whose first bit is the most significant: `n` bits of `x` are still to be taken. -/
def ghashBits : Nat → Nat → Nat → Nat
  | 0, _, _ => 0
  | n + 1, x, y => (if x.testBit n then y else 0) ^^^ ghashBits n x (y / 2 ^^^ (if y % 2 = 1 then 0xE1 * 2 ^ 120 else 0))

/-- GHASH of a string of whole blocks. -/
def ghash (h : Nat) (b : Bytes) : Nat := (chunksB 16 (b.length / 16) b).foldl (fun a x => ghashBits 128 (a ^^^ beNat x) h) 0

def padBlock (b : Bytes) : Bytes := padTo (roundUp b.length 16) b

/-- The tag of a ciphertext with its additional data, under a nonce of 12 bytes. -/
def gcmTag (ks : List (List Nat)) (nonce aad text : Bytes) : Bytes :=
  let h := beNat (aesBlock ks (leBytes 16 0))
  xorBytes (beBytes 16 (ghash h (padBlock aad ++ padBlock text ++ beBytes 8 (aad.length * 8) ++ beBytes 8 (text.length * 8))))
    (aesCtrBlock ks (beNat nonce * 2 ^ 32 + 1) 0)

/-- A text under the counter that follows that of the tag. -/
def gcmCtr (key nonce text : Bytes) : Bytes := xorBytes text (aesCtr key (beNat nonce * 2 ^ 32 + 2) text.length)

/-- AES-256-GCM: the ciphertext followed by its 16-byte tag. -/
def gcmSeal (key nonce aad text : Bytes) : Bytes :=
  let c := gcmCtr key nonce text
  c ++ gcmTag (aesKeys key) nonce aad c

/-- The text of a ciphertext with its tag, none where the tag does not match. -/
def gcmOpen (key nonce aad sealed : Bytes) : Option Bytes :=
  let c := sealed.take (sealed.length - 16)
  if gcmTag (aesKeys key) nonce aad c = sealed.drop (sealed.length - 16) then some (gcmCtr key nonce c) else none

/-! ### HKDF -/

/-- HKDF-SHA-384: `n` bytes, at most 96. -/
def hkdf384 (salt ikm info : Bytes) (n : Nat) : Bytes :=
  let k := hmac384 salt ikm
  let t := hmac384 k (info ++ [1])
  (t ++ hmac384 k (t ++ info ++ [2])).take n

def ascii (t : String) : Bytes := t.toList.map (fun c => byte c.toNat)

/-! ### P-384 -/

def ecP : Nat := 2 ^ 384 - 2 ^ 128 - 2 ^ 96 + 2 ^ 32 - 1
def ecN : Nat := 0xFFFFFFFFFFFFFFFFFFFFFFFFFFFFFFFFFFFFFFFFFFFFFFFF * 2 ^ 192 + 0xC7634D81F4372DDF581A0DB248B0A77AECEC196ACCC52973
def ecB : Nat := 0xB3312FA7E23EE7E4988E056BE3F82D19181D9C6EFE814112 * 2 ^ 192 + 0x0314088F5013875AC656398D8A2ED19D2A85C8EDD3EC2AEF
def ecGx : Nat := 0xAA87CA22BE8B05378EB1C71EF320AD746E1D3B628BA79B98 * 2 ^ 192 + 0x59F741E082542A385502F25DBF55296C3A545E3872760AB7
def ecGy : Nat := 0x3617DE4A96262C6F5D9E98BF9292DC29F8F41DBD289A147C * 2 ^ 192 + 0xE9DA3113B5F0B8C00A60B1CE1D7E819D7A431D7C90EA0E5F

/-- `a` to the power `e` modulo `m`, for an exponent of at most 384 bits. -/
def powMod (m a e : Nat) : Nat := (List.range 384).foldl (fun r i => let r := r * r % m; if e.testBit (383 - i) then r * a % m else r) 1

/-- The inverse modulo a prime. -/
def invMod (m a : Nat) : Nat := powMod m a (m - 2)

/-- A point as X, Y, Z with x = X / Z² and y = Y / Z³; Z = 0 is the point at infinity. -/
abbrev EcPoint := Nat × Nat × Nat

/-- Twice a point. -/
def ecDouble (p : EcPoint) : EcPoint :=
  let (x, y, z) := p
  let d := z * z % ecP
  let g := y * y % ecP
  let b := x * g % ecP
  let a := 3 * (x + (ecP - d)) * (x + d) % ecP
  let x3 := (a * a + (ecP - b) * 8) % ecP
  (x3, (a * (4 * b + (ecP - x3)) + (ecP - g) * (8 * g)) % ecP, 2 * y * z % ecP)

/-- The sum of two points. -/
def ecAdd (p q : EcPoint) : EcPoint :=
  let (x1, y1, z1) := p
  let (x2, y2, z2) := q
  if z1 = 0 then q
  else if z2 = 0 then p
  else
    let e1 := z1 * z1 % ecP
    let e2 := z2 * z2 % ecP
    let u1 := x1 * e2 % ecP
    let u2 := x2 * e1 % ecP
    let s1 := y1 * z2 * e2 % ecP
    let s2 := y2 * z1 * e1 % ecP
    if u1 = u2 then (if s1 = s2 then ecDouble p else (1, 1, 0))
    else
      let h := (u2 + (ecP - u1)) % ecP
      let r := (s2 + (ecP - s1)) % ecP
      let h2 := h * h % ecP
      let h3 := h * h2 % ecP
      let v := u1 * h2 % ecP
      let x3 := (r * r + (ecP - h3) + 2 * (ecP - v)) % ecP
      (x3, (r * (v + (ecP - x3)) + (ecP - s1) * h3) % ecP, h * z1 * z2 % ecP)

/-- `k` times a point. -/
def ecMul (k : Nat) (p : EcPoint) : EcPoint :=
  (List.range 384).foldl (fun r i => let r := ecDouble r; if k.testBit (383 - i) then ecAdd r p else r) (1, 1, 0)

def ecG : EcPoint := (ecGx, ecGy, 1)

/-- The coordinates of a point, none at infinity. -/
def ecAffine (p : EcPoint) : Option (Nat × Nat) :=
  if p.2.2 = 0 then none
  else
    let i := invMod ecP p.2.2
    let i2 := i * i % ecP
    some (p.1 * i2 % ecP, p.2.1 * (i2 * i % ecP) % ecP)

/-- Whether a pair of coordinates lies on the curve. -/
def ecOn (x y : Nat) : Bool := decide (x < ecP) && decide (y < ecP) && decide (y * y % ecP = (x * x % ecP * x + (ecP - 3) * x + ecB) % ecP)

/-- A point as its 97 uncompressed bytes, and back. -/
def ecBytes (p : EcPoint) : Bytes := match ecAffine p with | some (x, y) => byte 4 :: beBytes 48 x ++ beBytes 48 y | none => [0]
def ecOfBytes (b : Bytes) : Option EcPoint :=
  let x := beNat (sliceB b 1 48)
  let y := beNat (sliceB b 49 48)
  if b.length = 97 && b.headD 0 = 4 && ecOn x y then some (x, y, 1) else none

/-- The ECDH secret of a private key and a public one: the x coordinate of their product. -/
def ecdh (d : Nat) (pub : Bytes) : Option Bytes :=
  (ecOfBytes pub).bind (fun q => (ecAffine (ecMul d q)).map (fun e => beBytes 48 e.1))

/-- The two numbers of a signature, where each lies in 1 to n − 1. -/
def sigParts (sig : Bytes) : Option (Nat × Nat) :=
  let r := beNat (sliceB sig 0 48)
  let t := beNat (sliceB sig 48 48)
  if 1 ≤ r && r < ecN && 1 ≤ t && t < ecN then some (r, t) else none

/-- Whether an ECDSA signature of a SHA-384 digest verifies under a public key. -/
def ecdsaOk (pub digest sig : Bytes) : Bool :=
  match ecOfBytes pub, sigParts sig with
  | some q, some (r, t) =>
    let w := invMod ecN t
    (match ecAffine (ecAdd (ecMul (beNat digest * w % ecN) ecG) (ecMul (r * w % ecN) q)) with
     | some (x, _) => x % ecN = r
     | none => false)
  | _, _ => false

/-- The points with a given x coordinate. -/
def ecLift (x : Nat) : List EcPoint :=
  let y := powMod ecP ((x * x % ecP * x + (ecP - 3) * x + ecB) % ecP) ((ecP + 1) / 4)
  if ecOn x y then [(x, y, 1), (x, ecP - y, 1)] else []

/-- The public keys under which a signature of a digest verifies. -/
def ecdsaKeys (digest sig : Bytes) : List Bytes :=
  match sigParts sig with
  | some (r, t) =>
    let w := invMod ecN r
    (ecLift r ++ (if r + ecN < ecP then ecLift (r + ecN) else [])).map (fun p =>
      ecBytes (ecAdd (ecMul (t * w % ecN) p) (ecMul ((ecN - beNat digest % ecN) * w % ecN) ecG)))
  | none => []

/-- The ECDSA signature of a digest under a private key with per-message number `k`. -/
def ecdsaSign (d k : Nat) (digest : Bytes) : Bytes :=
  match ecAffine (ecMul k ecG) with
  | some (x, _) => beBytes 48 (x % ecN) ++ beBytes 48 (invMod ecN k * (beNat digest + x % ecN * d) % ecN)
  | none => []

end Sys2Proof.Machine
end

