-- ==== Sys2Proof/Config.lean ====
section
/-! DEFINITION. Free values: constants without a body, one for each value that the manual leaves open. Nothing can evaluate them, so every claim holds for each of their values. -/

namespace Sys2Proof

/-- FREE VALUE (assumption 2): the arrival key of update `i` in the use numbered `n` of an operation whose updates combine in arrival order (06 R148, 13 R328). -/
opaque Config.arrival (n i : Nat) : Nat

/-- FREE VALUE (assumption 41): whether the dies are of stepping B0; otherwise they are of A1 (01 R36). -/
opaque Config.stepB0 : Bool

/-- FREE VALUE (assumption 5): the bits of entropy draw number `n` (18 R449). -/
opaque Config.entropy (n : Nat) : Nat

/-- FREE VALUE (assumption 21): the congestion window after adjustment number `n` (13 R323). -/
opaque Config.cwnd (n : Nat) : Nat

/-- FREE VALUE (assumption 21): least cycles between two frames of a stream after adjustment number `n` of its rate (13 R323). -/
opaque Config.streamGap (n : Nat) : Nat

/-- FREE VALUE (assumption 22): bytes of the transit buffer that are an egress queue's share (13 R339). -/
opaque Config.transitShare (port : Nat) : Nat

/-- FREE VALUE (assumption 21): a stream's share of the free reorder slots at grant number `n` (13 R323). -/
opaque Config.creditShare (n : Nat) : Nat

/-- FREE VALUE (assumption 21): the path entropy after choice number `n` (13 R323, R338). -/
opaque Config.pathEntropy (n : Nat) : Nat

/-- FREE VALUE (assumption 22): the hash by which a frame takes one port of its route mask (13 R338), over source address, destination address and flow label. -/
opaque Config.pathHash (src dst : Bytes) (flow : Nat) : Nat

/-- FREE VALUE (assumption 22): the ports of the die that the source and the destination address of a frame name (13 R311). -/
opaque Config.srcPort (sidx flow : Nat) : Nat
opaque Config.dstPort (node flow : Nat) : Nat

/-- FREE VALUE (assumption 22): the UDP source port of a stream and path, as an offset above 49,152 (13 R310). -/
opaque Config.udpSource (sidx flow : Nat) : Nat

/-- FREE VALUE (assumption 20): the place among the 96 collective streams of a die of the stream of a group mode from group index `own` to `peer` (14 R349, R350). -/
opaque Config.collSlot (mode own peer : Nat) : Nat

/-- FREE VALUE (assumption 20): the die that carries messages of a KIND other than those of sums and gathers (14 R350). -/
opaque Config.cteDie (kind : Nat) : Nat

/-- FREE VALUE (assumption 46): where in a context's HBM region of so many MiB its version store begins, in units of 16 bytes (14 R358). -/
opaque Config.versionStore (mib : Nat) : Nat

/-- FREE VALUE (assumption 24): the die whose stream table a program stream's entry is taken from (13 R316, R318). -/
opaque Config.streamDie (psn peer : Nat) : Nat

/-- FREE VALUE (assumption 22): the DSCP of a stream of a partition (13 R310, R316). -/
opaque Config.dscp (part psn : Nat) : Nat

/-- FREE VALUE (assumption 32): the 384-bit secret that the physically unclonable function yields with helper data (18 R450). -/
opaque Config.puf (helper : Bytes) : Bytes

/-- FREE VALUE (assumption 32): the digest of the ROM code (18 R452). -/
opaque Config.romDigest : Bytes

/-- FREE VALUE (assumption 32): the certificate chain of slot 0 for the certificates of the package and the DevID, alias and seal public keys (18 R450, R451). -/
opaque Config.certChain (vendor devId aliasKey sealKey : Bytes) : Bytes

/-- FREE VALUE (assumption 32): what the device answers to a key exchange at draw number `n`, beside the session number (18 R451). -/
opaque Config.keyExchange (n : Nat) (fwm req : Bytes) : Bytes

/-- FREE VALUE (assumption 33): how many cycles more a RoCEv2 queue pair leaves between two packets after a congestion notification, at draw number `n` (13 R340). -/
opaque Config.roceGap (n : Nat) : Nat

/-- FREE VALUE (assumption 33): where in its memory region a RoCEv2 SEND lands, at arrival number `n` (15 R386). -/
opaque Config.recvPlace (n : Nat) : Nat

/-- FREE VALUE (assumption 27): byte `i` of the destination of a copy whose destination overlaps its source, or of a landing area that overlaps what it feeds, at use `n` (13 R327, 14 R361, 01 R13). -/
opaque Config.overlapByte (n i : Nat) : Nat

/-- FREE VALUE (assumption 59): the cycles of test work that the part of a pass which a shadowing interrupted does again, at draw number `n` (17 R430). -/
opaque Config.passRedo (n : Nat) : Nat

/-- FREE VALUE (assumption 59): byte `i` of a scratchpad as a march test leaves it, at draw number `n` (17 R430, 18 R458). -/
opaque Config.marchByte (n i : Nat) : Nat

/-- FREE VALUE (assumption 27): how many element groups of a chain of the VSE are in flight behind the one that reads, where a group reads what an earlier one writes, at draw number `n` (06 R142, 09 R235). -/
opaque Config.groupLag (n : Nat) : Nat

/-- FREE VALUE (assumption 9): the `i`-th layer shard that the plan of a binary places on the device of a rank (place of the layer in the layer table, shard, shards), for a job of several devices (02 R52). -/
opaque Config.heldShard (hash : Bytes) (plan rank i : Nat) : Nat × Nat × Nat

/-- FREE VALUE (assumption 9): of the shards of a layer that the device of a rank holds, the one in which the element at a position of the layer's image lies (02 R52). -/
opaque Config.shardAt (hash : Bytes) (plan rank layer pos : Nat) : Nat

/-- FREE VALUE (assumption 30): whether the path from a device's node to a peer's runs through external switches (14 R364). -/
opaque Config.external (node peer : Nat) : Bool

/-- FREE VALUE (assumption 30): whether the MAP_PERIOD of the root of a job, whose node is `root`, makes the boundary of a step one of a summary: what counts on every device is the root's, which the other devices are not told by any message (14 R365). -/
opaque Config.rootSummary (root step : Nat) : Bool

/-- FREE VALUE (assumption 28): the positional digest of a part that runs past its image, at use `n` (02 R54, 08 R206). -/
opaque Config.openDigest (n : Nat) : Nat

/-- FREE VALUE (assumption 38): number `i` of what a cluster block of an imported image says of a live tally sum (16 R411). -/
opaque Config.tallyRead (block : Bytes) (tag i : Nat) : Nat

end Sys2Proof
end

