-- ==== Sys2Proof/Machine/Crc.lean ====
section
/-! DEFINITION. Check values: CRC-64 of the ledger and its advance over zero bytes (02 R54), CRC-32C (08), and the shared shapes of the check-value unit. -/

namespace Sys2Proof.Machine

/-- The ECMA-182 polynomial (02). -/
def poly64 : Nat := 0x42F0E1EBA9EA3693

/-- One bit of a non-reflected CRC-64. -/
def crc64Bit (c : Nat) : Nat := if c.testBit 63 then (c * 2 % 2 ^ 64) ^^^ poly64 else c * 2 % 2 ^ 64

/-- One byte of a CRC-64. -/
def crc64Byte (c : Nat) (b : Byte) : Nat :=
  let x := c ^^^ (b.toNat * 2 ^ 56)
  crc64Bit (crc64Bit (crc64Bit (crc64Bit (crc64Bit (crc64Bit (crc64Bit (crc64Bit x)))))))

/-- A CRC-64 running value over bytes. -/
def crc64From (c : Nat) (b : Bytes) : Nat := b.foldl crc64Byte c

/-- CRC-64, initial value zero, no final XOR (02). -/
def crc64 (b : Bytes) : Nat := crc64From 0 b

/-- Product of two residues modulo the CRC-64 polynomial, over the top `n` bits of `b`. -/
def gfMul64 (a b : Nat) : Nat → Nat → Nat
  | 0, acc => acc
  | n + 1, acc =>
    let acc := crc64Bit acc
    gfMul64 a b n (if b.testBit n then acc ^^^ a else acc)

/-- x^(8n) modulo the polynomial, by squaring, with fuel for the bits of n. -/
def gfPow64 : Nat → Nat → Nat → Nat → Nat
  | 0, _, _, acc => acc
  | f + 1, base, n, acc =>
    if n = 0 then acc
    else gfPow64 f (gfMul64 base base 64 0) (n / 2) (if n % 2 = 1 then gfMul64 acc base 64 0 else acc)

/-- Advances a CRC-64 running value across n zero bytes without streaming them (02 R54). -/
def crc64Zeros (c n : Nat) : Nat := gfMul64 c (gfPow64 64 256 n 1) 64 0

/-- The positional digest of a part at offset o of an image of L bytes (02 R54). -/
def posDigest (o : Nat) (b : Bytes) (l : Nat) : Nat := crc64Zeros (crc64 b) (l - o - b.length)

/-- One bit of a reflected CRC-32C. -/
def crc32cBit (c : Nat) : Nat := if c % 2 = 1 then (c / 2) ^^^ 0x82F63B78 else c / 2

/-- One byte of a CRC-32C. -/
def crc32cByte (c : Nat) (b : Byte) : Nat :=
  let x := c ^^^ b.toNat
  crc32cBit (crc32cBit (crc32cBit (crc32cBit (crc32cBit (crc32cBit (crc32cBit (crc32cBit x)))))))

/-- CRC-32C with its inversions (08, check value 0xE306_9283). -/
def crc32c (b : Bytes) : Nat := (b.foldl crc32cByte 0xFFFFFFFF) ^^^ 0xFFFFFFFF

end Sys2Proof.Machine
end

