-- ==== Sys2Proof/Machine/RegTable.lean ====
section
/-! DEFINITION. The register map: offset, width, owning block, fields, access codes, reset values and legal values of every register of the manual (00 R6 to R8, 01 R32, and the register tables of every chapter). -/

namespace Sys2Proof.Machine

/-- The access codes (00 R7). -/
inductive Acc where
  | ro | rw | w1c | w1s | wo | cw
  deriving DecidableEq, Repr

/-- One field: bits, access, reset value, and the legal ranges of what may be written (none listed: any value). -/
structure RegFld where
  hi : Nat
  lo : Nat
  acc : Acc
  rst : Nat := 0
  ok : List (Nat × Nat) := []
  deriving DecidableEq, Repr

/-- One register family: the offset of its first register, the count and stride of up to two indices, its bit of GLB_CFGERR (01 R37), its width and its fields. -/
structure RegDesc where
  base : Nat
  n1 : Nat := 1
  s1 : Nat := 0
  n2 : Nat := 1
  s2 : Nat := 0
  blk : Nat
  width : Nat
  flds : List RegFld
  deriving DecidableEq, Repr

/-- Index pair of an offset in a family, if it belongs to it. -/
def regIdx (d : RegDesc) (off : Nat) : Option (Nat × Nat) :=
  if off < d.base then none
  else
    let r := off - d.base
    let i := if d.s1 = 0 then 0 else r / d.s1
    let r2 := if d.s1 = 0 then r else r % d.s1
    let j := if d.s2 = 0 then 0 else r2 / d.s2
    let r3 := if d.s2 = 0 then r2 else r2 % d.s2
    if i < d.n1 && j < d.n2 && r3 = 0 then some (i, j) else none

/-- The field of a read-only field. -/
def fRO (hi lo : Nat) (rst : Nat := 0) : RegFld := ⟨hi, lo, .ro, rst, []⟩
/-- A read-write field. -/
def fRW (hi lo : Nat) (rst : Nat := 0) (ok : List (Nat × Nat) := []) : RegFld := ⟨hi, lo, .rw, rst, ok⟩
/-- A write-one-to-clear field. -/
def fW1C (hi lo : Nat) : RegFld := ⟨hi, lo, .w1c, 0, []⟩
/-- A write-one-to-set field. -/
def fW1S (hi lo : Nat) : RegFld := ⟨hi, lo, .w1s, 0, []⟩
/-- A write-only field. -/
def fWO (hi lo : Nat) (ok : List (Nat × Nat) := []) : RegFld := ⟨hi, lo, .wo, 0, ok⟩
/-- A shadowed field. -/
def fCW (hi lo : Nat) (rst : Nat := 0) (ok : List (Nat × Nat) := []) : RegFld := ⟨hi, lo, .cw, rst, ok⟩

/-! Offsets (01 R32). -/
def rIdent : Nat := 0x0
def rRole : Nat := 0x8
def rClustat : Nat := 0x10
def rArv : Nat := 0x18
def rCoverid : Nat := 0x20
def rStrap : Nat := 0x60
def rCfgerr : Nat := 0x68
def rDbtPeriod (p : Nat) : Nat := 0x30000 + p * 0x100
def rDbtCount (p : Nat) : Nat := 0x30008 + p * 0x100
def rDbtStretch (p : Nat) : Nat := 0x30010 + p * 0x100
def rDbtFrame (p : Nat) : Nat := 0x30018 + p * 0x100
def rDbtHoldcnt (i : Nat) : Nat := 0x30800 + i * 8
def rDbtHeld : Nat := 0x30840
def rDbtHoldstat : Nat := 0x30848
def rDbtCycle : Nat := 0x30850
def rBelCfg (b : Nat) : Nat := 0x40000 + b * 0x10
def rBelState (b : Nat) : Nat := 0x40008 + b * 0x10
def rBelDeadlock (p : Nat) : Nat := 0x40800 + p * 8
def rBelMuster : Nat := 0x40900
def rBelRefcnt : Nat := 0x40908
def rCoreCond (p : Nat) : Nat := 0x2000000 + p * 0x10000
def rChmValue (p i : Nat) : Nat := 0x2001000 + p * 0x10000 + i * 8
def rChmLand (p i : Nat) : Nat := 0x2001060 + p * 0x10000 + i * 8
def rChmWait (p : Nat) : Nat := 0x20010C0 + p * 0x10000
def rMxeCap (p : Nat) : Nat := 0x2002000 + p * 0x10000
def rMxeStatus (p : Nat) : Nat := 0x2002008 + p * 0x10000
def rUpeCap (p : Nat) : Nat := 0x2004000 + p * 0x10000
def rUpeStatus (p : Nat) : Nat := 0x2004008 + p * 0x10000
def rMemWstat (k : Nat) : Nat := 0x10F0000 + k / 6 * 0x800000 + k % 6 * 0x100
def rMemWserr (k : Nat) : Nat := 0x10F0008 + k / 6 * 0x800000 + k % 6 * 0x100
def rCteTstat (k : Nat) : Nat := 0x1308000 + k / 6 * 0x800000 + k % 6 * 0x100
def rCteTstore (k : Nat) : Nat := 0x1308008 + k / 6 * 0x800000 + k % 6 * 0x100
def rLdgCtrl (p : Nat) : Nat := 0x70000 + p * 0x100
def rLdgBase (p : Nat) : Nat := 0x70008 + p * 0x100
def rLdgSize (p : Nat) : Nat := 0x70010 + p * 0x100
def rLdgStatus (p : Nat) : Nat := 0x70018 + p * 0x100
def rSnapCtrl (p : Nat) : Nat := 0x70040 + p * 0x100
def rSnapBase (p : Nat) : Nat := 0x70048 + p * 0x100
def rSnapSize (p : Nat) : Nat := 0x70050 + p * 0x100
def rSnapPtr (p : Nat) : Nat := 0x70058 + p * 0x100
def rPtnCfg (p : Nat) : Nat := 0x50000 + p * 0x100
def rPtnHbm (p : Nat) : Nat := 0x50008 + p * 0x100
def rPtnStow (p d : Nat) : Nat := 0x50010 + p * 0x100 + d * 8
def rPtnLstow (p : Nat) : Nat := 0x50020 + p * 0x100
def rPtnSlice (p : Nat) : Nat := 0x50028 + p * 0x100
def rPtnStat (p : Nat) : Nat := 0x50030 + p * 0x100
def rPtnCtxstat (p c : Nat) : Nat := 0x50800 + p * 0x80 + c * 8
def rPtnAccta (q : Nat) : Nat := 0x51000 + q * 0x10
def rPtnAcctb (q : Nat) : Nat := 0x51008 + q * 0x10

/-- Package identity and strap registers (01, 02, 09, 20). -/
def regsGlb : List RegDesc := [
  { base := rIdent, blk := 0, width := 32, flds := [fRO 15 0 0x0F07, fRO 19 16, fRO 23 20, fRO 31 24] },
  { base := rRole, blk := 0, width := 32, flds := [fRO 1 0, fRO 7 2, fRO 13 8] },
  { base := rClustat, blk := 0, width := 64, flds := [fRO 47 0] },
  { base := rArv, blk := 0, width := 64, flds := [fRO 31 0 0x5D2E0001, fRO 47 32] },
  { base := rCoverid, blk := 0, width := 64, flds := [fRO 63 0] },
  { base := rStrap, blk := 0, width := 32, flds := [fRO 0 0, fRO 1 1, fRO 2 2, fRO 3 3] },
  { base := rCfgerr, blk := 0, width := 64, flds := [fW1C 16 0, fRO 63 32] }]

/-- Drumbeat registers (10). -/
def regsDbt : List RegDesc := [
  { base := rDbtPeriod 0, n1 := 8, s1 := 0x100, blk := 2, width := 32, flds := [fRW 0 0, fCW 8 4 0x10 [(12, 26)]] },
  { base := rDbtCount 0, n1 := 8, s1 := 0x100, blk := 2, width := 64, flds := [fRO 63 0] },
  { base := rDbtStretch 0, n1 := 8, s1 := 0x100, blk := 2, width := 32, flds := [fRO 31 0] },
  { base := rDbtFrame 0, n1 := 8, s1 := 0x100, blk := 2, width := 64, flds := [fRO 31 0, fRO 32 32] },
  { base := rDbtHoldcnt 0, n1 := 8, s1 := 8, blk := 2, width := 64, flds := [fRO 63 0] },
  { base := rDbtHeld, blk := 2, width := 64, flds := [fRO 63 0] },
  { base := rDbtHoldstat, blk := 2, width := 32, flds := [fRO 7 0, fRO 8 8] },
  { base := rDbtCycle, blk := 2, width := 64, flds := [fRO 63 0] }]

/-- Bell and chime registers (11). -/
def regsBel : List RegDesc := [
  { base := rBelCfg 0, n1 := 64, s1 := 0x10, blk := 4, width := 64,
    flds := [fRW 0 0, fRW 3 1, fRW 5 4 0 [(0, 1)], fRW 12 6 0 [(0, 95)], fRW 35 16 0 [(0, 131071)], fRW 51 36 0x400 [(1, 65535)]] },
  { base := rBelState 0, n1 := 64, s1 := 0x10, blk := 4, width := 64, flds := [fRO 0 0, fRO 7 1, fRO 8 8, fRO 31 16, fRO 63 32] },
  { base := rBelDeadlock 0, n1 := 8, s1 := 8, blk := 4, width := 32, flds := [fCW 3 0 2] },
  { base := rBelMuster, blk := 4, width := 32, flds := [fRW 15 0 0x100, fRW 16 16, fRO 17 17] },
  { base := rBelRefcnt, blk := 4, width := 64, flds := [fRO 63 0] },
  { base := rChmValue 0 0, n1 := 108, s1 := 0x10000, n2 := 12, s2 := 8, blk := 3, width := 64, flds := [fRO 63 0] },
  { base := rChmLand 0 0, n1 := 108, s1 := 0x10000, n2 := 12, s2 := 8, blk := 3, width := 64, flds := [fRO 63 0] },
  { base := rChmWait 0, n1 := 108, s1 := 0x10000, blk := 3, width := 64, flds := [fRO 47 0] }]

/-- Engine registers of a pcore (04, 08, 09). -/
def regsCore : List RegDesc := [
  { base := rCoreCond 0, n1 := 108, s1 := 0x10000, blk := 1, width := 64, flds := [fRO 15 0, fRO 18 16, fRO 19 19, fRO 63 32] },
  { base := rMxeCap 0, n1 := 108, s1 := 0x10000, blk := 5, width := 32,
    flds := [fRO 8 0 0x100, fRO 16 9 0x80, fRO 26 17 0x200, fRO 27 27 1, fRO 29 28 3] },
  { base := rMxeStatus 0, n1 := 108, s1 := 0x10000, blk := 5, width := 32, flds := [fW1C 5 0] },
  { base := rUpeCap 0, n1 := 108, s1 := 0x10000, blk := 7, width := 32,
    flds := [fRO 6 0 0x40, fRO 7 7 1, fRO 8 8 1, fRO 9 9 1, fRO 17 10 0xFF] },
  { base := rUpeStatus 0, n1 := 108, s1 := 0x10000, blk := 7, width := 32, flds := [fW1C 6 0] }]

/-- Waystation and tally registers of a cluster (05, 08). -/
def regsCluster : List RegDesc := [
  { base := rMemWstat 0, n1 := 2, s1 := 0x800000, n2 := 6, s2 := 0x100, blk := 8, width := 64, flds := [fRO 8 0, fRO 23 9, fRO 63 32] },
  { base := rMemWserr 0, n1 := 2, s1 := 0x800000, n2 := 6, s2 := 0x100, blk := 8, width := 32, flds := [fW1C 3 0, fRO 31 16] },
  { base := rCteTstat 0, n1 := 2, s1 := 0x800000, n2 := 6, s2 := 0x100, blk := 12, width := 32, flds := [fW1C 4 0] },
  { base := rCteTstore 0, n1 := 2, s1 := 0x800000, n2 := 6, s2 := 0x100, blk := 12, width := 32, flds := [fRO 14 0, fRO 30 16, fWO 31 31] }]

/-- Ledger and snapshot ring registers (02, 08). -/
def regsLdg : List RegDesc := [
  { base := rLdgCtrl 0, n1 := 8, s1 := 0x100, blk := 9, width := 32, flds := [fRW 0 0, fRW 1 1, fRW 31 16 0x400 [(1, 65535)]] },
  { base := rLdgBase 0, n1 := 8, s1 := 0x100, blk := 9, width := 64, flds := [fRW 47 16 0 [(0x800000, 0x88FFFF)]] },
  { base := rLdgSize 0, n1 := 8, s1 := 0x100, blk := 9, width := 32, flds := [fRW 18 0 0 [(16, 262144)]] },
  { base := rLdgStatus 0, n1 := 8, s1 := 0x100, blk := 9, width := 64, flds := [fRO 29 0, fRO 30 30, fRO 61 32] },
  { base := rSnapCtrl 0, n1 := 8, s1 := 0x100, blk := 9, width := 32, flds := [fRW 0 0, fRO 31 16] },
  { base := rSnapBase 0, n1 := 8, s1 := 0x100, blk := 9, width := 64, flds := [fRW 47 16 0 [(0x800000, 0x88FFFF)]] },
  { base := rSnapSize 0, n1 := 8, s1 := 0x100, blk := 9, width := 32, flds := [fRW 17 0 0 [(16, 262143)]] },
  { base := rSnapPtr 0, n1 := 8, s1 := 0x100, blk := 9, width := 64, flds := [fRO 28 0, fRW 60 32] }]

/-- Partition registers (16). -/
def regsPtn : List RegDesc := [
  { base := rPtnCfg 0, n1 := 8, s1 := 0x100, blk := 14, width := 64, flds := [fRW 0 0, fRW 12 1, fRW 47 16] },
  { base := rPtnHbm 0, n1 := 8, s1 := 0x100, blk := 14, width := 64, flds := [fRW 47 20, fRW 63 48 0 [(1, 17280)]] },
  { base := rPtnStow 0 0, n1 := 8, s1 := 0x100, n2 := 2, s2 := 8, blk := 14, width := 64, flds := [fRW 47 20, fRW 63 48] },
  { base := rPtnLstow 0, n1 := 8, s1 := 0x100, blk := 14, width := 32, flds := [fRW 15 0, fRW 31 16] },
  { base := rPtnSlice 0, n1 := 8, s1 := 0x100, blk := 14, width := 32, flds := [fCW 15 0 0x40 [(1, 65535)], fCW 31 16 0x400 [(1, 65535)]] },
  { base := rPtnStat 0, n1 := 8, s1 := 0x100, blk := 14, width := 64, flds := [fRO 3 0, fRO 4 4, fRO 5 5, fW1C 6 6, fRO 63 32] },
  { base := rPtnCtxstat 0 0, n1 := 8, s1 := 0x80, n2 := 16, s2 := 8, blk := 14, width := 64, flds := [fRO 2 0, fRO 3 3, fRO 4 4, fRO 5 5, fRO 11 6, fRO 63 32] },
  { base := rPtnAccta 0, n1 := 64, s1 := 0x10, blk := 14, width := 64, flds := [fRO 31 0, fRO 63 32] },
  { base := rPtnAcctb 0, n1 := 64, s1 := 0x10, blk := 14, width := 64, flds := [fRO 31 0, fRO 63 32] }]

def rRotcfg : Nat := 0x28
def rRetired (i : Nat) : Nat := 0x30 + i * 8
def rWdog (d : Nat) : Nat := 0x40 + d * 8
def rWard : Nat := 0x50
def rWardstat : Nat := 0x58
def rPtnEcho (p : Nat) : Nat := 0x50038 + p * 0x100
def rPtnToll (p : Nat) : Nat := 0x50040 + p * 0x100
def rPtnTollstat (p : Nat) : Nat := 0x50048 + p * 0x100
def rCoreEcho (p : Nat) : Nat := 0x2000048 + p * 0x10000

/-- Echo, toll, rotation, watchdog and ward registers (17). -/
def regsFlt : List RegDesc := [
  { base := rRotcfg, blk := 0, width := 32, flds := [fRW 0 0, fRW 5 1 0x0A [(0, 20)], fRW 17 6] },
  { base := rRetired 0, n1 := 2, s1 := 8, blk := 0, width := 64, flds := [fRO 63 0] },
  { base := rWdog 0, n1 := 2, s1 := 8, blk := 0, width := 32, flds := [fRW 15 0 0x64 [(1, 65535)], fWO 16 16, fW1C 17 17] },
  { base := rWard, blk := 0, width := 64, flds := [fRO 63 0] },
  { base := rWardstat, blk := 0, width := 32, flds := [fRO 0 0, fRO 31 16] },
  { base := rPtnEcho 0, n1 := 8, s1 := 0x100, blk := 14, width := 32, flds := [fCW 2 0 0 [(0, 4)], fCW 15 8 0x40 [(1, 255)], fCW 31 16 0x400 [(1, 65535)]] },
  { base := rPtnToll 0, n1 := 8, s1 := 0x100, blk := 14, width := 32, flds := [fCW 0 0, fCW 31 16 0x100 [(1, 65535)]] },
  { base := rPtnTollstat 0, n1 := 8, s1 := 0x100, blk := 14, width := 64, flds := [fRO 31 0, fRO 33 32, fRO 34 34] },
  { base := rCoreEcho 0, n1 := 108, s1 := 0x10000, blk := 1, width := 64,
    flds := [fRO 23 0, fRO 39 24, fRO 51 40, fRO 53 52, fRO 55 54, fRO 63 56] }]

def rNetPortcfg (n : Nat) : Nat := 0x1100000 + n / 16 * 0x800000 + n % 16 * 0x40
def rNetPortstat (n : Nat) : Nat := 0x1100008 + n / 16 * 0x800000 + n % 16 * 0x40
def rNetPorterr (n : Nat) : Nat := 0x1100010 + n / 16 * 0x800000 + n % 16 * 0x40
def rNetCvtcfg (d : Nat) : Nat := 0x1100800 + d * 0x800000
def rNetPrefix (d : Nat) : Nat := 0x1100808 + d * 0x800000
def rNetIdent (d : Nat) : Nat := 0x1100810 + d * 0x800000
def rNetRunout (d : Nat) : Nat := 0x1100818 + d * 0x800000
def rNetSquota (d p : Nat) : Nat := 0x1100900 + d * 0x800000 + p * 8
def rNetTransit (d : Nat) : Nat := 0x1100A00 + d * 0x800000
def rNetDefroute (d : Nat) : Nat := 0x1100A08 + d * 0x800000
def rNetRoute (d k : Nat) : Nat := 0x1180000 + d * 0x800000 + k * 4
def rCvuCfg (d : Nat) : Nat := 0x1200000 + d * 0x800000
def rCvuFeed (d c : Nat) : Nat := 0x1200010 + d * 0x800000 + c * 8
def rCvuResult (d c : Nat) : Nat := 0x1200040 + d * 0x800000 + c * 8
def rCvuRun (d : Nat) : Nat := 0x1200080 + d * 0x800000

/-- Port, transport and check-value registers of a die (13). -/
def regsNet : List RegDesc := [
  { base := rNetPortcfg 0, n1 := 2, s1 := 0x800000, n2 := 16, s2 := 0x40, blk := 10, width := 32, flds := [fRW 0 0, fRW 2 1, fRW 3 3, fRW 4 4] },
  { base := rNetPortstat 0, n1 := 2, s1 := 0x800000, n2 := 16, s2 := 0x40, blk := 10, width := 64,
    flds := [fRO 0 0, fRO 1 1, fRO 21 2, fRO 26 22, fRO 47 32, fRO 63 48] },
  { base := rNetPorterr 0, n1 := 2, s1 := 0x800000, n2 := 16, s2 := 0x40, blk := 10, width := 64, flds := [fRO 15 0, fRO 31 16, fRO 47 32, fRO 63 48] },
  { base := rNetCvtcfg 0, n1 := 2, s1 := 0x800000, blk := 10, width := 64,
    flds := [fRW 15 0 0xC7A0, fRW 17 16 2 [(0, 2)], fRW 25 18 0x40, fRW 29 26 8 [(1, 15)], fRW 47 32 8 [(1, 65535)], fRW 55 48 12 [(1, 255)]] },
  { base := rNetPrefix 0, n1 := 2, s1 := 0x800000, blk := 10, width := 64, flds := [fRW 63 0] },
  { base := rNetIdent 0, n1 := 2, s1 := 0x800000, blk := 10, width := 32, flds := [fRO 19 0] },
  { base := rNetRunout 0, n1 := 2, s1 := 0x800000, blk := 10, width := 32, flds := [fRW 31 0 0x20000] },
  { base := rNetSquota 0 0, n1 := 2, s1 := 0x800000, n2 := 8, s2 := 8, blk := 10, width := 32, flds := [fRW 13 0 0 [(0, 8192)], fRO 29 16] },
  { base := rNetTransit 0, n1 := 2, s1 := 0x800000, blk := 10, width := 64, flds := [fRO 31 0, fRO 47 32, fRO 55 48, fRO 63 56] },
  { base := rNetDefroute 0, n1 := 2, s1 := 0x800000, blk := 10, width := 32, flds := [fRW 15 0] },
  { base := rNetRoute 0 0, n1 := 2, s1 := 0x800000, n2 := 131072, s2 := 4, blk := 10, width := 32, flds := [fRW 15 0, fRW 16 16] },
  { base := rCvuCfg 0, n1 := 2, s1 := 0x800000, blk := 11, width := 32, flds := [fRW 0 0, fRW 4 1 15, fW1S 8 5] },
  { base := rCvuFeed 0 0, n1 := 2, s1 := 0x800000, n2 := 4, s2 := 8, blk := 11, width := 32, flds := [fWO 31 0] },
  { base := rCvuResult 0 0, n1 := 2, s1 := 0x800000, n2 := 4, s2 := 8, blk := 11, width := 64, flds := [fRO 63 0] },
  { base := rCvuRun 0, n1 := 2, s1 := 0x800000, blk := 11, width := 64, flds := [fRW 63 0] }]

def rLdgRegion (p : Nat) : Nat := 0x70080 + p * 0x100
def rLdgMemcfg : Nat := 0x70800

/-- Ledger memory registers (12). -/
def regsLmem : List RegDesc := [
  { base := rLdgRegion 0, n1 := 8, s1 := 0x100, blk := 9, width := 64, flds := [fRW 47 20 0, fRW 63 48 0 [(1, 36864)]] },
  { base := rLdgMemcfg, blk := 9, width := 64, flds := [fRO 3 0, fRO 4 4, fRO 16 5, fRO 47 32, fRO 63 48] }]

def rCteMapcfg (d : Nat) : Nat := 0x1300000 + d * 0x800000
def rCteMap (d : Nat) : Nat := 0x1300008 + d * 0x800000
def rCteMapstep (d : Nat) : Nat := 0x1300010 + d * 0x800000
def rCteDist (d j : Nat) : Nat := 0x1300400 + d * 0x800000 + j * 8
def rCteCount (d : Nat) : Nat := 0x1300040 + d * 0x800000

/-- Collective registers of a die (14). -/
def regsCte : List RegDesc := [
  { base := rCteMapcfg 0, n1 := 2, s1 := 0x800000, blk := 12, width := 32,
    flds := [fRW 7 0 0x10 [(1, 255)], fRW 15 8 0x04 [(1, 255)], fRW 17 16 2 [(0, 2)], fRW 19 18] },
  { base := rCteMap 0, n1 := 2, s1 := 0x800000, blk := 12, width := 64, flds := [fRO 53 0, fRO 59 54] },
  { base := rCteMapstep 0, n1 := 2, s1 := 0x800000, blk := 12, width := 64, flds := [fRO 63 0] },
  { base := rCteDist 0 0, n1 := 2, s1 := 0x800000, n2 := 96, s2 := 8, blk := 12, width := 64,
    flds := [fRO 19 0, fRO 22 20, fRO 26 23, fRO 42 27, fRO 50 43, fRO 51 51, fRO 52 52] },
  { base := rCteCount 0, n1 := 2, s1 := 0x800000, blk := 12, width := 64, flds := [fRO 31 0, fRO 47 32, fRO 63 48] }]

def rVseCap (p : Nat) : Nat := 0x2003000 + p * 0x10000
def rVseStatus (p : Nat) : Nat := 0x2003008 + p * 0x10000
def rCoreRbg (p : Nat) : Nat := 0x2000040 + p * 0x10000
def rHifStatus : Nat := 0x60000
def rHifEvent : Nat := 0x60008
def rHifEvcfg : Nat := 0x6000C
def rHifFwaddr : Nat := 0x60010
def rHifFwlen : Nat := 0x60018
def rHifFwctl : Nat := 0x6001C
def rHifPeerstat : Nat := 0x60100
def rHifPeerctl : Nat := 0x60108
def rHifQpcfg (q : Nat) : Nat := 0x61000 + q * 0x40
def rHifSqbase (q : Nat) : Nat := 0x61008 + q * 0x40
def rHifCqbase (q : Nat) : Nat := 0x61010 + q * 0x40
def rHifQpstat (q : Nat) : Nat := 0x61018 + q * 0x40

/-- Host interface registers (15). -/
def regsHif : List RegDesc := [
  { base := rHifStatus, blk := 13, width := 32, flds := [fRO 0 0, fRO 1 1] },
  { base := rHifEvent, blk := 13, width := 32, flds := [fW1C 4 0] },
  { base := rHifEvcfg, blk := 13, width := 32, flds := [fRW 6 0, fRW 7 7] },
  { base := rHifFwaddr, blk := 13, width := 64, flds := [fRW 63 0] },
  { base := rHifFwlen, blk := 13, width := 32, flds := [fRW 31 0] },
  { base := rHifFwctl, blk := 13, width := 32, flds := [fW1S 0 0, fRO 1 1, fRO 3 2] },
  { base := rHifPeerstat, blk := 13, width := 64, flds := [fRO 63 1] },
  { base := rHifPeerctl, blk := 13, width := 64, flds := [fW1S 63 1] },
  { base := rHifQpcfg 0, n1 := 64, s1 := 0x40, blk := 13, width := 64,
    flds := [fRW 0 0, fRW 1 1, fRW 4 2, fRW 10 6 4 [(4, 16)], fRW 15 11 9 [(9, 20)], fRW 22 16, fRW 31 24, fRW 47 32] },
  { base := rHifSqbase 0, n1 := 64, s1 := 0x40, blk := 13, width := 64, flds := [fRW 63 0] },
  { base := rHifCqbase 0, n1 := 64, s1 := 0x40, blk := 13, width := 64, flds := [fRW 63 0] },
  { base := rHifQpstat 0, n1 := 64, s1 := 0x40, blk := 13, width := 64, flds := [fRO 31 0, fRO 33 32, fRO 38 36, fRO 55 40, fRO 63 56] }]

/-- VSE and RBG registers of a pcore (06, 07). -/
def regsVse : List RegDesc := [
  { base := rVseCap 0, n1 := 108, s1 := 0x10000, blk := 6, width := 32, flds := [fRO 8 0 0x100, fRO 18 9 0x200, fRO 20 19 3, fRO 25 21 0x10, fRO 31 26 0x3F] },
  { base := rVseStatus 0, n1 := 108, s1 := 0x10000, blk := 6, width := 32, flds := [fW1C 6 0] },
  { base := rCoreRbg 0, n1 := 108, s1 := 0x10000, blk := 1, width := 32, flds := [fRO 0 0, fRO 1 1] }]

def rMemHstat (h : Nat) : Nat := 0x1000000 + h / 4 * 0x800000 + h % 4 * 0x100
def rMemEcc (h : Nat) : Nat := 0x1000008 + h / 4 * 0x800000 + h % 4 * 0x100
def rMemPoisonlog (d : Nat) : Nat := 0x1000400 + d * 0x800000
def rMemScrub (d : Nat) : Nat := 0x1000800 + d * 0x800000
def rMemCadence : Nat := 0x1000C00
def rMemReg (d p : Nat) : Nat := 0x1001000 + d * 0x800000 + p * 8
def rMboxCtl (d : Nat) : Nat := 0x1002000 + d * 0x800000
def rMboxCmd (d : Nat) : Nat := 0x1002008 + d * 0x800000
def rMboxData (d : Nat) : Nat := 0x1002010 + d * 0x800000

/-- HBM registers (12). -/
def regsMem : List RegDesc := [
  { base := rMemHstat 0, n1 := 2, s1 := 0x800000, n2 := 4, s2 := 0x100, blk := 8, width := 32, flds := [fRO 7 0, fRO 8 8, fRO 10 9, fRO 13 11, fRO 15 14] },
  { base := rMemEcc 0, n1 := 2, s1 := 0x800000, n2 := 4, s2 := 0x100, blk := 8, width := 64, flds := [fRO 31 0, fRO 47 32, fRO 63 48] },
  { base := rMemPoisonlog 0, n1 := 2, s1 := 0x800000, blk := 8, width := 64, flds := [fRO 47 6, fRO 62 48, fWO 63 63] },
  { base := rMemScrub 0, n1 := 2, s1 := 0x800000, blk := 8, width := 32, flds := [fRW 0 0 1, fRW 8 1 0x18 [(1, 255)], fRO 31 16] },
  { base := rMemCadence, blk := 8, width := 32, flds := [fRW 0 0 1, fRW 7 1 0x0A [(1, 127)], fRW 23 8 0x40 [(1, 65535)], fRO 26 24] },
  { base := rMemReg 0 0, n1 := 2, s1 := 0x800000, n2 := 8, s2 := 8, blk := 8, width := 32, flds := [fCW 6 0 0 [(0, 64)], fCW 14 8 0x40 [(1, 64)]] },
  { base := rMboxCtl 0, n1 := 2, s1 := 0x800000, blk := 8, width := 32, flds := [fW1S 0 0, fW1S 1 1, fRO 2 2, fRO 3 3, fRO 6 4] },
  { base := rMboxCmd 0, n1 := 2, s1 := 0x800000, blk := 8, width := 64, flds := [fRW 7 0 0 [(1, 6)], fRW 9 8, fRW 15 10, fRW 21 16, fRW 39 22] },
  { base := rMboxData 0, n1 := 2, s1 := 0x800000, blk := 8, width := 64, flds := [fRO 63 0] }]

def rBootstat : Nat := 0x20000
def rSecTdi (f : Nat) : Nat := 0x20200 + f * 8
def rSealctl (p : Nat) : Nat := 0x20800 + p * 0x40
def rSealaddr (p : Nat) : Nat := 0x20808 + p * 0x40
def rSealwin (p : Nat) : Nat := 0x20810 + p * 0x40
def rSealuse (p : Nat) : Nat := 0x20818 + p * 0x40
def rTrun (p : Nat) : Nat := 0x21000 + p * 0x20
def rTheld (p : Nat) : Nat := 0x21008 + p * 0x20
def rTbeats (p : Nat) : Nat := 0x21010 + p * 0x20
def rTctl (p : Nat) : Nat := 0x21018 + p * 0x20
def rTenv : Nat := 0x22000

/-- Security registers (18). -/
def regsSec : List RegDesc := [
  { base := rBootstat, blk := 15, width := 32, flds := [fRO 2 0, fRO 5 3, fRO 6 6, fW1C 7 7, fRO 8 8, fRO 31 16] },
  { base := rSecTdi 0, n1 := 64, s1 := 8, blk := 15, width := 32, flds := [fRO 2 0, fRO 3 3, fRO 6 4, fRO 31 16] },
  { base := rSealctl 0, n1 := 8, s1 := 0x40, blk := 15, width := 32, flds := [fW1S 0 0, fW1S 1 1, fRW 5 2, fRO 6 6, fRO 7 7, fRO 10 8] },
  { base := rSealaddr 0, n1 := 8, s1 := 0x40, blk := 15, width := 64, flds := [fRW 63 0] },
  { base := rSealwin 0, n1 := 8, s1 := 0x40, blk := 15, width := 64, flds := [fRW 47 20, fRW 63 48] },
  { base := rSealuse 0, n1 := 8, s1 := 0x40, blk := 15, width := 64, flds := [fRO 31 0, fRO 47 32] },
  { base := rTrun 0, n1 := 8, s1 := 0x20, blk := 15, width := 64, flds := [fRO 63 0] },
  { base := rTheld 0, n1 := 8, s1 := 0x20, blk := 15, width := 64, flds := [fRO 63 0] },
  { base := rTbeats 0, n1 := 8, s1 := 0x20, blk := 15, width := 64, flds := [fRO 31 0, fRO 63 32] },
  { base := rTctl 0, n1 := 8, s1 := 0x20, blk := 15, width := 32, flds := [fRW 0 0] },
  { base := rTenv, blk := 15, width := 32, flds := [fRO 11 0, fRO 19 12] }]

def rPwrCtl : Nat := 0x10000
def rPwrStat : Nat := 0x10008
def rPwrCclk : Nat := 0x10010
def rPwrLimit : Nat := 0x10018
def rPwrSense : Nat := 0x10020
def rPwrWake : Nat := 0x10028

/-- Power registers (19). -/
def regsPwr : List RegDesc := [
  { base := rPwrCtl, blk := 16, width := 32, flds := [fRW 2 0 0 [(0, 4)], fRW 3 3, fRW 31 16 0x64 [(1, 65535)]] },
  { base := rPwrStat, blk := 16, width := 32, flds := [fRO 2 0, fRO 3 3, fRO 6 4, fRO 9 7, fRO 10 10, fRO 13 11, fW1C 14 14, fW1C 15 15] },
  { base := rPwrCclk, blk := 16, width := 32, flds := [fRW 10 0 0x5F0 [(480, 1520)], fRO 26 16 0x5F0] },
  { base := rPwrLimit, blk := 16, width := 32, flds := [fRW 11 0 0x708 [(900, 1800)]] },
  { base := rPwrSense, blk := 16, width := 64, flds := [fRO 7 0, fRO 15 8, fRO 23 16, fRO 35 24, fRO 37 36] },
  { base := rPwrWake, blk := 16, width := 32, flds := [fRW 4 0 0 [(0, 15)]] }]

/-- The registers of the later chapters. -/
def regsMore : List RegDesc := regsHif ++ regsVse ++ regsFlt ++ regsCte ++ regsNet ++ regsLmem ++ regsMem ++ regsSec ++ regsPwr

end Sys2Proof.Machine
end

