-- ==== Sys2Proof/Machine/Flags.lean ====
section
/-! DEFINITION. The status conditions of conversions and engines (03 R83) and how they gather. -/

namespace Sys2Proof.Machine

/-- The four status conditions of a conversion (03 R83). -/
structure CFlags where
  inexact : Bool := false
  overflow : Bool := false
  underflow : Bool := false
  invalid : Bool := false
  deriving DecidableEq, Repr

/-- Conditions gathered over two conversions. -/
def cfOr (a b : CFlags) : CFlags :=
  ⟨a.inexact || b.inexact, a.overflow || b.overflow, a.underflow || b.underflow, a.invalid || b.invalid⟩

/-- The four conditions as bits 0 INEXACT, 1 OVERFLOW, 2 UNDERFLOW, 3 INVALID, the order of every engine's status register. -/
def cfBits (f : CFlags) : Nat := b2n f.inexact + 2 * b2n f.overflow + 4 * b2n f.underflow + 8 * b2n f.invalid

/-- Conditions gathered over a list. -/
def cfAll (l : List CFlags) : CFlags := l.foldl cfOr {}

end Sys2Proof.Machine
end

