-- ==== Sys2Proof/Machine/Num.lean ====
section
/-! DEFINITION. Number formats and rounding (chapter 03): exact values, decoding and encoding of every format, RNE and SR8, saturating and overflow modes, the status conditions, the 4-bit weights and the FP32 split. -/

namespace Sys2Proof.Machine

/-- An exact value: NaN, an infinity, or (−1)^neg × m × 2^e. A zero keeps its sign. -/
inductive FVal where
  | nan
  | inf (neg : Bool)
  | fin (neg : Bool) (m : Nat) (e : Int)
  deriving DecidableEq, Repr

/-- The number formats of 03 R62. -/
inductive Fmt where
  | fp32 | bf16 | fp16 | e4m3 | e5m2 | int8 | int4w | lut4w
  deriving DecidableEq, Repr

/-- The format of a format code; codes 0x8 to 0xF are reserved (03 R62). -/
def fmtOf (c : Nat) : Option Fmt :=
  match c with
  | 0 => some .fp32 | 1 => some .bf16 | 2 => some .fp16 | 3 => some .e4m3
  | 4 => some .e5m2 | 5 => some .int8 | 6 => some .int4w | 7 => some .lut4w
  | _ => none

/-- The code of a format (03 R62). -/
def fmtCode : Fmt → Nat
  | .fp32 => 0 | .bf16 => 1 | .fp16 => 2 | .e4m3 => 3 | .e5m2 => 4 | .int8 => 5 | .int4w => 6 | .lut4w => 7

/-- Bytes of one element (03 R69); the 4-bit formats have none of their own. -/
def fmtBytes : Fmt → Nat
  | .fp32 => 4 | .bf16 => 2 | .fp16 => 2 | .e4m3 => 1 | .e5m2 => 1 | .int8 => 1 | .int4w => 0 | .lut4w => 0

/-- Exponent width, mantissa width and bias of a floating-point format (03 R64). -/
def fmtLayout : Fmt → Nat × Nat × Nat
  | .fp32 => (8, 23, 127) | .bf16 => (8, 7, 127) | .fp16 => (5, 10, 15)
  | .e4m3 => (4, 3, 7) | .e5m2 => (5, 2, 15)
  | .int8 => (0, 7, 0) | .int4w => (0, 0, 0) | .lut4w => (0, 0, 0)

/-- A zero of a sign. -/
def fzero (neg : Bool) : FVal := .fin neg 0 0

/-- Whether a value is a zero. -/
def isZero : FVal → Bool
  | .fin _ 0 _ => true
  | _ => false

/-- The sign of a value; NaN counts as positive. -/
def fneg? : FVal → Bool
  | .nan => false | .inf n => n | .fin n _ _ => n

/-- The value of a floating-point code (03 R64, R65) or an INT8 code (03 R68). -/
def decodeF (f : Fmt) (n : Nat) : FVal :=
  match f with
  | .int8 =>
    let z := sint 8 n
    .fin (decide (z < 0)) z.natAbs 0
  | .int4w => fzero false
  | .lut4w => fzero false
  | _ =>
    let (ew, mw, bias) := fmtLayout f
    let s := bit n (ew + mw)
    let e := bits n (ew + mw - 1) mw
    let m := if mw = 0 then 0 else bits n (mw - 1) 0
    let ones := 2 ^ ew - 1
    if f = .e4m3 then
      if e = 15 && m = 7 then .nan
      else if e = 0 then .fin s m (1 - (bias : Int) - mw)
      else .fin s (m + 2 ^ mw) ((e : Int) - bias - mw)
    else if e = ones then (if m = 0 then .inf s else .nan)
    else if e = 0 then .fin s m (1 - (bias : Int) - mw)
    else .fin s (m + 2 ^ mw) ((e : Int) - bias - mw)

/-- The canonical NaN of a format (03 R65); INT8 takes 0 (03 R78). -/
def canonNaN : Fmt → Nat
  | .fp32 => 0x7FC00000 | .bf16 => 0x7FC0 | .fp16 => 0x7E00 | .e4m3 => 0x7F | .e5m2 => 0x7E
  | .int8 => 0 | .int4w => 0 | .lut4w => 0

/-- The largest finite code, without sign (03 R65). -/
def maxCode : Fmt → Nat
  | .fp32 => 0x7F7FFFFF | .bf16 => 0x7F7F | .fp16 => 0x7BFF | .e4m3 => 0x7E | .e5m2 => 0x7B
  | .int8 => 127 | .int4w => 0 | .lut4w => 0

/-- The sign bit of a floating-point format as a number. -/
def signBit (f : Fmt) (neg : Bool) : Nat :=
  if neg then (match f with | .fp32 => 2 ^ 31 | .bf16 => 2 ^ 15 | .fp16 => 2 ^ 15 | _ => 2 ^ 7) else 0

/-- The infinity code of a format that has one; E4M3 uses its NaN code (03 R77). -/
def infCode (f : Fmt) (neg : Bool) : Nat :=
  match f with
  | .fp32 => 0x7F800000 + signBit f neg
  | .bf16 => 0x7F80 + signBit f neg
  | .fp16 => 0x7C00 + signBit f neg
  | .e5m2 => 0x7C + signBit f neg
  | _ => 0x7F

/-- floor(log2) of a positive dyadic m × 2^e. -/
def flog2 (m : Nat) (e : Int) : Int := (Nat.log2 m : Int) + e

/-- m × 2^e in units of 2^q: the whole part, and the rest as a numerator over 2^k. -/
def toUnits (m : Nat) (e q : Int) : Nat × Nat × Nat :=
  if q ≤ e then (m * 2 ^ (e - q).toNat, 0, 0)
  else
    let k := (q - e).toNat
    (m / 2 ^ k, m % 2 ^ k, k)

/-- Rounding to the nearest multiple of 2^q, ties to even (03 R72): the count of quanta and whether it was exact. -/
def rneUnits (m : Nat) (e q : Int) : Nat × Bool :=
  let (t, r, k) := toUnits m e q
  if r = 0 then (t, true)
  else if 2 * r > 2 ^ k || (2 * r = 2 ^ k && t % 2 = 1) then (t + 1, false) else (t, false)

/-- Stochastic rounding of the magnitude with the random byte `r` (03 R73). -/
def sr8Units (m : Nat) (e q : Int) (rnd : Nat) : Nat × Bool :=
  let (t, r, k) := toUnits m e q
  let f := r * 256 / 2 ^ k
  if f + rnd ≥ 256 then (t + 1, false) else (t, r == 0)

/-- A rounding: nearest even, or stochastic with its random byte. -/
inductive Rnd where
  | rne
  | sr8 (r : Nat)
  deriving DecidableEq, Repr

/-- Rounds a magnitude to multiples of 2^q. -/
def rndUnits (r : Rnd) (m : Nat) (e q : Int) : Nat × Bool :=
  match r with
  | .rne => rneUnits m e q
  | .sr8 b => sr8Units m e q b

/-- The quantum exponent of a floating-point format at a positive magnitude (03 R73). -/
def quantum (f : Fmt) (m : Nat) (e : Int) : Int :=
  let (_, mw, bias) := fmtLayout f
  max (flog2 m e) (1 - (bias : Int)) - mw

/-- The code of a finite value t × 2^q that the format holds exactly. -/
def encodeMag (f : Fmt) (t : Nat) (q : Int) : Nat :=
  let (_, mw, bias) := fmtLayout f
  if t = 0 then 0
  else
    let emin : Int := 1 - (bias : Int)
    let l := flog2 t q
    if l < emin then t * 2 ^ (q - (emin - mw)).toNat
    else
      let sh := l - mw - q
      let sig := if 0 ≤ sh then t / 2 ^ sh.toNat else t * 2 ^ (-sh).toNat
      (l + bias).toNat * 2 ^ mw + (sig - 2 ^ mw)

/-- The largest finite magnitude of a format as m × 2^e. -/
def maxFin (f : Fmt) : Nat × Int :=
  match decodeF f (maxCode f) with
  | .fin _ m e => (m, e)
  | _ => (0, 0)

/-- Compares dyadic magnitudes: a > b. -/
def magGt (a : Nat) (ea : Int) (b : Nat) (eb : Int) : Bool :=
  let e := min ea eb
  decide (a * 2 ^ (ea - e).toNat > b * 2 ^ (eb - e).toNat)

/-- Converts an exact value to a format under a rounding and an overflow mode: its code and the conditions raised (03 R71 to R83, R501). -/
def convertF (f : Fmt) (r : Rnd) (ovf : Bool) (v : FVal) : Nat × CFlags :=
  match f with
  | .int8 =>
    match v with
    | .nan => (0, { invalid := true })
    | .inf neg => (if neg then 0x80 else 0x7F, { inexact := true })
    | .fin neg m e =>
      let (t, ex) := rndUnits r m e 0
      if neg then
        if t > 128 then (0x80, { inexact := true, overflow := true })
        else (unsint 8 (-(t : Int)), { inexact := !ex })
      else if t > 127 then (0x7F, { inexact := true, overflow := true })
      else (t, { inexact := !ex })
  | _ =>
    match v with
    | .nan => (canonNaN f, {})
    | .inf neg =>
      if ovf then (infCode f neg, {})
      else (maxCode f + signBit f neg, { inexact := true })
    | .fin neg m e =>
      if m = 0 then (signBit f neg, {})
      else
        let q := quantum f m e
        let (t, ex) := rndUnits r m e q
        let (mm, me) := maxFin f
        if magGt t q mm me then
          (if ovf then infCode f neg else maxCode f + signBit f neg, { inexact := true, overflow := true })
        else
          let (_, mw, bias) := fmtLayout f
          let tiny := t = 0 || decide (flog2 t q < 1 - (bias : Int))
          let _ := mw
          (encodeMag f t q + signBit f neg, { inexact := !ex, underflow := !ex && tiny })

/-- The conversion that a 3-bit CVC field asks for with the element's random byte (03 R70). -/
def convertCvc (f : Fmt) (cvc rnd : Nat) (v : FVal) : Nat × CFlags :=
  convertF f (if bits cvc 1 0 = 1 then .sr8 rnd else .rne) (bit cvc 2) v

/-- Whether a CVC field is reserved (03 R70). -/
def cvcBad (cvc : Nat) : Bool := bits cvc 1 0 ≥ 2

/-- Round to FP32, nearest even, overflow to infinity (04 R102): the FP32 code and whether a finite value overflowed. -/
def rne32 (v : FVal) : Nat × Bool :=
  let (c, fl) := convertF .fp32 .rne true v
  (c, fl.overflow)

/-- The exact value of an FP32 code. -/
def f32 (n : Nat) : FVal := decodeF .fp32 n

/-- Negation. -/
def fnegate : FVal → FVal
  | .nan => .nan | .inf n => .inf (!n) | .fin n m e => .fin (!n) m e

/-- Magnitude. -/
def fabs : FVal → FVal
  | .nan => .nan | .inf _ => .inf false | .fin _ m e => .fin false m e

/-- Signed numerator of a finite value over 2^e0, for e0 at most its exponent. -/
def numer (neg : Bool) (m : Nat) (e e0 : Int) : Int :=
  let n : Int := ((m * 2 ^ (e - e0).toNat : Nat) : Int)
  if neg then -n else n

/-- Exact sum; a zero sum of opposite signs is +0, of equal signs keeps the sign (04 R101). Infinities of opposite sign give NaN. -/
def fadd (a b : FVal) : FVal :=
  match a, b with
  | .nan, _ => .nan
  | _, .nan => .nan
  | .inf x, .inf y => if x = y then .inf x else .nan
  | .inf x, .fin .. => .inf x
  | .fin .., .inf y => .inf y
  | .fin na ma ea, .fin nb mb eb =>
    if ma = 0 && mb = 0 then fzero (na && nb)
    else if ma = 0 then b
    else if mb = 0 then a
    else
      let e := min ea eb
      let z := numer na ma ea e + numer nb mb eb e
      if z = 0 then fzero false else .fin (decide (z < 0)) z.natAbs e

/-- Exact product; zero times infinity is NaN. -/
def fmul (a b : FVal) : FVal :=
  match a, b with
  | .nan, _ => .nan
  | _, .nan => .nan
  | .inf x, .inf y => .inf (x != y)
  | .inf x, .fin n m _ => if m = 0 then .nan else .inf (x != n)
  | .fin n m _, .inf y => if m = 0 then .nan else .inf (n != y)
  | .fin na ma ea, .fin nb mb eb => .fin (na != nb) (ma * mb) (ea + eb)

/-- Rounds an exact value to a significand of `p` bits, nearest even, with an unbounded exponent range (04 R101). -/
def rneSig (p : Nat) (v : FVal) : FVal :=
  match v with
  | .fin n m e =>
    if m = 0 then v
    else
      let q := flog2 m e + 1 - (p : Int)
      let (t, _) := rneUnits m e q
      .fin n t q
  | _ => v

/-- Total comparison of two finite or infinite values: a < b. NaN never compares. -/
def flt (a b : FVal) : Bool :=
  match a, b with
  | .nan, _ => false
  | _, .nan => false
  | .inf x, .inf y => x && !y
  | .inf x, .fin .. => x
  | .fin .., .inf y => !y
  | .fin na ma ea, .fin nb mb eb =>
    let e := min ea eb
    decide (numer na ma ea e < numer nb mb eb e)

/-- Equality of values; the two zeros are equal. -/
def feq (a b : FVal) : Bool :=
  match a, b with
  | .nan, _ => false
  | _, .nan => false
  | .inf x, .inf y => x == y
  | .inf _, .fin .. => false
  | .fin .., .inf _ => false
  | .fin na ma ea, .fin nb mb eb =>
    let e := min ea eb
    decide (numer na ma ea e = numer nb mb eb e)

/-- The E4M3 value of an INT4W code q under its header byte: (q − z) × 2^(SCALE − 9) (03 R85). -/
def int4wVal (hdr q : Nat) : FVal :=
  let z := bits hdr 3 0
  let sc := bits hdr 7 4
  if q < z then .fin true (z - q) ((sc : Int) - 9) else .fin false (q - z) ((sc : Int) - 9)

/-- The three BF16 pieces of a finite FP32 value (03 R87); an infinity or NaN gives itself and two +0. -/
def split32 (n : Nat) : FVal × FVal × FVal :=
  match f32 n with
  | .fin s m e =>
    let piece (hi lo : Nat) : FVal :=
      let v := bits m hi lo
      let ex : Int := e + lo
      if ex ≥ -133 then .fin s v ex
      else
        let k := (-133 - ex).toNat
        .fin s (v / 2 ^ k) (-133)
    (piece 23 16, piece 15 8, piece 7 0)
  | v => (v, fzero false, fzero false)

/-- The pass order of the split depth (03 R88). -/
def splitOrder (d : Nat) : List (Nat × Nat) :=
  let steps := fun (n : Nat) => (List.range (n + 1)).map (fun j => (n - j, j))
  ((List.range (if d = 1 ∨ d = 2 then d else 3)).reverse).flatMap steps

end Sys2Proof.Machine
end

