-- ==== Sys2Proof/Machine/Tbl.lean ====
section
/-! DEFINITION. The two sparse containers: tables by number with rising keys, and memory as a canonical list of cells in which a byte that reads as zero is not listed. -/

namespace Sys2Proof.Machine

/-- The entry of a table, if it has one. -/
def tget {α : Type} : Tbl α → Nat → Option α
  | [], _ => none
  | (j, a) :: r, k => if j = k then some a else tget r k

/-- The entry of a table, or `d`. -/
def tgetD {α : Type} (t : Tbl α) (k : Nat) (d : α) : α := (tget t k).getD d

/-- Sets an entry, keeping the keys rising. -/
def tput {α : Type} : Tbl α → Nat → α → Tbl α
  | [], k, a => [(k, a)]
  | e :: t, k, a => if e.1 < k then e :: tput t k a else (k, a) :: if e.1 = k then t else e :: t

/-- Removes an entry. -/
def tdel {α : Type} (t : Tbl α) (k : Nat) : Tbl α := t.filter (fun e => e.1 != k)

/-- Whether a table has an entry. -/
def thas {α : Type} (t : Tbl α) (k : Nat) : Bool := (tget t k).isSome

/-- The values of a table, in key order. -/
def tvals {α : Type} (t : Tbl α) : List α := t.map (·.2)

/-- The keys of a table, rising. -/
def tkeys {α : Type} (t : Tbl α) : List Nat := t.map (·.1)

/-- Applies `f` to the entry of `k` if there is one. -/
def tmod {α : Type} (t : Tbl α) (k : Nat) (f : α → α) : Tbl α :=
  match tget t k with
  | some a => tput t k (f a)
  | none => t

/-- Applies `f` to every entry. -/
def tmap {α β : Type} (t : Tbl α) (f : Nat → α → β) : Tbl β := t.map (fun e => (e.1, f e.1 e.2))

/-- Inserts a number into a rising list without repeats. -/
def sput : List Nat → Nat → List Nat
  | [], k => [k]
  | n :: t, k => if n < k then n :: sput t k else if n = k then n :: t else k :: n :: t

/-- Removes a number from a list. -/
def sdel (t : List Nat) (k : Nat) : List Nat := t.filter (· != k)

/-- The byte an unlisted address reads as: HBM and ledger memory are zeroed at boot (19 R480); for the other windows the value is the model's (DESIGN CHOICE, assumption 4). -/
def memUnlisted : Byte := 0

/-- One byte of a memory. -/
def memGet : List Host.Cell → Nat → Byte
  | [], _ => memUnlisted
  | (j, b) :: r, a => if j = a then b else memGet r a

/-- Writes one byte of a memory in canonical form; writing the unlisted value removes the cell. -/
def memSet : List Host.Cell → Nat → Byte → List Host.Cell
  | [], a, v => if v = memUnlisted then [] else [(a, v)]
  | (j, b) :: r, a, v =>
    if j < a then (j, b) :: memSet r a v
    else
      let rest := if j = a then r else (j, b) :: r
      if v = memUnlisted then rest else (a, v) :: rest

/-- `n` bytes of a memory from address `a`. -/
def memBytes (m : List Host.Cell) (a n : Nat) : Bytes := (List.range n).map (fun i => memGet m (a + i))

/-- Writes bytes to a memory from address `a` up. -/
def memWrite (m : List Host.Cell) : Nat → Bytes → List Host.Cell
  | _, [] => m
  | a, b :: r => memWrite (memSet m a b) (a + 1) r

/-- Removes every cell of `[a, a + n)`: those bytes then read as the unlisted value. -/
def memClear (m : List Host.Cell) (a n : Nat) : List Host.Cell := m.filter (fun c => !(a ≤ c.1 && c.1 < a + n))

/-- Applies a function that keeps the unlisted value to every listed byte. -/
def memMap (m : List Host.Cell) (f : Nat → Byte → Byte) : List Host.Cell :=
  m.filterMap (fun c => let b := f c.1 c.2; if b = memUnlisted then none else some (c.1, b))

/-- The cells of `[a, a + n)`. -/
def memCells (m : List Host.Cell) (a n : Nat) : List Host.Cell := m.filter (fun c => a ≤ c.1 && c.1 < a + n)

/-- Puts cells back at their addresses, moved from `src` to `dst`. -/
def memPutCells (m : List Host.Cell) (src dst : Nat) : List Host.Cell → List Host.Cell
  | [] => m
  | c :: r => memPutCells (memSet m (c.1 - src + dst) c.2) src dst r

/-- The canonical form of a memory: addresses strictly rising and no cell equal to what an unlisted address reads as. -/
def Memory.wf : List Host.Cell → Bool
  | [] => true
  | [(_, b)] => b != memUnlisted
  | (a, b) :: (a', b') :: r => b != memUnlisted && decide (a < a') && Memory.wf ((a', b') :: r)

/-- Strictly rising numbers. -/
def rising (l : List Nat) : Bool :=
  match l with
  | [] => true
  | a :: r => r.all (fun b => decide (a < b)) && rising r

end Sys2Proof.Machine
end

