-- ==== Sys2Proof/Machine/State.lean ====
section
/-! DEFINITION. The state of the FN7 block: every register, buffer, counter and mode that the manual gives the device, as plain data. -/

namespace Sys2Proof.Machine

/-! ### Cores -/

/-- The pair classes of the matrix engine (04 R94). -/
inductive PairClass where
  | e4 | e45 | i8 | bf16 | fp16 | fp32
  deriving DecidableEq, Repr

/-- The three conditions of an accumulator region (04 R104). -/
inductive RegionSt where
  | empty | opened | closed
  deriving DecidableEq, Repr

/-- One accumulator region of an MXE with its cursor (04 R103, R104). -/
structure MxeRegion where
  st : RegionSt := .empty
  nextTile : Nat := 0
  m : Nat := 0
  n : Nat := 0
  cls : PairClass := .e4
  passes : Nat := 0
  /-- Row by row, the FP32 code and poison tag of each entry. -/
  acc : List (List (Nat × Bool)) := []
  deriving DecidableEq, Repr

/-- One entry of an engine queue (09 R227, R229). -/
structure Entry where
  word : BitVec 256
  cia : Nat
  frame : Nat
  /-- Run cycle of issue. -/
  issued : Nat
  /-- Run cycle of the start, once started. -/
  started : Nat
  /-- The slots that an operation of the VSE read as it started, and the elements of a gather or scatter that were active then (06 R140, R167). -/
  slots : Tbl (BitVec 128 × BitVec 128) := []
  active : Nat := 0
  deriving DecidableEq, Repr

/-- What a conductor is doing (09 CORE_COND, 11 R269). -/
inductive CondSt where
  | issuing | atFend | atSend | bellStop | halted
  deriving DecidableEq, Repr

/-- One digest channel of an SDM (13 R329). -/
structure DigCh where
  val : Nat := 0
  fed : Nat := 0
  endLen : Nat := 0
  deriving DecidableEq, Repr

/-- A CEXP in progress (11 R265). -/
structure Cexp where
  chime : Nat
  count : Nat
  due : Nat
  cia : Nat
  deriving DecidableEq, Repr

/-- A transfer on a stream: the entry that it is of, stream index, last SEQ, and whether that is acknowledged (13 R327, 14 R360). -/
structure SendOp where
  cia : Nat
  sidx : Nat
  seq : Nat
  acked : Bool := false
  deriving DecidableEq, Repr

/-- A signal on its way to a chime: target vcore and chime, count, and the source code of 11 R261. -/
structure Sig where
  vcore : Nat
  chime : Nat
  count : Nat
  src : Nat
  /-- The cycle from which it may be counted (11 R262). -/
  due : Nat := 0
  deriving DecidableEq, Repr

/-- A stash tag (08 R188): CRC-32C, layer, FLAGS and data ordinal. -/
structure WayTag where
  crc : Nat
  layer : Nat
  flags : Nat
  dord : Nat
  deriving DecidableEq, Repr

/-- The waystation area of a vcore (08 R187 to R195). -/
structure WayArea where
  nextSidx : Nat := 0
  nextDord : Nat := 0
  /-- Stash index held in each resident slot. -/
  owner : Tbl Nat := []
  /-- Tags by stash index. -/
  tags : Tbl WayTag := []
  /-- Spill transfers under way, oldest first: spill slot, and whether a read. -/
  spillQ : List (Nat × Bool) := []
  /-- The covers of its spill transfers that an operation has added to its own, by its operation half. -/
  spilt : Tbl Nat := []
  deriving DecidableEq, Repr

/-- The logical state of one vcore: conductor, queues, chimes, descriptor slots, digest channels, waystation area (09 R227 to R233, 11 R258, R263, R267, 06 R140, R153, 13 R329, 08 R189). -/
structure Vcore where
  stream : Nat := 0
  cia : Nat := 0
  cond : CondSt := .issuing
  /-- Instruction buffer: the words fetched and not yet issued, by word index (09 R233). -/
  buf : Tbl (BitVec 256) := []
  queues : Tbl (List Entry) := []
  running : Tbl (List Entry) := []
  /-- Queues blocked by a BELL, with its bell: (queue, bell) pairs (11 R268). -/
  blocked : List (Nat × Nat) := []
  /-- Bells at which this vcore has an arrival that is not released (11 R269). -/
  bellOut : List Nat := []
  chime : Tbl Nat := []
  land : Tbl Nat := []
  /-- Bell sense bits, bit b for bell b (11 R267). -/
  sense : Nat := 0
  /-- VSE descriptor slots: geometry and identity operations as loaded (06 R140). -/
  slots : Tbl (BitVec 128 × BitVec 128) := []
  /-- Status accumulators 0 to 7 (06 R153). -/
  accum : Tbl Nat := []
  dig : Tbl DigCh := []
  /-- VSE operations of an unfinished chain (06 R144). -/
  chain : List (BitVec 128) := []
  /-- VSE operations that the conductor has issued into an unfinished chain (06 R145). -/
  issuedOps : List (BitVec 128) := []
  ws : WayArea := {}
  cexps : List Cexp := []
  /-- The status image: flags folded from the pcores this vcore ran on (04 R116, 06 R168, 08 R210), as bits [19:0] of the control block. -/
  status : Nat := 0
  /-- Collective ordinals of this vcore: next ordinal by operation kind (14). -/
  ords : Tbl Nat := []
  /-- SENDs and CHIMEs whose entries have not completed, oldest first (13 R327). -/
  sends : List SendOp := []
  /-- K-blocks opened in the current step (17 R424). -/
  kblk : Nat := 0
  /-- The first run cycle in which the conductor may issue again: one word in a cycle (09 R229). -/
  issueAt : Nat := 0
  deriving DecidableEq, Repr

/-! ### Programs -/

/-- A tensor table entry (09 R216). -/
structure Tensor where
  vt : Nat
  lotShift : Nat
  fmt : Nat
  elems : Nat
  layer : Nat
  role : Nat
  gradOf : Nat
  deriving DecidableEq, Repr

/-- A layer table entry (09 R214). -/
structure LayerRow where
  layer : Nat
  tidW : Nat
  tidM : Nat
  tidV : Nat
  deriving DecidableEq, Repr

/-- A tally sum descriptor (05 R130) with its plan-dependent words, one per package cluster (09 R218). -/
structure TallyDesc where
  tag : Nat
  fmt : Nat
  blocks : Nat
  nAdd : Nat
  scope : Nat
  bell : Nat
  dest : Nat
  hasGroup : Bool
  outerTag : Nat
  outerIdx : Nat
  dVcore : Nat
  dOff : Nat
  chime : Nat
  plan : List Nat
  deriving DecidableEq, Repr

/-- A vcore's waystation declaration (08 R187). -/
structure WayDecl where
  nRes : Nat
  nSpill : Nat
  nTag : Nat
  deriving DecidableEq, Repr

/-- A grid plan (09 R218). -/
structure Plan where
  idx : Nat := 0
  dies : Nat := 1
  cpd : Nat := 1
  vpc : Nat := 1
  vcores : Nat := 1
  lentries : Nat := 0
  devices : Nat := 1
  replicas : Nat := 1
  bells : Nat := 0
  streams : Nat := 0
  hbmMib : Nat := 0
  smap : List Nat := []
  ways : List WayDecl := []
  deriving DecidableEq, Repr

/-- One initial scratchpad image of the INIT section (09 R214): its stream, its offset and its bytes. -/
structure InitImg where
  stream : Nat
  off : Nat
  data : Bytes
  deriving DecidableEq, Repr

/-- A loaded binary, as the loader reads it (09 R213 to R218). -/
structure Prog where
  hash : Bytes := []
  len : Nat := 0
  canon : Bool := false
  varGrant : Nat := 0
  hwSig : Nat := 0
  ftlMin : Nat := 0
  coverId : Nat := 0
  frames : Nat := 1
  fb : Nat := 0
  ft : Nat := 0
  kMin : Nat := 12
  tensors : List Tensor := []
  layers : List LayerRow := []
  tallies : List TallyDesc := []
  /-- The code directory: offset in the CODE section and words of each stream. -/
  dir : List (Nat × Nat) := []
  codeLen : Nat := 0
  init : List InitImg := []
  plan : Plan := {}
  deriving DecidableEq, Repr

/-! ### Ledger -/

/-- A layer entry of a ledger record (02 R52). -/
structure LayerEnt where
  layer : Nat
  shard : Nat
  shards : Nat
  w : Nat
  g : Nat
  o : Nat
  deriving DecidableEq, Repr

/-- A VAR entry of a ledger record (02 R49). -/
structure VarEnt where
  cls : Nat
  engine : Nat
  vcore : Nat
  layer : Nat
  firstFrame : Nat
  count : Nat
  dig : Nat
  deriving DecidableEq, Repr

/-- The ledger record of a step while it gathers (02 R51, R500). -/
structure LRec where
  step : Nat := 0
  genBase : Nat := 0
  beatFirst : Nat := 0
  k : Nat := 16
  stretches : Nat := 0
  /-- Holds of each cause. -/
  holds : Tbl Nat := []
  held : Nat := 0
  run : Nat := 0
  /-- FLAGS bits gathered. -/
  flags : Nat := 0
  inDig : Nat := 0
  lossDig : Nat := 0
  layers : List LayerEnt := []
  vars : List VarEnt := []
  deriving DecidableEq, Repr

/-- An echoed K-block (17 R425 to R427): its context, vcore and shadow, the operand bytes of its echo copy, whether a row has differed, and the running CRC-64 of both sides. -/
structure Echo where
  ctx : Nat
  v : Nat
  shadow : Nat
  bytes : Nat := 0
  mism : Bool := false
  r1 : Nat := 0
  r2 : Nat := 0
  /-- The cycle in which the shadow's test pass stopped. -/
  since : Nat := 0
  deriving DecidableEq, Repr

/-- A selected K-block that has opened in the present cycle: context, vcore, pcore, region, whether a probe selected it, and the operand bytes read so far (17 R425). -/
structure EchoOpening where
  ctx : Nat
  v : Nat
  pc : Nat
  r : Nat
  probe : Bool
  ops : Bytes := []
  deriving DecidableEq, Repr

/-- A third execution under way (17 R428): the shadow, the pcore that runs it, and the first two results. -/
structure Third where
  part : Nat
  shadow : Nat
  runner : Nat
  r1 : Nat
  r2 : Nat
  /-- The cycle in which it began. -/
  since : Nat := 0
  deriving DecidableEq, Repr

/-- A finished record on its way into the ring of its partition: everything of it but SEQ, EPOCH and the CRC, and the context while it runs (02 R57, R58). -/
structure LWait where
  body : Bytes
  ctx : Option Nat
  deriving DecidableEq, Repr

/-- A ledger or snapshot ring's sequence state (02 R51, R59, 08 R211): the records written and not yet streamed, as offset, length in bytes and whether a pad. -/
structure Ring where
  seq : Nat := 0
  epoch : Nat := 0
  waiting : List LWait := []
  written : List (Nat × Nat × Bool) := []
  /-- Grid-point count at which the backpressure hold began (02 R58). -/
  blockedAt : Option Nat := none
  deriving DecidableEq, Repr

/-! ### Tally sums -/

/-- One element of an addend block: its FP32 code and poison tag. -/
abbrev TElem := Nat × Bool

/-- A tally block of a sum in one cluster (05 R131, R132). -/
structure TBlk where
  staged : List (List TElem) := []
  got : Nat := 0
  exp : Nat := 0
  codes : List Nat := []
  acc : List Int := []
  deriving DecidableEq, Repr

/-- A tally sum in one cluster, with its stage of 05 R132. -/
structure TSum where
  stage : Nat := 1
  blks : Tbl TBlk := []
  /-- Final exponent bytes, by block. -/
  fexp : Tbl Nat := []
  /-- Combined count of the exponent round. -/
  cnt : Nat := 0
  /-- At the owner: bytes combined so far, by block. -/
  comb : Tbl Nat := []
  /-- At the owner: clusters whose bytes have arrived, and clusters whose integers have arrived. -/
  expFrom : List Nat := []
  intFrom : List Nat := []
  /-- Whose bytes, and whose integers, of the children have been combined: rank × 65,536 + block (14 R353, R363). -/
  kidsExp : List Nat := []
  kidsInt : List Nat := []
  /-- Blocks whose combined integers have gone on towards their owner, and blocks whose final integers are here (14 R354, R363). -/
  up : List Nat := []
  fin : List Nat := []
  /-- Step in which the exponent round began (14 R355). -/
  inst : Nat := 0
  /-- Run counter at the last arrival of an addend (05 R136). -/
  lastAt : Nat := 0
  /-- Run counter as its present stage began. -/
  stageAt : Nat := 0
  /-- SCOPE 3, from the end of the device's own exponent bytes: the run cycle at which the result is due, and the partition's grid points as the counter reached it (14 R353). -/
  due : Option Nat := none
  dueCount : Option Nat := none
  deriving DecidableEq, Repr

/-- An addend block between an engine and a CRU. -/
structure Flight where
  cluster : Nat
  tag : Nat
  block : Nat
  elems : List TElem
  sender : Nat
  deriving DecidableEq, Repr

/-! ### Contexts -/

/-- A STOW request that waits for its stow point (16 R408): the point, none for the next taken beat, EXPORT with its host buffer, and the manifest by QP and number. -/
structure StowReq where
  point : Option (Nat × Nat)
  exp : Bool
  host : Nat
  hlen : Nat
  qp : Nat
  seq : Nat
  deriving DecidableEq, Repr

/-- Where the muster of a context stands (11 R273). -/
inductive MusterSt where
  | none | waiting | arrived | released (rm : Nat)
  deriving DecidableEq, Repr

/-- An AGATHER in progress (14 R356 to R359): vcore, ordinal, group mode, own index, group size, physical address of the gathered image, bytes per part, layer, first version index, VMODE, the parts written, and the grid-point count at its start. -/
structure Gather where
  v : Nat
  ord : Nat
  gmode : Nat
  own : Nat
  g : Nat
  dst : Nat
  len : Nat
  layer : Nat
  vidx : Nat
  vmode : Nat
  got : List Nat := []
  count : Nat := 0
  /-- The entry that it is of. -/
  cia : Nat := 0
  /-- The step in which it started, whose map it runs on (14 R366). -/
  step : Nat := 0
  /-- Of each part that is not whole yet: the bytes that have come and their running CRC-64. -/
  fill : Tbl (Nat × Nat) := []
  deriving DecidableEq, Repr

/-- A PERMUTE in progress (14 R360, R361): vcore, bell, phase 1 to 3 with 4 when done, the entry that it is of, its transfers, and the copies of phase 3 as source, destination and bytes. -/
structure Permute where
  v : Nat
  bell : Nat
  phase : Nat := 1
  cia : Nat := 0
  sends : List SendOp := []
  copies : List (Nat × Nat × Nat) := []
  /-- Bytes of its out entries (14 R367). -/
  outB : Nat := 0
  deriving DecidableEq, Repr

/-- Toll check of a context (17 R434 to R437): the toll step, this device's T, the verdict if it has come (code, stop, equal members), and the grid-point count of the beat at which it is due. -/
structure Toll where
  step : Nat
  t : Nat
  verdict : Option (Nat × Bool × Nat) := none
  dueCount : Option Nat := none
  /-- Cycle in which this device last sent its TOLL (17 R434). -/
  sentAt : Nat := 0
  deriving DecidableEq, Repr

/-- A fault as its unit raises it. `loc` is the CIA and TAG of the instruction word, where one is involved. -/
structure Prob where
  cause : Nat
  unit : Nat
  vcore : Option Nat := none
  queue : Option Nat := none
  loc : Option (Nat × Nat) := none
  d0 : Nat := 0
  d1 : Nat := 0
  d2 : Nat := 0
  d3 : Nat := 0
  deriving DecidableEq, Repr

/-- A completion that waits for room in its ring (15 R388, R390). -/
structure Compl where
  kind : Nat
  status : Nat
  ctx : Nat
  id : Nat
  /-- TYPE of the manifest, for a MANIFEST completion. -/
  type : Nat := 0
  /-- Bytes from RESULT on. -/
  body : Bytes := []
  deriving DecidableEq, Repr

/-- One context of a partition (16 R404): its program, its place, its progress, its vcores, its tally sums and its record. -/
structure Ctx where
  /-- CTXSTAT of 16 R404. -/
  st : Nat := 1
  lc : Bool := false
  retain : Bool := false
  qp : Nat := 0
  startId : Nat := 0
  /-- The START manifest while it is not completed, and the RESTORE that admits the context (15 R380, 16 R409). -/
  sman : Option Nat := none
  rman : Option (Nat × Nat) := none
  jobkey : Nat := 0
  /-- The roster: node of each rank, and this device's rank (14 R347). -/
  ranks : List Nat := []
  rank : Nat := 0
  /-- Job maps by first step, newest first: step, ALG field, FANIN field (14 R363, R366). -/
  maps : List (Nat × Nat × Nat) := []
  /-- TGROUP settings by tag: step, group mode, scatter (14 R352). -/
  tgroups : Tbl (Nat × Nat × Nat) := []
  /-- Messages of instances not begun here, with the port that each came by and its kind (14 R355). -/
  early : List (Nat × Nat × CteMsg) := []
  /-- SCOPE 3 sums whose results this device has in this step: no TGROUP may follow (14 R352). -/
  finals : List Nat := []
  /-- AGATHERs and PERMUTEs in progress. -/
  gathers : List Gather := []
  permutes : List Permute := []
  prog : Prog := {}
  /-- Pcore of each vcore (01 R29, 09 R220). -/
  vtab : List Nat := []
  seed : Bytes := []
  gen : Nat := 0
  step : Nat := 0
  /-- Steps still to run; 0: no limit. -/
  stepsLeft : Nat := 0
  /-- Whether the requested steps are done, so that LOOP falls through. -/
  stepsDone : Bool := false
  frame : Nat := 0
  /-- Whether a frame is in progress, and the run counter at its run cycle 0. -/
  began : Bool := false
  frame0 : Nat := 0
  /-- The run counter at which the frame completed. -/
  frameDone : Option Nat := none
  stretched : Bool := false
  /-- Whether the current frame is the last of its step and its boundary has been marked. -/
  stepMarked : Bool := false
  slice : Nat := 0
  hbmBase : Nat := 0
  hbmMib : Nat := 0
  codeOff : Nat := 0
  vc : Tbl Vcore := []
  open_ : Option LRec := none
  sigs : List Sig := []
  /-- What reaches the chimes, and the landing counts, in this cycle: counted as the cycle ends (11 R260, R261, R263). -/
  counted : List Sig := []
  landed : List Sig := []
  /-- Tally sums by package cluster × 65,536 + tag. -/
  sums : Tbl TSum := []
  flights : List Flight := []
  /-- A sum across devices whose count is above 2^20, and the count, while its tree children have not been sent them (05 R126). -/
  overCnt : Option (Nat × Nat) := none
  /-- CTE_MAPCFG as of the last summary, before one as of the start: a write takes effect at the next summary (14 R370). -/
  mapCfg : Nat := 0
  /-- The vcore table under which the image area was laid out (16 R411, R412, R415). -/
  imgTab : List Nat := []
  /-- The vcore whose drains a lot's sum takes, by tag (02 R47). -/
  lotCore : Tbl Nat := []
  /-- The context's copies of the tally flags, by package cluster (05 R138). -/
  tflags : Tbl Nat := []
  stow : Option StowReq := none
  draining : Bool := false
  /-- The cycle at which DRAINING began (13 R342). -/
  drainAt : Nat := 0
  /-- The image was imported and has not been restored since (16 R417). -/
  imported : Bool := false
  /-- Image area: address and length of each part (16 R412). -/
  areas : List (Nat × Nat) := []
  inLedger : Bool := false
  muster : MusterSt := .none
  loadEnd : Nat := 0
  /-- Grid points of unbroken stall (11 R276). -/
  stall : Nat := 0
  /-- An END manifest waits for the next taken beat: its QP and ID. -/
  ending : Option (Nat × Nat) := none
  /-- The node whose ARV differed, as this device's muster subtree reports it (02 R45). -/
  musterBad : Option Nat := none
  /-- The wanted exponents that the tree children last reported, the largest last voted, and the pair (k, N_C) to commit (12 R296). -/
  kKids : Tbl Nat := []
  kVote : Nat := 0
  kPair : Option (Nat × Nat) := none
  /-- Link summaries of this summary round by rank: α and β of each group mode (14 R365). -/
  summ : Tbl (List (Nat × Nat)) := []
  /-- DBT_K of the START (12 R296). -/
  kMan : Nat := 16
  /-- The toll check under way, and at the root the T of each rank for a toll step: step, then T by rank (17 R435). -/
  toll : Option Toll := none
  tollIn : Tbl (Tbl Nat) := []
  /-- The faults that the context has raised in this cycle, and the reports that go with them: it ends with the cycle (09 R239). -/
  probs : List Prob := []
  reports : List Compl := []
  deriving DecidableEq, Repr

/-- The dynamic state of a hardware partition (10, 16). -/
structure Part where
  /-- Cycle of the anchor while the grid runs. -/
  anchor : Option Nat := none
  /-- Grid points since the anchor was set by EN or muster (10 R242), and in all: what timeouts count by (10 R253). -/
  count : Nat := 0
  points : Nat := 0
  /-- Last grid point handled. -/
  lastPoint : Option Nat := none
  /-- This cycle is a grid point, which is taken or skipped as it ends; false for the beat of a muster anchor, which selects no context (10 R243, R244). -/
  point : Option Bool := none
  skipped : Nat := 0
  /-- Run counter and DBT_HELD at the last taken beat, grid points skipped since, and the run and held cycles of the partition's frames since EN of PTN_CFG was set (18 R465). -/
  taken0 : Nat := 0
  held0 : Nat := 0
  skipNow : Nat := 0
  trun : Nat := 0
  theld : Nat := 0
  resident : Option Nat := none
  stows : Nat := 0
  ring : Ring := {}
  snap : Ring := {}
  /-- The context whose muster or restore admits it next (16 R406, R414). -/
  letIn : Option Nat := none
  /-- Zeroing of the partition's SRAMs in progress (18 R458). -/
  zeroing : Bool := false
  /-- Numbers of the contexts whose image has left the device and that have not come back (16 R404). -/
  exported : List Nat := []
  /-- Their code areas, as first byte and length: a COPY_OUT of the region reads zeros there (16 R418). -/
  codes : Tbl (Nat × Nat) := []
  /-- The wanted exponent k_w of the contexts that run here; the cycle in which its last raise took effect, none while one has not; and the cycle of its last lowering (12 R296). -/
  kWant : Nat := 0
  kRaised : Option Nat := some 0
  kLowered : Nat := 0
  deriving DecidableEq, Repr

/-- The state of a bell context (11 R266 to R271). -/
structure Bell where
  ctx : Option Nat := none
  parity : Bool := false
  arr0 : Nat := 0
  arr1 : Nat := 0
  /-- Run cycle at which the release of the current phase is due, and the partition's grid points at the end of the cycle in which the run counter reached it. -/
  due : Option Nat := none
  dueCount : Option Nat := none
  /-- Scope JOB: whether the release has reached the device. -/
  jobRel : Bool := false
  discards : Nat := 0
  phases : Nat := 0
  /-- The step in which the device's part in the phase began, whose map it runs on (14 R366). -/
  step : Nat := 0
  /-- Ranks whose arrivals are counted at this device's combining node, for each parity (11 R267). -/
  node0 : List Nat := []
  node1 : List Nat := []
  deriving DecidableEq, Repr

/-- A hold request (10 R246): who raised it, its due run cycle, and the cycle from which it no longer holds. -/
structure Hold where
  id : Nat
  unit : Nat
  term : Nat
  cause : Nat
  /-- The bell, chime or stream that the request is about. -/
  obj : Nat := 0
  ctx : Option Nat
  u : Nat
  /-- r + 96 of 10 R247, once the result has entered its return path. -/
  endAt : Option Nat
  held : Nat
  tol : Nat
  deriving DecidableEq, Repr

/-! ### Host side -/

/-- A manifest that its QP has fetched: its slot and where it stands (15 R387): 0 waiting, 1 in progress, 2 finished and its completion waiting. -/
structure Man where
  seq : Nat
  slot : Bytes
  stage : Nat := 0
  /-- What a manifest in progress keeps: a stream entry, a PSN, or bytes moved. -/
  aux : Nat := 0
  deriving DecidableEq, Repr

/-- A queue pair's dynamic state (15 R377, R390 to R394). -/
structure Qp where
  sqHead : Nat := 0
  sqTail : Nat := 0
  cqHead : Nat := 0
  cqTail : Nat := 0
  /-- 0 disabled, 1 running, 2 ERROR. -/
  st : Nat := 0
  err : Nat := 0
  mans : List Man := []
  nextSeq : Nat := 0
  /-- Completions waiting for room, each with the sequence number of the manifest it ends. -/
  waiting : List (Compl × Option Nat) := []
  /-- Headers written and not announced, and the cycle of the first of them. -/
  unann : Nat := 0
  unannAt : Nat := 0
  deriving DecidableEq, Repr

/-- An installed seal key (18 R461, R463): the context it is bound to, SET_ID, K_S, and the chunks encrypted under it. -/
structure Seal where
  ctx : Nat
  setId : Bytes
  key : Bytes
  chunks : Nat := 0
  deriving DecidableEq, Repr

/-! ### Streams and ports -/

/-- The states of a stream entry but CLOSED, which is a free entry (13 R318). -/
inductive StreamSt where
  | opening | listen | opened | draining | parked | closing | failed
  deriving DecidableEq, Repr

/-- A frame that a stream has queued and that is not acknowledged (13 R320, R321, R327). -/
structure TxFrame where
  seq : Nat
  type : Nat
  flags : Nat := 0
  daddr : Nat := 0
  /-- Device address of the payload, read again at each transmission. -/
  src : Nat := 0
  len : Nat := 0
  /-- The payload of a CTE frame. -/
  body : Bytes := []
  /-- The transfer check that the LAST frame of a transfer with XCHK carries. -/
  xck : Option Nat := none
  sent : Bool := false
  /-- It is to be sent again, with RETX. -/
  again : Bool := false
  /-- Consecutive timeouts. -/
  tries : Nat := 0
  /-- SEQ wraps of this direction before the frame (18 R464). -/
  wraps : Nat := 0
  deriving DecidableEq, Repr

/-- A stream table entry (13 R316). -/
structure Stream where
  st : StreamSt
  part : Nat
  ctx : Nat
  jobkey : Nat := 0
  psn : Nat := 0
  peer : Nat := 0
  peerIdx : Nat := 0
  dscp : Nat := 0
  entropy : Nat := 0
  sndNxt : Nat := 0
  sndUna : Nat := 0
  rcvNxt : Nat := 0
  credit : Nat := 0
  cwnd : Nat := 16
  srtt : Nat := 0
  rttvar : Nat := 0
  rto : Nat := 0
  /-- Whether the peer has said that it is parked. -/
  peerPark : Bool := false
  tx : List TxFrame := []
  /-- Frames held in the reorder store. -/
  rx : List CvtFrame := []
  /-- Frames applied since the last ACK. -/
  unacked : Nat := 0
  /-- A CE mark came in and its echo has not gone out (13 R314, R323). -/
  ece : Bool := false
  /-- The transfer being received: running CRC-64 and the address and length of its parts (13 R335). -/
  xcrc : Nat := 0
  xparts : List (Nat × Nat) := []
  /-- The two initial SEQs, own and the peer's, and the SEQ wraps of each direction (18 R464). -/
  iss : Nat := 0
  irs : Nat := 0
  sndWraps : Nat := 0
  rcvWraps : Nat := 0
  /-- The manifest that waits for this entry: QP and manifest number. -/
  man : Option (Nat × Nat) := none
  /-- Of a collective stream: the group mode, the rank that it reaches, and the PSN of the peer's entry (14 R349, R350). -/
  coll : Option (Nat × Nat) := none
  peerPsn : Nat := 0
  /-- Least cycles between two frames, which is its rate, and the first cycle in which the next may leave (13 R323). -/
  gap : Nat := 0
  nextAt : Nat := 0
  /-- The cycle of the last inbound frame (13 R342). -/
  lastIn : Nat := 0
  /-- Of a collective stream: the payload bytes delivered over the last 1 ms, by cycle (14 R364). -/
  took : List (Nat × Nat) := []
  /-- The data of an integer message whose later frames have not come; and whether a full early-arrival buffer stops the stream (14 R355, R362). -/
  cbuf : Bytes := []
  stopped : Bool := false
  deriving DecidableEq, Repr

/-- The link side of a port (13 R312, R313). -/
structure PortSt where
  /-- Whether the PHY reports link. -/
  link : Bool := false
  /-- LSEQ of the next frame, and of the next frame expected. -/
  lseq : Nat := 0
  expect : Nat := 0
  /-- Frames sent and not passed by LACK: LSEQ, inner packet, and replays so far. -/
  replay : List (Nat × Bytes × Nat) := []
  /-- Frames of the shim's LSEQ order that wait for their checks of 13 R315. -/
  shimIn : Nat := 0
  /-- What waits to leave: control shims as flags and payload; acknowledgements and probes; other local packets; transit packets (13 R339). -/
  ctl : List (Nat × Bytes) := []
  acks : List Bytes := []
  loc : List Bytes := []
  transit : List Bytes := []
  /-- Bytes of transit and of local data frames sent while both have waited, the first cycle in which the port can start a frame, and the stream served last. -/
  shared : Nat × Nat := (0, 0)
  busy : Nat := 0
  turn : Nat := 0
  /-- The port has asked for a replay that has not come (13 R313). -/
  nak : Bool := false
  /-- MAC of the next-hop router, once learned (13 R311). -/
  router : Option Nat := none
  deriving DecidableEq, Repr

/-! ### HBM, power, security -/

/-- A running mailbox command of a die (12 R298, R299): command, stack within the half, pseudo-channel, bank, row. -/
structure MboxCmd where
  cmd : Nat
  stack : Nat
  pc : Nat := 0
  bank : Nat := 0
  row : Nat := 0
  deriving DecidableEq, Repr

/-- The thermal and power steps (12 R295, 19 R482): which are active, and for how many polls each release condition has held; the sums of the one-second averages (18 R466). -/
structure Thermal where
  hbmCad : Bool := false
  hbmCadLow : Nat := 0
  hbmThr : Bool := false
  pkgCad : Bool := false
  pkgCadLow : Nat := 0
  pkgThr : Bool := false
  pkgThrLow : Nat := 0
  /-- Cycle in which the last cadence step ended, first cycle of the next window of the throttle step, cycle of its start or last rise of THR_DUTY (12 R296, R297). -/
  cadEnd : Nat := 0
  thrNext : Nat := 0
  dutyAt : Nat := 0
  polls : Nat := 0
  sumP : Nat := 0
  sumT : Nat := 0
  deriving DecidableEq, Repr

/-- The power ladder (19 R470 to R473): entry steps done, 0 to 8, whether an entry or exit is in progress, the step that an entry aims at or the step at which an exit ends, and a target that waits for the end of an exit. -/
structure Power where
  steps : Nat := 0
  entering : Bool := false
  leaving : Bool := false
  goal : Nat := 0
  queued : Option Nat := none
  /-- Cycle since which row 1 of the entry conditions holds (19 R470). -/
  idleAt : Option Nat := none
  deriving DecidableEq, Repr

/-- Reset inputs, straps and pins (19 R478, R479, 20 R488 to R490). -/
structure Pins where
  por : Bool := false
  rst : Bool := false
  perst : Bool := false
  /-- A monitored rail is out of tolerance (20 R487). -/
  supply : Bool := false
  /-- STRAP_BOOTROLE as sampled. -/
  bootPeer : Bool := false
  /-- STRAP_TEST, STRAP_LANEREV and STRAP_SRIS as sampled. -/
  test : Bool := false
  laneRev : Bool := false
  sris : Bool := false
  /-- HBM_PWREN and GDDR_PWREN; while POR_N is low the board's pull-ups hold them (20 R488). -/
  pwrEn : Bool := true
  /-- DRUM_REF cycles until the HBM rails are monitored, 1 ms from the assertion of HBM_PWREN; and whether one of them is out of tolerance (20 R487). -/
  railWait : Nat := 156250
  hbmOut : Bool := false
  thermTrip : Bool := false
  /-- The clock monitor has declared DRUM_REF lost, and it has not come back (19 R477). -/
  drumLost : Bool := false
  pcieUp : Bool := false
  deriving DecidableEq, Repr

/-- The boot (19 R480): the step in progress, 1 to 8, or 9 when it is complete; and why the device is held in reset: 0 not held, 1 a reset input, 2 DRUM_REF lost, 3 thermal trip. -/
structure Boot where
  step : Nat := 1
  held : Nat := 0
  /-- Whether the next verified profile loads FLOOR: after a power-on reset (17 R439). -/
  loadFloor : Bool := true
  /-- The package under verification. -/
  fwAddr : Nat := 0
  fwLen : Nat := 0
  /-- The boot repeats the steps after ROM recovery: memories and links are not trained again (19 R478). -/
  warm : Bool := false
  /-- Whether a boot has been completed since the reset (01 R36), and whether an image has been verified (02 R43). -/
  up : Bool := false
  known : Bool := false
  deriving DecidableEq, Repr

/-- The reference count's sources (11 R272, 20 R495): DRUM_REF cycles at the last pulse, good intervals in a row, IEEE 1588 time in ns at the last update with the DRUM_REF count then. -/
structure RefSrc where
  drum : Nat := 0
  lastPulse : Option Nat := none
  good : Nat := 0
  time : Option (Nat × Nat) := none
  deriving DecidableEq, Repr

/-- An SPDM request whose answer needs a draw (18 R449, R451): CHALLENGE and GET_MEASUREMENTS with their nonces, KEY_EXCHANGE. -/
inductive Ask where
  | challenge (nonce : Bytes)
  | measure (i : Nat) (nonce : Bytes)
  | exchange (req : Bytes)
  deriving DecidableEq, Repr

/-- SPDM and IDE state (18 R451, R454): open secure sessions as function and session number, the key set in use of each IDE stream and whether it is secure (0 to 7 selective, 8 the link stream), the keys that IDE_KM has set by stream × 2 + set, the JTAG selection (0 bypass, 1 boundary scan, 2 debug), configuration dwords by function × 2,048 + item. -/
structure Secure where
  sessions : List (Nat × Nat) := []
  nextSession : Nat := 0
  ide : Tbl (Nat × Bool) := []
  ideKeys : Tbl Bytes := []
  jtag : Nat := 0
  cfg : Tbl (BitVec 32) := []
  /-- A health test failed and no reseed has passed (R449); LDG_REGION writes that wait for it. -/
  entWait : Bool := false
  /-- Requests to the DRBG since it was last seeded: after 2^20 it reseeds (18 R449). -/
  asked : Nat := 0
  entQ : List (Nat × Nat) := []
  /-- SPDM requests that wait for it, with their function. -/
  asks : List (Nat × Ask) := []
  deriving DecidableEq, Repr

/-- A RoCEv2 work request that is not acknowledged: the manifest's QP and number, the verb, its first and last PSN, the manifest's slot. -/
structure RocePost where
  q : Nat
  seq : Nat
  verb : Nat
  first : Nat
  last : Nat
  slot : Bytes
  deriving DecidableEq, Repr

/-- A packet that a queue pair sends (13 R340; kinds as those that come in). -/
structure RoceTx where
  kind : Nat
  /-- Place of the packet in its message: 0 alone, 1 first, 2 middle, 3 last. -/
  pos : Nat
  psn : Nat
  addr : Nat
  len : Nat
  data : Bytes
  rkey : Nat := 0
  imm : Nat := 0
  deriving DecidableEq, Repr

/-- A message that is arriving at a responder: kind, address, length, immediate, and the bytes that have landed. -/
structure RoceMsg where
  kind : Nat
  addr : Nat
  len : Nat
  imm : Nat
  done : Nat := 0
  deriving DecidableEq, Repr

/-- A RoCEv2 queue pair with its memory region (13 R340, R341, 15 R386). -/
structure RoceQp where
  qp : Nat
  part : Nat
  port : Nat
  mtu : Nat
  base : Nat
  len : Nat
  rkey : Nat
  conn : Bool := false
  rgid : Bytes := []
  rqpn : Nat := 0
  sndPsn : Nat := 0
  /-- PSN expected next, once the first packet has come. -/
  rcvPsn : Option Nat := none
  /-- Posts not acknowledged, oldest first. -/
  posts : List RocePost := []
  /-- The message whose later packets are to come. -/
  into : Option RoceMsg := none
  /-- Packets that wait to leave, the least cycles between two, which is its rate, and the first cycle in which the next may leave. -/
  wait : List RoceTx := []
  gap : Nat := 0
  nextAt : Nat := 0
  /-- Congestion notifications taken: each has reduced its rate. -/
  cnps : Nat := 0
  deriving DecidableEq, Repr

/-- The recovery chain (17 R440, R442): cycle of the last kick of each watchdog, whether die 1 runs degraded, reset counter of the ward RESETs this gateway sends, consecutive bridge failures by direction, and whether the bridge is down (01 R25). -/
structure Chain where
  kicks : Tbl Nat := []
  die1Bad : Bool := false
  /-- Cycle of the last heartbeat of the die 1 MGC, and of its restart (17 R442). -/
  beat : Nat := 0
  badAt : Nat := 0
  wardCtr : Nat := 0
  bridge : Tbl Nat := []
  bridgeDown : Bool := false
  /-- Peers whose read timed out: the gateway drops their writes until UP_n is set again (15 R374). -/
  cut : List Nat := []
  /-- Of a peer: the port by which the last TUNNEL frame came, the gateway's node and the node under which it names this device (15 R398). -/
  gate : Option (Nat × Nat × Nat) := none
  deriving DecidableEq, Repr

/-! ### What leaves the device -/

/-- One operation in a tunnel, with its host address, register offset or the like (15 R397). Its kinds: 0 host write, 1 MSI-X request, 2 configuration BAR write, 3 configuration BAR read, 4 its answer, 5 doorbell, 6 SPDM message, 7 scrub (DESIGN CHOICE, assumption 31). -/
structure TunOp where
  op : Nat
  addr : Nat
  data : Bytes
  deriving DecidableEq, Repr

/-- An entry of a function's MSI-X table, with its pending bit. The mask bit of an entry is set at reset, as the PCIe specification has it (15 R373, R394; PRESUMED, assumption 56). -/
structure MsixEnt where
  addr : Nat := 0
  data : Nat := 0
  mask : Bool := true
  pend : Bool := false
  deriving DecidableEq, Repr

/-- One thing that the device sends out: an MSI-X message and a host write, each with its function and T bit, a request answered with Unsupported Request or Completer Abort, an answer to a read, a frame on a port, debug sample bytes, an SPDM answer. -/
inductive Out where
  | msix (fn vec addr data : Nat) (tbit : Bool)
  | dma (fn addr len : Nat) (tbit : Bool)
  | unsupported (fn : Nat)
  | abort (fn : Nat)
  | frame (port : Nat) (b : Bytes)
  | sample (p ctx vcore off : Nat) (b : Bytes)
  | spdm (fn : Nat) (b : Bytes)
  | pcie (fn : Nat) (b : Bytes)
  deriving DecidableEq, Repr

/-! ### The machine -/

/-- Why the machine stops. -/
inductive Fault where
  /-- Raised by a clock tick that would carry DBT_CYCLE past 2^64 − 1, which the manual says does not occur in service (10 R256). Safe: the model stops where the manual gives no behaviour. -/
  | cycleRange
  deriving DecidableEq, Repr

/-- Why a command has no meaning. -/
inductive Refusal where
  /-- A command whose meaning is not modelled; raised by the dispatch alone. Safe: no claim about the command can be proved. -/
  | notModelled (mnemonic : String)
  deriving DecidableEq, Repr

/-- The whole state of the block. -/
structure State where
  /-- Commands waiting, first in, first out. -/
  pending : List Instr := []
  /-- Registers that differ from their reset value, by register-space offset (01 R32). -/
  regs : Tbl (BitVec 64) := []
  /-- Written shadows of CW registers not yet committed (00 R7, 10 R254). -/
  shadow : Tbl (BitVec 64) := []
  /-- Shadow writes that completed in this very cycle: they join the shadow when the cycle ends, so that a beat of this cycle does not commit them (00 R7). -/
  shadowLate : Tbl (BitVec 64) := []
  /-- Write-one-to-clear bits that the FN7 has set in this very cycle, by offset: a write of one of the same cycle leaves them set (00 R7). -/
  stickNow : Tbl (BitVec 64) := []
  /-- Device memory over the 48-bit address map (01 R27). -/
  mem : List Host.Cell := []
  /-- Numbers of the 64-byte units that carry the poison tag (12 R288). -/
  poison : List Nat := []
  /-- Poison words of raw blocks of HBM whose two copies differ, by block; the word of any other block has its mask twice, as `poison` gives it (12 R283, R287). -/
  pword : Tbl (BitVec 32) := []
  /-- Bytes that the device has written to host memory. -/
  hostMem : List Host.Cell := []
  out : List Out := []
  /-- DBT_CYCLE (10 R242). -/
  cycle : Nat := 0
  /-- REFCNT in units of 6.4 ns, and the part of the next DRUM_REF cycle that has passed, in CUR_N-ths (11 R272, 19 R476). -/
  refcnt : Nat := 0
  refAcc : Nat := 0
  /-- Run cycles since boot: cycles in which the hold gate was open (02 R40). -/
  run : Nat := 0
  gate : Bool := false
  /-- Whether the cycle before this one was held (10 R251). -/
  heldLast : Bool := false
  holds : List Hold := []
  nextHold : Nat := 0
  parts : Tbl Part := []
  /-- Contexts by partition × 16 + context number. -/
  ctxs : Tbl Ctx := []
  /-- MXE regions by pcore × 2 + region. -/
  mxe : Tbl MxeRegion := []
  /-- Echoed K-blocks by pcore × 2 + region, K-blocks that open in the present cycle, third executions by pcore, and strikes by pcore: count, and the grid points of every partition at the last (17 R425 to R429). -/
  echo : Tbl Echo := []
  echoOpens : List EchoOpening := []
  thirds : Tbl (List Third) := []
  strikes : Tbl (Nat × List Nat) := []
  /-- Sentinels whose scratchpad holds data that the march test of their next pass overwrites (18 R458). -/
  dirty : List Nat := []
  /-- Clusters in the state SHORT (01 R17). -/
  short : List Nat := []
  /-- Cycle in which a sentinel's present test pass began (17 R430). -/
  passAt : Tbl Nat := []
  bells : Tbl Bell := []
  qps : Tbl Qp := []
  /-- Stream table entries in use by stream index, and the ports (13). -/
  streams : Tbl Stream := []
  /-- Raw running values of the register-fed check-value channels, by die × 4 + channel (13 R333). -/
  cvu : Tbl Nat := []
  ports : Tbl PortSt := []
  /-- Seal keys by partition (18). -/
  seals : Tbl Seal := []
  /-- The MSI-X tables, by function × 128 + vector (15 R373, R394). -/
  msix : Tbl MsixEnt := []
  /-- Tunnel operations that wait to leave, and those that have come and are carried out in the next cycle, with the peer's number, 0 for the gateway (15 R397). -/
  tunOut : List (Nat × TunOp) := []
  tunIn : List (Nat × TunOp) := []
  fw : Firmware := {}
  prof : Profile := {}
  /-- COVER_ID of the table installed for each partition's running context, 0 while none (09 R224). -/
  coverOf : Tbl Nat := []
  /-- Pcores that are sentinels, and pcores that are retired (01 R16 to R19, 17). -/
  sentinels : List Nat := []
  retired : List Nat := []
  /-- UNIT_MAP: pcores that were sentinels at reset or are retired (02 R51). -/
  unitMap : Nat := 0
  /-- Pseudo-channels that a spare PC serves, as stack and PC, in the order of their remaps (12 R299). -/
  spared : List (Nat × Nat) := []
  /-- Sectors that the HBM controllers of each die still owe, in order of arrival: partition and sectors; and the window of the die's regulators: its number, and the sectors served in it by partition (12 R293). -/
  hbmQ : Tbl (List (Nat × Nat)) := []
  hbmWin : Tbl (Nat × Tbl Nat) := []
  /-- The patrol of each stack: the cycle in which its present pass was to begin, and that of its last read (12 R291). -/
  scrubAt : Tbl (Nat × Nat) := []
  /-- Stacks whose patrol fell more than a tenth of PERIOD behind and has not caught up (12 R291). -/
  scrubLate : List Nat := []
  /-- The key pair of each partition's ledger memory (12 R304). -/
  ldgKeys : Tbl (Nat × Nat) := []
  /-- Raw blocks that the patrol has read, by stack, and running mailbox commands by die (12). -/
  scrubPos : Tbl Nat := []
  mbox : Tbl MboxCmd := []
  thermal : Thermal := {}
  power : Power := {}
  pins : Pins := {}
  boot : Boot := {}
  refs : RefSrc := {}
  sec : Secure := {}
  roce : Tbl RoceQp := []
  chain : Chain := {}
  /-- MODEL: how many free values have been drawn. -/
  draws : Nat := 0
  deriving DecidableEq, Repr

/-- The machine right after reset: every table empty, so every register at its reset value. -/
def State.reset : State := {}

end Sys2Proof.Machine
end

