-- ==== Sys2Proof/Machine/Regs.lean ====
section
/-! DEFINITION. Registers as state: reset values, raw reads and writes, single fields, sticky flags, and the rejection of a write (00 R8, 01 R37). -/

namespace Sys2Proof.Machine

/-- Every register family of the manual. -/
def allRegs : List RegDesc := regsGlb ++ regsDbt ++ regsBel ++ regsCore ++ regsCluster ++ regsLdg ++ regsPtn ++ regsMore

/-- The family of an offset. -/
def regFind (off : Nat) : Option RegDesc := allRegs.find? (fun d => (regIdx d off).isSome)

/-- The reset value of a family: the reset values of its fields at their places. A field whose reset the manual gives as undefined reads as zero (DESIGN CHOICE, assumption 3). -/
def descReset (d : RegDesc) : Nat := d.flds.foldl (fun a f => a + at_ f.rst f.lo) 0

/-- The reset value of the register at an offset. -/
def resetOf (off : Nat) : Nat := match regFind off with | some d => descReset d | none => 0

/-- What a register holds: its committed value. -/
def rd (s : State) (off : Nat) : Nat := match tget s.regs off with | some v => v.toNat | none => resetOf off

/-- Bits `hi` to `lo` of a register. -/
def fld (s : State) (off hi lo : Nat) : Nat := bits (rd s off) hi lo

/-- Sets a register. -/
def setReg (s : State) (off v : Nat) : State := { s with regs := tput s.regs off (BitVec.ofNat 64 v) }

/-- Sets bits `hi` to `lo` of a register. -/
def setFld (s : State) (off hi lo v : Nat) : State := setReg s off (setBits (rd s off) hi lo v)

/-- Bits of a register that the FN7 has set in this cycle. -/
def stuck (s : State) (off : Nat) : Nat := (tgetD s.stickNow off 0).toNat

/-- Sets sticky flags: ORs `v` into a register, and keeps that they were set in this cycle (00 R7). -/
def orReg (s : State) (off v : Nat) : State :=
  { setReg s off (rd s off ||| v) with stickNow := tput s.stickNow off (BitVec.ofNat 64 (stuck s off ||| v)) }

/-- Adds to a field that saturates. -/
def satFld (s : State) (off hi lo v : Nat) : State := setFld s off hi lo (satAdd (hi + 1 - lo) (fld s off hi lo) v)

/-- Puts an operation into the tunnel of a peer, or on a peer into that of its gateway (0), in pieces of what a frame holds (15 R397). -/
def toTunnel (s : State) (n op addr : Nat) (data : Bytes) : State :=
  let l := chunksB 4032 (data.length / 4032 + 1) data
  let l := if l.isEmpty then [[]] else l
  { s with tunOut := s.tunOut ++ ((List.range l.length).zip l).map (fun e => (n, { op := op, addr := addr + 4032 * e.1, data := e.2 })) }

/-- STATE of a TDI (18 R455). -/
def tdiState (s : State) (f : Nat) : Nat := fld s (rSecTdi f) 2 0

/-- Whether a request with the T bit on selective stream `t`, or without it, may reach the BARs of a function: a TDI in CONFIG_LOCKED or RUN takes those of its bound stream alone (18 R455). -/
def tdiTakes (s : State) (f : Nat) (t : Option (Fin 8)) : Bool :=
  (tdiState s f ≠ 1 && tdiState s f ≠ 2) || (match t with | some x => fld s (rSecTdi f) 6 4 = x.val | none => false)

/-- Whether the requests of a function carry the T bit: in RUN. -/
def tbitOf (s : State) (f : Nat) : Bool := tdiState s f = 2

/-- An entry of the MSI-X table of a function. -/
def msixEnt (s : State) (f vec : Nat) : MsixEnt := tgetD s.msix (f * 128 + vec) {}

/-- Sends an MSI-X message of a function as its table says, or sets its pending bit while the vector is masked (15 R394). -/
def sendMsixOf (s : State) (f vec : Nat) : State :=
  let e := msixEnt s f vec
  if e.mask then { s with msix := tput s.msix (f * 128 + vec) { e with pend := true } }
  else { s with out := s.out ++ [.msix f vec e.addr e.data (tbitOf s f)] }

/-- Sends an MSI-X message of the device: of function 0, or on a peer through the tunnel to its gateway, which sends it from the VF's table (01 R34, 15 R394). -/
def sendMsix (s : State) (vec : Nat) : State := if s.prof.role = 2 then toTunnel s 0 1 vec [] else sendMsixOf s 0 vec

/-- Sets a bit of HIF_EVENT; a bit that goes from 0 to 1 sends the event vector while HIF_EVCFG enables it (15 R394). -/
def setEvent (s : State) (b : Nat) : State :=
  let t := orReg s rHifEvent (2 ^ b)
  if bit (rd s rHifEvent) b then t
  else if bit (rd s rHifEvcfg) 7 then sendMsix t (fld s rHifEvcfg 6 0) else t

/-- Rejects a register write: the block's bit of GLB_CFGERR, LAST_OFF, and CFG_ERROR when the bit goes from 0 to 1 (01 R37). -/
def reject (s : State) (blk off : Nat) : State :=
  let old := bit (rd s rCfgerr) blk
  let s := setFld (orReg s rCfgerr (2 ^ blk)) rCfgerr 63 32 off
  if old then s else setEvent s 3

/-- Rejects a write to the register at an offset, in the block that owns it. -/
def rejectOff (s : State) (off : Nat) : State :=
  reject s (match regFind off with | some d => d.blk | none => 0) off

/-! ### A written value and its fields (00 R7, R8) -/

/-- Whether a field's part of a written value is reserved or out of range. -/
def fldBad (v : Nat) (f : RegFld) : Bool :=
  f.acc ≠ .ro && f.acc ≠ .w1c && !f.ok.isEmpty && !f.ok.any (fun r => decide (r.1 ≤ bits v f.hi f.lo) && decide (bits v f.hi f.lo ≤ r.2))

/-- Whether no field's part is. -/
def fldsOk (d : RegDesc) (v : Nat) : Bool := !d.flds.any (fldBad v)

/-- `a` without the bits that a write of `v` clears: those of `keep` were set in the cycle of the write and stay. -/
def clearBits (a v keep : Nat) : Nat := a - (a &&& v) + (a &&& v &&& keep)

/-- What a write of `v` makes of one field of a register that holds `a`, where the bits `keep` have been set in this cycle. A W1S command bit starts its command and reads zero again (DESIGN CHOICE, assumption 55: the spec says that a one sets it, and not when it clears). -/
def fldWrite (v keep : Nat) (a : Nat) (f : RegFld) : Nat :=
  match f.acc with
  | .rw | .cw => setBits a f.hi f.lo (bits v f.hi f.lo)
  | .w1c => setBits a f.hi f.lo (clearBits (bits a f.hi f.lo) (bits v f.hi f.lo) (bits keep f.hi f.lo))
  | .ro | .w1s | .wo => a

/-- The register after a write of `v`: reserved bits and read-only fields keep their value. -/
def regApply (s : State) (off : Nat) (d : RegDesc) (v : Nat) : State := setReg s off (d.flds.foldl (fldWrite v (stuck s off)) (rd s off))

/-- A write that carries a kick, a command or the like: a value with a reserved field is rejected as a whole; else its plain fields are written, and `k` does the rest (00 R7, R8). -/
def writeThen (s : State) (off v : Nat) (k : State → State) : State :=
  match regFind off with
  | none => s
  | some d => if fldsOk d (v % 2 ^ d.width) then k (regApply s off d (v % 2 ^ d.width)) else rejectOff s off

/-- Whether a register write is taken. A device held in reset takes none. In CONFIG_LOCKED and RUN the BAR accepts only requests that carry the T bit on the bound stream (18 R455). -/
def accepts (s : State) (w : Writer) : Bool :=
  s.boot.held = 0 && (match w with
    | .mgc _ => true
    | .host t => fld s rRole 1 0 ≠ 0 || tdiTakes s 0 t)

/-! ### The power ladder (19 R469 to R473) -/

/-- Entry steps done when a power state is reached (19 R471). -/
def stepsOfState (t : Nat) : Nat := match t with | 0 => 0 | 1 => 1 | 2 => 3 | 3 => 6 | _ => 8
/-- The state reached after n entry steps. -/
def stateOfSteps (n : Nat) : Nat := if n = 0 then 0 else if n < 3 then 1 else if n < 6 then 2 else if n < 8 then 3 else 4
/-- The deepest state whose steps have begun (19 R473). -/
def begunState (p : Power) : Nat :=
  let n := if p.entering then p.steps + 1 else p.steps
  if n = 0 then 0 else if n < 2 then 1 else if n < 4 then 2 else if n < 7 then 3 else 4

def moving (s : State) : Bool := s.power.entering || s.power.leaving

/-- Whether CCLK reaches cores, clusters, mesh and CRUs: from entry step 1 on it does not (19 R469, R471). -/
def clocked (s : State) : Bool := s.power.steps = 0

/-- Brings STATE and MOVING of PWR_STAT to the ladder. -/
def syncPower (s : State) : State :=
  setFld (setFld s rPwrStat 2 0 (stateOfSteps s.power.steps)) rPwrStat 3 3 (b2n (moving s))

/-- Where a wake takes the ladder: an exit that ends no deeper than `target`. During an entry the step in progress ends first; an entry that has not yet come to the steps of `target` goes on to it and no further (19 R473). -/
def wakePower (p : Power) (target : Nat) : Power :=
  let g := stepsOfState target
  if p.leaving then { p with goal := min p.goal g }
  else if p.entering && decide (p.steps < g) then { p with goal := min p.goal g }
  else { p with leaving := true, goal := g }

/-- A wake event, whose kind WAKE keeps, to a state (19 R472). -/
def wake (s : State) (kind target : Nat) : State :=
  let s := setFld s rPwrStat 9 7 kind
  syncPower { s with power := wakePower s.power target }

/-- A wake to Run of a device that is in a deeper state, or on its way there. -/
def wakeUp (s : State) (kind : Nat) : State := if begunState s.power = 0 then s else wake s kind 0

/-- A frame for this node wakes a device in Rest (19 R472). -/
def frameWake (s : State) : State := if begunState s.power = 1 then wake s 3 0 else s

/-- A doorbell or an access to the configuration BAR wakes the device (19 R472). -/
def barWake (s : State) (w : Writer) : State := match w with | .host _ => wakeUp s 1 | .mgc _ => s

/-- A request of the host that a TDI does not take is answered with Unsupported Request and has no effect (18 R455); a device held in reset answers none. -/
def refuseBar (s : State) (w : Writer) : State :=
  match w with
  | .host _ => if s.boot.held = 0 then { s with out := s.out ++ [.unsupported 0] } else s
  | .mgc _ => s

/-- The effect of a register write that is taken, on a device that the access wakes; any other has none. -/
def gate (s : State) (w : Writer) (r : State → Host.Outcome State Fault Refusal) : Host.Outcome State Fault Refusal :=
  if accepts s w then r (barWake s w) else .next (refuseBar s w)

/-- GLB_IDENT: the stepping fields are fixed in the metal of the dies, so they read before boot too; GRADE reads zero until boot completes (01 R36). ROM recovery is no reset: a boot that has completed stays so. -/
def identWord (s : State) : Nat :=
  let w := setBits (rd s rIdent) 23 16 (if Config.stepB0 then 0x01 else 0x10)
  if s.boot.up then w else setBits w 31 24 0

/-- The DRBG serves n draws: after every 2^20 requests it reseeds itself (18 R449). -/
def drawn (s : State) (n : Nat) : State := { s with draws := s.draws + n, sec := { s.sec with asked := (s.sec.asked + n) % 2 ^ 20 } }

/-- CCLK cycles of a millisecond at the N in use (19 R476). -/
def msCycles (s : State) : Nat := fld s rPwrCclk 26 16 * 1250

/-- Whether `n` microseconds have passed since a cycle: one is 1.25 N cycles (19 R476). -/
def usPassed (s : State) (since n : Nat) : Bool := decide (since * 1000 + n * msCycles s ≤ s.cycle * 1000)

/-- Whether a die's half of HBM is in MAINT (12 R298). -/
def inMaint (s : State) (d : Nat) : Bool := bit (rd s (rMboxCtl d)) 2

/-- Whether [a, a + n) meets a half in MAINT, which accepts no engine access. -/
def maintMeets (s : State) (a n : Nat) : Bool :=
  (List.range 2).any (fun d => inMaint s d && decide (a < (d + 1) * 0x0021C0000000) && decide (d * 0x0021C0000000 < a + n))

/-! ### Thermal steps (12 R295, R297, 19 R482) -/

/-- Whether a cadence step, and whether a throttle step, lasts; with EN of MEM_CADENCE clear a cadence step throttles. -/
def cadOn (s : State) : Bool := (s.thermal.hbmCad || s.thermal.pkgCad) && bit (rd s rMemCadence) 0
def thrOn (s : State) : Bool :=
  s.thermal.hbmThr || s.thermal.pkgThr || ((s.thermal.hbmCad || s.thermal.pkgCad) && !bit (rd s rMemCadence) 0)

/-- THR_DUTY follows a throttle step that starts or ends: 4 from its first window on, 0 after it. `was` says whether one lasted before. -/
def syncThrottle (was : Bool) (s : State) : State :=
  if thrOn s && !was then { setFld s rMemCadence 26 24 4 with thermal := { s.thermal with thrNext := s.cycle, dutyAt := s.cycle } }
  else if thrOn s then s
  else setFld s rMemCadence 26 24 0

/-! ### Areas of a partition -/

/-- Whether a partition is enabled: it owns its clusters, ports and HBM region (16 R401). -/
def ptnOn (s : State) (p : Nat) : Bool := bit (rd s (rPtnCfg p)) 0

/-- A partition's HBM region as first byte and end: BASE in MiB, SIZE in units of 16 MiB (16 PTN_HBM). -/
def ptnHbm (s : State) (p : Nat) : Nat × Nat := (fld s (rPtnHbm p) 47 20 * 1048576, (fld s (rPtnHbm p) 47 20 + 16 * fld s (rPtnHbm p) 63 48) * 1048576)

/-- The stow area of a partition on a die as first byte and end (16 PTN_STOW). -/
def ptnStow (s : State) (p d : Nat) : Nat × Nat := (fld s (rPtnStow p d) 47 20 * 1048576, (fld s (rPtnStow p d) 47 20 + 16 * fld s (rPtnStow p d) 63 48) * 1048576)

/-- Whether a partition's HBM region meets a half in MAINT: nothing of it starts there before RELEASE (12 R298; what waits is a DESIGN CHOICE, assumption 54). -/
def ptnMaint (s : State) (p : Nat) : Bool := maintMeets s (ptnHbm s p).1 ((ptnHbm s p).2 - (ptnHbm s p).1)

end Sys2Proof.Machine
end

