-- ==== Sys2Proof/Machine/Frame.lean ====
section
/-! DEFINITION. Frames on the wire: CVT header, UDP, IPv6, Ethernet, link shim; the choice of port by route mask; what a port sends, in its order (13 R310 to R314, R332, R337 to R339). -/

namespace Sys2Proof.Machine

/-- One bit of a reflected CRC-32 (IEEE 802.3 FCS). -/
def crc32Bit (c : Nat) : Nat := if c % 2 = 1 then (c / 2) ^^^ 0xEDB88320 else c / 2
def crc32Byte (c : Nat) (b : Byte) : Nat :=
  let x := c ^^^ b.toNat
  crc32Bit (crc32Bit (crc32Bit (crc32Bit (crc32Bit (crc32Bit (crc32Bit (crc32Bit x)))))))
/-- The frame check sequence (13 R310). -/
def fcs (b : Bytes) : Nat := (b.foldl crc32Byte 0xFFFFFFFF) ^^^ 0xFFFFFFFF

/-- The CVT header (13 R314). -/
def cvtHdr (type flags len ds ss seq ack daddr credit pmask : Nat) : Bytes :=
  beBytes 1 (16 + type) ++ beBytes 1 flags ++ beBytes 2 len ++ beBytes 2 ds ++ beBytes 2 ss ++ beBytes 4 seq ++ beBytes 4 ack
    ++ beBytes 6 daddr ++ beBytes 2 credit ++ beBytes 8 pmask

/-- Header, payload, transfer check and ICRC (13 R310, R332). -/
def cvtBody (hdr payload : Bytes) (xck : Option Nat) : Bytes :=
  let b := hdr ++ payload ++ (match xck with | some x => beBytes 8 x | none => [])
  b ++ beBytes 4 (crc32c b)

def maxPay (s : State) (d : Nat) : Nat := match fld s (rNetCvtcfg d) 17 16 with | 0 => 1024 | 1 => 2048 | _ => 4096

/-- The 16-byte address of a port of a node on a die's plane (13 R311). -/
def ip6 (s : State) (d node n : Nat) : Bytes := beBytes 8 (rd s (rNetPrefix d)) ++ beBytes 8 (node * 32 + n)

/-- Sum of 16-bit words in one's complement. -/
def onesSum : Bytes → Nat → Nat
  | a :: b :: r, acc => let t := acc + a.toNat * 256 + b.toNat; onesSum r (t % 65536 + t / 65536)
  | [a], acc => let t := acc + a.toNat * 256; t % 65536 + t / 65536
  | [], acc => acc

/-- The source address of a device's frames to a node on one path, and the destination address: the low bits name ports of the stream's die (13 R311, R316). -/
def srcAddr (s : State) (d flow sidx : Nat) : Bytes := ip6 s d s.prof.node (16 * d + Config.srcPort sidx flow % 16)
def dstAddr (s : State) (d node flow : Nat) : Bytes := ip6 s d node (16 * d + Config.dstPort node flow % 16)

/-- The UDP datagram in its IPv6 packet (13 R310, R311). -/
def ipPacket (s : State) (d node dscp flow sidx : Nat) (body : Bytes) : Bytes :=
  let src := srcAddr s d flow sidx
  let dst := dstAddr s d node flow
  let len := body.length + 8
  let ports := beBytes 2 (49152 + Config.udpSource sidx flow % 16384) ++ beBytes 2 (fld s (rNetCvtcfg d) 15 0) ++ beBytes 2 len
  let sum := onesSum (src ++ dst ++ beBytes 4 len ++ beBytes 4 17 ++ ports ++ beBytes 2 0 ++ body) 0
  let ck := 65535 - sum
  beBytes 4 (6 * 2 ^ 28 + (dscp * 4 + 2) * 2 ^ 20 + flow % 2 ^ 20) ++ beBytes 2 len ++ beBytes 1 17 ++ beBytes 1 (fld s (rNetCvtcfg d) 25 18)
    ++ src ++ dst ++ ports ++ beBytes 2 (if ck = 0 then 65535 else ck) ++ body

/-! ### Ports -/

def portSt (s : State) (n : Nat) : PortSt := tgetD s.ports n {}
def modPort (s : State) (n : Nat) (f : PortSt → PortSt) : State := { s with ports := tput s.ports n (f (portSt s n)) }
def portUp (s : State) (n : Nat) : Bool := bit (rd s (rNetPortstat n)) 0
def llrOn (s : State) (n : Nat) : Bool := bit (rd s (rNetPortstat n)) 1
/-- The MAC of a port of a node (13 R310). -/
def portMac (node n : Nat) : Nat := 0x020000000000 + node * 32 + n

/-- The Ethernet frame around an inner packet (13 R310, R312). -/
def ethFrame (s : State) (n : Nat) (lseq : Option Nat) (inner : Bytes) : Bytes :=
  let b := match lseq with
    | some q =>
      beBytes 6 (portMac (fld s (rNetPortstat n) 21 2) (fld s (rNetPortstat n) 26 22)) ++ beBytes 6 (portMac s.prof.node n) ++ beBytes 2 0x88B5
        ++ beBytes 2 q ++ beBytes 2 (portSt s n).expect ++ beBytes 2 0 ++ beBytes 2 0x86DD ++ inner
    | none => beBytes 6 ((portSt s n).router.getD 0) ++ beBytes 6 (portMac s.prof.node n) ++ beBytes 2 0x86DD ++ inner
  b ++ leBytes 4 (fcs b)

/-- A control shim without inner packet: NAK, or LACK alone, or a hello (13 R312, R313). -/
def ctrlFrame (s : State) (n flags : Nat) (payload : Bytes) : Bytes :=
  let b := beBytes 6 (portMac (fld s (rNetPortstat n) 21 2) (fld s (rNetPortstat n) 26 22)) ++ beBytes 6 (portMac s.prof.node n) ++ beBytes 2 0x88B5
    ++ beBytes 2 (portSt s n).lseq ++ beBytes 2 (portSt s n).expect ++ beBytes 1 flags ++ beBytes 1 0 ++ beBytes 2 0 ++ payload
  b ++ leBytes 4 (fcs b)

def emit (s : State) (n : Nat) (b : Bytes) : State := { s with out := s.out ++ [.frame n b] }
def replayBytes (p : PortSt) : Nat := p.replay.foldl (fun a r => a + r.2.1.length) 0

/-- A control shim, an acknowledgement or probe, and any other local packet join what a port sends (13 R339). -/
def queueCtl (s : State) (n flags : Nat) (payload : Bytes) : State := modPort s n (fun p => { p with ctl := p.ctl ++ [(flags, payload)] })
def queueAck (s : State) (n : Nat) (inner : Bytes) : State := modPort s n (fun p => { p with acks := p.acks ++ [inner] })
def queueLocal (s : State) (n : Nat) (inner : Bytes) : State := modPort s n (fun p => { p with loc := p.loc ++ [inner] })

/-- Bytes of a frame on the wire, with preamble and gap (13 R344). -/
def wireBytes (s : State) (n : Nat) (inner : Bytes) : Nat := inner.length + 38 + (if llrOn s n then 8 else 0)
/-- Bytes that a port sends in a CCLK cycle (13 R307). -/
def portRate (s : State) (n : Nat) : Nat := match fld s (rNetPortcfg n) 2 1 with | 0 => 13 | 1 => 26 | 2 => 52 | _ => 105

/-- Whether a packet finds room in the port's 1 MiB replay buffer (13 R313). -/
def replayRoom (s : State) (n : Nat) (inner : Bytes) : Bool := !llrOn s n || decide (replayBytes (portSt s n) + inner.length ≤ 2 ^ 20)

/-- A packet leaves: with link retry it takes an LSEQ and a place in the replay buffer (13 R313). The port is busy while it sends. -/
def sendPacket (s : State) (n : Nat) (inner : Bytes) : State :=
  let s := modPort s n (fun p => { p with busy := s.cycle + (wireBytes s n inner + portRate s n - 1) / portRate s n })
  if llrOn s n then
    let q := (portSt s n).lseq
    emit (modPort s n (fun p => { p with lseq := (q + 1) % 65536, replay := p.replay ++ [(q, inner, 0)] })) n (ethFrame s n (some q) inner)
  else emit s n (ethFrame s n none inner)

/-! ### Routes (13 R337, R338) -/

/-- The route mask of a node on a die (13 R337). -/
def routeMask (s : State) (d node : Nat) : Nat :=
  if node < 131072 && bit (rd s (rNetRoute d node)) 16 then fld s (rNetRoute d node) 15 0 else fld s (rNetDefroute d) 15 0

/-- The port of a mask that the hash of source address, destination address and flow label takes (13 R338). -/
def pickPort (src dst : Bytes) (flow d mask : Nat) : Option Nat :=
  let l := setBitsOf 16 mask
  if l.isEmpty then none else some (16 * d + l.getD (Config.pathHash src dst flow % l.length) 0)

/-- The port by which a device's frames to a node leave from die d: the route mask, the partition's port group where one is given, the hash (13 R337, R338, 16 R403). -/
def localPort (s : State) (d : Nat) (group : Option Nat) (node flow sidx : Nat) : Option Nat :=
  let m := routeMask s d node
  let m := match group with | some p => if ptnOn s p then m &&& fld s (rPtnCfg p) (31 + 16 * d) (16 + 16 * d) else 0 | none => m
  pickPort (srcAddr s d flow sidx) (dstAddr s d node flow) flow d m

/-- A CVT body to a node joins what its port sends, `ack` as an acknowledgement or probe; an empty mask discards it and counts NOROUTE. -/
def routeBody (s : State) (d : Nat) (group : Option Nat) (node dscp flow sidx : Nat) (ack : Bool) (body : Bytes) : State :=
  match localPort s d group node flow sidx with
  | none => satFld s (rNetTransit d) 63 56 1
  | some n => let b := ipPacket s d node dscp flow sidx body; if ack then queueAck s n b else queueLocal s n b

/-- Clears a port from every route mask of its die, in one cycle (13 R337). -/
def clearRoutes (s : State) (n : Nat) : State :=
  let d := n / 16
  let i := n % 16
  let lo := rNetRoute d 0
  let hi := rNetRoute d 131071
  let s := { s with regs := s.regs.map (fun e => if lo ≤ e.1 && e.1 ≤ hi then (e.1, BitVec.ofNat 64 (setBits e.2.toNat i i 0)) else e) }
  setFld s (rNetDefroute d) i i 0

end Sys2Proof.Machine
end

