-- ==== Sys2Proof/Machine/Mem.lean ====
section
/-! DEFINITION. Device memory and its poison: the address map, the interleave of HBM, reads, writes, copies (01 R27, 12 R282, R283, R287, R288). -/

namespace Sys2Proof.Machine

def spBase (pc : Nat) : Nat := 0x00C000000000 + pc * 0x400000
def vspBase (v : Nat) : Nat := 0x00C200000000 + v * 0x400000
def wayBase (k : Nat) : Nat := 0x00C100000000 + k * 0x400000
def spLimit : Nat := 0x300000
def hbmEnd : Nat := 0x004380000000
def hbmHalf : Nat := 0x0021C0000000
def ledgerBase : Nat := 0x008000000000
def ledgerEnd : Nat := 0x008900000000

/-! ### Interleave (12 R282) -/

/-- First address of a die's half. -/
def halfBase (d : Nat) : Nat := if d = 0 then 0 else hbmHalf
/-- Granule within its PC. -/
def granU (x : Nat) : Nat := x / 256 / 256
/-- Stack of its half that holds half offset x. -/
def stackOf (x : Nat) : Nat := (x / 256 % 4) ^^^ (granU x % 4) ^^^ (granU x / 4 % 4)
/-- Pseudo-channel that holds half offset x. -/
def pcOf (x : Nat) : Nat := (x / 256 / 4 % 64) ^^^ (granU x / 256 % 64)
/-- Half offset of usable byte y of a PC of a stack: the inverse of the map. -/
def unmapPc (stack pc y : Nat) : Nat :=
  let u := y / 256
  (u * 256 + ((pc ^^^ (u / 256 % 64)) * 4) + (stack ^^^ (u % 4) ^^^ (u / 4 % 4))) * 256 + y % 256
/-- Stack H0 to H7 of a device address. -/
def hbmStack (a : Nat) : Nat := if a < hbmHalf then stackOf a else 4 + stackOf (a - hbmHalf)
/-- Sectors of a PC, and raw blocks of a PC and of a stack (12 R280, R283). -/
def pcSectors : Nat := 540 * 1048576 / 64
def pcBlocks : Nat := pcSectors / 15
def stackBlocks : Nat := 64 * pcBlocks

/-- Usable byte of its PC that holds half offset x. -/
def usableY (x : Nat) : Nat := granU x * 256 + x % 256
/-- Raw byte of its PC that holds half offset x, and the first of the four check bytes of its sector. -/
def rawByte (x : Nat) : Nat := usableY x / 64 / 15 * 1024 + usableY x / 64 % 15 * 64 + usableY x % 64
def checkByte (x : Nat) : Nat := usableY x / 64 / 15 * 1024 + 960 + usableY x / 64 % 15 * 4
/-- Raw block of the package that holds a device address, blocks counted through the PCs of the stacks, and the sector's place in it. -/
def rawBlockOf (a : Nat) : Nat := let x := if a < hbmHalf then a else a - hbmHalf; hbmStack a * stackBlocks + pcOf x * pcBlocks + usableY x / 64 / 15
def rawPlaceOf (a : Nat) : Nat := let x := if a < hbmHalf then a else a - hbmHalf; usableY x / 64 % 15

/-- The device address of sector i of block b of a stack, blocks counted through its PCs. -/
def blockSector (h b i : Nat) : Nat := halfBase (h / 4) + unmapPc (h % 4) (b / pcBlocks % 64) ((b % pcBlocks * 15 + i) * 64)

/-- Whether a raw block of the package has a sector in [a, a + n). -/
def blockMeets (b a n : Nat) : Bool :=
  (List.range 15).any (fun i => let x := blockSector (b / stackBlocks) (b % stackBlocks) i; decide (a < x + 64) && decide (x < a + n))

/-! ### Bytes and poison -/

def devRead (s : State) (a n : Nat) : Bytes := memBytes s.mem a n

/-- Whether any 64-byte unit of [a, a + n) is poisoned (12 R288). -/
def devPoison (s : State) (a n : Nat) : Bool :=
  if n = 0 then false else s.poison.any (fun u => a / 64 ≤ u && u ≤ (a + n - 1) / 64)

/-- The units that lie wholly in [a, a + n). -/
def wholeUnits (a n : Nat) : List Nat :=
  let lo := (a + 63) / 64
  let hi := (a + n) / 64
  if lo < hi then rangeFrom lo (hi - lo) else []

/-- The units that [a, a + n) touches. -/
def touchedUnits (a n : Nat) : List Nat := if n = 0 then [] else rangeFrom (a / 64) ((a + n - 1) / 64 + 1 - a / 64)

/-- The poison words that a write to [a, a + n) leaves with copies that differ: a write to a block rewrites both copies of its word (12 R287). -/
def wordsAfter (s : State) (a n : Nat) : Tbl (BitVec 32) := s.pword.filter (fun e => !blockMeets e.1 a n)

/-- Writes unpoisoned bytes: a unit written whole loses its poison (12 R288). -/
def devWrite (s : State) (a : Nat) (b : Bytes) : State :=
  let w := wholeUnits a b.length
  { s with mem := memWrite s.mem a b, poison := s.poison.filter (fun u => !w.contains u), pword := wordsAfter s a b.length }

/-- Marks every unit of [a, a + n) poisoned. -/
def devTaint (s : State) (a n : Nat) : State := { s with poison := (touchedUnits a n).foldl sput s.poison, pword := wordsAfter s a n }

/-- Poisons every unit of the range [a, a + n), both multiples of 64. -/
def poisonRange (s : State) (a n : Nat) : State :=
  { s with poison := s.poison.filter (fun u => decide (u < a / 64)) ++ rangeFrom (a / 64) (n / 64) ++ s.poison.filter (fun u => decide ((a + n) / 64 ≤ u)), pword := wordsAfter s a n }

/-- One contiguous run of written bytes, each with its poison tag. -/
abbrev Seg := Nat × List (Byte × Bool)

/-- Joins runs that follow one another. -/
def joinSegs : List Seg → List Seg
  | [] => []
  | (a, b) :: r =>
    match joinSegs r with
    | (a', b') :: r' => if a + b.length = a' then (a, b ++ b') :: r' else (a, b) :: (a', b') :: r'
    | [] => [(a, b)]

/-- Writes one run: the bytes as given; a unit with a poisoned byte is poisoned as a whole, a unit written whole and clean is cleared (12 R288). -/
def devSeg (s : State) (g : Seg) : State :=
  let s := devWrite s g.1 (g.2.map (·.1))
  let bad := (List.range g.2.length).filter (fun i => (g.2.getD i (0, false)).2)
  { s with poison := bad.foldl (fun t i => sput t ((g.1 + i) / 64)) s.poison }

/-- Writes runs in order. -/
def devSegs (s : State) (l : List Seg) : State := (joinSegs l).foldl devSeg s

/-- Copies n bytes with their poison from src to dst (12 R288). -/
def devCopy (s : State) (src dst n : Nat) : State :=
  let b := devRead s src n
  let tags := (List.range n).map (fun i => s.poison.contains ((src + i) / 64))
  devSeg s (dst, b.zip tags)

/-- Clears a range to the unlisted value and drops its poison. -/
def devZero (s : State) (a n : Nat) : State :=
  { s with mem := memClear s.mem a n, poison := s.poison.filter (fun u => !(a ≤ u * 64 && u * 64 < a + n)), pword := wordsAfter s a n }

/-- The sectors of [a, a + n) join what the controllers of their die owe a partition, where the range lies in HBM (12 R293). -/
def hbmUse (s : State) (p a n : Nat) : State :=
  if n = 0 || hbmEnd ≤ a then s
  else
    let d := if a < hbmHalf then 0 else 1
    { s with hbmQ := tput s.hbmQ d (tgetD s.hbmQ d [] ++ [(p, (a + n - 1) / 64 + 1 - a / 64)]) }

/-- Sectors of a move: those that it reads and those that it writes. -/
def hbmMove (s : State) (p src dst n : Nat) : State := hbmUse (hbmUse s p src n) p dst n

/-- Writes host memory as a function of the endpoint. -/
def hostWriteAs (s : State) (f a : Nat) (b : Bytes) : State :=
  { s with hostMem := memWrite s.hostMem a b, out := s.out ++ [.dma f a b.length (tbitOf s f)] }

/-- Writes host memory: on PCIe as function 0, or on a peer through the tunnel (01 R34). -/
def hostWrite (s : State) (a : Nat) (b : Bytes) : State := if s.prof.role = 2 then toTunnel s 0 0 a b else hostWriteAs s 0 a b

end Sys2Proof.Machine
end

