-- ==== Sys2Proof/Machine/StreamTx.lean ====
section
/-! DEFINITION. The sending side of streams: the stream table, credit, queued frames, what each port sends, closing (13 R316 to R323, R327, R339). -/

namespace Sys2Proof.Machine

/-- An initial SEQ that is not drawn yet. -/
def noSeq : Nat := 2 ^ 32

def stream (s : State) (x : Nat) : Option Stream := tget s.streams x
def modStream (s : State) (x : Nat) (f : Stream → Stream) : State := { s with streams := tmod s.streams x f }
def seqAdd (a n : Nat) : Nat := (a + n) % 2 ^ 32
/-- Distance from a to b modulo 2^32 (13 R320). -/
def seqDiff (a b : Nat) : Nat := (b + 2 ^ 32 - a) % 2 ^ 32
/-- Die of a stream entry (13 R316). -/
def dieOfSidx (x : Nat) : Nat := x / 8192

/-- Free slots of a die's reorder store of 1,024 frames (13 R320). -/
def reorderFree (s : State) (d : Nat) : Nat := 1024 - s.streams.foldl (fun a e => if dieOfSidx e.1 = d then a + e.2.rx.length else a) 0

/-- The credit a receiver grants: from its free reorder slots and the stream's share, at most 256 (13 R323). -/
def creditNow (s : State) (x : Nat) : Nat := min 256 (min (reorderFree s (dieOfSidx x)) (Config.creditShare s.draws))

/-- The key of one direction of a stream of a context that holds a seal key (18 R464). -/
def streamKey (s : State) (st : Stream) (out : Bool) : Option Bytes :=
  match tget s.seals st.part with
  | none => none
  | some k =>
    if k.ctx ≠ st.ctx then none
    else
      let lo := min s.prof.node st.peer
      let hi := max s.prof.node st.peer
      let a := if s.prof.node ≤ st.peer then st.iss else st.irs
      let b := if s.prof.node ≤ st.peer then st.irs else st.iss
      some (hkdf384 (beBytes 8 st.jobkey) k.key
        (ascii "FN7 stream" ++ beBytes 4 lo ++ beBytes 4 hi ++ beBytes 4 a ++ beBytes 4 b ++ beBytes 4 (if out then s.prof.node else st.peer)) 32)

/-- Encrypts or decrypts a payload: the key stream XORed into it (18 R464). -/
def streamXor (key : Option Bytes) (seq wraps : Nat) (b : Bytes) : Bytes :=
  match key with
  | none => b
  | some k => xorBytes b (aesCtr k (seq * 2 ^ 96 + wraps * 2 ^ 64) b.length)

/-- A frame of a stream: ACK and CREDIT ride in it; the payloads of DATA and CTE are encrypted where the context holds a key (13 R314, R321, 18 R464). -/
def frameBody (s : State) (x : Nat) (st : Stream) (type flags seq daddr : Nat) (payload : Bytes) (pmask : Nat) (xck : Option Nat) (wraps : Nat) : Bytes :=
  let b := cvtBody (cvtHdr type (flags + 8 * b2n st.ece) payload.length st.peerIdx x seq st.rcvNxt daddr (creditNow s x) pmask) payload xck
  if type = 0 || type = 10 then spliceB b 32 (streamXor (streamKey s st true) seq wraps payload) else b

/-- The port group that a stream keeps to: its partition's; a tunnel stream belongs to no context and to no group (15 R397, 16 R403; DEDUCED, assumption 31). -/
def groupOf (st : Stream) : Option Nat := if st.ctx < 16 then some st.part else none

/-- Sends a frame that consumes no SEQ: ACK, SACK, ACCEPT. -/
def sendOn (s : State) (x : Nat) (type flags : Nat) (payload : Bytes) : State :=
  match stream s x with
  | none => s
  | some st =>
    let b := frameBody s x st type flags 0 0 payload 0 none 0
    let s := modStream { s with draws := s.draws + 1 } x (fun st => { st with ece := false })
    routeBody s (dieOfSidx x) (groupOf st) st.peer st.dscp (st.entropy % 2 ^ 20) x (type ≠ 5) b

/-- Poison mask of a payload of n bytes at a device address (13 R314, R334). -/
def pmaskOf (s : State) (a n : Nat) : Nat :=
  (List.range (n / 64)).foldl (fun m i => if devPoison s (a + 64 * i) 64 then m + 2 ^ i else m) 0

/-! ### Frames that consume a SEQ -/

/-- Frames a stream may have unacknowledged (13 R323). -/
def sendLimit (st : Stream) : Nat := if st.peerPark then 0 else min st.credit (max 1 st.cwnd)

/-- The frame of a stream that may leave next: one to be sent again, else the first not sent, while credit and window allow it; each stream keeps its rate. -/
def nextFrame (s : State) (st : Stream) : Option TxFrame :=
  if st.peerPark || s.cycle < st.nextAt || !(st.st = .opened || st.st = .draining || st.st = .closing) then none
  else match st.tx.find? (·.again) with
    | some f => some f
    | none => if (st.tx.filter (·.sent)).length < sendLimit st then st.tx.find? (fun f => !f.sent) else none

/-- The port of a stream: it stays on one path (13 R338). -/
def streamPort (s : State) (x : Nat) (st : Stream) : Option Nat := localPort s (dieOfSidx x) (groupOf st) st.peer (st.entropy % 2 ^ 20) x

/-- A frame of a stream has been sent. -/
def frameGone (s : State) (x : Nat) (f : TxFrame) : State :=
  modStream { s with draws := s.draws + 1 } x (fun st =>
    { st with ece := false, nextAt := s.cycle + st.gap, tx := st.tx.map (fun g => if g.seq = f.seq then { g with sent := true, again := false } else g) })

/-- The packet of a queued frame: the source bytes are read again (13 R327). -/
def framePacket (s : State) (x : Nat) (st : Stream) (f : TxFrame) : Bytes :=
  let h := f.body.length / 64
  ipPacket s (dieOfSidx x) st.peer st.dscp (st.entropy % 2 ^ 20) x
    (frameBody s x st f.type (f.flags + 32 * b2n f.again) f.seq f.daddr (f.body ++ devRead s f.src f.len) (pmaskOf s f.src f.len * 2 ^ h) f.xck f.wraps)

/-- Queues frames on a stream, which take consecutive SEQs (13 R327). -/
def queueFrames (s : State) (x : Nat) (fs : List TxFrame) : State :=
  match stream s x with
  | none => s
  | some st =>
    let numbered := (List.range fs.length).zipWith (fun i f => { f with seq := seqAdd st.sndNxt i, wraps := st.sndWraps + (st.sndNxt + i) / 2 ^ 32 }) fs
    let s := if st.tx.isEmpty then modStream { s with draws := s.draws + 1 } x (fun st => { st with entropy := Config.pathEntropy s.draws }) else s
    modStream s x (fun st =>
      { st with tx := st.tx ++ numbered, sndNxt := seqAdd st.sndNxt fs.length,
                sndWraps := st.sndWraps + (st.sndNxt + fs.length) / 2 ^ 32 })

/-! ### Ports at work (13 R323, R339) -/

/-- Streams of a port's die that have a frame to send by it. -/
def readyStreams (s : State) (n : Nat) : List (Nat × Stream × TxFrame) :=
  s.streams.filterMap (fun e => if dieOfSidx e.1 = n / 16 && streamPort s e.1 e.2 = some n then (nextFrame s e.2).map (fun f => (e.1, e.2, f)) else none)

/-- The next local data frame of a port, with the state once it has gone: packets of no stream's sequence first, then the ready streams in turn. -/
def localNext (s : State) (n : Nat) : Option (State × Bytes) :=
  match (portSt s n).loc with
  | b :: r => some (modPort s n (fun p => { p with loc := r }), b)
  | [] =>
    let l := readyStreams s n
    match (l.find? (fun e => decide ((portSt s n).turn < e.1))).or l.head? with
    | none => none
    | some (x, st, f) => some (modPort (frameGone (hbmUse s st.part f.src f.len) x f) n (fun p => { p with turn := x }), framePacket s x st f)

/-- A data frame: where transit and local frames both wait they share the port by bytes, TRANSIT_W to 16 − TRANSIT_W. -/
def dataCycle (s : State) (n : Nat) : State :=
  let p := portSt s n
  let w := fld s (rNetCvtcfg (n / 16)) 29 26
  let go := fun (t : State) (b : Bytes) (sh : Nat × Nat) => if replayRoom s n b then sendPacket (modPort t n (fun p => { p with shared := sh })) n b else s
  match p.transit, localNext s n with
  | [], none => s
  | [], some (t, b) => go t b (0, 0)
  | b :: r, none => go (modPort s n (fun p => { p with transit := r })) b (0, 0)
  | b :: r, some (t, c) =>
    if p.shared.1 * (16 - w) ≤ p.shared.2 * w then go (modPort s n (fun p => { p with transit := r })) b (p.shared.1 + b.length, p.shared.2)
    else go t c (p.shared.1, p.shared.2 + c.length)

/-- One cycle of a port: control shims first, then acknowledgements and probes, then data frames. While the replay buffer is full it starts no frame (13 R313). -/
def portCycle (s : State) (n : Nat) : State :=
  match tget s.ports n with
  | none => s
  | some p =>
    if !p.link || s.cycle < p.busy then s
    else match p.ctl with
      | c :: r => emit (modPort s n (fun p => { p with ctl := r, busy := s.cycle + (46 + c.2.length + portRate s n - 1) / portRate s n })) n (ctrlFrame s n c.1 c.2)
      | [] =>
        if !portUp s n then s
        else match p.acks with
          | b :: r => if replayRoom s n b then sendPacket (modPort s n (fun p => { p with acks := r })) n b else s
          | [] => dataCycle s n

/-- A stream frame for which no port is left is discarded and counted (13 R337). -/
def noRoute (s : State) (e : Nat × Stream) : State :=
  match nextFrame s e.2, streamPort s e.1 e.2 with
  | some f, none => satFld (frameGone s e.1 f) (rNetTransit (dieOfSidx e.1)) 63 56 1
  | _, _ => s

/-- One cycle of the 32 ports. -/
def portsCycle (s : State) : State := (List.range 32).foldl portCycle (s.streams.foldl noRoute s)

/-- Queues a CLOSE behind all unacknowledged data (13 R318, R320). -/
def closeStream (s : State) (x : Nat) : State :=
  queueFrames (modStream s x (fun st => { st with st := .closing })) x [{ seq := 0, type := 7 }]

/-- The entry of a program stream of a context (13 R317). -/
def psnStream (s : State) (p c psn : Nat) : Option (Nat × Stream) :=
  s.streams.find? (fun e => e.2.part = p && e.2.ctx = c && e.2.psn = psn)

/-- Entries that a partition holds on a die (13 NET_SQUOTA USED). -/
def quotaUsed (s : State) (d p : Nat) : Nat := (s.streams.filter (fun e => dieOfSidx e.1 = d && e.2.part = p)).length

/-- The lowest free entry of a die (13 R318). -/
def freeEntry (s : State) (d : Nat) : Option Nat :=
  let used := (s.streams.filter (fun e => dieOfSidx e.1 = d)).map (fun e => e.1 % 8192)
  let n := used.foldl (fun n u => if u = n then n + 1 else n) 0
  if n < 8192 then some (8192 * d + n) else none

end Sys2Proof.Machine
end

