-- ==== Sys2Proof/Machine/Ops.lean ====
section
/-! DEFINITION. The named operations over the state: partitions, contexts, vcores, device memory with poison, completions, and the fault of a context. -/

namespace Sys2Proof.Machine

/-- The outcome of a meaning. -/
abbrev Res := Host.Outcome State Fault Refusal

/-! ### Partitions, contexts, vcores -/

def part (s : State) (p : Nat) : Part := tgetD s.parts p {}
def modPart (s : State) (p : Nat) (f : Part → Part) : State := { s with parts := tput s.parts p (f (part s p)) }

/-- The key of context c of partition p. -/
def ctxKey (p c : Nat) : Nat := p * 16 + c
def ctxOf (s : State) (k : Nat) : Option Ctx := tget s.ctxs k
def modCtx (s : State) (k : Nat) (f : Ctx → Ctx) : State := { s with ctxs := tmod s.ctxs k f }
def setCtx (s : State) (k : Nat) (c : Ctx) : State := { s with ctxs := tput s.ctxs k c }

/-- The resident context of a partition, with its key (16 R404). -/
def resident (s : State) (p : Nat) : Option (Nat × Ctx) :=
  match (part s p).resident with
  | none => none
  | some c => (ctxOf s (ctxKey p c)).map (fun x => (ctxKey p c, x))

def vcoreOf (c : Ctx) (v : Nat) : Option Vcore := tget c.vc v
def modVc (s : State) (k v : Nat) (f : Vcore → Vcore) : State :=
  modCtx s k (fun c => { c with vc := tmod c.vc v f })

/-- The pcore of a vcore (01 R29). -/
def pcoreOf (c : Ctx) (v : Nat) : Nat := c.vtab.getD v 0
/-- Package cluster of a pcore p = 54d + 9c + s (00 R9). -/
def clusterOf (pc : Nat) : Nat := pc / 9
/-- Die of a pcore. -/
def dieOf (pc : Nat) : Nat := pc / 54

/-- Clusters of a partition; a disabled one owns none (16 R401). -/
def ptnClusters (s : State) (p : Nat) : List Nat := if ptnOn s p then setBitsOf 12 (fld s (rPtnCfg p) 12 1) else []
/-- Pcores of a partition. -/
def ptnPcores (s : State) (p : Nat) : List Nat := (ptnClusters s p).flatMap (fun k => rangeFrom (9 * k) 9)
/-- The committed K of a partition (10 R241). -/
def ptnK (s : State) (p : Nat) : Nat := fld s (rDbtPeriod p) 8 4

/-- Run cycles of the current frame of a context (10 R244). -/
def frameRun (s : State) (c : Ctx) : Nat := s.run - c.frame0

/-! ### Completions (15 R388 to R390) -/

def qp (s : State) (q : Nat) : Qp := tgetD s.qps q {}
def modQp (s : State) (q : Nat) (f : Qp → Qp) : State := { s with qps := tput s.qps q (f (qp s q)) }

/-- Queues a completion of a QP, in the order in which completions arise; the QP of a disabled pair takes none. -/
def complete (s : State) (q : Nat) (c : Compl) (man : Option Nat := none) : State :=
  if (qp s q).st = 0 then s else modQp s q (fun x => { x with waiting := x.waiting ++ [(c, man)] })

/-- Body slots of a completion (15 R388). -/
def complSlots (c : Compl) : Nat := if c.kind = 1 || c.kind = 5 then 0 else (c.body.length + 63) / 64

/-- A manifest in progress: started, and its completion not yet written (15 R377, R392; DEDUCED, assumption 39). -/
def manActive (m : Man) : Bool := decide (0 < m.stage)

/-- The completion of a manifest: with QUIET and status OK none is written, and the manifest is gone (15 R378, R388). -/
def finishMan (s : State) (q seq status : Nat) (result : Bytes := []) : State :=
  match (qp s q).mans.find? (fun m => m.seq = seq) with
  | none => s
  | some m =>
    if status = 0 && bit (fieldB m.slot 1 1) 1 then modQp s q (fun x => { x with mans := x.mans.filter (fun y => y.seq ≠ seq) })
    else
      let s := modQp s q (fun x => { x with mans := x.mans.map (fun y => if y.seq = seq then { y with stage := 2 } else y) })
      complete s q { kind := 1, status := status, ctx := fieldB m.slot 2 1, id := fieldB m.slot 8 8, type := fieldB m.slot 0 1, body := padTo 40 result } (some seq)

/-! ### Streams -/

/-- What becomes of a context's stream entries when it ends: FAILED when it faults; otherwise a CLOSE is queued behind all unacknowledged data (13 R318, R319, 15 R381). Collective entries that never opened go with it. -/
def endStreams (s : State) (k : Nat) (failed : Bool) : State :=
  s.streams.foldl (fun s e =>
    if e.2.part = k / 16 && e.2.ctx = k % 16 && e.2.st ≠ .failed then
      if e.2.coll.isSome && (e.2.st = .opening || e.2.st = .listen) then { s with streams := tdel s.streams e.1 }
      else if failed then modStream s e.1 (fun x => { x with st := .failed, tx := [], rx := [] })
      else if e.2.st = .opened || e.2.st = .draining || e.2.st = .parked then closeStream s e.1
      else s
    else s) s

/-! ### Faults (09 R236 to R239) -/

def noneOr (w : Nat) (o : Option Nat) : Nat := o.getD (2 ^ w - 1)

/-- ORIGIN of a record: node, context, partition (02 R51). -/
def originOf (s : State) (k : Nat) : Nat := s.prof.node + at_ (k % 16) 20 + at_ (k / 16) 24

/-- The 64 bytes of a fault record at run time (09 R236). -/
def faultBytes (s : State) (k : Nat) (c : Ctx) (burst idx : Nat) (pr : Prob) : Bytes :=
  let pc := pr.vcore.map (pcoreOf c)
  let strm := (pr.vcore.bind (vcoreOf c)).map (·.stream)
  leBytes 2 pr.cause ++ leBytes 1 pr.unit ++ leBytes 1 ((if idx = 0 then 2 else 0) + (if s.gate then 4 else 0))
    ++ leBytes 4 (originOf s k) ++ leBytes 2 (noneOr 16 pr.vcore) ++ leBytes 1 (noneOr 8 pc) ++ leBytes 1 (noneOr 8 pr.queue)
    ++ leBytes 2 (noneOr 16 strm) ++ leBytes 2 c.prog.plan.idx ++ leBytes 4 (noneOr 32 (pr.loc.map (·.1))) ++ leBytes 4 c.frame
    ++ leBytes 8 c.step ++ leBytes 8 (part s (k / 16)).count ++ leBytes 4 (noneOr 32 (pr.loc.map (·.2)))
    ++ leBytes 2 (min burst 0xFFFF) ++ leBytes 2 idx ++ leBytes 4 pr.d0 ++ leBytes 4 pr.d1 ++ leBytes 4 pr.d2 ++ leBytes 4 pr.d3

/-- The 64 bytes of a refusal at load (09 R236): no vcore, no frame, no beat; STREAM and CIA name the offending word when one exists. -/
def refusalBytes (s : State) (k planIdx : Nat) (strm : Option Nat) (pr : Prob) : Bytes :=
  leBytes 2 pr.cause ++ leBytes 1 pr.unit ++ leBytes 1 3 ++ leBytes 4 (originOf s k) ++ leBytes 2 0xFFFF ++ leBytes 1 0xFF ++ leBytes 1 0xFF
    ++ leBytes 2 (noneOr 16 strm) ++ leBytes 2 planIdx ++ leBytes 4 (noneOr 32 (pr.loc.map (·.1))) ++ leBytes 4 0xFFFFFFFF
    ++ leBytes 8 (2 ^ 64 - 1) ++ leBytes 8 (2 ^ 64 - 1) ++ leBytes 4 (noneOr 32 (pr.loc.map (·.2)))
    ++ leBytes 2 1 ++ leBytes 2 0 ++ leBytes 4 pr.d0 ++ leBytes 4 pr.d1 ++ leBytes 4 pr.d2 ++ leBytes 4 pr.d3

/-- Record order of 09 R239: ascending VCORE with none last, then QUEUE, then CAUSE. -/
def probKey (pr : Prob) : Nat := noneOr 16 pr.vcore * 2 ^ 24 + noneOr 8 pr.queue * 2 ^ 16 + pr.cause

def insProb (pr : Prob) : List Prob → List Prob
  | [] => [pr]
  | x :: r => if probKey pr < probKey x then pr :: x :: r else x :: insProb pr r

def sortProbs (l : List Prob) : List Prob := l.foldr insProb []

/-- A region as first byte and end. -/
def regionOf (v : Nat) : Nat × Nat := (bits v 47 20 * 1048576, (bits v 47 20 + bits v 63 48) * 1048576)
/-- Whether a range lies in another. An empty one does. -/
def within (a b : Nat × Nat) : Bool := decide (a.2 ≤ a.1) || (decide (b.1 ≤ a.1) && decide (a.2 ≤ b.2))

/-- Whether the region of context c of a partition holds a seal window (18 R463, R468). -/
def winFits (s : State) (p c v : Nat) : Bool :=
  bits v 63 48 = 0 || match ctxOf s (ctxKey p c) with
    | some c => within (regionOf v) (c.hbmBase, c.hbmBase + c.hbmMib * 1048576)
    | none => false

/-- Destroys the seal key of a partition; a sealed copy in progress completes with STATE (18 R462). A copy in progress keeps in `aux` whether it is sealed. -/
def dropSeal (s : State) (p : Nat) : State :=
  match tget s.seals p with
  | none => s
  | some _ =>
    let s := setFld { s with seals := tdel s.seals p } (rSealctl p) 6 6 0
    s.qps.foldl (fun s e => if fld s (rHifQpcfg e.1) 4 2 = p then
      e.2.mans.foldl (fun s m => if m.stage = 1 && m.aux = 1 && (fieldB m.slot 0 1 = 6 || fieldB m.slot 0 1 = 7) then finishMan s e.1 m.seq 4 else s) s else s) s

/-- The manifests of a context that end with it: a START or RESTORE that has not completed, and a waiting STOW, complete with STATE; a waiting END completes with OK where the END ends it (15 R380, R381, 16 R408, R409; DEDUCED, assumption 35). -/
def endMans (s : State) (c : Ctx) (status : Nat) : State :=
  let s := match c.sman with | some n => finishMan s c.qp n 4 | none => s
  let s := match c.rman with | some (q, n) => finishMan s q n 4 | none => s
  let s := match c.stow with | some r => finishMan s r.qp r.seq 4 | none => s
  match c.ending with | some (q, n) => finishMan s q n (if status = 13 then 0 else 4) | none => s

/-- The bells that serve a context serve none: their EN falls (11 R266). -/
def freeBells (s : State) (k : Nat) : State :=
  s.bells.foldl (fun s e => if e.2.ctx = some k
    then setFld { s with bells := tput s.bells e.1 { e.2 with ctx := none } } (rBelCfg e.1) 0 0 0 else s) s

/-- Ends a context: CONTEXT_END on the START's QP, its image area and stream entries freed, its bells and requests released, BLOCKED with a ledger hold of its own, its seal key destroyed; where it was on the cores, their zeroing begins (15 R380, 16 R404, 18 R458, R462). The state returns to NONE. A context that has faulted in this cycle ends by its fault alone (09 R239). -/
def endCtx (s : State) (k status : Nat) : State :=
  match ctxOf s k with
  | none => s
  | some c =>
    if status ≠ 12 && !c.probs.isEmpty then s else
    let p := k / 16
    let s := endStreams s k (status = 12)
    let s := endMans s c status
    let s := complete s c.qp { kind := 5, status := status, ctx := k % 16, id := c.startId }
    let s := match tget s.seals p with | some q => if q.ctx = k % 16 then dropSeal s p else s | none => s
    let s := freeBells s k
    let s := if s.holds.any (fun h => h.ctx = some k && h.cause = 5 && h.unit = 9 && h.endAt.isNone) then
      modPart (setFld s (rLdgStatus p) 30 30 0) p (fun x => { x with ring := { x.ring with blockedAt := none } }) else s
    let s := { s with
      ctxs := tdel s.ctxs k
      holds := s.holds.map (fun h => if h.ctx = some k && h.endAt = none then { h with endAt := some (s.cycle + 96) } else h) }
    modPart s p (fun x => { x with
      resident := if x.resident = some (k % 16) then none else x.resident
      letIn := if x.letIn = some (k % 16) then none else x.letIn
      zeroing := x.zeroing || x.resident = some (k % 16) || c.st = 3 || c.st = 6
      ring := { x.ring with waiting := x.ring.waiting.map (fun w => if w.ctx = some k then { w with ctx := none } else w) } })

/-- The hook by which a context's step record is closed as FAULTED (02 R42); set in the ledger file. -/
def wayErrBit (cause : Nat) : Option Nat :=
  match cause with | 0x15 => some 0 | 0x16 => some 1 | 0x17 => some 2 | 0x18 => some 3 | _ => none

end Sys2Proof.Machine
end

