-- ==== Sys2Proof/Machine/Compl.lean ====
section
/-! DEFINITION. Writing completions to host memory: room, slots, phase, interrupts (15 R388 to R394). -/

namespace Sys2Proof.Machine

def qpEn (s : State) (q : Nat) : Bool := bit (rd s (rHifQpcfg q)) 0
def qpKind (s : State) (q : Nat) : Nat := fld s (rHifQpcfg q) 1 1
def qpPtn (s : State) (q : Nat) : Nat := fld s (rHifQpcfg q) 4 2
def qpSlots (s : State) (q : Nat) : Nat := 2 ^ fld s (rHifQpcfg q) 15 11

/-- Whether the completion ring has room for a completion of `n` slots in all (15 R390). -/
def cqRoom (s : State) (q n : Nat) : Bool :=
  let x := qp s q
  decide ((x.cqTail + n + 2 ^ 32 - x.cqHead) % 2 ^ 32 ≤ qpSlots s q)

/-- The header slot of a completion (15 R388). -/
def complHeader (s : State) (q : Nat) (c : Compl) : Bytes :=
  let x := qp s q
  let phase := if (x.cqTail / qpSlots s q) % 2 = 0 then 1 else 0
  padTo 64 (leBytes 1 c.kind ++ leBytes 1 phase ++ leBytes 2 (complSlots c) ++ leBytes 2 c.status
    ++ leBytes 1 (if c.kind = 1 then c.type else 0) ++ leBytes 1 c.ctx ++ leBytes 8 c.id ++ leBytes 4 x.sqHead ++ leBytes 4 0
    ++ (if c.kind = 1 then c.body else []))

/-- Writes the body slots of a completion, from slot count `t`. -/
def writeBody (s : State) (q t : Nat) : List Bytes → State
  | [] => s
  | b :: r => writeBody (hostWrite s (rd s (rHifCqbase q) + t % qpSlots s q * 64) (padTo 64 b)) q (t + 1) r

/-- Announces a written header under the coalescing of the QP (15 R394). -/
def announce (s : State) (q : Nat) : State :=
  let x := qp s q
  let n := x.unann + 1
  let cnt := fld s (rHifQpcfg q) 31 24
  if cnt = 0 || n ≥ cnt then
    sendMsix (modQp s q (fun y => { y with unann := 0 })) (fld s (rHifQpcfg q) 22 16)
  else modQp s q (fun y => { y with unann := n, unannAt := if y.unann = 0 then s.cycle else y.unannAt })

/-- Writes one completion: body slots first, then the header slot, then CQ_TAIL advances (15 R390). -/
def writeCompl (s : State) (q : Nat) (c : Compl) : State :=
  let t := (qp s q).cqTail
  let n := complSlots c
  let hdr := complHeader s q c
  let s := if c.kind = 1 then s else writeBody s q (t + 1) (chunksB 64 n c.body)
  let s := hostWrite s (rd s (rHifCqbase q) + t % qpSlots s q * 64) hdr
  announce (modQp s q (fun x => { x with cqTail := (t + 1 + n) % 2 ^ 32 })) q

/-- Counts the end of a job when its completion is written (16 R421). -/
def countJob (s : State) (q : Nat) (c : Compl) : State :=
  if c.kind = 5 then (if c.status = 12 then satFld s (rPtnAcctb q) 63 32 1 else satFld s (rPtnAccta q) 63 32 1)
  else if c.kind = 1 && c.type = 1 && c.status = 5 then satFld s (rPtnAcctb q) 63 32 1
  else s

/-- Writes the oldest waiting completion of a QP if its ring has room; a manifest that it ends is gone then (15 R387, R390). -/
def writeNext (s : State) (q : Nat) : State :=
  match (qp s q).waiting with
  | [] => s
  | (c, m) :: rest =>
    if !qpEn s q || !cqRoom s q (1 + complSlots c) then s
    else
      let s := modQp s q (fun x => { x with waiting := rest, mans := match m with | some n => x.mans.filter (fun y => y.seq ≠ n) | none => x.mans })
      countJob (writeCompl s q c) q c

/-- Writes every waiting completion that has room. -/
def flushQp : Nat → State → Nat → State
  | 0, s, _ => s
  | n + 1, s, q => flushQp n (writeNext s q) q

end Sys2Proof.Machine
end

