-- ==== Sys2Proof/Machine/Ledger.lean ====
section
/-! DEFINITION. The ledger: the record of a step, its entries, its ring and its stream to the host (chapter 02, 15 R395). -/

namespace Sys2Proof.Machine

/-- Changes the open record of a context, if one is open (02 R500). -/
def modRec (s : State) (k : Nat) (f : LRec → LRec) : State :=
  modCtx s k (fun c => { c with open_ := c.open_.map f })

/-- Sets a FLAGS bit of the open record. -/
def recFlag (s : State) (k b : Nat) : State := modRec s k (fun r => { r with flags := r.flags ||| 2 ^ b })

/-- XORs digests into those formed for a layer shard, which begin at zero (02 R52, 08 R202). -/
def recLayer (s : State) (k layer shard w g o : Nat) : State :=
  modRec s k (fun r =>
    if r.layers.any (fun e => e.layer = layer && e.shard = shard) then
      { r with layers := r.layers.map (fun e => if e.layer = layer && e.shard = shard then { e with w := e.w ^^^ w, g := e.g ^^^ g, o := e.o ^^^ o } else e) }
    else { r with layers := r.layers ++ [⟨layer, shard, 1, w, g, o⟩] })

/-- Counts a VAR use (02 R49, R50): one entry for each class, vcore and layer, the 256th and later folded. -/
def recVar (s : State) (k cls engine v layer frame dig : Nat) : State :=
  let s := recFlag s k (if cls = 3 then 3 else 2)
  modRec s k (fun r =>
    if r.vars.any (fun e => e.cls = cls && e.vcore = v && e.layer = layer) then
      { r with vars := r.vars.map (fun e => if e.cls = cls && e.vcore = v && e.layer = layer
          then { e with count := e.count + 1, dig := e.dig ^^^ dig } else e) }
    else if r.vars.length < 255 then { r with vars := r.vars ++ [⟨cls, engine, v, layer, frame, 1, dig⟩] }
    else if r.vars.any (fun e => e.cls = 0xFF) then
      { r with vars := r.vars.map (fun e => if e.cls = 0xFF then { e with count := e.count + 1, dig := e.dig ^^^ dig } else e) }
    else { r with flags := r.flags ||| 2 ^ 10, vars := r.vars ++ [⟨0xFF, 0xFF, 0xFFFF, 0xFFFFFFFF, frame, 1, dig⟩] })

def layerBytes (e : LayerEnt) : Bytes :=
  leBytes 4 e.layer ++ leBytes 2 e.shard ++ leBytes 2 e.shards ++ leBytes 8 e.w ++ leBytes 8 e.g ++ leBytes 8 e.o

def varBytes (e : VarEnt) : Bytes :=
  leBytes 1 e.cls ++ leBytes 1 e.engine ++ leBytes 2 e.vcore ++ leBytes 4 e.layer ++ leBytes 4 e.firstFrame ++ leBytes 4 0
    ++ leBytes 8 e.count ++ leBytes 8 e.dig

/-- Inserts a layer shard into a list that rises by layer and then by shard. -/
def insShard (e : LayerEnt) : List LayerEnt → List LayerEnt
  | [] => [e]
  | x :: r => if e.layer < x.layer || (e.layer = x.layer && decide (e.shard < x.shard)) then e :: x :: r else x :: insShard e r

/-- The layer shards that a device holds, ascending by layer and then by shard, with no digest formed: LENTRIES of them (02 R52). A job of one device holds every layer whole; the container does not say how a plan of several cuts them (assumption 9). -/
def heldShards (c : Ctx) : List LayerEnt :=
  let n := c.prog.plan.lentries
  let whole := c.prog.layers.map (fun x => LayerEnt.mk x.layer 0 1 0 0 0)
  let cut := (List.range n).map (fun i =>
    let x := Config.heldShard c.prog.hash c.prog.plan.idx c.rank i
    let m := 1 + x.2.2 % 65535
    LayerEnt.mk ((c.prog.layers[x.1 % c.prog.layers.length]?).elim 0 (·.layer)) (x.2.1 % m) m 0 0 0)
  ((if c.prog.plan.devices ≤ 1 then whole else cut).foldl (fun l e => insShard e l) []).take n

/-- The shard of a layer to which an element of the layer's image belongs on this device. -/
def shardAt (c : Ctx) (layer pos : Nat) : Nat :=
  let l := (heldShards c).filter (fun e => e.layer = layer)
  (l[Config.shardAt c.prog.hash c.prog.plan.idx c.rank layer pos % l.length]?).elim 0 (·.shard)

/-- The layer entries of a record: one for each shard the device holds, with zero for the digests that no operation formed for it, and none for a layer of which the device holds nothing (02 R52). -/
def recLayers (c : Ctx) (r : LRec) : List LayerEnt :=
  (heldShards c).map (fun e => match r.layers.find? (fun f => f.layer = e.layer && f.shard = e.shard) with
    | some f => { e with w := f.w, g := f.g, o := f.o }
    | none => e)

/-- UNIT_MAP (02 R51). -/
def unitMapOf (s : State) : Nat := s.unitMap

/-- A ledger record but for SEQ, EPOCH and RECORD_CRC, which the ring gives (02 R51). A FAULTED record has no layer entries (02 R42); SHIELD hides the holds (18 R467). -/
def recordBody (s : State) (k : Nat) (c : Ctx) (r : LRec) (faulted : Bool) : Bytes :=
  let ls := if faulted then [] else recLayers c r
  let len := 8 + ls.length + r.vars.length
  let shield := bit (rd s (rTctl (k / 16))) 0
  let fl := r.flags ||| (if c.prog.canon then 1 else 0) ||| (if faulted then 2 ^ 8 else 0)
  leBytes 4 0 ++ leBytes 2 0 ++ leBytes 2 len ++ leBytes 4 fl ++ leBytes 4 (originOf s k) ++ leBytes 8 r.step ++ leBytes 8 (rd s rArv)
    ++ padTo 48 c.prog.hash ++ padTo 16 c.seed ++ leBytes 8 r.genBase ++ leBytes 8 r.beatFirst ++ leBytes 1 r.k ++ leBytes 1 c.prog.plan.idx
    ++ leBytes 2 c.prog.plan.vcores ++ leBytes 4 c.prog.plan.devices ++ leBytes 4 c.prog.frames ++ leBytes 4 r.stretches
    ++ (List.range 8).flatMap (fun i => leBytes 4 (if shield then 0 else tgetD r.holds i 0)) ++ leBytes 8 (if shield then r.held / 1024 * 1024 else r.held) ++ leBytes 8 r.run ++ leBytes 8 r.inDig ++ leBytes 8 r.lossDig
    ++ leBytes 4 ls.length ++ leBytes 4 r.vars.length ++ leBytes 4 s.fw.version ++ leBytes 4 (rd s rRotcfg) ++ leBytes 8 c.prog.coverId
    ++ leBytes 16 (unitMapOf s) ++ leBytes 16 0 ++ leBytes 8 0 ++ ls.flatMap layerBytes ++ r.vars.flatMap varBytes

/-- Closes the open record of a context: it waits for its place in the ring. Steps that end while EN is 0 have no record (02 R59). -/
def closeRec (s : State) (k : Nat) (faulted live : Bool) : State :=
  match ctxOf s k with
  | none => s
  | some c =>
    match c.open_ with
    | none => s
    | some r =>
      let p := k / 16
      let s' := setCtx s k { c with open_ := none }
      if bit (rd s (rLdgCtrl p)) 0 then
        modPart s' p (fun x => { x with ring := { x.ring with waiting := x.ring.waiting ++ [⟨recordBody s k c r faulted, if live then some k else none⟩] } })
      else s'

/-- Opens the record of the step that begins (02 R51, R500). -/
def openRec (s : State) (k : Nat) : State :=
  modCtx s k (fun c => { c with open_ := some { step := c.step, genBase := c.gen, beatFirst := (part s (k / 16)).count, k := ptnK s (k / 16) } })

/-- Bytes of a ring. -/
def ringLen (s : State) (p : Nat) : Nat := fld s (rLdgSize p) 18 0 * 65536
def ringBase (s : State) (p : Nat) : Nat := fld s (rLdgBase p) 47 16 * 65536
def ringUsed (r : Ring) : Nat := r.written.foldl (fun a e => a + e.2.1) 0

/-- The bytes a record needs in the ring from `w`, with the pad before it if it does not fit before the end (02 R56). -/
def ringNeed (len w n : Nat) : Nat := if len - w < n then len - w + n else n

/-- Sets SPTR from what is outstanding (02 LDG_STATUS). -/
def syncPtr (s : State) (p : Nat) : State :=
  let r := (part s p).ring
  let w := fld s (rLdgStatus p) 29 0
  let sp := match r.written with | [] => w | e :: _ => e.1 / 32
  setFld s (rLdgStatus p) 61 32 sp

/-- Writes the next waiting record of partition p into its ring, a pad record first where it does not fit before the end; the caller has checked the room (02 R56, R57). -/
def ringPut (s : State) (p : Nat) : State :=
  let x := (part s p).ring
  match x.waiting with
  | [] => s
  | wt :: rest =>
    let len := ringLen s p
    let base := ringBase s p
    let w := fld s (rLdgStatus p) 29 0 * 32
    let n := wt.body.length
    let padN := if len - w < n then len - w else 0
    let origin := sliceB wt.body 12 4
    let s := if padN = 0 then s
      else devWrite s (base + w) (leBytes 4 x.seq ++ leBytes 2 x.epoch ++ leBytes 2 (padN / 32) ++ leBytes 4 (2 ^ 9) ++ origin)
    let at0 := if padN = 0 then w else 0
    let b0 := leBytes 4 x.seq ++ leBytes 2 x.epoch ++ wt.body.drop 6
    let b := spliceB b0 0xF8 (leBytes 8 (crc64 b0))
    let s := devWrite s (base + at0) b
    let seq' := (x.seq + 1) % 2 ^ 32
    let w' := if at0 + n ≥ len then 0 else at0 + n
    let stream := bit (rd s (rLdgCtrl p)) 1
    let outst := if stream then x.written ++ (if padN = 0 then [] else [(w, padN, true)]) ++ [(at0, n, false)] else []
    let s := modPart s p (fun y => { y with ring := { y.ring with
      waiting := rest, written := outst, seq := seq', epoch := if seq' = 0 then (x.epoch + 1) % 65536 else x.epoch, blockedAt := none } })
    syncPtr (setFld (setFld s (rLdgStatus p) 29 0 (w' / 32)) (rLdgStatus p) 30 30 0) p

/-- Whether the next waiting record has room: it runs over no byte that is not streamed; once all are, the ring takes any record that it can hold (02 R58, R59). -/
def ringRoom (s : State) (p : Nat) : Bool :=
  let x := (part s p).ring
  match x.waiting with
  | [] => true
  | wt :: _ =>
    let w := fld s (rLdgStatus p) 29 0 * 32
    decide (ringUsed x + ringNeed (ringLen s p) w wt.body.length ≤ ringLen s p) || (x.written.isEmpty && decide (wt.body.length ≤ ringLen s p))

/-- The enabled ledger QP of a partition (15 R376). -/
def ledgerQp (s : State) (p : Nat) : Option Nat :=
  (List.range 64).find? (fun q => qpEn s q && qpKind s q = 1 && qpPtn s q = p)

/-- A ledger record as it streams: zeros for poisoned units (12 R306). -/
def streamBytes (s : State) (a n : Nat) : Bytes :=
  (List.range n).map (fun i => if s.poison.contains ((a + i) / 64) then 0 else memGet s.mem (a + i))

/-- Drops the pad records at the head of what is outstanding. -/
def dropPads : List (Nat × Nat × Bool) → List (Nat × Nat × Bool)
  | [] => []
  | e :: r => if e.2.2 then dropPads r else e :: r

/-- Ends the backpressure holds of a partition in this cycle, those too that have begun to return (02 R59). -/
def endBackpressure (s : State) (p : Nat) : State :=
  let s := { s with holds := s.holds.map (fun h => if h.cause = 5 && h.unit = 9 && h.term = p then { h with endAt := some (min s.cycle (h.endAt.getD s.cycle)) } else h) }
  modPart (setFld s (rLdgStatus p) 30 30 0) p (fun x => { x with ring := { x.ring with blockedAt := none } })

end Sys2Proof.Machine
end

