-- ==== Sys2Proof/Machine/Faults.lean ====
section
/-! DEFINITION. The faults of a context in one cycle: its records in order, its ledger record FAULTED, its end (09 R236 to R239, 02 R42). -/

namespace Sys2Proof.Machine

/-- Sets the sticky waystation error bit that a fault of a waystation cause leaves (08 MEM_WSERR). -/
def noteWayErr (s : State) (c : Ctx) (pr : Prob) : State :=
  match wayErrBit pr.cause, pr.vcore with
  | some b, some v => orReg s (rMemWserr (clusterOf (pcoreOf c v))) (2 ^ b)
  | _, _ => s

/-- A context raises faults, with `extra` reports. It stops with this cycle, in which it may raise more (09 R239). -/
def faultCtx (s : State) (k : Nat) (probs : List Prob) (extra : List Compl := []) : State :=
  modCtx s k (fun c => { c with probs := c.probs ++ probs, reports := c.reports ++ extra })

/-- Run cycles of a frame: to its completion (02 R51). -/
def runOf (s : State) (c : Ctx) : Nat := c.frameDone.getD s.run - c.frame0

/-- Whether a request keeps the gates closed in this cycle (10 R247). -/
def holdActs (s : State) (h : Hold) : Bool :=
  decide (h.u ≤ s.run) && (match h.endAt with | none => true | some e => decide (s.cycle < e))

/-- The lowest cause among the requests that act. -/
def firstCause (s : State) : Nat := ((s.holds.filter (holdActs s)).foldl (fun a h => min a h.cause) 8)

/-- Books the frame in which a resident context faults: its run cycles, the cycle that ends where that is held, and the hold that begins in it (02 R51, 10 R251). -/
def bookFault (s : State) (k : Nat) (c : Ctx) : State :=
  let r := if c.began then runOf s c else 0
  let i := firstCause s
  let s := modRec s k (fun x => { x with run := x.run + r, held := x.held + b2n s.gate
                                         holds := if s.gate && !s.heldLast then tput x.holds i (satAdd 32 (tgetD x.holds i 0) 1) else x.holds })
  modPart s (k / 16) (fun x => { x with trun := x.trun + r, theld := x.theld + (rd s rDbtHeld - x.held0) })

/-- Books the frame that ends: run cycles of the step and of the partition; the record of a step closes with its last frame. -/
def bookFrame (s : State) (k : Nat) (c : Ctx) (live : Bool) : State :=
  let s := modRec s k (fun r => { r with run := r.run + runOf s c })
  let s := modPart s (k / 16) (fun x => { x with trun := x.trun + runOf s c, theld := x.theld + (rd s rDbtHeld - x.held0) })
  if c.stepMarked then closeRec s k false live else s

/-- Ends a context that has faulted in the cycle that ends: up to 16 records in the order of 09 R239, its reports, the ledger record FAULTED and CONTEXT_END. -/
def settleFault (s : State) (k : Nat) (c : Ctx) : State :=
  let l := sortProbs c.probs
  let s := if (part s (k / 16)).resident = some (k % 16) then bookFault s k c else s
  let s := l.foldl (fun s pr => noteWayErr s c pr) s
  let recs := (List.range (min 16 l.length)).map (fun i =>
    (({ kind := 2, status := 0, ctx := k % 16, id := c.startId,
        body := faultBytes s k c l.length i (l.getD i { cause := 0, unit := 0 }) } : Compl)))
  let s := (recs ++ c.reports).foldl (fun s x => complete s c.qp x) s
  endCtx (closeRec s k true false) k 12

/-- Ends every context that has faulted in the cycle that ends. -/
def settleFaults (s : State) : State :=
  (tkeys s.ctxs).foldl (fun s k => match ctxOf s k with
    | some c => if c.probs.isEmpty then s else settleFault s k c
    | none => s) s

/-- Faults a context with one problem. -/
def fault1 (s : State) (k : Nat) (pr : Prob) : State := faultCtx s k [pr]

/-- Location of the running entry of an engine queue of a vcore: its CIA and TAG (09 R236). -/
def runLoc (vc : Vcore) (q : Nat) : Option (Nat × Nat) :=
  match (tgetD vc.running q []).getLast? with
  | some e => some (e.cia, bits e.word.toNat 127 96)
  | none => none

/-- The entry of the SDM queue that an operation in progress is of: 2^32 − 1 where none runs. -/
def runCia (vc : Vcore) : Nat := match runLoc vc 3 with | some l => l.1 | none => 2 ^ 32 - 1

/-- A problem of an engine operation. -/
def engProb (vc : Vcore) (v unit q cause : Nat) (d0 d1 d2 d3 : Nat := 0) : Prob :=
  { cause := cause, unit := unit, vcore := some v, queue := some q, loc := runLoc vc q, d0 := d0, d1 := d1, d2 := d2, d3 := d3 }

/-- The unmapped-address problem of a scratchpad access of `n` bytes at offset `off` that runs past the scratchpad: the virtual address of the first byte at or beyond 0x30_0000 (09 R238). Callers give n = 64, the bank access of 01 R12 (DEDUCED, assumption 49). -/
def spProb (vc : Vcore) (v unit q off n : Nat) : Prob :=
  let a := vspBase v + max off spLimit
  engProb vc v unit q 6 (a % 2 ^ 32) (a / 2 ^ 32) n

/-- Runs an engine operation for the resident context of a partition. Where no context is resident, or the vcore has halted or is not of the plan, no such operation arises and nothing changes (DESIGN CHOICE, assumption 1). -/
def onVcore (s : State) (p v : Nat) (f : Nat → Ctx → Vcore → State) : State :=
  match resident s p with
  | some (k, c) => match vcoreOf c v with
    | some vc => if vc.cond = .halted then s else f k c vc
    | none => s
  | none => s

/-- Whether the engines stand: the hold gates are closed (10 R248), or a power state has gated their clock (19 R471). -/
def stands (s : State) : Bool := s.gate || !clocked s

/-- What an engine does for a vcore on its own; the gates stop it (10 R248). -/
def onGate (s : State) (p v : Nat) (f : Nat → Ctx → Vcore → State) : State := if stands s then s else onVcore s p v f

/-- The running entry of queue q that carries an operation. -/
def entryOf (vc : Vcore) (q o : Nat) : Option Entry := (tgetD vc.running q []).find? (fun e => bits e.word.toNat 255 128 = o)

/-- Whether an engine carries out an operation now: its entry has started, in the order of its queue and past the interlocks, and has not ended. One that comes by no queue, the queue holding nothing, is carried out as it comes (09 R228, 04 R111; DESIGN CHOICE, assumption 12). -/
def opTakes (vc : Vcore) (q o : Nat) : Bool := (entryOf vc q o).isSome || (tgetD vc.queues q [] = [] && tgetD vc.running q [] = [])

/-- The vcore as an operation sees it: the slots are those that its entry read as it started, in the VSE and for an RFILL (06 R140). -/
def opVc (vc : Vcore) (q o : Nat) : Vcore :=
  match entryOf vc q o with
  | some e => if q = 1 || (q = 3 && bits o 5 0 = 0x30) then { vc with slots := e.slots } else vc
  | none => vc

/-- Runs the operation of an entry of queue q. -/
def onEngine (s : State) (p v q o : Nat) (f : Nat → Ctx → Vcore → State) : State :=
  onGate s p v (fun k c vc => if opTakes vc q o then f k c (opVc vc q o) else s)

/-- Runs an operation of a CRU for the resident context of a partition. -/
def onCru (s : State) (p : Nat) (f : Nat → Ctx → State) : State :=
  if stands s then s else match resident s p with | some (k, c) => f k c | none => s

end Sys2Proof.Machine
end

