-- ==== Sys2Proof/Machine/Hold.lean ====
section
/-! DEFINITION. The hold: requests, the gate rule, its counting, its end (10 R246 to R251, 09 R225, R226), and the installed cover table (09 R223, R224). -/

namespace Sys2Proof.Machine

/-! ### Covers -/

/-- The entry of a partition's installed cover table (09 R223, R224). -/
def coverEnt (s : State) (p unit term variant : Nat) : Option CoverEnt :=
  match s.fw.covers.find? (fun t => t.id = tgetD s.coverOf p 0) with
  | some t => t.ents.find? (fun e => e.unit = unit && e.term = term && e.variant = variant)
  | none => none

/-- The covers of the chapters' tables: SDM, HBM, ledger memory, network, CTE, chimes and bells (13 R344, 12 R300, 14 R367, 11 R278); each table of the firmware is an extract of one that holds them (09 R222). -/
def chapterCover (unit term variant : Nat) : Nat :=
  match unit, term with
  | 3, 0 => 8 | 3, 1 => 1
  | 8, 0 => 470 | 8, 1 => 380 | 8, 2 => 112
  | 9, 0 => 640 | 9, 1 => 540
  | 10, 0 => 120 | 10, 1 => 300 | 10, 2 => 160 | 10, 3 => 90 | 10, 4 => 7600
  | 11, 0 => 40 | 11, 1 => 1200 | 11, 2 => 640
  | 13, 0 => 2 | 13, 1 => 10 | 13, 2 => 28 | 13, 3 => 110 | 13, 4 => 1 | 13, 5 => 16 | 13, 6 => 1200 + 640 * variant
  | _, _ => 0
/-- Their TOL values; 0 means no limit. -/
def chapterTol (unit term : Nat) : Nat := match unit with | 8 => 262144 | 9 => 1048576 | 10 => 4194304 | 13 => if term = 4 then 1048576 else 0 | _ => 0

/-- The cover of a term under a partition's installed table. -/
def coverOr (s : State) (p unit term variant : Nat) : Nat := match coverEnt s p unit term variant with | some e => e.cover | none => chapterCover unit term variant
/-- Its TOL. -/
def tolOr (s : State) (p unit term variant : Nat) : Nat := match coverEnt s p unit term variant with | some e => e.tol | none => chapterTol unit term

/-- The cover of a transfer of B bytes of HBM or ledger memory: C = L + ⌈B / R⌉ − 1, and L_HX for the other die's half (12 R300). -/
def transferCover (s : State) (p unit term bytes : Nat) (other : Bool) : Nat :=
  coverOr s p unit term 0 + (if unit = 8 && other then coverOr s p 8 2 0 else 0) + (bytes + (if unit = 8 then 64 else 32) - 1) / (if unit = 8 then 64 else 32) - 1

/-- The delay of a signal from pcore a to pcore b, of one vcore or of two, as covers: terms 0 to 3 (11 R262, R278). -/
def sigDelay (s : State) (p a b : Nat) (own : Bool) : Nat :=
  coverOr s p 13 (if own then 0 else if clusterOf a = clusterOf b then 1 else if dieOf a = dieOf b then 2 else 3) 0

/-! ### Requests and the gate -/

/-- Requests that will never act again. -/
def holdDone (s : State) (h : Hold) : Bool := match h.endAt with | some e => decide (e ≤ s.cycle) | none => false

/-- Counts a hold under a cause: DBT_HOLDCNT and the HOLDS entry of every running context (10 R250, R251). -/
def countHold (s : State) (cause : Nat) : State :=
  let s := setReg s (rDbtHoldcnt cause) (rd s (rDbtHoldcnt cause) + 1)
  s.parts.foldl (fun s e => match resident s e.1 with
    | some (k, _) => modRec s k (fun r => { r with holds := tput r.holds cause (satAdd 32 (tgetD r.holds cause 0) 1) })
    | none => s) s

/-- Brings the gates to what the rule says in this cycle (10 R247). -/
def gateEval (s : State) : State := { s with gate := s.holds.any (holdActs s), holds := s.holds.filter (fun h => !holdDone s h) }

/-- Raises a hold request (10 R246); a context with one outstanding is not stalled (11 R276). -/
def raiseHold (s : State) (unit term cause obj : Nat) (ctx : Option Nat) (u tol : Nat) (endAt : Option Nat := none) : State :=
  let s := match ctx with | some k => modCtx s k (fun c => { c with stall := 0 }) | none => s
  { s with holds := s.holds ++ [⟨s.nextHold, unit, term, cause, obj, ctx, u, endAt, 0, tol⟩], nextHold := s.nextHold + 1 }

/-- The owed results that `f` picks enter the fixed return path in this cycle (10 R247). -/
def returnHolds (s : State) (f : Hold → Bool) : State :=
  { s with holds := s.holds.map (fun h => if h.endAt = none && f h then { h with endAt := some (s.cycle + 96) } else h) }

/-- HOLD_GATE_CLOSE: the gates close in the cycle in which the rule says so (10 R247). -/
def execHoldGateClose (s : State) : Res := .next (if s.holds.any (holdActs s) then gateEval s else s)
/-- HOLD_GATE_OPEN: the gates open in the first cycle in which no request acts (10 R247). -/
def execHoldGateOpen (s : State) : Res := .next (if s.holds.any (holdActs s) then s else gateEval s)

/-- HOLD_TOL_FAULT: held cycles on one late result exceed the TOL of its cover entry (10 R249, 09 R226). -/
def execHoldTolFault (id : Nat) (s : State) : Res :=
  match s.holds.find? (fun h => h.id = id) with
  | none => .next s
  | some h => match h.ctx with
    | none => .next s
    | some k =>
      if h.tol = 0 || h.endAt.isSome || h.held ≤ h.tol then .next s
      else .next (fault1 s k { cause := 0xE, unit := h.unit, d0 := h.unit * 256 + h.term, d1 := h.tol, d2 := h.held })

/-- One held cycle: HELD of the package, of each running context's step, and of each request; the first of a hold counts it, under the lowest cause that closed the gates (10 R251). -/
def heldCycle (s : State) : State :=
  let s := if s.heldLast then s else countHold s (firstCause s)
  let s := setReg s rDbtHeld (rd s rDbtHeld + 1)
  let s := s.parts.foldl (fun s e => match resident s e.1 with
    | some (k, _) => modRec s k (fun r => { r with held := r.held + 1 })
    | none => s) s
  { s with holds := s.holds.map (fun h => if holdActs s h then { h with held := h.held + 1 } else h) }

end Sys2Proof.Machine
end

