-- ==== Sys2Proof/Machine/Tally.lean ====
section
/-! DEFINITION. Tally sums: exponent, quantisation, codes, conversion, and the stages of a sum in the cluster reduce units (chapter 05). -/

namespace Sys2Proof.Machine

/-- The exponent byte of one addend value (05 R118, R119). -/
def expByte (n : Nat) : Nat :=
  match f32 n with
  | .fin _ m e => if m = 0 then 0 else ((max (flog2 m e + 1) (-125)) + 126).toNat
  | _ => 0

/-- The exponent byte of a block of addends (05 R119). -/
def blockByte (l : List TElem) : Nat := l.foldl (fun a e => max a (expByte e.1)) 0

/-- The block exponent that a byte names; 0x00 gives −125 (05 R119). -/
def byteExp (b : Nat) : Int := if b = 0 then -125 else (b : Int) - 126

/-- The element code of an addend element (05 R122). -/
def elemCode (e : TElem) : Nat :=
  (match f32 e.1 with | .nan => 3 | .inf n => if n then 2 else 1 | _ => 0) + 4 * b2n e.2 + 8 * b2n (decide (e.1 ≠ 0x80000000))

/-- A quantised element: the integer, whether bits were discarded, whether it was clamped (05 R120, R121). -/
def quantise (t32 : Bool) (ex : Int) (n : Nat) : Int × Bool × Bool :=
  match f32 n with
  | .fin neg m e =>
    if m = 0 then (0, false, false)
    else
      let (u, exact) := rneUnits m e (if t32 then ex - 11 else ex - 43)
      let cl := t32 && decide (u > 2047)
      let u := if cl then 2047 else u
      (if neg then -(u : Int) else u, !exact, cl)
  | _ => (0, false, false)

/-- The result of an element: FP32 code, poison, and whether the rounding overflowed (05 R124). -/
def tallyResult (t32 : Bool) (ex z : Int) (code : Nat) : Nat × Bool × Bool :=
  let po := bit code 2
  match bits code 1 0 with
  | 3 => (0x7FC00000, po, false)
  | 1 => (infCode .fp32 false, po, false)
  | 2 => (infCode .fp32 true, po, false)
  | _ =>
    if z = 0 then (if bit code 3 then 0 else 0x80000000, po, false)
    else
      let (c, ov) := rne32 (.fin (decide (z < 0)) z.natAbs (if t32 then ex - 11 else ex - 43))
      (c, po, ov)

/-! ### Descriptors and reservations -/

def tDesc (c : Ctx) (tag : Nat) : Option TallyDesc := c.prog.tallies.find? (fun d => d.tag = tag)
def tT32 (d : TallyDesc) : Bool := d.fmt = 1
def tLocalN (d : TallyDesc) (cl : Nat) : Nat := bits (d.plan.getD cl 0) 20 0
def tOwnerOf (d : TallyDesc) (cl : Nat) : Nat := if d.scope = 0 then cl else bits (d.plan.getD cl 0) 24 21
def tLines (d : TallyDesc) (cl : Nat) : Nat := bits (d.plan.getD cl 0) 39 25
def tBase (d : TallyDesc) (cl : Nat) : Nat := bits (d.plan.getD cl 0) 53 40
/-- Tally blocks of a sum. -/
def tBlocks (d : TallyDesc) : Nat := d.blocks + 1
def accLines (d : TallyDesc) : Nat := if tT32 d then 18 else 34

/-- The clusters that take part in the sum that cluster cl belongs to (05 R130, R132). -/
def tParties (d : TallyDesc) (cl : Nat) : List Nat :=
  if d.scope = 0 then [cl] else (List.range 12).filter (fun x => tLocalN d x ≠ 0)

def sumKey (cl tag : Nat) : Nat := cl * 65536 + tag
def sumOf (c : Ctx) (cl tag : Nat) : Option TSum := tget c.sums (sumKey cl tag)
def stagedOf (x : TSum) : Nat := x.blks.foldl (fun a b => a + b.2.staged.length) 0

/-- Lines a sum uses in a cluster: staged blocks, then accumulators (05 R131). -/
def sumLines (d : TallyDesc) (x : TSum) : Nat := 17 * stagedOf x + (if x.stage ≥ 4 then accLines d * tBlocks d else 0)

/-- Lines in use in a cluster by the resident context of its partition. -/
def tallyUsed (s : State) (cl : Nat) : Nat :=
  s.parts.foldl (fun a e => match resident s e.1 with
    | some (_, c) => c.sums.foldl (fun a x => if x.1 / 65536 = cl then
        a + (match tDesc c (x.1 % 65536) with | some d => sumLines d x.2 | none => 0) else a) a
    | none => a) 0

/-- Brings USED and PEAK of CTE_TSTORE up to date (05 CTE_TSTORE). -/
def syncTstore (s : State) (cl : Nat) : State :=
  let u := tallyUsed s cl
  setFld (setFld s (rCteTstore cl) 14 0 u) (rCteTstore cl) 30 16 (max u (fld s (rCteTstore cl) 30 16))

/-- Raises tally flags in the cluster's register and in the context's copy (05 R138). -/
def tallyFlags (s : State) (k cl f : Nat) : State :=
  if f = 0 then s else modCtx (orReg s (rCteTstat cl) f) k (fun c => { c with tflags := tput c.tflags cl (tgetD c.tflags cl 0 ||| f) })

/-- A problem of a cluster reduce unit (05 R133). -/
def cruProb (cause d0 d1 d2 : Nat) : Prob := { cause := cause, unit := 6, d0 := d0, d1 := d1, d2 := d2 }

/-! ### Stage 1: staging (05 R131 to R133) -/

/-- Another live sum whose reservation overlaps in the cluster. -/
def overlapLive (c : Ctx) (d : TallyDesc) (cl : Nat) : Bool :=
  c.sums.any (fun e => e.1 / 65536 = cl && e.1 % 65536 ≠ d.tag && (match tDesc c (e.1 % 65536) with
    | some x => decide (tBase x cl < tBase d cl + tLines d cl) && decide (tBase d cl < tBase x cl + tLines x cl)
    | none => false))

/-- The check of an arriving addend block: its problem, if any. -/
def addendBad (c : Ctx) (f : Flight) : Option Prob :=
  match tDesc c f.tag with
  | none => some (cruProb 0x12 f.tag f.block f.sender)
  | some d =>
    let x := (sumOf c f.cluster f.tag).getD {}
    if f.block > d.blocks then some (cruProb 0x12 f.tag f.block f.sender)
    else if x.stage ≠ 1 || (tgetD x.blks f.block {}).staged.length ≥ tLocalN d f.cluster then some (cruProb 0x12 f.tag f.block f.sender)
    else if overlapLive c d f.cluster then some (cruProb 0x14 f.tag f.block 0)
    else if 17 * (stagedOf x + 1) > tLines d f.cluster then some (cruProb 0x14 f.tag f.block 0)
    else none

/-- The flags an addend raises at staging: NONFINITE. -/
def addendFlags (l : List TElem) : Nat := if l.any (fun e => bits (elemCode e) 1 0 ≠ 0) then 8 else 0

/-- Local bytes of a sum, by block. -/
def localBytes (d : TallyDesc) (x : TSum) : Tbl Nat :=
  (List.range (tBlocks d)).map (fun j => (j, (tgetD x.blks j {}).staged.foldl (fun a l => max a (blockByte l)) 0))

/-- Sets a sum of cluster cl. -/
def putSum (s : State) (k cl tag : Nat) (x : TSum) : State := modCtx s k (fun c => { c with sums := tput c.sums (sumKey cl tag) x })
def modSum (s : State) (k cl tag : Nat) (f : TSum → TSum) : State :=
  modCtx s k (fun c => { c with sums := tmod c.sums (sumKey cl tag) f })

/-- Maximum of two tables of bytes. -/
def maxBytes (a b : Tbl Nat) : Tbl Nat := b.foldl (fun t e => tput t e.1 (max (tgetD t e.1 0) e.2)) a

/-- Puts the final bytes and the count on every cluster that takes part; a count above 2^20 faults with *tally addend limit* (05 R126, R132). -/
def finalBytes (s : State) (k : Nat) (d : TallyDesc) (own : Nat) (bytes : Tbl Nat) (cnt : Nat) : State :=
  if cnt > 2 ^ 20 then fault1 s k (cruProb 0x13 d.tag cnt 0)
  else if bytes.any (fun e => e.2 = 0xFF) then fault1 s k (cruProb 0x12 d.tag ((bytes.find? (fun e => e.2 = 0xFF)).map (·.1) |>.getD 0) 0)
  else (tParties d own ++ [own]).foldl (fun s cl => modSum s k cl d.tag (fun x => { x with stage := if x.stage < 3 then 3 else x.stage, stageAt := if x.stage < 3 then s.run else x.stageAt, fexp := bytes, cnt := cnt })) s

/-- TALLY_ADDEND: the i-th addend block on its way arrives at its CRU (05 R132 stage 1 and 2). -/
def doAddend (s : State) (k : Nat) (c : Ctx) (i : Nat) : State :=
  match c.flights[i]? with
  | none => s
  | some f =>
    let s := modCtx s k (fun c => { c with flights := c.flights.eraseIdx i })
    match addendBad c f, tDesc c f.tag with
    | some pr, _ => fault1 s k pr
    | none, none => s
    | none, some d =>
      let x := (sumOf c f.cluster f.tag).getD {}
      let b := tgetD x.blks f.block {}
      let x := { x with blks := tput x.blks f.block { b with staged := b.staged ++ [f.elems] }, lastAt := s.run }
      let n := tLocalN d f.cluster
      let full := (List.range (tBlocks d)).all (fun j => (tgetD x.blks j {}).staged.length = n)
      let x := if full then { x with stage := 2, stageAt := s.run } else x
      let s := tallyFlags (putSum s k f.cluster f.tag x) k f.cluster (addendFlags f.elems)
      let s := syncTstore s f.cluster
      if full && d.scope = 0 then finalBytes s k d f.cluster (localBytes d x) n else s

def execTallyAddend (p : Fin 8) (i : Nat) (s : State) : Res :=
  .next (onCru s p (fun k c => doAddend s k c i))

/-- The cover of a sum of n addends in a cluster, its CRU's own terms: those of SCOPE 0, and at SCOPE 1 and above L_TM with them (05 R136; DEDUCED, assumption 49). -/
def cruCover (d : TallyDesc) (n : Nat) : Nat := 4 + 6 + 10 + n * tBlocks d - 1 + 9 + (if d.scope = 0 then 0 else 22)

/-! ### Stage 4: quantising (05 R120, R132) -/

/-- Sums a staged block under its final byte: integers, codes, flags. -/
def quantBlock (t32 : Bool) (b : Nat) (staged : List (List TElem)) : List Int × List Nat × Nat :=
  let ex := byteExp b
  staged.foldl (fun (acc : List Int × List Nat × Nat) l =>
    let q := l.map (fun e => quantise t32 ex e.1)
    (List.zipWith (· + ·) acc.1 (q.map (·.1)), List.zipWith (· ||| ·) acc.2.1 (l.map elemCode),
      acc.2.2 ||| (if q.any (·.2.1) then 1 else 0) ||| (if q.any (·.2.2) then 2 else 0)))
    (List.replicate 256 0, List.replicate 256 0, 0)

/-- The first tally block whose accumulator needs a line outside the reservation while the staged addends still hold theirs (05 R131; assumption 40). -/
def accOver (d : TallyDesc) (x : TSum) (cl : Nat) : Option Nat :=
  if 17 * stagedOf x + accLines d * tBlocks d > tLines d cl then some ((tLines d cl - 17 * stagedOf x) / accLines d) else none

/-- Raises PEAK to the lines in use while staged addends and accumulators stand side by side. -/
def peakTstore (s : State) (cl extra : Nat) : State :=
  setFld s (rCteTstore cl) 30 16 (max (fld s (rCteTstore cl) 30 16) (tallyUsed s cl + extra))

/-- TALLY_QUANTISE: the CRU of cluster cl quantises its staged addends under the final bytes and frees their lines (05 R132 stage 4). -/
def doQuantise (s : State) (k : Nat) (c : Ctx) (cl tag : Nat) : State :=
  match tDesc c tag, sumOf c cl tag with
  | some d, some x =>
    if x.stage ≠ 3 || tLocalN d cl = 0 then s
    else if let some b := accOver d x cl then fault1 s k (cruProb 0x14 tag b 0)
    else
      let s := peakTstore s cl (accLines d * tBlocks d)
      let r := (List.range (tBlocks d)).map (fun j => (j, quantBlock (tT32 d) (tgetD x.fexp j 0) (tgetD x.blks j {}).staged))
      let x := { x with stage := 4, stageAt := s.run, blks := r.map (fun e => (e.1, ({ acc := e.2.1, codes := e.2.2.1 } : TBlk))) }
      syncTstore (tallyFlags (putSum s k cl tag x) k cl (r.foldl (fun a e => a ||| e.2.2.2) 0)) cl
  | _, _ => s

def execTallyQuantise (p : Fin 8) (cl : Fin 12) (tag : BitVec 16) (s : State) : Res :=
  .next (onCru s p (fun k c => doQuantise s k c cl tag.toNat))

/-! ### Stage 6: conversion and delivery (05 R124, R132; 14 R354) -/

/-- The converted elements of a block. -/
def convBlock (t32 : Bool) (b : Nat) (x : TBlk) : List (Nat × Bool × Bool) :=
  List.zipWith (fun z c => tallyResult t32 (byteExp b) z c) x.acc x.codes

/-- Delivers blocks of FP32 results to the destination of a sum: a scratchpad or UPE slice buffer, or the addends of the outer sum (05 R130, R128). A D_VCORE that the plan does not have, that DEST 2 signals no chime, and the sender that an inner sum's addend names are the model's (DESIGN CHOICE, assumption 51). -/
def deliver (s : State) (k : Nat) (c : Ctx) (d : TallyDesc) (cl : Nat) (blocks : List (Nat × List (Nat × Bool))) : State :=
  if d.dest = 2 then
    let fl := blocks.map (fun b => (⟨cl, d.outerTag, b.1, b.2, 0x40000000 + cl⟩ : Flight))
    modCtx s k (fun c => { c with flights := c.flights ++ fl })
  else
    let first := (blocks.head?.map (·.1)).getD 0
    let pc := pcoreOf c d.dVcore
    let at0 (j : Nat) : Nat := d.dOff * 64 + (j - first) * 1024
    match blocks.find? (fun b => at0 b.1 + 1024 > spLimit) with
    | some b =>
      let a := vspBase d.dVcore + max (at0 b.1) spLimit
      fault1 s k { cause := 6, unit := 6, d0 := a % 2 ^ 32, d1 := a / 2 ^ 32, d2 := 1024 }
    | none =>
      let s := blocks.foldl (fun s b => devSeg s (spBase pc + at0 b.1, b.2.flatMap (fun e => (leBytes 4 e.1).map (fun y => (y, e.2))))) s
      modCtx s k (fun c => { c with sigs := c.sigs ++ [{ vcore := d.dVcore, chime := d.chime, count := 1, src := 0x40000000 + cl, due := s.cycle + sigDelay s (k / 16) (9 * cl) pc false }] })

/-- Frees a finished sum in every cluster, with its TGROUP (05 R131). A sum across devices stays finished for its step (14 R352, R355). -/
def freeSum (s : State) (k : Nat) (d : TallyDesc) (cl : Nat) : State :=
  let l := tParties d cl ++ [cl]
  let s := modCtx s k (fun c => { c with
    sums := l.foldl (fun t x => tdel t (sumKey x d.tag)) c.sums, tgroups := tdel c.tgroups d.tag
    finals := if d.scope = 3 && (match sumOf c cl d.tag with | some x => x.inst = c.step | none => false) then c.finals ++ [d.tag] else c.finals })
  l.foldl syncTstore s

/-- TALLY_CONVERT: the CRU that holds the final integers converts, delivers and signals (05 R124, R132 stage 6). -/
def doConvert (s : State) (k : Nat) (c : Ctx) (cl tag : Nat) : State :=
  match tDesc c tag, sumOf c cl tag with
  | some d, some x =>
    if x.stage ≠ 5 then s
    else
      let r := x.blks.map (fun e => (e.1, convBlock (tT32 d) (tgetD x.fexp e.1 0) e.2))
      let fl := r.foldl (fun a e => a ||| (if e.2.any (·.2.2) then 4 else 0) ||| (if e.2.any (·.2.1) then 16 else 0)) 0
      let s := freeSum (tallyFlags s k cl fl) k d cl
      let s := if d.scope = 3 then satFld s (rCteCount (cl / 6)) 31 0 1 else s
      deliver s k c d cl (r.map (fun e => (e.1, e.2.map (fun y => (y.1, y.2.1)))))
  | _, _ => s

def execTallyConvert (p : Fin 8) (cl : Fin 12) (tag : BitVec 16) (s : State) : Res :=
  .next (onCru s p (fun k c => doConvert s k c cl tag.toNat))

end Sys2Proof.Machine
end

