-- ==== Sys2Proof/Machine/Cte.lean ====
section
/-! DEFINITION. The collective engine: groups, trees and maps (14 R348, R363 to R366), CTE messages (14 R362), and tally sums across devices (14 R352 to R355, 05 R132). -/

namespace Sys2Proof.Machine

/-! ### Groups and trees (14 R348, R363) -/

def replicaSize (c : Ctx) : Nat := c.prog.plan.devices / max 1 c.prog.plan.replicas
/-- Group size of a mode. -/
def groupSize (c : Ctx) (m : Nat) : Nat := match m with | 0 => c.prog.plan.devices | 1 => replicaSize c | _ => c.prog.plan.replicas
/-- Group index of a rank. -/
def groupIdx (c : Ctx) (m r : Nat) : Nat :=
  match m with | 0 => r | 1 => r % max 1 (replicaSize c) | _ => r / max 1 (replicaSize c)
/-- Rank of the member with index i in this device's group. -/
def memberRank (c : Ctx) (m i : Nat) : Nat :=
  match m with
  | 0 => i
  | 1 => c.rank / max 1 (replicaSize c) * replicaSize c + i
  | _ => i * replicaSize c + c.rank % max 1 (replicaSize c)
def nodeOfRank (c : Ctx) (r : Nat) : Nat := c.ranks.getD r 0

/-- The map in force for a step: ALG and FANIN fields (14 R363, R366). -/
def mapFor (c : Ctx) (step : Nat) : Nat × Nat := match c.maps.find? (fun m => m.1 ≤ step) with | some m => m.2 | none => (0, 0)
/-- Fan-in of a mode under a map. -/
def faninOf (c : Ctx) (step m : Nat) : Nat := match bits (mapFor c step).2 (2 * m + 1) (2 * m) with | 0 => 2 | 1 => 4 | _ => 8
/-- Algorithm of a kind and size class (14 CTE_MAP). -/
def algOf (c : Ctx) (step m kind cls : Nat) : Nat := let e := 9 * m + 3 * kind + cls; bits (mapFor c step).1 (2 * e + 1) (2 * e)
/-- Size class of a collective (14 R363). -/
def sizeClass (b : Nat) : Nat := if b < 65536 then 0 else if b < 4194304 then 1 else 2
/-- Ranks of the tree children of this device. -/
def treeKids (c : Ctx) (step m : Nat) : List Nat :=
  let f := faninOf c step m
  let i := groupIdx c m c.rank
  ((rangeFrom (f * i + 1) f).filter (· < groupSize c m)).map (memberRank c m)
/-- Rank of the tree parent, if any. -/
def treeParent (c : Ctx) (step m : Nat) : Option Nat :=
  let i := groupIdx c m c.rank
  if i = 0 then none else some (memberRank c m ((i - 1) / faninOf c step m))

/-! ### Messages (14 R362) -/

/-- The 64-byte header of a CTE message. -/
def cteHdr (kind mode id inst step first count rank addends digest : Nat) (arg : Bytes) : Bytes :=
  beBytes 1 kind ++ beBytes 1 mode ++ beBytes 2 id ++ beBytes 4 inst ++ beBytes 8 step ++ beBytes 4 first ++ beBytes 4 count
    ++ beBytes 4 rank ++ beBytes 4 addends ++ beBytes 8 digest ++ padTo 24 arg
def cteMode (gmode alg : Nat) (parity scatter : Bool) (fmt : Nat) : Nat :=
  gmode + 4 * alg + 16 * b2n parity + 32 * b2n scatter + 64 * fmt

/-! ### Collective streams (14 R349, R350) -/

/-- The PSN of the collective stream of die d from group index `own` to `peer` in a mode. -/
def collPsn (c : Ctx) (d mode own peer : Nat) : Nat := c.prog.plan.streams - 192 + 96 * d + Config.collSlot mode own peer % 96

/-- The place of a collective PSN among the 96 of its die, which is its entry of the link-distance table (14 R349, R364; DESIGN CHOICE, assumption 30). -/
def collIdx (c : Ctx) (psn : Nat) : Nat := (psn - (c.prog.plan.streams - 192)) % 96

/-- The collective stream of a context on a die that reaches a rank in a mode. -/
def collStream (s : State) (k d mode rank : Nat) : Option (Nat × Stream) :=
  s.streams.find? (fun e => dieOfSidx e.1 = d && e.2.part = k / 16 && e.2.ctx = k % 16 && e.2.coll = some (mode, rank) && e.2.st ≠ .closing && e.2.st ≠ .failed)

/-- A collective stream is refused, missing or failed (13 R319, 14 R349). -/
def collMiss (psn : Nat) : Prob := { cause := 0x1A, unit := 11, d0 := psn }

/-- Queues CTE frames on the collective stream of die d that reaches a rank. -/
def cteFrames (s : State) (k d mode rank : Nat) (fs : List TxFrame) : State :=
  match ctxOf s k, collStream s k d mode rank with
  | none, _ => s
  | some c, none => fault1 s k (collMiss (collPsn c d mode (groupIdx c mode c.rank) (groupIdx c mode rank)))
  | some _, some (x, _) => queueFrames s x fs

def cteFrame (b : Bytes) : TxFrame := { seq := 0, type := 10, body := padTo (roundUp b.length 64) b }

/-- Sends a message of a KIND to a rank of the job: arrivals, releases, votes, maps and summaries. -/
def cteSend (s : State) (k rank kind : Nat) (b : Bytes) : State := cteFrames s k (Config.cteDie kind % 2) 0 rank [cteFrame b]

/-- Sends a message to each of several ranks. -/
def cteSendAll (s : State) (k : Nat) (ranks : List Nat) (kind : Nat) (b : Bytes) : State := ranks.foldl (fun s r => cteSend s k r kind b) s

/-! ### Tally sums across devices -/

/-- Group mode and scatter of a sum (14 R352). -/
def sumGroup (c : Ctx) (tag : Nat) : Nat × Nat := match tget c.tgroups tag with | some g => g.2 | none => (0, 0)
/-- Bytes per device of a sum (14 R363). -/
def sumSize (d : TallyDesc) : Nat := tBlocks d * (if tT32 d then 1152 else 2176)
/-- MODE byte of a tally message. -/
def sumMode (c : Ctx) (step : Nat) (d : TallyDesc) : Nat :=
  let g := sumGroup c d.tag
  cteMode g.1 (algOf c step g.1 g.2 (sizeClass (sumSize d))) false (g.2 = 1) d.fmt

/-- Bytes of data that one frame of a die carries behind the header. -/
def cteRoom (s : State) (d : Nat) : Nat := maxPay s d - 64

/-- The exponent messages of a sum: kind, bytes and count, each with as many bytes as a frame has room for. -/
def expMsgs (room : Nat) (c : Ctx) (d : TallyDesc) (kind step cnt : Nat) (bytes : Tbl Nat) : List Bytes :=
  let n := tBlocks d
  (List.range ((n + room - 1) / room)).map (fun j =>
    let first := j * room
    let m := min room (n - first)
    cteHdr kind (sumMode c step d) d.tag 0 step first m c.rank cnt 0 [] ++ (List.range m).map (fun i => byte (tgetD bytes (first + i) 0)))

/-- Integers and code plane of a block as a message carries them (05 R120 to R122, R132; layout DESIGN CHOICE, assumption 51). -/
def intData (t32 : Bool) (x : TBlk) : Bytes :=
  x.acc.flatMap (fun z => if t32 then leBytes 4 (unsint 32 z) else leBytes 8 (unsint 64 z))
    ++ (List.range 128).map (fun i => byte (x.codes.getD (2 * i) 0 + 16 * x.codes.getD (2 * i + 1) 0))

/-- A block read back from a message. -/
def intBlock (t32 : Bool) (b : Bytes) : TBlk :=
  let w := if t32 then 4 else 8
  { acc := (List.range 256).map (fun i => sint (8 * w) (fieldB b (w * i) w)),
    codes := (List.range 256).map (fun i => let n := fieldB b (256 * w + i / 2) 1; if i % 2 = 0 then n % 16 else n / 16) }


def intBytes (d : TallyDesc) : Nat := if tT32 d then 1152 else 2176

/-- The integer messages of a sum: one for each block, in as many frames as its data need, each with the header. -/
def intMsgs (room : Nat) (c : Ctx) (d : TallyDesc) (kind step cnt : Nat) (blks : Tbl TBlk) : List Bytes :=
  blks.flatMap (fun e => (chunksB room ((intBytes d + room - 1) / room) (intData (tT32 d) e.2)).map (fun b =>
    cteHdr kind (sumMode c step d) d.tag 0 step e.1 1 c.rank cnt 0 [] ++ b))

/-- Sends the messages of a sum to ranks of its group, on the die of its owner cluster (14 R350). -/
def sendMsgs (s : State) (k own mode : Nat) (ranks : List Nat) (ms : List Bytes) : State :=
  ranks.foldl (fun s r => cteFrames s k (own / 6) mode r (ms.map cteFrame)) s

/-- Combines one block of integers and codes into another (05 R123, R122). -/
def addBlk (a b : TBlk) : TBlk :=
  if a.acc.isEmpty then { acc := b.acc, codes := b.codes }
  else { a with acc := List.zipWith (· + ·) a.acc b.acc, codes := List.zipWith (· ||| ·) a.codes b.codes }

/-- Whether every block of a sum has come from a rank. -/
def kidDone (l : List Nat) (n r : Nat) : Bool := decide ((l.filter (fun x => x / 65536 = r)).length ≥ n)

/-- The clusters of the device whose bytes (or integers) the owner waits for. -/
def ownParties (d : TallyDesc) (own : Nat) : List Nat := tParties d own
def allIn (l m : List Nat) : Bool := m.all (fun x => l.contains x)

/-- Blocks that a device receives: all, or its split (14 R354). -/
def recvBlocks (c : Ctx) (d : TallyDesc) : Nat × Nat :=
  let g := sumGroup c d.tag
  let n := tBlocks d
  if g.2 = 0 then (0, n)
  else
    let gs := max 1 (groupSize c g.1)
    let i := groupIdx c g.1 c.rank
    (i * n / gs, (i + 1) * n / gs)

/-- The algorithm that an instance of a sum runs on: halving-doubling needs a group of a power of two, and code 3 is reserved (14 R363, R366). -/
def sumAlg (c : Ctx) (step : Nat) (d : TallyDesc) : Nat :=
  let g := sumGroup c d.tag
  let n := groupSize c g.1
  match algOf c step g.1 g.2 (sizeClass (sumSize d)) with
  | 1 => 1
  | 2 => if 2 ^ Nat.log2 n = n then 2 else 0
  | _ => 0

/-- The member that a block of a sum comes together at on a ring or in halving-doubling: the one whose split it is in (14 R354; DEDUCED, assumption 60). -/
def blockOwner (n g b : Nat) : Nat := ((b + 1) * g + n - 1) / n - 1

/-- Group indexes whose integers of block b come to member i before it passes them on (14 R363): its tree children; on a ring the member before it, but for the first behind the owner; in halving-doubling the partners of the rounds before its own. -/
def upFrom (alg f n g i b : Nat) : List Nat :=
  let o := blockOwner n g b
  match alg with
  | 1 => if g ≤ 1 || i = (o + 1) % g then [] else [(i + g - 1) % g]
  | 2 => (rangeFrom (if i = o then 0 else Nat.log2 (i ^^^ o) + 1) (ceilLog2 g)).map (fun j => i ^^^ 2 ^ j) |>.filter (· < g)
  | _ => (rangeFrom (f * i + 1) f).filter (· < g)

/-- Where member i passes them, unless they are final there. -/
def upTo (alg f n g i b : Nat) : Option Nat :=
  let o := blockOwner n g b
  match alg with
  | 1 => if i = o then none else some ((i + 1) % g)
  | 2 => if i = o then none else some (i ^^^ 2 ^ Nat.log2 (i ^^^ o))
  | _ => if i = 0 then none else some ((i - 1) / f)

/-- Where member i passes final integers: back the way that they came together, or on round the ring. -/
def downTo (alg f n g i b : Nat) : List Nat :=
  match alg with
  | 1 => if g ≤ 1 || (i + 1) % g = blockOwner n g b then [] else [(i + 1) % g]
  | _ => upFrom alg f n g i b

/-- Whether this device gets a block's final integers: under SCATTER a ring or halving-doubling leaves them with their owner (14 R354). -/
def getsBlock (c : Ctx) (step : Nat) (d : TallyDesc) (b : Nat) : Bool :=
  let g := sumGroup c d.tag
  sumAlg c step d = 0 || g.2 = 0 || groupIdx c g.1 c.rank = blockOwner (tBlocks d) (groupSize c g.1) b

/-- Keeps the final integers that the device receives on the owner's sum, ready to convert (05 R132 stage 5, 14 R354). -/
def finalInts (s : State) (k : Nat) (c : Ctx) (d : TallyDesc) (own : Nat) (blks : Tbl TBlk) : State :=
  let (lo, hi) := if d.scope = 3 then recvBlocks c d else (0, tBlocks d)
  modSum s k own d.tag (fun x => { x with stage := 5, stageAt := s.run, blks := blks.filter (fun e => lo ≤ e.1 && e.1 < hi) })

/-- The final bytes and count of a SCOPE 3 sum, when the tree children have been sent them. A count above 2^20 faults here once they have it, so that every participant faults (05 R126). -/
def finalDown (s : State) (k : Nat) (d : TallyDesc) (own : Nat) (kids : List Nat) (bytes : Tbl Nat) (cnt : Nat) : State :=
  if cnt > 2 ^ 20 && !kids.isEmpty then modCtx s k (fun c => { c with overCnt := some (d.tag, cnt) }) else finalBytes s k d own bytes cnt

/-- The faults of *tally addend limit* that have waited until the children had the count. -/
def overLimits (s : State) : State :=
  s.ctxs.foldl (fun s e => match e.2.overCnt with
    | some (tag, cnt) =>
      if s.streams.any (fun x => x.2.part = e.1 / 16 && x.2.ctx = e.1 % 16 && x.2.coll.isSome && x.2.tx.any (fun t => t.type = 10 && beNat (sliceB t.body 0 1) = 4 && beNat (sliceB t.body 2 2) = tag)) then s
      else fault1 (modCtx s e.1 (fun c => { c with overCnt := none })) e.1 (cruProb 0x13 tag cnt 0)
    | none => s) s

/-- Moves a SCOPE 3 exponent round on when the device's own bytes and those of every tree child are in (05 R132 stage 3, 14). -/
def tryExp (s : State) (k : Nat) (d : TallyDesc) (own : Nat) : State :=
  match ctxOf s k with
  | none => s
  | some c => match sumOf c own d.tag with
    | none => s
    | some x =>
      let gm := (sumGroup c d.tag).1
      let kids := treeKids c x.inst gm
      if x.stage ≥ 3 || !allIn x.expFrom (ownParties d own) || !kids.all (kidDone x.kidsExp (tBlocks d)) then s
      else match treeParent c x.inst gm with
        | some r => sendMsgs s k own gm [r] (expMsgs (cteRoom s (own / 6)) c d 3 x.inst x.cnt x.comb)
        | none => finalDown (sendMsgs s k own gm kids (expMsgs (cteRoom s (own / 6)) c d 4 x.inst x.cnt x.comb)) k d own kids x.comb x.cnt

/-- Moves one block of a SCOPE 3 integer round on, when the device's own integers of it and those of every member that passes it here are in: towards its owner, or there, final, to those that get it (05 R132 stage 5, 14 R363). -/
def blockStep (s : State) (k : Nat) (c : Ctx) (d : TallyDesc) (own b : Nat) : State :=
  match sumOf c own d.tag with
  | none => s
  | some x =>
    let gm := (sumGroup c d.tag).1
    let alg := sumAlg c x.inst d
    let f := faninOf c x.inst gm
    let g := groupSize c gm
    let i := groupIdx c gm c.rank
    let msg := fun (kind : Nat) => intMsgs (cteRoom s (own / 6)) c d kind x.inst x.cnt [(b, tgetD x.blks b {})]
    if x.up.contains b || x.fin.contains b || !(upFrom alg f (tBlocks d) g i b).all (fun j => x.kidsInt.contains (memberRank c gm j * 65536 + b)) then s
    else match upTo alg f (tBlocks d) g i b with
      | some j => sendMsgs (modSum s k own d.tag (fun x => { x with up := x.up ++ [b] })) k own gm [memberRank c gm j] (msg 5)
      | none => sendMsgs (modSum s k own d.tag (fun x => { x with fin := x.fin ++ [b] })) k own gm
          (if alg ≠ 0 && (sumGroup c d.tag).2 = 1 then [] else (downTo alg f (tBlocks d) g i b).map (memberRank c gm)) (msg 6)

/-- Ends the integer round of a sum whose every block is final here or has gone on to its owner. -/
def intDone (s : State) (k : Nat) (d : TallyDesc) (own : Nat) : State :=
  match ctxOf s k with
  | none => s
  | some c => match sumOf c own d.tag with
    | none => s
    | some x => if (List.range (tBlocks d)).all (fun b => x.fin.contains b || (!getsBlock c x.inst d b && x.up.contains b)) then finalInts s k c d own x.blks else s

/-- Moves blocks of a SCOPE 3 integer round on, once the device's own integers are in. -/
def tryInt (s : State) (k : Nat) (d : TallyDesc) (own : Nat) (bs : List Nat) : State :=
  match (ctxOf s k).bind (fun c => sumOf c own d.tag) with
  | none => s
  | some x =>
    if x.stage < 3 || x.stage ≥ 5 || !allIn x.intFrom (ownParties d own) then s
    else intDone (bs.foldl (fun s b => match ctxOf s k with | some c => blockStep s k c d own b | none => s) s) k d own

/-- The owner cluster of a SCOPE 3 sum on this device: the OWNER that its words name. -/
def ownerCluster (d : TallyDesc) : Nat :=
  match (List.range 12).find? (fun x => tLocalN d x ≠ 0) with | some x => tOwnerOf d x | none => 0

/-- A message of no SCOPE 3 sum of the context, or of blocks that its sum has not, is a protocol problem (05 R133, 14 R362). -/
def cteAlien (c : Ctx) (m : CteMsg) : Bool :=
  match tDesc c m.id with
  | none => true
  | some d => d.scope ≠ 3 || decide (tBlocks d < m.first + m.count)
/-- So is one whose fields differ from those of the receiver's own sum (14 R353). -/
def cteBad (c : Ctx) (d : TallyDesc) (m : CteMsg) : Bool := let g := sumGroup c m.id; m.gmode ≠ g.1 || b2n m.scatter ≠ g.2 || m.fmt ≠ d.fmt
def cteProb (tag block node : Nat) : Prob := { cause := 0x12, unit := 11, d0 := tag, d1 := block, d2 := node }
def cteFault (s : State) (k : Nat) (m : CteMsg) : State := fault1 s k (cteProb m.id m.first m.node)

/-- Whether the device's exponent round of a sum has begun: every cluster's bytes are at the owner. -/
def expBegun (c : Ctx) (d : TallyDesc) (own step : Nat) : Bool :=
  match sumOf c own d.tag with | some x => allIn x.expFrom (ownParties d own) && x.inst = step && decide (x.stage < 3) | none => false

/-- Whether the device's integers are all at the owner. -/
def intBegun (c : Ctx) (d : TallyDesc) (own step : Nat) : Bool :=
  match sumOf c own d.tag with | some x => allIn x.intFrom (ownParties d own) && x.inst = step && decide (3 ≤ x.stage && x.stage < 5) | none => false

/-- Whether an instance of a sum may still begin on the device: it is of this step or a later one and not finished (14 R355). -/
def sumAhead (c : Ctx) (m : CteMsg) : Bool := decide (c.step ≤ m.step) && !(m.step = c.step && c.finals.contains m.id)

/-- Whether the integers of an instance whose exponent round has begun are still to come. -/
def intAhead (c : Ctx) (d : TallyDesc) (m : CteMsg) : Bool :=
  match sumOf c (ownerCluster d) d.tag with | some x => x.inst = m.step && decide (x.stage < 5) && allIn x.expFrom (ownParties d (ownerCluster d)) | none => false

/-- Whether a message is of an instance that has not begun here (14 R355). -/
def cteEarly (c : Ctx) (kind : Nat) (m : CteMsg) : Bool :=
  match kind, tDesc c m.id with
  | 3, some d => !cteAlien c m && !expBegun c d (ownerCluster d) m.step && sumAhead c m
      && !(match sumOf c (ownerCluster d) d.tag with | some x => x.inst = m.step && decide (3 ≤ x.stage) | none => false)
  | 5, some d => !cteAlien c m && !intBegun c d (ownerCluster d) m.step && (intAhead c d m || sumAhead c m)
  | 7, _ => !c.gathers.any (fun x => x.v = m.id && x.ord = m.inst) && (match vcoreOf c m.id with | some vc => decide (tgetD vc.ords 0 0 ≤ m.inst) | none => false)
  | _, _ => false

/-- The die of a collective instance: that of the sum's owner cluster, or of a gather's issuing vcore (14 R350). -/
def earlyDie (c : Ctx) (kind : Nat) (m : CteMsg) : Nat :=
  if kind = 7 then dieOf (pcoreOf c m.id) else match tDesc c m.id with | some d => ownerCluster d / 6 | none => 0

/-- Bytes in a die's early-arrival buffer. -/
def earlyBytes (s : State) (die : Nat) : Nat :=
  s.ctxs.foldl (fun a e => a + (e.2.early.foldl (fun b x => if earlyDie e.2 x.2.1 x.2.2 = die then b + 64 + x.2.2.data.length else b) 0)) 0

/-- Whether a message finds the early-arrival buffer of 2 MiB full (14 R355). -/
def earlyFull (s : State) (c : Ctx) (kind : Nat) (m : CteMsg) : Bool :=
  cteEarly c kind m && decide (2 ^ 21 < earlyBytes s (earlyDie c kind m) + 64 + m.data.length)

/-- Keeps a message of an instance that has not begun here. -/
def keepEarly (s : State) (k port kind : Nat) (m : CteMsg) : State := modCtx s k (fun c => { c with early := c.early ++ [(port, kind, m)] })

/-- EXP_UP from a child (05 R132, 14 R353). -/
def onExpUp (s : State) (k port : Nat) (c : Ctx) (m : CteMsg) : State :=
  match tDesc c m.id with
  | none => cteFault s k m
  | some d =>
    let own := ownerCluster d
    if cteEarly c 3 m then keepEarly s k port 3 m
    else if cteAlien c m || !expBegun c d own m.step || cteBad c d m then cteFault s k m
    else
      let b := m.data.take m.count
      let s := modSum s k own d.tag (fun x =>
        let fresh := !(x.kidsExp.any (fun y => y / 65536 = m.rank))
        { x with comb := maxBytes x.comb ((List.range b.length).map (fun i => (m.first + i, (b.getD i 0).toNat))),
                 cnt := if fresh then x.cnt + m.addends else x.cnt,
                 kidsExp := x.kidsExp ++ (List.range b.length).map (fun i => m.rank * 65536 + m.first + i) })
      if b.contains (byte 0xFF) then fault1 s k (cteProb m.id (m.first + b.idxOf (byte 0xFF)) m.node)
      else tryExp s k d own

/-- EXP_DOWN from the parent: final bytes and count, passed on to the children (05 R132). -/
def onExpDown (s : State) (k : Nat) (c : Ctx) (m : CteMsg) : State :=
  match tDesc c m.id with
  | none => cteFault s k m
  | some d =>
    let own := ownerCluster d
    match sumOf c own d.tag with
    | none => cteFault s k m
    | some x =>
      let b := m.data.take m.count
      if cteAlien c m || !expBegun c d own m.step || cteBad c d m then cteFault s k m
      else if b.contains (byte 0xFF) then fault1 s k (cteProb m.id (m.first + b.idxOf (byte 0xFF)) m.node)
      else
        let fe := ((List.range b.length).map (fun i => (m.first + i, (b.getD i 0).toNat))).foldl (fun t e => tput t e.1 e.2) x.fexp
        let s := modSum s k own d.tag (fun x => { x with fexp := fe })
        if fe.length < tBlocks d then s
        else
          let gm := (sumGroup c d.tag).1
          let kids := treeKids c x.inst gm
          finalDown (sendMsgs s k own gm kids (expMsgs (cteRoom s (own / 6)) c d 4 x.inst m.addends fe)) k d own kids fe m.addends

/-- The blocks that whole integer data bring. -/
def intBlocks (d : TallyDesc) (m : CteMsg) : Tbl TBlk :=
  (List.range m.count).map (fun i => (m.first + i, intBlock (tT32 d) (sliceB m.data (i * intBytes d) (intBytes d))))

/-- INT_UP: integers of blocks from a member that passes them here, each once (05 R132 stage 5, R133). -/
def onIntUp (s : State) (k port : Nat) (c : Ctx) (m : CteMsg) : State :=
  match tDesc c m.id with
  | none => cteFault s k m
  | some d =>
    let own := ownerCluster d
    if cteEarly c 5 m then keepEarly s k port 5 m
    else match sumOf c own d.tag with
      | none => cteFault s k m
      | some x =>
        let gm := (sumGroup c d.tag).1
        let bs := intBlocks d m
        let due := fun (b : Nat) => !x.kidsInt.contains (m.rank * 65536 + b)
          && (upFrom (sumAlg c x.inst d) (faninOf c x.inst gm) (tBlocks d) (groupSize c gm) (groupIdx c gm c.rank) b).any (fun i => memberRank c gm i = m.rank)
        if cteAlien c m || !intBegun c d own m.step || cteBad c d m || m.addends ≠ x.cnt || !bs.all (fun e => due e.1) then cteFault s k m
        else
          let s := modSum s k own d.tag (fun x =>
            { x with blks := bs.foldl (fun t e => tput t e.1 (addBlk (tgetD t e.1 {}) e.2)) x.blks,
                     kidsInt := x.kidsInt ++ bs.map (fun e => m.rank * 65536 + e.1) })
          tryInt s k d own (bs.map (·.1))

/-- INT_DOWN: final integers of blocks, passed on, and kept where this device receives them (14 R354). -/
def onIntDown (s : State) (k : Nat) (c : Ctx) (m : CteMsg) : State :=
  match tDesc c m.id with
  | none => cteFault s k m
  | some d =>
    let own := ownerCluster d
    match sumOf c own d.tag with
    | none => cteFault s k m
    | some x =>
      let bs := intBlocks d m
      if cteAlien c m || !intBegun c d own m.step || cteBad c d m || m.addends ≠ x.cnt || bs.any (fun e => x.fin.contains e.1 || !x.up.contains e.1) then cteFault s k m
      else
        let gm := (sumGroup c d.tag).1
        let s := modSum s k own d.tag (fun x => { x with blks := bs.foldl (fun t e => tput t e.1 e.2) x.blks, fin := x.fin ++ bs.map (·.1) })
        let s := bs.foldl (fun s e => sendMsgs s k own gm
          ((downTo (sumAlg c x.inst d) (faninOf c x.inst gm) (tBlocks d) (groupSize c gm) (groupIdx c gm c.rank) e.1).map (memberRank c gm)) (intMsgs (cteRoom s (own / 6)) c d 6 x.inst x.cnt [e])) s
        intDone s k d own

/-- Applies the early messages of a sum, in arrival order (14 R355). -/
def drainEarly (s : State) (k kind tag : Nat) : State :=
  match ctxOf s k with
  | none => s
  | some c =>
    let mine := fun (e : Nat × Nat × CteMsg) => e.2.1 = kind && e.2.2.id = tag
    let s := modCtx s k (fun c => { c with early := c.early.filter (fun e => !mine e) })
    (c.early.filter mine).foldl (fun s e => match ctxOf s k with
      | some c => if kind = 3 then onExpUp s k e.1 c e.2.2 else onIntUp s k e.1 c e.2.2
      | none => s) s

/-- The run cycle at which a sum across devices is due: its cover counts from the last addend of the device (14 R367). -/
def jobDueAt (s : State) (k : Nat) (c : Ctx) (d : TallyDesc) (own : Nat) : Nat :=
  let l := (ownParties d own).filterMap (fun cl => (sumOf c cl d.tag).map (fun x => (cl, x)))
  let v := ceilLog2 (groupSize c (sumGroup c d.tag).1)
  l.foldl (fun a e => max a e.2.lastAt) 0 + l.foldl (fun a e => max a (cruCover d (tLocalN d e.1))) 0
    + 2 * coverOr s (k / 16) 11 1 0 + 2 * v * coverOr s (k / 16) 11 2 0 + (2 * sumSize d + 51) / 52

/-- TALLY_EXPONENT_ROUND: a first message makes the sum live at its owner, whose lines no other live sum may hold (05 R131). The owner receives the bytes and count of cluster cl (05 R132 stage 3). -/
def doExpRound (s : State) (k : Nat) (c : Ctx) (cl tag : Nat) : State :=
  match tDesc c tag, sumOf c cl tag with
  | some d, some x =>
    let own := tOwnerOf d cl
    let o := (sumOf c own tag).getD {}
    if x.stage ≠ 2 || d.scope = 0 || o.expFrom.contains cl then s
    else if (sumOf c own tag).isNone && overlapLive c d own then fault1 s k (cruProb 0x14 tag 0 0)
    else
      let o := { o with expFrom := o.expFrom ++ [cl], comb := maxBytes o.comb (localBytes d x), cnt := o.cnt + tLocalN d cl, inst := c.step }
      let o := if d.scope = 3 && allIn o.expFrom (ownParties d own) then { o with due := some (jobDueAt s k c d own) } else o
      let s := putSum s k own tag o
      if !allIn o.expFrom (ownParties d own) then s
      else if d.scope ≠ 3 then finalBytes s k d own o.comb o.cnt
      else drainEarly (tryExp s k d own) k 3 tag
  | _, _ => s

/-- TALLY_INTEGER_ROUND: the owner combines the accumulators and code planes of cluster cl; one without addends of its own needs lines for them (05 R131, R132 stage 5). -/
def doIntRound (s : State) (k : Nat) (c : Ctx) (cl tag : Nat) : State :=
  match tDesc c tag, sumOf c cl tag with
  | some d, some x =>
    let own := tOwnerOf d cl
    match sumOf c own tag with
    | none => s
    | some o =>
      if x.stage ≠ 4 || tLocalN d cl = 0 || o.intFrom.contains cl || o.stage < 3 then s
      else if (tLocalN d own ≠ 0 && cl ≠ own && o.stage ≠ 4) then s
      else if tLocalN d own = 0 && (accOver d {} own).isSome then fault1 s k (cruProb 0x14 tag ((accOver d {} own).getD 0) 0)
      else
        let blks := if cl = own then o.blks else x.blks.foldl (fun t e => tput t e.1 (addBlk (tgetD t e.1 {}) e.2)) o.blks
        let s := putSum s k own tag { o with intFrom := o.intFrom ++ [cl], blks := blks, stage := 4 }
        if !allIn (o.intFrom ++ [cl]) (ownParties d own) then s
        else if d.scope ≠ 3 then finalInts s k c d own blks
        else drainEarly (tryInt s k d own (List.range (tBlocks d))) k 5 tag
  | _, _ => s

def execTallyExponentRound (p : Fin 8) (cl : Fin 12) (tag : BitVec 16) (s : State) : Res :=
  .next (onCru s p (fun k c => doExpRound s k c cl tag.toNat))
def execTallyIntegerRound (p : Fin 8) (cl : Fin 12) (tag : BitVec 16) (s : State) : Res :=
  .next (onCru s p (fun k c => doIntRound s k c cl tag.toNat))

/-- The first offending bit of a TGROUP (14 R351). -/
def tgroupBad (c : Ctx) (o : Nat) : Option Nat :=
  if bits o 7 6 = 3 then some 6
  else if (match tDesc c (bits o 23 8) with | some d => decide (d.scope ≠ 3) | none => true) then some 8
  else if bits o 127 25 ≠ 0 then some 25
  else none

/-- TGROUP: sets group mode and scatter of a sum, before its local bytes are final (14 R352). -/
def doTgroup (s : State) (k : Nat) (c : Ctx) (vc : Vcore) (v o : Nat) : State :=
  match tgroupBad c o, tDesc c (bits o 23 8) with
  | some b, _ => fault1 s k (engProb vc v 3 3 5 (128 + b))
  | none, none => s
  | none, some d =>
    let parties := (List.range 12).filter (fun x => tLocalN d x ≠ 0)
    let final := !parties.isEmpty && parties.all (fun cl => match sumOf c cl d.tag with | some x => decide (x.stage ≥ 2) | none => false)
    let g : Nat × Nat × Nat := (c.step, bits o 7 6, bits o 24 24)
    let clash := match tget c.tgroups d.tag with | some h => h.1 = c.step && h ≠ g | none => false
    if final || clash || c.finals.contains d.tag then fault1 s k (engProb vc v 11 3 0x12 d.tag 0 v)
    else modVc (modCtx s k (fun c => { c with tgroups := tput c.tgroups d.tag g })) k v (fun x => { x with ords := tput x.ords 0 (tgetD x.ords 0 0 + 1) })

def execTgroup (p : Fin 8) (v : Fin 96) (op : BitVec 128) (s : State) : Res :=
  .next (onEngine s p v 3 (setBits op.toNat 5 0 0x20) (fun k c vc => doTgroup s k c vc v (setBits op.toNat 5 0 0x20)))

/-! ### The cadence vote (12 R296) -/

/-- A context whose plan has one device or no bells votes alone. -/
def votesAlone (c : Ctx) : Bool := decide (c.prog.plan.devices ≤ 1) || c.prog.plan.bells = 0

/-- Sends a pair (k, N_C) down and keeps it: a later pair replaces one that has not committed. -/
def cadencePair (s : State) (k : Nat) (c : Ctx) (kk nc : Nat) : State :=
  modCtx (cteSendAll s k (if votesAlone c then [] else treeKids c c.step 0) 8 (cteHdr 8 0 0 0 c.step 0 0 c.rank 0 0 (beBytes 8 kk ++ beBytes 8 nc))) k (fun c => { c with kPair := some (kk, nc) })

/-- The wanted exponent of a device's subtree goes up when it changes; at the root a changed maximum makes a pair. -/
def cadenceVote (s : State) (k : Nat) : State :=
  match ctxOf s k with
  | none => s
  | some c =>
    let m := c.kKids.foldl (fun a e => max a e.2) (part s (k / 16)).kWant
    if m = c.kVote then s
    else
      let s := modCtx s k (fun c => { c with kVote := m })
      match (if votesAlone c then none else treeParent c c.step 0) with
      | some r => cteSend s k r 8 (cteHdr 8 0 0 0 c.step 0 0 c.rank 0 0 (beBytes 8 m ++ beBytes 8 0))
      | none => cadencePair s k c m ((part s (k / 16)).count + fld s rMemCadence 23 8)

end Sys2Proof.Machine
end

