-- ==== Sys2Proof/Machine/Package.lean ====
section
/-! DEFINITION. The firmware package and the identity keys: its sections, the checks of the ROM, the layouts of IMAGE and PROFILE, the keys that the ROM derives (09 R223, 18 R445 to R450). -/

namespace Sys2Proof.Machine

/-! ### The contents of IMAGE and PROFILE

The manual names what they hold and gives no layout: these are the model's (DESIGN CHOICE, assumption 37). -/

/-- A cover table as the image carries it: a header of 64 bytes and entries of 16 (09 R223). -/
def coverBytes (t : CoverTab) : Bytes :=
  leBytes 1 t.steps ++ leBytes 3 0 ++ leBytes 4 t.ents.length ++ leBytes 56 0
    ++ t.ents.flatMap (fun e => leBytes 1 e.unit ++ leBytes 1 e.term ++ leBytes 1 e.variant ++ leBytes 1 e.kind
        ++ leBytes 2 e.latA1 ++ leBytes 2 e.latB0 ++ leBytes 2 e.cover ++ leBytes 2 0 ++ leBytes 4 e.tol)

/-- A cover table under its COVER_ID, the SHA-384 of the whole table, of which bits [63:0] are the first eight bytes (09 R223; DEDUCED, assumption 37). -/
def namedTab (t : CoverTab) : CoverTab := { t with id := leNat ((sha384 (coverBytes t)).take 8) }

/-- IMAGE: SVN, FW_VERSION, FTL, the count of cover tables, the tables, and the rest of it: code, function tables, known-answer CRCs. -/
def imageBytes (f : Firmware) : Bytes :=
  leBytes 2 f.svn ++ leBytes 4 f.version ++ leBytes 2 f.ftl ++ leBytes 4 f.covers.length ++ f.covers.flatMap coverBytes ++ f.rest

/-- A list as its count and its members. -/
def listBytes {α : Type} (f : α → Bytes) (l : List α) : Bytes := leBytes 4 l.length ++ l.flatMap f

/-- PROFILE: every field that the manual draws from it (18 R448). -/
def profileBytes (f : Profile) : Bytes :=
  leBytes 4 f.node ++ leBytes 1 f.role ++ leBytes 1 f.peers ++ leBytes 1 f.vfIndex ++ listBytes (leBytes 1) f.retired
    ++ listBytes (fun r => leBytes 1 r.1 ++ leBytes 1 r.2.1 ++ leBytes 4 r.2.2) f.repairs
    ++ listBytes (fun e => leBytes 1 e.1 ++ leBytes 4 e.2.1 ++ listBytes (leBytes 1) e.2.2) f.paths
    ++ listBytes (fun q => leBytes 1 q.port ++ leBytes 1 (b2n q.en) ++ leBytes 1 q.mode ++ leBytes 1 (b2n q.llr)) f.ports
    ++ leBytes 8 f.prefix0 ++ leBytes 8 f.prefix1 ++ leBytes 1 f.ledgerPop ++ leBytes 1 f.ledgerDens ++ listBytes (fun b => [b]) f.wardKey
    ++ leBytes 8 f.floor ++ leBytes 2 f.svnMin ++ listBytes (fun b => [b]) f.sealAuth ++ leBytes 1 (b2n f.debug)

/-! ### Sections (18 R446) -/

/-- Entry i of the section table: TYPE, ENTRY_LEN, COUNT, OFFSET, LENGTH and the reserved bytes, in the layout of 09 R214. -/
def pkgEntry (b : Bytes) (i : Nat) : Bytes := sliceB b (64 + 32 * i) 32

/-- Offset and length of the section of a type. -/
def pkgFind (b : Bytes) (type : Nat) : Option (Nat × Nat) :=
  ((List.range (fieldB b 6 2)).find? (fun i => fieldB (pkgEntry b i) 0 2 = type)).map (fun i => (fieldB (pkgEntry b i) 8 8, fieldB (pkgEntry b i) 16 8))

/-- The bytes of the section of a type. -/
def pkgSec (b : Bytes) (type : Nat) : Bytes := match pkgFind b type with | some (o, n) => sliceB b o n | none => []

/-- Whether an entry of the table is as it must be: a known type, reserved bytes zero, a section behind the table and within the package. -/
def entryOk (b e : Bytes) : Bool :=
  decide (1 ≤ fieldB e 0 2) && decide (fieldB e 0 2 ≤ 6) && decide (fieldB e 0x18 8 = 0)
    && decide (64 + 32 * fieldB b 6 2 ≤ fieldB e 8 8) && decide (fieldB e 8 8 + fieldB e 16 8 ≤ fieldB b 8 8)

/-- Check 1: header, section table and lengths; `len` is HIF_FWLEN. The signature sections have the lengths of their content. -/
def pkgOk (b : Bytes) (len : Nat) : Bool :=
  fieldB b 0 4 = 0x46374E46 && fieldB b 4 2 = 1 && fieldB b 6 2 = 6 && fieldB b 8 8 = len && b.length = len && (sliceB b 16 48).all (· == 0)
    && (List.range 6).all (fun i => entryOk b (pkgEntry b i))
    && (List.range 6).all (fun t => (pkgFind b (t + 1)).isSome)
    && (pkgSec b 2).length = 96 && (pkgSec b 6).length = 193

/-! ### Identity (18 R450) -/

/-- A private key from the secret of the physically unclonable function and an info. -/
def privateKey (u info : Bytes) : Nat := beNat (hkdf384 [] u info 56) % (ecN - 1) + 1

/-- The public key of a private one. -/
def publicKey (d : Nat) : Bytes := ecBytes (ecMul d ecG)

/-- The secret U that the fuzzy extractor reconstructs with the helper data of PART_RECORD. -/
def secretU (helper : Bytes) : Bytes := padTo 48 (Config.puf helper)

/-- The DevID public key. -/
def devIdKey (helper : Bytes) : Bytes := publicKey (privateKey (secretU helper) (ascii "FN7 devid"))

/-- The image in force: its tables under their names, the digests that the device measures, its alias and seal keys, the DevID public key with PART_RECORD and VENDOR_CHAIN. U and the DevID private key are gone before firmware starts. -/
def installFw (x : FwPush) : Firmware :=
  let b := x.pkg.getD []
  let im := sha384 (pkgSec b 1)
  let pr := sha384 (pkgSec b 5)
  let u := secretU x.helper
  let m := sha384 (im ++ pr)
  { x.fw with
    covers := x.fw.covers.map namedTab
    imageDig := im
    profileDig := pr
    ownerDig := sha384 ((pkgSec b 6).take 97)
    aliasKey := privateKey u (ascii "FN7 alias" ++ m)
    sealKey := privateKey u (ascii "FN7 seal" ++ m)
    devKey := x.devKey
    vendor := pkgSec b 3 ++ pkgSec b 4 }

/-! ### The checks of the ROM (18 R447) -/

/-- The first of checks 1 to 6 that fails, 0 where none does. What X.509 certificates hold comes with the operand: whether each chain of them holds, and the keys that they certify. An IMAGE that is not laid out as its contents fails check 1. -/
def pkgCheck (x : FwPush) (b : Bytes) (len : Nat) : Nat :=
  if !pkgOk b len || pkgSec b 1 ≠ imageBytes x.fw then 1
  else if !x.chainOk then 2
  else if !ecdsaOk x.signKey (sha384 (pkgSec b 1)) (pkgSec b 2) then 3
  else if !x.recordOk || x.devKey ≠ devIdKey x.helper then 4
  else if !ecdsaOk ((pkgSec b 6).take 97) (sha384 (pkgSec b 5)) ((pkgSec b 6).drop 97) then 5
  else if x.fw.svn < x.prof.svnMin then 6
  else 0

end Sys2Proof.Machine
end

