-- ==== Sys2Proof/Machine/Echo.lean ====
section
/-! DEFINITION. Echo: which K-blocks are shadowed, the comparison of drained rows, verdicts, strikes and retirement (17 R424 to R433), and the cluster states (01 R16 to R19). -/

namespace Sys2Proof.Machine

/-- Enabled pcores per cluster of the grade: 8 on G96, 7 on G84 (01 R16). -/
def gradeCores (s : State) : Nat := if s.prof.grade = 1 then 7 else 8

def slotsOf (cl : Nat) : List Nat := rangeFrom (9 * cl) 9
/-- Pcores of a cluster that are neither retired nor sentinels. -/
def enabledIn (s : State) (cl : Nat) : List Nat := (slotsOf cl).filter (fun p => !s.retired.contains p && !s.sentinels.contains p)
def sentinelsIn (s : State) (cl : Nat) : List Nat := (slotsOf cl).filter (fun p => s.sentinels.contains p)

/-- The sentinels of a cluster given the retired list: the highest working slots beyond the grade's count (01 R16, R19). -/
def resetSentinels (s : State) (retired : List Nat) (cl : Nat) : List Nat :=
  ((slotsOf cl).filter (fun p => !retired.contains p)).drop (gradeCores s)

/-- Spares of pcore P's cluster beside P: its sentinels and its enabled pcores without a vcore of the resident context, whose vcore table is given (17 R425). -/
def sparesFor (s : State) (vtab : List Nat) (pc : Nat) : List Nat :=
  (slotsOf (clusterOf pc)).filter (fun p => p ≠ pc && !s.retired.contains p && !vtab.contains p)

/-- Whether a spare neither shadows nor runs a third execution, nor keeps the echo copy of one. -/
def spareFree (s : State) (p : Nat) : Bool :=
  !(tvals s.echo).any (fun e => e.shadow = p) && !(tvals s.thirds).any (fun l => l.any (fun t => t.runner = p || t.shadow = p))

/-- The vcore table of the resident context of a partition. -/
def residentVtab (s : State) (p : Nat) : List Nat := match resident s p with | some (_, c) => c.vtab | none => []

/-- The divisor of an echo level, none where echo is off (17 R424). -/
def echoDiv (level : Nat) : Option Nat := match level with | 1 => some 64 | 2 => some 16 | 3 => some 4 | 4 => some 1 | _ => none

/-- Whether a context occupies its placement: it is loaded or on the cores. Nothing moves and nothing faults while it is stowed (16 R419). -/
def placed (c : Ctx) : Bool := c.st = 1 || c.st = 2 || c.st = 6

/-- GLB_CLUSTAT of one cluster: sentinels left, rotating, SHORT (01 R17). -/
def clustatOf (s : State) (cl : Nat) : Nat :=
  let n := (sentinelsIn s cl).length
  min n 3 + 4 * b2n (n > 0) + 8 * b2n (s.short.contains cl)

/-- Faults every context whose virtual grid uses a cluster, with cause *cluster short* (01 R18). -/
def shortCluster (s : State) (cl : Nat) : State :=
  (tkeys s.ctxs).foldl (fun s k => match ctxOf s k with
    | some c => if placed c && c.vtab.any (fun p => clusterOf p = cl) then fault1 s k { cause := 0x20, unit := 15, d0 := cl } else s
    | none => s) s

/-- Takes a pcore out of service (17 R433): its retired bit, no longer a sentinel; it is named in UNIT_MAP. An enabled core is replaced at the next taken beat, at which its cluster may turn SHORT (01 R17, R18). -/
def retire (s : State) (pc : Nat) : State :=
  { s with retired := sput s.retired pc, sentinels := sdel s.sentinels pc, unitMap := s.unitMap ||| 2 ^ pc }

/-- A test pass that has stood since a cycle goes on: the part that was interrupted starts again, and how much of its work that repeats the manual does not give (17 R430; assumption 59). -/
def resumePass (s : State) (pc since : Nat) : State :=
  if !s.sentinels.contains pc then s
  else
    let at0 := tgetD s.passAt pc 0
    { s with passAt := tput s.passAt pc (at0 + (s.cycle - since) + Config.passRedo s.draws % (since - at0 + 1)), draws := s.draws + 1 }

/-- Puts a pcore under probe after an undecided or a transient verdict (17 R428, R429). -/
def underProbe (s : State) (p pc : Nat) : State := setFld s (rCoreEcho pc) 63 56 (fld s (rPtnEcho p) 15 8)

/-- Ends an echo with the last MDRAIN of its K-block: after a mismatch with a complete echo copy a third execution begins, on the free spare of lowest slot other than the shadow, or on the shadow; with an incomplete copy the verdict is undecided at once (17 R428). -/
def echoEnd (s : State) (pc r : Nat) : State :=
  match tget s.echo (pc * 2 + r) with
  | none => s
  | some e =>
    let p := e.ctx / 16
    let s := { s with echo := tdel s.echo (pc * 2 + r) }
    if !e.mism then resumePass s e.shadow e.since
    else if e.bytes > spLimit then underProbe (resumePass s e.shadow e.since) p pc
    else
      let others := (sparesFor s (residentVtab s p) pc).filter (fun q => q ≠ e.shadow && spareFree s q)
      let t : Third := ⟨p, e.shadow, others.headD e.shadow, e.r1, e.r2, s.cycle⟩
      resumePass { s with thirds := tput s.thirds pc (tgetD s.thirds pc [] ++ [t]) } e.shadow e.since

/-- Opens a K-block of vcore v in region r of pcore pc: selection and probe (17 R424, R429). The cycle's end finds its shadow. -/
def echoOpen (s : State) (k : Nat) (c : Ctx) (vc : Vcore) (v pc r : Nat) : State :=
  let s := echoEnd s pc r
  let s := modVc s k v (fun x => { x with kblk := x.kblk + 1 })
  let probe := fld s (rCoreEcho pc) 63 56
  let sel := probe > 0 || (match echoDiv (fld s (rPtnEcho (k / 16)) 2 0) with | some d => (vc.kblk + v + c.step) % d = 0 | none => false)
  let s := if probe > 0 then setFld s (rCoreEcho pc) 63 56 (probe - 1) else s
  if !sel then s else { s with echoOpens := s.echoOpens ++ [⟨k, v, pc, r, decide (0 < probe), []⟩] }

/-- Operand bytes of an echoed K-block reach the shadow, which stores them behind the earlier ones as far as they fit its scratchpad (17 R426). -/
def echoBytes (s : State) (pc r : Nat) (b : Bytes) : State :=
  if s.echoOpens.any (fun o => o.pc = pc && o.r = r) then
    { s with echoOpens := s.echoOpens.map (fun o => if o.pc = pc && o.r = r then { o with ops := o.ops ++ b } else o) }
  else match tget s.echo (pc * 2 + r) with
    | none => s
    | some e =>
      let s := devWrite s (spBase e.shadow + e.bytes) (b.take (spLimit - e.bytes))
      { s with echo := tput s.echo (pc * 2 + r) { e with bytes := e.bytes + b.length }, dirty := sput s.dirty e.shadow }

/-- Serves one K-block that opened in this cycle: the free spare of lowest slot becomes its shadow, or it is skipped. -/
def echoServe (s : State) (o : EchoOpening) : State :=
  match (sparesFor s (residentVtab s (o.ctx / 16)) o.pc).find? (spareFree s) with
  | none => satFld s (rCoreEcho o.pc) 39 24 1
  | some q => echoBytes (satFld { s with echo := tput s.echo (o.pc * 2 + o.r) { ctx := o.ctx, v := o.v, shadow := q, since := s.cycle } } (rCoreEcho o.pc) 23 0 1) o.pc o.r o.ops

/-- Inserts by vcore. -/
def insOpening (o : EchoOpening) : List EchoOpening → List EchoOpening
  | [] => [o]
  | x :: r => if x.v < o.v then x :: insOpening o r else o :: x :: r

/-- The K-blocks of a cycle, probe K-blocks first, then the others in ascending vcore (17 R425). -/
def serveOrder (l : List EchoOpening) : List EchoOpening :=
  let up := fun (l : List EchoOpening) => l.foldl (fun t o => insOpening o t) []
  up (l.filter (·.probe)) ++ up (l.filter (fun o => !o.probe))

/-- Serves the K-blocks that opened in the cycle which ends. -/
def serveEchoes (s : State) : State := (serveOrder s.echoOpens).foldl echoServe { s with echoOpens := [] }

/-- A strike on a pcore (17 R429): transient puts it under probe; a second within the window of its partition retires it. -/
def strike (s : State) (p pc : Nat) : State :=
  let now := (List.range 8).map (fun q => (part s q).points)
  let again := match tget s.strikes pc with
    | some (_, l) => decide ((part s p).points ≤ l.getD p 0 + fld s (rPtnEcho p) 31 16 * 1024)
    | none => false
  let s := setFld { s with strikes := tput s.strikes pc (if again then 2 else 1, now) } (rCoreEcho pc) 53 52 (if again then 2 else 1)
  if again then retire s pc else underProbe s p pc

/-- ECHO_THIRD_RUN: the oldest third execution for pcore pc ends with result r3, or is abandoned (17 R428). -/
def execEchoThirdRun (pc : Fin 108) (r3 : Option (BitVec 64)) (s : State) : Res :=
  match tgetD s.thirds pc [] with
  | [] => .next s
  | t :: rest =>
    let s := { s with thirds := if rest.isEmpty then tdel s.thirds pc else tput s.thirds pc rest }
    let s := resumePass s t.runner t.since
    let s := if t.shadow = t.runner then s else resumePass s t.shadow t.since
    .next (match r3 with
      | some r =>
        if r.toNat = t.r1 && r.toNat ≠ t.r2 then strike s t.part t.shadow
        else if r.toNat = t.r2 && r.toNat ≠ t.r1 then strike s t.part pc
        else underProbe s t.part pc
      | none => underProbe s t.part pc)

/-- The march test of a pass overwrites a scratchpad (17 R430, 18 R458). -/
def marchOver (s : State) (pc : Nat) : State :=
  if !s.dirty.contains pc then s
  else devWrite { s with dirty := sdel s.dirty pc, draws := s.draws + 1 } (spBase pc) ((List.range spLimit).map (fun i => byte (Config.marchByte s.draws i)))

/-- SENTINEL_PASS_DONE: a test pass of a sentinel ends, the six parts of 17 R430 done in their order; a failure of any retires it at once, and a complete pass takes 4,194,304 cycles of test work; `kat` says whether its RBG gave test vectors 1 and 2 (07 R181); the tests of die 1 are suspended while its MGC restarts (17 R430, R442). -/
def execSentinelPassDone (pc : Fin 108) (ok kat : Bool) (s : State) : Res :=
  if !s.sentinels.contains pc.val || !spareFree s pc || (54 ≤ pc.val && s.chain.die1Bad)
      || (ok && kat && decide (s.cycle < tgetD s.passAt pc.val 0 + 4194304)) then .next s
  else
    let s := setReg { marchOver s pc with passAt := tput s.passAt pc.val s.cycle } (rCoreRbg pc) (if kat then 1 else 2)
    if ok && kat then .next (setFld s (rCoreEcho pc) 55 54 1) else .next (retire (setFld s (rCoreEcho pc) 55 54 3) pc)

end Sys2Proof.Machine
end

