-- ==== Sys2Proof/Machine/Hbm.lean ====
section
/-! DEFINITION. HBM: outer code, reads and patrol, stack failure, the repair mailbox (12 R281 to R292, R298, R299). -/

namespace Sys2Proof.Machine

/-! ### The outer code (12 R285) -/

/-- Product in GF(2^8) with x^8 + x^4 + x^3 + x^2 + 1. -/
def gmul8 : Nat → Nat → Nat → Nat → Nat
  | 0, _, _, acc => acc
  | n + 1, a, b, acc =>
    let a2 := if a ≥ 128 then (a * 2) ^^^ 0x11D else a * 2
    gmul8 n a2 (b / 2) (if b % 2 = 1 then acc ^^^ a else acc)
def gmul (a b : Nat) : Nat := gmul8 8 a b 0
/-- α^n. -/
def gpow : Nat → Nat
  | 0 => 1
  | n + 1 => gmul (gpow n) 2
/-- Syndrome j of a codeword, byte 0 highest in degree. -/
def syndrome (j : Nat) (w : Bytes) : Nat := w.foldl (fun a b => gmul a (gpow j) ^^^ b.toNat) 0

/-- One step of the division by the generator x^4 + 15x^3 + 54x^2 + 120x + 64, whose roots are α^0 to α^3; remainder highest degree first. -/
def rsStep (r : Nat × Nat × Nat × Nat) (b : Byte) : Nat × Nat × Nat × Nat :=
  let f := r.1 ^^^ b.toNat
  (r.2.1 ^^^ gmul f 15, r.2.2.1 ^^^ gmul f 54, r.2.2.2 ^^^ gmul f 120, gmul f 64)
/-- The four check bytes of 64 data bytes. -/
def rsEncode (d : Bytes) : Bytes := let r := (padTo 64 d).foldl rsStep (0, 0, 0, 0); [byte r.1, byte r.2.1, byte r.2.2.1, byte r.2.2.2]

/-- What the decoder makes of 68 bytes: the data, and 0 no error, 1 corrected, 2 uncorrectable. -/
def rsDecode (w0 : Bytes) : Bytes × Nat :=
  let w := padTo 68 w0
  let s0 := syndrome 0 w
  let s1 := syndrome 1 w
  let s2 := syndrome 2 w
  let s3 := syndrome 3 w
  if s0 = 0 && s1 = 0 && s2 = 0 && s3 = 0 then (w.take 64, 0)
  else if s0 = 0 || gmul s1 s1 ≠ gmul s0 s2 || gmul s2 s2 ≠ gmul s1 s3 then (w.take 64, 2)
  else match (List.range 68).find? (fun d => gmul s0 (gpow d) = s1) with
    | some d => ((w.set (67 - d) (w.getD (67 - d) 0 ^^^ byte s0)).take 64, 1)
    | none => (w.take 64, 2)

/-! ### Raw blocks (12 R283) -/

/-- The 15 sectors of a raw block of the package, as device addresses. -/
def blockSectors (b : Nat) : List Nat := (List.range 15).map (blockSector (b / stackBlocks) (b % stackBlocks))
/-- The mask of poisoned sectors of a raw block. -/
def blockMask (s : State) (b : Nat) : Nat := (List.range 15).foldl (fun m i => if s.poison.contains ((blockSectors b).getD i 0 / 64) then m + 2 ^ i else m) 0
/-- The poison word of a raw block: its mask twice, but for a word whose copies have come to differ. -/
def poisonWord (s : State) (b : Nat) : Nat := match tget s.pword b with | some w => w.toNat | none => blockMask s b * 0x10001
/-- The 68 bytes that a raw block holds of the sector at a: every write of a sector writes its check bytes with it (12 R286). -/
def sectorWord (s : State) (a : Nat) : Bytes := devRead s a 64 ++ rsEncode (devRead s a 64)
/-- The 1,024 bytes of a raw block. -/
def rawBlock (s : State) (b : Nat) : Bytes :=
  (blockSectors b).flatMap (fun a => devRead s a 64) ++ (blockSectors b).flatMap (fun a => rsEncode (devRead s a 64)) ++ leBytes 4 (poisonWord s b)

/-- The cells of a poison word come to hold `w`: the OR of its copies is what poisons. -/
def setWord (s : State) (b : Nat) (w : BitVec 32) : State :=
  let lo := bits w.toNat 14 0
  let hi := bits w.toNat 30 16
  let t := (List.range 15).foldl (fun t i => let u := (blockSectors b).getD i 0 / 64; if bit (lo ||| hi) i then sput t u else sdel t u) s.poison
  { s with poison := t, pword := if lo = hi then tdel s.pword b else tput s.pword b (BitVec.ofNat 32 (lo + at_ hi 16)) }

/-- XOR of a string with an error pattern. -/
def flip (b e : Bytes) : Bytes := (List.range b.length).map (fun i => b.getD i 0 ^^^ e.getD i 0)

/-! ### Reads (12 R286, R287) -/

def stackState (s : State) (h : Nat) : Nat := fld s (rMemHstat h) 13 11
def setStack (s : State) (h v : Nat) : State := setFld s (rMemHstat h) 13 11 v
/-- A stack that serves reads: trained, with its link, its half not in MAINT. -/
def stackOn (s : State) (h : Nat) : Bool := stackState s h = 1 && !inMaint s (h / 4)

/-- A read's corrected sector written back, unless a later write came: like every write to the block it rewrites both copies of its poison word (12 R286, R287). -/
def writeBack (s : State) (a : Nat) (b : Bytes) (later : Bool) : State :=
  if later then s else { s with mem := memWrite s.mem a b, pword := wordsAfter s a 64 }

/-- What a read of one sector does where its 68 bytes come with the errors `err`: a corrected sector is written back unless a later write came, an uncorrectable one is poisoned, counted and logged. A sector that is poisoned already is decoded like any other; one that is uncorrectable again is not counted again (DESIGN CHOICE, assumption 54). -/
def sectorRead (s : State) (a : Nat) (err : Bytes) (later : Bool) : State :=
  let a := a / 64 * 64
  let h := hbmStack a
  let raw := flip (sectorWord s a) err
  let old := s.poison.contains (a / 64)
  match rsDecode raw with
  | (_, 0) => s
  | (b, 1) => satFld (writeBack s a b later) (rMemEcc h) 31 0 1
  | (b, _) =>
    let s := devTaint (writeBack s a b later) a 64
    if old then s
    else
      let d := h / 4
      let s := satFld s (rMemEcc h) 47 32 1
      satFld (setFld s (rMemPoisonlog d) 47 6 (a / 64)) (rMemPoisonlog d) 62 48 1

/-- The cells of the poison word of a block that flip before a read of it. -/
def wordFlip (s : State) (b : Nat) (pw : BitVec 32) : State := if pw = 0 then s else setWord s b (BitVec.ofNat 32 (poisonWord s b) ^^^ pw)

/-- HBM_SECTOR_READ: 12 R285 to R287. `err` and `pw` are the cells of the sector and of its block's poison word that have flipped. -/
def execHbmSectorRead (a : BitVec 48) (err : Bytes) (pw : BitVec 32) (later : Bool) (s : State) : Res :=
  if a.toNat ≥ hbmEnd || !stackOn s (hbmStack a.toNat) then .next s else .next (sectorRead (wordFlip s (rawBlockOf a.toNat) pw) a.toNat err later)

/-! ### The patrol (12 R291, R292) -/

/-- CCLK cycles of a pass of the patrol: PERIOD hours. -/
def patrolCycles (s : State) (d : Nat) : Nat := fld s (rMemScrub d) 8 1 * 3600000 * msCycles s
/-- Whether the pass that began in cycle t, with n blocks read, is more than a tenth of PERIOD behind. -/
def patrolLate (s : State) (d t n : Nat) : Bool := decide (n * patrolCycles s d + patrolCycles s d * stackBlocks / 10 < (s.cycle - t) * stackBlocks)
/-- Whether the patrol of stack h may read its next block: a pass is to begin PERIOD hours after the one before, and a block of 16 accesses takes its share of the controller's access slots, 1/256 or 1/64 (one slot in a cycle: DESIGN CHOICE, assumption 54). -/
def patrolReady (s : State) (h : Nat) : Bool :=
  match tget s.scrubAt h with
  | none => true
  | some (t, l) =>
    let n := tgetD s.scrubPos h 0 % stackBlocks
    let t := if n = 0 then t + patrolCycles s (h / 4) else t
    decide (t ≤ s.cycle) && decide (l + (if s.scrubLate.contains h || patrolLate s (h / 4) t n then 1024 else 4096) ≤ s.cycle)

/-- The stacks whose patrol catches up, after the n-th read of a pass that was to begin in cycle t: one more than a tenth of PERIOD behind catches up until it is on schedule. -/
def patrolBehind (s : State) (h t n : Nat) : List Nat :=
  if patrolLate s (h / 4) t n then sput s.scrubLate h
  else if (s.cycle - t) * stackBlocks ≤ n * patrolCycles s (h / 4) then sdel s.scrubLate h else s.scrubLate

/-- SCRUB_READ: the patrol reads its next raw block; a full pass of the die's four controllers counts a lap; it pauses in MAINT. -/
def execScrubRead (h : Fin 8) (errs : List Bytes) (pw : BitVec 32) (later : List Bool) (s : State) : Res :=
  let d := h.val / 4
  if !bit (rd s (rMemScrub d)) 0 || !stackOn s h || fld s rPwrStat 2 0 ≥ 2 || !patrolReady s h then .next s
  else
    let n := tgetD s.scrubPos h 0
    let b := h.val * stackBlocks + n % stackBlocks
    let t := match tget s.scrubAt h with | none => s.cycle | some (t, _) => if n % stackBlocks = 0 then t + patrolCycles s d else t
    let s := (List.range 15).foldl (fun s i => sectorRead s ((blockSectors b).getD i 0) (errs.getD i []) (later.getD i false)) (wordFlip s b pw)
    let s := { s with scrubPos := tput s.scrubPos h (n + 1), scrubAt := tput s.scrubAt h (t, s.cycle), scrubLate := patrolBehind s h t (n % stackBlocks + 1) }
    let laps := (rangeFrom (4 * d) 4).foldl (fun a i => min a (tgetD s.scrubPos i 0 / stackBlocks)) 0xFFFF
    .next (setFld s (rMemScrub d) 31 16 laps)

/-- INNER_ECC_POLL: the stack's count of inner corrections is added to INNER (12 R284). -/
def execInnerEccPoll (h : Fin 8) (n : Nat) (s : State) : Res :=
  if stackState s h = 0 then .next s else .next (satFld s (rMemEcc h) 63 48 n)

/-- Contexts whose HBM region lies in a die's half. -/
def ctxsInHalf (s : State) (d : Nat) : List Nat :=
  (s.ctxs.filter (fun e =>
    let lo := e.2.hbmBase
    let hi := lo + e.2.hbmMib * 1048576
    decide (lo < halfBase d + hbmHalf) && decide (halfBase d < hi))).map (·.1)

/-- HBM_STACK_FAIL: the stack is FAILED, and every context in the half faults (12 R281). -/
def execHbmStackFail (h : Fin 8) (s : State) : Res :=
  if stackState s h = 0 || stackState s h = 3 then .next s
  else .next ((ctxsInHalf s (h.val / 4)).foldl (fun s k => fault1 s k { cause := 0x1C, unit := 8, d0 := 2 ^ 32 - 1, d1 := 2 ^ 32 - 1 }) (setStack s h 3))

/-- POISONLOG_CLEAR: writing CLR clears COUNT. -/
def execPoisonlogClear (d : Fin 2) (w : Writer) (s : State) : Res := gate s w fun s => .next (setFld s (rMemPoisonlog d) 62 48 0)

/-! ### The repair mailbox (12 R298, R299) -/

/-- Whether a partition runs a context: one is resident, admitted, stowing or restoring. -/
def ptnRuns (s : State) (p : Nat) : Bool :=
  (part s p).resident.isSome || (part s p).letIn.isSome || s.ctxs.any (fun e => e.1 / 16 = p && (e.2.st = 3 || e.2.st = 6))

/-- The ledger stow area of a partition as first byte and end (16 PTN_LSTOW). -/
def ptnLstow (s : State) (p : Nat) : Nat × Nat :=
  let a := fld s (rLdgRegion p) 47 20 * 1048576 + fld s (rPtnLstow p) 15 0 * 1048576
  (a, a + fld s (rPtnLstow p) 31 16 * 1048576)

/-- Whether two ranges, each as first byte and end, share a byte. -/
def rangesMeet (a b : Nat × Nat) : Bool := decide (a.1 < b.2) && decide (b.1 < a.2) && decide (a.1 < a.2) && decide (b.1 < b.2)

/-- Whether a range meets a stow area of a partition on either die (16 R423). -/
def meetsStow (s : State) (p : Nat) (r : Nat × Nat) : Bool := rangesMeet r (ptnStow s p 0) || rangesMeet r (ptnStow s p 1)

/-- Whether [a, b) lies in the HBM region of an enabled partition and meets none of its stow areas, which no engine and no copy reaches (16 R401, R423). -/
def inPtn (s : State) (p a b : Nat) : Bool := ptnOn s p && decide ((ptnHbm s p).1 ≤ a) && decide (b ≤ (ptnHbm s p).2) && !meetsStow s p (a, b)

def setErr (s : State) (d e : Nat) : State := setFld s (rMboxCtl d) 6 4 e

/-- MBOX_TAKE: the half goes to MAINT, in which each of its stacks reads STATE 2, unless a partition in it runs a context. While die 1 is degraded its mailbox answers ERR 2 (17 R442). -/
def execMboxTake (d : Fin 2) (w : Writer) (s : State) : Res := gate s w fun s =>
  if d = 1 && s.chain.die1Bad then .next (setErr s d 2)
  else if (List.range 8).any (fun p => ptnRuns s p && decide ((ptnHbm s p).1 < halfBase d + hbmHalf) && decide (halfBase d < (ptnHbm s p).2)) then .next (setErr s d 1)
  else .next (setErr (setFld s (rMboxCtl d) 2 2 1) d 0)

/-- MBOX_RELEASE: the half leaves MAINT. -/
def execMboxRelease (d : Fin 2) (w : Writer) (s : State) : Res := gate s w fun s =>
  if d = 1 && s.chain.die1Bad then .next (setErr s d 2)
  else .next (setErr (setFld s (rMboxCtl d) 2 2 0) d 0)

/-- A mailbox command as a written value of MEM_MBOX_CMD spells it. -/
def mboxOf (v : Nat) : MboxCmd := { cmd := bits v 7 0, stack := bits v 9 8, pc := bits v 15 10, bank := bits v 21 16, row := bits v 39 22 }

/-- A write to MEM_MBOX_CMD whose CMD is `cmd` starts it: ignored with ERR 2 while BUSY, refused with ERR 5 outside MAINT unless it only reads a mode register (12 R298, R299). -/
def mboxStart (s : State) (d cmd v : Nat) : State :=
  if bits v 7 0 ≠ cmd then s
  else if bit (rd s (rMboxCtl d)) 3 || (d = 1 && s.chain.die1Bad) then setErr s d 2
  else writeThen s (rMboxCmd d) v (fun s =>
    if cmd ≠ 6 && !bit (rd s (rMboxCtl d)) 2 then setErr s d 5
    else setErr (setFld { s with mbox := tput s.mbox d (mboxOf v) } (rMboxCtl d) 3 3 1) d 0)

/-- ECC_LOG. -/
def execEccLog (d : Fin 2) (v : BitVec 64) (w : Writer) (s : State) : Res := gate s w fun s => .next (mboxStart s d 1 v.toNat)
/-- SPPR. -/
def execSppr (d : Fin 2) (v : BitVec 64) (w : Writer) (s : State) : Res := gate s w fun s => .next (mboxStart s d 2 v.toNat)
/-- HPPR. -/
def execHppr (d : Fin 2) (v : BitVec 64) (w : Writer) (s : State) : Res := gate s w fun s => .next (mboxStart s d 3 v.toNat)
/-- PC_SPARE. -/
def execPcSpare (d : Fin 2) (v : BitVec 64) (w : Writer) (s : State) : Res := gate s w fun s => .next (mboxStart s d 4 v.toNat)
/-- MBIST. -/
def execMbist (d : Fin 2) (v : BitVec 64) (w : Writer) (s : State) : Res := gate s w fun s => .next (mboxStart s d 5 v.toNat)
/-- READ_MR: the register number is ROW[7:0]. -/
def execReadMr (d : Fin 2) (v : BitVec 64) (w : Writer) (s : State) : Res := gate s w fun s => .next (mboxStart s d 6 v.toNat)

/-- The units of a PC. -/
def pcUnits (d stack pc : Nat) : List Nat := (List.range pcSectors).map (fun t => (halfBase d + unmapPc stack pc (t * 64)) / 64)

/-- A repair poisons every sector of its PC: both copies of every poison word of it are written. -/
def poisonPc (s : State) (h pc : Nat) : State :=
  { s with poison := (pcUnits (h / 4) (h % 4) pc).foldl sput s.poison, pword := s.pword.filter (fun e => e.1 / pcBlocks ≠ h * 64 + pc) }

/-- A spare PC of stack h serves pseudo-channel pc. One that a spare serves already takes no other (DESIGN CHOICE, assumption 54). -/
def sparePc (s : State) (h pc : Nat) : State :=
  if s.spared.contains (h, pc) then s
  else setFld { s with spared := s.spared ++ [(h, pc)] } (rMemHstat h) 15 14 (fld s (rMemHstat h) 15 14 + 1)

/-- MBOX_CMD_DONE: BUSY clears; a repair poisons its whole PC; `data` is what the stack answers, `fail` that a repair failed. -/
def execMboxCmdDone (d : Fin 2) (data : BitVec 64) (fail : Bool) (s : State) : Res :=
  match tget s.mbox d with
  | none => .next s
  | some c =>
    let h := 4 * d.val + c.stack
    let s := setFld { s with mbox := tdel s.mbox d } (rMboxCtl d) 3 3 0
    if c.cmd = 1 || c.cmd = 5 || c.cmd = 6 then .next (setErr (setReg s (rMboxData d) data.toNat) d 0)
    else if c.cmd = 4 && fld s (rMemHstat h) 15 14 ≥ 2 && !s.spared.contains (h, c.pc) then .next (setErr s d 3)
    else
      let s := poisonPc s h c.pc
      .next (setErr (if c.cmd = 4 && !fail then sparePc s h c.pc else s) d (if fail then 4 else 0))

/-! ### Ledger memory (12 R302, R303, R306) -/

/-- Channels of a ledger population, lowest first on each die. -/
def ledgerChans (n : Nat) : Nat := (2 ^ (n / 2) - 1) + at_ (2 ^ (n / 2) - 1) 6
/-- The channel that holds offset z of the ledger window, and the byte of its device. -/
def ledgerChan (s : State) (z : Nat) : Nat := let n := fld s rLdgMemcfg 3 0; (setBitsOf 12 (ledgerChans n)).getD (z / 4096 % n) 0
def ledgerByte (s : State) (z : Nat) : Nat := z / 4096 / fld s rLdgMemcfg 3 0 * 4096 + z % 4096

/-- What the GDDR devices report with a read of [a, a + n): corrections, and units that are uncorrectable, which read as poisoned. -/
def gddrReport (s : State) (a n corr : Nat) (bad : List Nat) : State :=
  let l := (touchedUnits a n).filter bad.contains
  satFld (satFld { s with poison := l.foldl sput s.poison } rLdgMemcfg 47 32 corr) rLdgMemcfg 63 48 l.length

/-! ### Bandwidth regulators (12 R293) -/

/-- Sectors that the four controllers of a die serve in a CCLK cycle: 8.192 TB/s at N × 1.25 MHz (12 R280, 19 R476). -/
def hbmSlots (s : State) : Nat := 102400 / max 1 (fld s rPwrCclk 26 16)

/-- A partition that has reached MAX/64 of what the die can serve in the window is cut off (of its capacity: DESIGN CHOICE, assumption 54). -/
def hbmCut (s : State) (d : Nat) (t : Tbl Nat) (p : Nat) : Bool := decide (fld s (rMemReg d p) 14 8 * 1024 * hbmSlots s ≤ tgetD t p 0 * 64)
/-- A partition below MIN/64 of the window's total so far is served before the others. -/
def hbmFirst (s : State) (d : Nat) (t : Tbl Nat) (p : Nat) : Bool := decide (tgetD t p 0 * 64 < fld s (rMemReg d p) 6 0 * (tvals t).sum)

/-- The partition that a die serves next, in order of arrival within its level. -/
def hbmNext (s : State) (d : Nat) (q : List (Nat × Nat)) (t : Tbl Nat) : Option Nat :=
  let l := (q.map (·.1)).filter (fun p => !hbmCut s d t p)
  match l.find? (hbmFirst s d t) with | some p => some p | none => l.head?

/-- Serves one sector of a partition's oldest request. -/
def hbmTake (p : Nat) : List (Nat × Nat) → List (Nat × Nat)
  | [] => []
  | (x, n) :: r => if x = p then (if n ≤ 1 then r else (x, n - 1) :: r) else (x, n) :: hbmTake p r

/-- Up to n sectors of a die. -/
def hbmServe (s : State) (d : Nat) : Nat → List (Nat × Nat) → Tbl Nat → List (Nat × Nat) × Tbl Nat
  | 0, q, t => (q, t)
  | n + 1, q, t => match hbmNext s d q t with
    | none => (q, t)
    | some p => hbmServe s d n (hbmTake p q) (tput t p (tgetD t p 0 + 1))

/-- The window of a die's regulators in this cycle: 1,024 cycles, counted from DBT_CYCLE 0. -/
def hbmWindow (s : State) (d : Nat) : Tbl Nat := match tget s.hbmWin d with | some (w, t) => if w = s.cycle / 1024 then t else [] | none => []

/-- One cycle of a die's controllers. -/
def hbmCycle (s : State) (d : Nat) : State :=
  match tget s.hbmQ d with
  | none => s
  | some q =>
    let r := hbmServe s d (hbmSlots s) q (hbmWindow s d)
    { s with hbmQ := if r.1.isEmpty then tdel s.hbmQ d else tput s.hbmQ d r.1, hbmWin := tput s.hbmWin d (s.cycle / 1024, r.2) }

/-- Whether the regulator of a die keeps back sectors of a partition. -/
def hbmHeld (s : State) (d p : Nat) : Bool := (tgetD s.hbmQ d []).any (fun e => e.1 = p) && hbmCut s d (hbmWindow s d) p

end Sys2Proof.Machine
end

