-- ==== Sys2Proof/Machine/Bells.lean ====
section
/-! DEFINITION. Chimes and bells: signals and their counting (11 R259 to R263), bell phases and their trees (11 R266 to R271). -/

namespace Sys2Proof.Machine

/-! ### Chimes -/

/-- The lowest source of the signals that a cycle counts, in the order of 11 R261: the codes rise in that order. -/
def minSrc (l : List Sig) : Nat := l.foldl (fun a g => min a g.src) (2 ^ 32 - 1)

/-- Counts signals to one chime of a vcore in one cycle, or faults with *chime overflow* (11 R259, R261). -/
def countChime (s : State) (k v ch : Nat) (l : List Sig) : State :=
  match (ctxOf s k).bind (fun c => vcoreOf c v) with
  | none => s
  | some vc =>
    let n := tgetD vc.chime ch 0 + l.foldl (fun a g => a + g.count) 0
    if n > 65535 then fault1 s k { cause := 0xF, unit := 13, vcore := some v, d0 := ch, d1 := minSrc l }
    else modVc s k v (fun x => { x with chime := tput x.chime ch n })

/-- Adds what arrived in one cycle to a landing count, or faults with *chime overflow* (11 R263). -/
def countLand (s : State) (k v ch : Nat) (l : List Sig) : State :=
  match (ctxOf s k).bind (fun c => vcoreOf c v) with
  | none => s
  | some vc =>
    let n := tgetD vc.land ch 0 + l.foldl (fun a g => a + g.count) 0
    if n > 65535 then fault1 s k { cause := 0xF, unit := 13, vcore := some v, d0 := ch, d1 := minSrc l }
    else modVc s k v (fun x => { x with land := tput x.land ch n })

/-- The chimes that signals go to, each once. -/
def sigTargets (l : List Sig) : List (Nat × Nat) := (l.map (fun g => (g.vcore, g.chime))).eraseDups

/-- Counts what has reached the chimes and landing counts of a context in the cycle that ends: the signals of one cycle to one chime together (11 R260, R261, R263). -/
def countCtx (s : State) (k : Nat) : State :=
  match ctxOf s k with
  | none => s
  | some c =>
    if c.counted.isEmpty && c.landed.isEmpty then s
    else
      let s := modCtx s k (fun c => { c with counted := [], landed := [] })
      let s := (sigTargets c.counted).foldl (fun s t => countChime s k t.1 t.2 (c.counted.filter (fun g => (g.vcore, g.chime) = t))) s
      (sigTargets c.landed).foldl (fun s t => countLand s k t.1 t.2 (c.landed.filter (fun g => (g.vcore, g.chime) = t))) s

/-- Counts for every context. -/
def countAll (s : State) : State := (tkeys s.ctxs).foldl countCtx s

/-- A remote chime write or a COPY_IN reaches a landing count in this cycle. -/
def landSig (s : State) (k v ch count src : Nat) : State := modCtx s k (fun c => { c with landed := c.landed ++ [{ vcore := v, chime := ch, count := count, src := src }] })

/-- Takes the first `n` signals to chime ch of vcore v that are due by cycle t out of a list. -/
def takeSigs (v ch t : Nat) : Nat → List Sig → List Sig × List Sig
  | _, [] => ([], [])
  | 0, l => ([], l)
  | n + 1, g :: r =>
    if g.vcore = v && g.chime = ch && decide (g.due ≤ t) then let (a, b) := takeSigs v ch t n r; (g :: a, b)
    else let (a, b) := takeSigs v ch t (n + 1) r; (a, g :: b)

/-- CHIME_SIGNAL: the n oldest signals on their way to a chime that have passed their delay are counted in this cycle (11 R261, R262). -/
def execChimeSignal (p : Fin 8) (v : Fin 96) (ch : Fin 48) (n : Nat) (s : State) : Res :=
  match resident s p with
  | none => .next s
  | some (k, c) =>
    let (l, rest) := takeSigs v ch s.cycle n c.sigs
    .next (modCtx s k (fun c => { c with sigs := rest, counted := c.counted ++ l }))

/-! ### Bells -/

def bell (s : State) (b : Nat) : Bell := tgetD s.bells b {}
def modBell (s : State) (b : Nat) (f : Bell → Bell) : State := { s with bells := tput s.bells b (f (bell s b)) }
def belScope (s : State) (b : Nat) : Nat := fld s (rBelCfg b) 5 4
def belLocal (s : State) (b : Nat) : Nat := fld s (rBelCfg b) 12 6 + 1
def belTimeout (s : State) (b : Nat) : Nat := fld s (rBelCfg b) 51 36
/-- Bells of a plan. -/
def planBells (c : Ctx) : List Nat := setBitsOf 64 c.prog.plan.bells
/-- The muster bell: the lowest of the plan (11 R273). -/
def musterBell (c : Ctx) : Option Nat := (planBells c).head?
def musterTimeout (s : State) (c : Ctx) : Nat := match musterBell c with | some b => belTimeout s b | none => 0x400
def musterD0 (c : Ctx) : Nat := (musterBell c).getD (2 ^ 32 - 1)

/-- Count of local arrivals for a parity. -/
def arrOf (x : Bell) (par : Bool) : Nat := if par then x.arr1 else x.arr0
def nodeOf (x : Bell) (par : Bool) : List Nat := if par then x.node1 else x.node0
def setNode (x : Bell) (par : Bool) (l : List Nat) : Bell := if par then { x with node1 := l } else { x with node0 := l }

/-- The cover of a bell phase: term 5 for scope LOCAL, term 6 for scope JOB (11 R268, R278). -/
def bellCover (s : State) (p b devices : Nat) : Nat :=
  if belScope s b = 0 then coverOr s p 13 5 0 else coverOr s p 13 6 (ceilLog2 devices)

/-- Moves a JOB phase on at this device's node of the tree: when its own arrival and those of its children are in, it sends one arrival up, or at the root releases (11 R267). `arg` is the ARG field. -/
def nodeStep (s : State) (k b : Nat) (par : Bool) (arg : Bytes) : State :=
  match ctxOf s k with
  | none => s
  | some c =>
    let step := (bell s b).step
    let kids := treeKids c step 0
    let have_ := nodeOf (bell s b) par
    if !have_.contains c.rank || !kids.all (fun r => have_.contains r) then s
    else match treeParent c step 0 with
      | some r => cteSend s k r 1 (cteHdr 1 (cteMode 0 0 par false 0) b 0 step 0 0 c.rank 0 0 arg)
      | none =>
        let s := cteSendAll s k kids 2 (cteHdr 2 (cteMode 0 0 par false 0) b 0 step 0 0 c.rank 0 0 [])
        modBell s b (fun x => { x with jobRel := true })

/-- The local arrivals of the current phase are complete: its release is due, and for scope JOB the device arrives at the tree (11 R267, R268). -/
def localDone (s : State) (k : Nat) (c : Ctx) (b : Nat) : State :=
  let x := bell s b
  let s := modBell s b (fun x => { x with due := some (s.run + bellCover s (k / 16) b c.prog.plan.devices), dueCount := none })
  if belScope s b = 0 then s
  else nodeStep (modBell s b (fun y => setNode y x.parity (nodeOf y x.parity ++ [c.rank]))) k b x.parity []

/-- A participant's arrival: counted for the parity of its sense, which flips (11 R267). -/
def arriveBell (s : State) (k : Nat) (c : Ctx) (v b : Nat) : State :=
  match vcoreOf c v with
  | none => s
  | some vc =>
    let par := vc.sense.testBit b
    let s := modVc s k v (fun x => { x with sense := x.sense ^^^ 2 ^ b, bellOut := x.bellOut ++ [b] })
    let s := modBell s b (fun x =>
      let x := if arrOf x par = 0 then { x with step := c.step } else x
      if par then { x with arr1 := x.arr1 + 1 } else { x with arr0 := x.arr0 + 1 })
    let x := bell s b
    if par = x.parity && x.due.isNone && decide (arrOf x par ≥ belLocal s b) then localDone s k c b else s

/-- The bell at which a stopped conductor stands. -/
def stopBell (vc : Vcore) : Nat := match tget vc.buf vc.cia with | some w => bits w.toNat 141 136 | none => 0

/-- Releases the current phase of a bell: the parity turns, the counts of the phase fall to zero, blocked queues resume, and conductors that stopped at it (11 R267 to R269). A release of scope JOB that was overdue has interrupted a stall (11 R276). -/
def releaseBell (s : State) (b : Nat) : State :=
  let x := bell s b
  let old := x.parity
  let late := belScope s b = 1 && (match x.due with | some u => decide (u < s.run) | none => false)
  let s := modBell s b (fun x =>
    let x := setNode x old []
    let x := if old then { x with arr1 := 0 } else { x with arr0 := 0 }
    { x with parity := !old, due := none, dueCount := none, jobRel := false, phases := (x.phases + 1) % 2 ^ 32 })
  match x.ctx with
  | none => s
  | some k =>
    let s := modCtx s k (fun c => { c with stall := if late then 0 else c.stall, vc := tmap c.vc (fun _ vc =>
      { vc with blocked := vc.blocked.filter (fun q => q.2 ≠ b), bellOut := vc.bellOut.filter (· ≠ b),
                cond := if vc.cond = .bellStop && stopBell vc = b then .issuing else vc.cond,
                issueAt := if vc.cond = .bellStop && stopBell vc = b then s.run + 1 else vc.issueAt }) })
    match ctxOf s k with
    | some c => if (bell s b).due.isNone && decide (arrOf (bell s b) (!old) ≥ belLocal s b) then localDone s k c b else s
    | none => s

/-- Whether TIMEOUT grid points of bell b have passed since a due cycle, whose count is `n`. -/
def bellOver (s : State) (k b : Nat) (n : Option Nat) : Bool := match n with | some n => decide (n + belTimeout s b ≤ (part s (k / 16)).points) | none => false

/-- Whether a sum across devices under bell b cannot complete (14 R353). -/
def sumOver (s : State) (k : Nat) (c : Ctx) (b : Nat) : Bool :=
  c.sums.any (fun e => (match tDesc c (e.1 % 65536) with | some d => d.scope = 3 && d.bell = b | none => false) && bellOver s k b e.2.dueCount)

/-- BELL_TIMEOUT: a release still absent TIMEOUT grid points after its due cycle (11 R270), or a sum across devices (14 R353). -/
def execBellTimeout (b : Fin 64) (s : State) : Res :=
  let x := bell s b
  match x.ctx with
  | some k =>
    if belScope s b = 1 && !x.jobRel && bellOver s k b x.dueCount then .next (fault1 s k { cause := 0x1E, unit := 13, d0 := b })
    else match ctxOf s k with
      | some c => if sumOver s k c b then .next (fault1 s k { cause := 0x1E, unit := 11, d0 := b }) else .next s
      | none => .next s
  | none => .next s

/-- The sums of a context whose due cycle the run counter has reached note the grid points. -/
def sumsDue (s : State) (k : Nat) (c : Ctx) : Ctx :=
  { c with sums := tmap c.sums (fun _ x => match x.due, x.dueCount with
      | some u, none => if u ≤ s.run then { x with dueCount := some (part s (k / 16)).points } else x
      | _, _ => x) }

/-- Notes the grid points of the partition at the end of the cycle in which the run counter has reached the due cycle of a phase or of a sum (11 R270, 14 R353). -/
def bellsDue (s : State) : State :=
  { s with
    ctxs := tmap s.ctxs (fun k c => if c.sums.isEmpty then c else sumsDue s k c)
    bells := tmap s.bells (fun _ x => match x.ctx, x.due, x.dueCount with
      | some k, some u, none => if u ≤ s.run then { x with dueCount := some (part s (k / 16)).points } else x
      | _, _, _ => x) }

/-- Counts a discarded arrival (11 R271). -/
def discardArrival (s : State) (b : Nat) : State := modBell s b (fun x => { x with discards := satAdd 16 x.discards 1 })

end Sys2Proof.Machine
end

