-- ==== Sys2Proof/Machine/CteRx.lean ====
section
/-! DEFINITION. What a device does with the CTE messages that its collective streams bring (14 R362): parts and shard versions (14 R356 to R359), device arrivals and releases of bells (11 R267, R271), the muster (11 R273, R274, 02 R45), the cadence vote (12 R296), the job map and its summaries (14 R363 to R366). -/

namespace Sys2Proof.Machine

/-- A message out of a frame whose payload is in the clear: its header and its data (14 R362). -/
def cteOf (f : CvtFrame) (torn : Bool) : CteMsg :=
  let h := fun i n => beNat (sliceB f.payload i n)
  { node := f.node, rank := h 0x18 4, gmode := h 1 1 % 4, parity := bit (h 1 1) 4, scatter := bit (h 1 1) 5, fmt := bits (h 1 1) 6 6
    id := h 2 2, inst := h 4 4, step := h 8 8, first := h 0x10 4, count := h 0x14 4, addends := h 0x1C 4, digest := h 0x20 8
    arg := sliceB f.payload 0x28 24, data := f.payload.drop 64, pmask := f.pmask / 2, torn := torn }

/-- Counts a completed collective instance on a die (14 CTE_COUNT). -/
def countInst (s : State) (d : Nat) : State := satFld s (rCteCount d) 31 0 1

/-- Writes a payload with the poison of PMASK (13 R320, R334). -/
def landData (s : State) (a pmask : Nat) (b : Bytes) : State :=
  (setBitsOf 64 pmask).foldl (fun s i => if 64 * i < b.length then devTaint s (a + 64 * i) 64 else s) (devWrite s a b)

/-! ### Shard versions (14 R357 to R359) -/

/-- Device address of entry i of a context's version store (14 R358; its place in the region: assumption 46). -/
def versionAt (c : Ctx) (i : Nat) : Nat := c.hbmBase + 16 * (Config.versionStore c.hbmMib % (c.hbmMib * 65536 - 65535)) + 16 * i

/-- An entry of the version store: DIGEST, LAYER, FLAGS with VALID. -/
def versionEntry (dig layer : Nat) : Bytes := leBytes 8 dig ++ leBytes 4 layer ++ leBytes 4 1

/-- Steps 2 and 3 of 14 R359 for a part: records its digest in the version store, or compares it. -/
def versionStep (s : State) (k : Nat) (x : Gather) (i dig : Nat) : State :=
  match ctxOf s k with
  | none => s
  | some c =>
    let a := versionAt c (x.vidx + i)
    if x.vmode = 1 then hbmUse (devWrite s a (versionEntry dig x.layer)) (k / 16) a 16
    else if x.vmode = 2 then
      let s := hbmUse s (k / 16) a 16
      let e := devRead s a 16
      if bit (fieldB e 12 4) 0 && fieldB e 0 8 = dig && fieldB e 8 4 = x.layer then s
      else fault1 s k { cause := 0x1B, unit := 11, vcore := some x.v, d0 := x.layer, d1 := i }
    else s

/-- The step boundary clears VALID in every entry of the version store of a context with peers (14 R358). -/
def clearVersions (s : State) (c : Ctx) : State :=
  if c.prog.plan.devices ≤ 1 then s
  else
    let a := versionAt c 0
    let mine := fun (x : Nat) => decide (a ≤ x) && decide (x < a + 1048576) && (x - a) % 16 = 12
    { s with mem := memMap s.mem (fun x b => if mine x then b &&& byte 0xFE else b), pword := wordsAfter s a 1048576 }

/-! ### All-gather (14 R356, R359) -/

def modGather (s : State) (k v ord : Nat) (f : Gather → Gather) : State :=
  modCtx s k (fun c => { c with gathers := c.gathers.map (fun x => if x.v = v && x.ord = ord then f x else x) })

/-- The frames of part i of a gather: each a message with its COUNT of units, the last with LAST, XCHK and ACKREQ and the transfer check over the payloads. -/
def partFrames (s : State) (c : Ctx) (d : Nat) (x : Gather) (i dig : Nat) : List TxFrame :=
  let room := cteRoom s d
  let n := (x.len + room - 1) / room
  let a := x.dst + i * x.len
  let len := fun j => min room (x.len - j * room)
  let hdr := fun j => cteHdr 7 (cteMode x.gmode (algOf c x.step x.gmode 2 (sizeClass x.len)) false false 0) x.v x.ord x.step i (len j / 64) c.rank 0 dig []
  (List.range n).map (fun j =>
    let last := j + 1 = n
    { seq := 0, type := 10, flags := if last then 0xD0 else 0, body := hdr j, src := a + j * room, len := len j
      xck := if last then some ((List.range n).foldl (fun r j => crc64From r (hdr j ++ devRead s (a + j * room) (len j))) 0) else none })

/-- Sends part i of a gather to ranks; the entry waits for the acknowledgements. -/
def partSend (s : State) (k : Nat) (c : Ctx) (x : Gather) (i dig : Nat) (ranks : List Nat) : State :=
  let d := dieOf (pcoreOf c x.v)
  ranks.foldl (fun s r =>
    let fs := partFrames s c d x i dig
    let s := match collStream s k d x.gmode r with
      | some (e, st) => modVc s k x.v (fun vc => { vc with sends := vc.sends ++ [{ cia := x.cia, sidx := e, seq := seqAdd st.sndNxt (fs.length - 1) }] })
      | none => s
    cteFrames s k d x.gmode r fs) s

/-- Group indexes to which a member sends part i on: along the tree away from where it came, round the ring up to its owner, or in the rounds that follow the one that brought it (14 R363). -/
def partTargets (c : Ctx) (x : Gather) (i source : Nat) : List Nat :=
  match algOf c x.step x.gmode 2 (sizeClass x.len) with
  | 1 => ((if x.g ≤ 1 then [] else [(x.own + 1) % x.g]).filter (· ≠ i)).map (memberRank c x.gmode)
  | 2 => ((rangeFrom (if i = x.own then 0 else Nat.log2 (i ^^^ x.own) + 1) (ceilLog2 x.g)).map (fun j => x.own ^^^ 2 ^ j)).filter (· < x.g) |>.map (memberRank c x.gmode)
  | _ => (treeKids c x.step x.gmode ++ (treeParent c x.step x.gmode).toList).filter (fun r => i = x.own || r ≠ source)

/-- A part is whole: damage poisons it and counts in INTEGRITY of the port that brought its last frame, then the version steps, then it goes on (14 R359). -/
def partWhole (s : State) (k port : Nat) (x : Gather) (m : CteMsg) (crc : Nat) : State :=
  let a := x.dst + m.first * x.len
  let s := if m.torn then devTaint s a x.len else s
  let s := if crc ≠ m.digest then satFld (devTaint s a x.len) (rNetPorterr port) 47 32 1 else s
  let s := modGather s k x.v x.ord (fun y => { y with got := y.got ++ [m.first] })
  let s := versionStep s k x m.first m.digest
  match ctxOf s k with
  | some c => partSend s k c x m.first m.digest (partTargets c x m.first m.rank)
  | none => s

/-- PART: its data land behind those of the part that have come (14 R356, R359). -/
def onPart (s : State) (k port : Nat) (c : Ctx) (m : CteMsg) : State :=
  match c.gathers.find? (fun x => x.v = m.id && x.ord = m.inst) with
  | none => if cteEarly c 7 m then keepEarly s k port 7 m else cteFault s k m
  | some x =>
    let old := tgetD x.fill m.first (0, 0)
    let n := m.data.length
    if m.gmode ≠ x.gmode || m.first ≥ x.g || x.got.contains m.first || m.count * 64 ≠ m.data.length || old.1 + n > x.len || n = 0 then cteFault s k m
    else
      let a := x.dst + m.first * x.len + old.1
      let crc := crc64From old.2 m.data
      let s := modGather (hbmUse (landData s a m.pmask m.data) (k / 16) a n) k x.v x.ord (fun y => { y with fill := tput y.fill m.first (old.1 + n, crc) })
      if old.1 + n < x.len then s else partWhole s k port x m crc

/-- Applies the early parts of a gather, in arrival order (14 R355). -/
def drainParts (s : State) (k v ord : Nat) : State :=
  match ctxOf s k with
  | none => s
  | some c =>
    let mine := fun (e : Nat × Nat × CteMsg) => e.2.1 = 7 && e.2.2.id = v && e.2.2.inst = ord
    let s := modCtx s k (fun c => { c with early := c.early.filter (fun e => !mine e) })
    (c.early.filter mine).foldl (fun s e => match ctxOf s k with | some c => onPart s k e.1 c e.2.2 | none => s) s

/-! ### Muster (11 R273, R274, 02 R45) -/

/-- ARG of a muster arrival: ARV, REFCNT, DOMAIN, and the mismatch that the subtree has seen (assumption 29). -/
def musterArg (s : State) (bad : Option Nat) : Bytes :=
  beBytes 8 (rd s rArv) ++ beBytes 8 s.refcnt ++ beBytes 1 (fld s rBelMuster 16 16) ++ beBytes 1 (b2n bad.isSome) ++ beBytes 4 (bad.getD 0)

/-- A fault of cause *ARV mismatch* (02 R45, 09 R238). -/
def arvProb (s : State) (node : Nat) : Prob := { cause := 2, unit := 11, d0 := fld s rArv 31 0, d1 := fld s rArv 47 32, d2 := node }

/-- The release count R_M reaches this device: it waits for it, or faults with *bell timeout* where REFCNT has already reached it (11 R274). -/
def musterRelease (s : State) (k : Nat) (c : Ctx) (rm : Nat) : State :=
  if s.refcnt ≥ rm then fault1 s k { cause := 0x1E, unit := 13, d0 := musterD0 c } else modCtx s k (fun c => { c with muster := .released rm })

/-- Moves the muster on at this device's node: all its subtree is in, so it arrives at its parent, or at the root decides (11 R273, 02 R45). -/
def musterStep (s : State) (k b : Nat) : State :=
  match ctxOf s k with
  | none => s
  | some c =>
    let kids := treeKids c c.step 0
    let have_ := nodeOf (bell s b) false
    if c.muster ≠ .arrived || !have_.contains c.rank || !kids.all (fun r => have_.contains r) then s
    else match treeParent c c.step 0 with
      | some r => cteSend s k r 1 (cteHdr 1 0 b 0 c.step 0 0 c.rank 0 0 (musterArg s c.musterBad))
      | none =>
        match c.musterBad with
        | some n =>
          fault1 (cteSendAll s k kids 2 (cteHdr 2 0 b 0 c.step 0 0 c.rank 0 0 (beBytes 8 0 ++ beBytes 8 0 ++ beBytes 1 0 ++ beBytes 1 1 ++ beBytes 4 n))) k (arvProb s n)
        | none =>
          let rm := s.refcnt + 64 * fld s rBelMuster 15 0
          musterRelease (cteSendAll s k kids 2 (cteHdr 2 0 b 0 c.step 0 0 c.rank 0 0 (beBytes 8 rm))) k c rm

/-! ### Device arrivals and releases of bells (11 R267, R271, R273, R274) -/

/-- ARRIVE from a tree child: counted for its parity, or discarded; of the muster with the child's ARV. -/
def onArrive (s : State) (k : Nat) (c : Ctx) (m : CteMsg) : State :=
  let b := m.id % 64
  let x := bell s b
  if m.id ≥ 64 || x.ctx ≠ some k then cteFault (if m.id < 64 then discardArrival s b else s) k m
  else if !((treeKids c m.step 0).contains m.rank && nodeOfRank c m.rank = m.node) || (nodeOf x m.parity).contains m.rank then discardArrival s b
  else if c.muster = .waiting || c.muster = .arrived then
    if musterBell c ≠ some b || m.parity then discardArrival s b
    else
      let bad := if beNat (sliceB m.arg 0 8) ≠ rd s rArv then some m.node
        else if fieldB m.arg 17 1 ≠ 0 then some (beNat (sliceB m.arg 18 4)) else none
      let s := modCtx s k (fun c => { c with musterBad := match c.musterBad with | some n => some n | none => bad })
      musterStep (modBell s b (fun y => { y with node0 := y.node0 ++ [m.rank] })) k b
  else nodeStep (modBell s b (fun y => setNode y m.parity (nodeOf y m.parity ++ [m.rank]))) k b m.parity []

/-- RELEASE from the tree parent: it goes on to the children; the muster's carries R_M. One that no open phase awaits names no live instance (14 R362). -/
def onRelease (s : State) (k : Nat) (c : Ctx) (m : CteMsg) : State :=
  let b := m.id % 64
  let x := bell s b
  if m.id ≥ 64 || x.ctx ≠ some k then cteFault s k m
  else if treeParent c m.step 0 ≠ some m.rank then cteFault s k m
  else
    let kids := treeKids c m.step 0
    let fwd := fun (s : State) => cteSendAll s k kids 2 (cteHdr 2 (cteMode 0 0 m.parity false 0) b 0 m.step 0 0 c.rank 0 0 m.arg)
    if c.muster = .arrived then
      if musterBell c ≠ some b || m.parity then cteFault s k m
      else if fieldB m.arg 17 1 ≠ 0 then fault1 (fwd s) k (arvProb s (beNat (sliceB m.arg 18 4)))
      else musterRelease (fwd s) k c (beNat (sliceB m.arg 0 8))
    else if m.parity ≠ x.parity || x.jobRel || !(nodeOf x x.parity).contains c.rank then cteFault s k m
    else modBell (fwd s) b (fun y => { y with jobRel := true })

/-! ### The cadence vote (12 R296) -/

/-- CADENCE: a wanted exponent from a child, or a pair from the parent. -/
def onCadence (s : State) (k : Nat) (c : Ctx) (m : CteMsg) : State :=
  let kk := beNat (sliceB m.arg 0 8)
  if votesAlone c then cteFault s k m
  else if treeParent c c.step 0 = some m.rank then cadencePair s k c kk (beNat (sliceB m.arg 8 8))
  else if (treeKids c c.step 0).contains m.rank then cadenceVote (modCtx s k (fun c => { c with kKids := tput c.kKids m.rank kk })) k
  else cteFault s k m

/-! ### The job map (14 R363 to R366) -/

/-- ⌈log_f g⌉. -/
def ceilLogN (f g : Nat) : Nat := ((List.range 18).find? (fun d => f ^ d ≥ g)).getD 18

/-- The costs of 14 R365 for one mode, each multiplied by g × β, which changes no comparison. -/
def treeCost (f g a b n : Nat) : Nat := ceilLogN f g * (a * g * b + f * n * g)
def ringCost (g a b n : Nat) : Nat := (g - 1) * (a * g * b + n)
def hdCost (g a b n : Nat) : Nat := ceilLog2 g * a * g * b + (g - 1) * n

/-- The fan-in code that the root picks for a mode: least tree cost at 16 KiB, ties to the smaller. -/
def pickFanin (mx g a b : Nat) : Nat :=
  (List.range (mx + 1)).foldl (fun best i => if treeCost (2 ^ (i + 1)) g a b 16384 < treeCost (2 ^ (best + 1)) g a b 16384 then i else best) 0

/-- The algorithm of one kind and class of a mode. -/
def pickAlg (force fan g a b n : Nat) : Nat :=
  let pow := 2 ^ Nat.log2 g = g
  match force with
  | 1 => 0
  | 2 => 1
  | 3 => if pow then 2 else 1
  | _ =>
    let t := treeCost (2 ^ (fan + 1)) g a b n
    let r := ringCost g a b n
    let h := hdCost g a b n
    let best := if r < t then (1, r) else (0, t)
    if pow && h < best.2 then 2 else best.1

/-- The map that the root chooses: ALG and FANIN fields of CTE_MAP. -/
def chooseMap (c : Ctx) (cfg : Nat) (l : List (Nat × Nat)) : Nat × Nat :=
  (List.range 3).foldl (fun m mode =>
    let g := max 1 (groupSize c mode)
    let ab := l.getD mode (0, 0)
    let fan := pickFanin (bits cfg 17 16) g ab.1 ab.2
    let alg := (List.range 9).foldl (fun a e =>
      a + at_ (pickAlg (bits cfg 19 18) fan g ab.1 ab.2 (match e % 3 with | 0 => 16384 | 1 => 524288 | _ => 8388608)) (2 * (9 * mode + e))) 0
    (m.1 + alg, m.2 + at_ fan (2 * mode))) (0, 0)

/-- Ranks that this device's collective streams reach in a mode under a fan-in code (14 R350). -/
def peersOf (c : Ctx) (mode fan : Nat) : List Nat :=
  let g := groupSize c mode
  let i := groupIdx c mode c.rank
  let f := 2 ^ (fan + 1)
  let tree := (rangeFrom (f * i + 1) f).filter (· < g) ++ (if i = 0 then [] else [(i - 1) / f])
  let ring := if g ≤ 1 then [] else [(i + 1) % g, (i + g - 1) % g]
  let hd := if 2 ^ Nat.log2 g = g then (List.range (ceilLog2 g)).map (fun j => i ^^^ 2 ^ j) else []
  (tree ++ ring ++ hd).foldl sput []

/-- Streams that old and new maps need together (14 R366). -/
def mapStreams (c : Ctx) (old new : Nat) : Nat :=
  (List.range 3).foldl (fun a m => a + ((peersOf c m (bits old (2 * m + 1) (2 * m)) ++ peersOf c m (bits new (2 * m + 1) (2 * m))).foldl sput []).length) 0

/-- Installs a map from a step on and passes it down (14 R366). -/
def installMap (s : State) (k : Nat) (c : Ctx) (sm alg fan : Nat) : State :=
  let s := cteSendAll s k (treeKids c c.step 0) 9 (cteHdr 9 0 0 0 c.step 0 0 c.rank 0 0 (beBytes 8 (alg + at_ fan 54) ++ beBytes 8 sm))
  let s := returnHolds s (fun h => h.unit = 11 && h.ctx = some k && h.obj = sm)
  satFld (satFld (modCtx s k (fun c => { c with maps := (sm, alg, fan) :: c.maps })) (rCteCount 0) 63 48 1) (rCteCount 1) 63 48 1

/-- MAP: a new job map from the parent, with its starting step. -/
def onMap (s : State) (k : Nat) (c : Ctx) (m : CteMsg) : State :=
  if treeParent c c.step 0 ≠ some m.rank then cteFault s k m
  else let w := beNat (sliceB m.arg 0 8); installMap s k c (beNat (sliceB m.arg 8 8)) (bits w 53 0) (bits w 59 54)

/-- Entries of the link-distance table of a context's collective streams of a mode (14 R364). -/
def distOf (s : State) (k : Nat) (c : Ctx) (mode : Nat) : List Nat :=
  (s.streams.filter (fun e => e.2.part = k / 16 && e.2.ctx = k % 16 && (match e.2.coll with | some x => x.1 = mode | none => false))).map (fun e =>
    rd s (rCteDist (dieOfSidx e.1) (collIdx c e.2.psn)))

/-- The summary of a device for a mode: the largest latency and the smallest rate of the peers measured (14 R365). -/
def ownSummary (s : State) (k : Nat) (c : Ctx) (mode : Nat) : Nat × Nat :=
  let es := (distOf s k c mode).filter (fun v => bit v 52 && bits v 50 43 ≠ 0)
  (es.foldl (fun a v => max a (bits v 42 27)) 0, match es with | [] => 0 | v :: r => r.foldl (fun a w => min a (bits w 50 43)) (bits v 50 43))

/-- Combines two summaries: the larger latency, the smaller rate; a summary without peers adds nothing. -/
def joinSummary (a b : List (Nat × Nat)) : List (Nat × Nat) :=
  List.zipWith (fun x y => (max x.1 y.1, if x.2 = 0 then y.2 else if y.2 = 0 then x.2 else min x.2 y.2)) a b

/-- When a device has its own summary and those of its children, it sends one up, or the root chooses (14 R365, R366). -/
def summaryStep (s : State) (k : Nat) : State :=
  match ctxOf s k with
  | none => s
  | some c =>
    let kids := treeKids c c.step 0
    if !thas c.summ c.rank || !kids.all (fun r => thas c.summ r) then s
    else
      let all := c.summ.foldl (fun a e => joinSummary a e.2) [(0, 0), (0, 0), (0, 0)]
      let s := modCtx s k (fun c => { c with summ := [] })
      match treeParent c c.step 0 with
      | some r => cteSend s k r 0xA (cteHdr 0xA 0 0 0 c.step 0 0 c.rank 0 0 (all.flatMap (fun e => beBytes 4 e.1 ++ beBytes 4 e.2)))
      | none =>
        let mp := chooseMap c c.mapCfg all
        let cur := mapFor c c.step
        if mp = cur || mapStreams c cur.2 mp.2 > 96 then s else installMap s k c (c.step + bits c.mapCfg 15 8) mp.1 mp.2

/-- SUMMARY: a child's, combined (14 R365). -/
def onSummary (s : State) (k : Nat) (c : Ctx) (m : CteMsg) : State :=
  if !(treeKids c c.step 0).contains m.rank then cteFault s k m
  else
    let l := (List.range 3).map (fun i => (beNat (sliceB m.arg (8 * i) 4), beNat (sliceB m.arg (8 * i + 4) 4)))
    summaryStep (modCtx s k (fun c => { c with summ := tput c.summ m.rank l })) k

/-- Hands a message of a kind to the CTE; a reserved KIND faults its context (14 R362). -/
def applyCte (s : State) (k port kind : Nat) (m : CteMsg) : State :=
  match ctxOf s k with
  | none => s
  | some c =>
    match kind with
    | 1 => onArrive s k c m
    | 2 => onRelease s k c m
    | 3 => onExpUp s k port c m
    | 4 => onExpDown s k c m
    | 5 => onIntUp s k port c m
    | 6 => onIntDown s k c m
    | 7 => onPart s k port c m
    | 8 => onCadence s k c m
    | 9 => onMap s k c m
    | 10 => onSummary s k c m
    | _ => cteFault s k m

end Sys2Proof.Machine
end

