-- ==== Sys2Proof/Machine/Stream.lean ====
section
/-! DEFINITION. The receiving side of streams: the checks of a frame, acknowledgement, application in SEQ order, opening, closing, failing (13 R315 to R322, R334, R335, R343). -/

namespace Sys2Proof.Machine

/-! ### Addresses of a context (13 R326, 01 R28, R29) -/

/-- Where a byte of a context's address space lies: in its HBM region but for the code area and its partition's stow areas (09 R233, 16 R423), or in the scratchpad of one of its vcores. -/
def mapByte (s : State) (p : Nat) (c : Ctx) (a : Nat) : Option Nat :=
  if c.hbmBase ≤ a && a < c.hbmBase + c.hbmMib * 1048576 then
    if c.hbmBase + c.codeOff ≤ a && a < c.hbmBase + c.codeOff + c.prog.codeLen then none
    else if [0, 1].any (fun d => (ptnStow s p d).1 ≤ a && a < (ptnStow s p d).2) then none else some a
  else if vspBase 0 ≤ a then
    let v := (a - vspBase 0) / 0x400000
    let o := (a - vspBase 0) % 0x400000
    if v < c.vtab.length && o < spLimit then some (spBase (pcoreOf c v) + o) else none
  else none

/-- Maps n bytes at a, in each 64-byte unit that they meet: the physical address of the first, or the first byte that does not map. A range stays in one window, so a range that maps is contiguous. -/
def mapRange (s : State) (k : Nat) (c : Ctx) (a n : Nat) : Except Nat Nat :=
  let at_ := fun (i : Nat) => max a (64 * (a / 64 + i))
  match (List.range (max 1 ((a + n + 63) / 64 - a / 64))).find? (fun i => (mapByte s (k / 16) c (at_ i)).isNone) with
  | some i => .error (at_ i)
  | none => match mapByte s (k / 16) c a with | some x => .ok x | none => .error a

/-! ### Failing and acknowledging -/

/-- The tunnel entry of a gateway whose peer is down: it listens for the peer's next OPEN (15 R399; DESIGN CHOICE, assumption 31). -/
def tunListen (st : Stream) : Stream := { st := .listen, part := st.part, ctx := st.ctx, psn := st.psn, peerPsn := st.peerPsn, peer := st.peer }

/-- A stream enters FAILED, and its context faults in the same cycle (13 R319); a tunnel stream takes its peer down (15 R399). -/
def failStream (s : State) (x : Nat) : State :=
  match stream s x with
  | none => s
  | some st =>
    let s := modStream s x (fun st => { st with st := .failed, tx := [], rx := [] })
    let s := match st.man with | some (q, m) => finishMan s q m 4 | none => s
    if st.ctx ≥ 16 then
      let n := st.ctx - 16
      let s := if 0 < n then modStream s x (fun y => tunListen y) else s
      if bit (rd s rHifPeerstat) n then setEvent (setFld s rHifPeerstat n n 0) 2 else s
    else fault1 s (ctxKey st.part st.ctx) { cause := 0x1A, unit := 10, d0 := st.psn }

/-- Marks the SENDs of a context whose last frame an ACK passes (13 R327). -/
def markSends (s : State) (x : Nat) (st : Stream) (una n : Nat) : State :=
  let mark := fun (e : SendOp) => if e.sidx = x && decide (seqDiff una e.seq < n) then { e with acked := true } else e
  modCtx s (ctxKey st.part st.ctx) (fun c => { c with
    vc := tmap c.vc (fun _ vc => { vc with sends := vc.sends.map mark }), permutes := c.permutes.map (fun p => { p with sends := p.sends.map mark }) })

/-- Each PERMUTE whose frames are all acknowledged arrives at its bell (14 R361 phase 2). -/
def permuteArrive (s : State) (k : Nat) : State :=
  match ctxOf s k with
  | none => s
  | some c =>
    let ready := fun (p : Permute) => p.phase = 1 && p.sends.all (·.acked)
    let l := c.permutes.filter (fun p => ready p)
    let s := modCtx s k (fun c => { c with permutes := c.permutes.map (fun q => if ready q then { q with phase := 2 } else q) })
    l.foldl (fun s p => match ctxOf s k with | some c => arriveBell s k c p.v p.bell | none => s) s

/-- The frames of a stream that `f` picks are to be sent again, in SEQ order (13 R321). -/
def resend (s : State) (x : Nat) (f : TxFrame → Bool) : State :=
  modStream s x (fun st => { st with tx := st.tx.map (fun g => if g.sent && f g then { g with again := true } else g) })

/-- A CLOSE is acknowledged: the entry is free and its manifest completes (13 R318, 15 R382). -/
def closedStream (s : State) (x : Nat) (st : Stream) : State :=
  let s := { s with streams := tdel s.streams x }
  match st.man with | some (q, m) => finishMan s q m 0 | none => s

/-- Frames acknowledged, or the echo of a CE mark, let the FN7 choose window and rate anew; the window is never below 1 (13 R323). -/
def setPace (s : State) (x : Nat) : State :=
  modStream { s with draws := s.draws + 1 } x (fun y => { y with cwnd := max 1 (Config.cwnd s.draws), gap := Config.streamGap s.draws })

/-- An ACK passes n frames. -/
def passAck (s : State) (x : Nat) (st : Stream) (ack n : Nat) : State :=
  permuteArrive (markSends (modStream s x (fun y =>
    { y with sndUna := ack, tx := y.tx.filter (fun g => decide (n ≤ seqDiff st.sndUna g.seq)) })) x st st.sndUna n) (ctxKey st.part st.ctx)

/-- What ACK, CREDIT, ECE and PARK of a frame do to the sending side (13 R320, R321, R323, R343). -/
def takeAck (s : State) (x : Nat) (f : CvtFrame) (park : Option Bool) : State :=
  match stream s x with
  | none => s
  | some st =>
    let n := seqDiff st.sndUna f.ack
    let s :=
      if n > seqDiff st.sndUna st.sndNxt || n > 256 then s
      else
        let s := modStream s x (fun y => { y with credit := min 256 f.credit })
        if n = 0 then s else passAck s x st f.ack n
    let s := if n = 0 && !bit f.flags 3 then s else setPace s x
    let s := match park with
      | none => s
      | some true => modStream s x (fun y => { y with peerPark := true })
      | some false =>
        if st.peerPark then resend (modStream s x (fun y => { y with peerPark := false })) x (fun _ => true) else s
    match stream s x with
    | none => s
    | some st' => if st'.st = .closing && st'.tx.isEmpty then closedStream s x st' else s

/-- Sends an ACK (13 R321). -/
def sendAck (s : State) (x flags : Nat) : State := sendOn (modStream s x (fun st => { st with unacked := 0 })) x 2 flags []

/-! ### Opening (13 R317, R318, 14 R349) -/

/-- The payload of OPEN and ACCEPT. -/
def openPay (jobkey psn seq : Nat) : Bytes := beBytes 8 jobkey ++ beBytes 2 psn ++ beBytes 4 seq ++ List.replicate 50 0

/-- Sends a frame of an entry that has no peer index yet, or of none: OPEN and REFUSE. -/
def sendBare (s : State) (d : Nat) (group : Option Nat) (node dscp flow type ds ss credit : Nat) (payload : Bytes) : State :=
  routeBody s d group node dscp flow ss false (cvtBody (cvtHdr type 0 payload.length ds ss 0 0 0 credit 0) payload none)

/-- Sends OPEN for an entry, with the credit that it grants (13 R317, R323). -/
def sendOpen (s : State) (x : Nat) : State :=
  match stream s x with
  | none => s
  | some st => sendBare s (dieOfSidx x) (groupOf st) st.peer st.dscp (st.entropy % 2 ^ 20) 4 0 x (creditNow s x) (openPay st.jobkey st.peerPsn st.sndUna)

/-- Draws the initial SEQ of an entry and sends its OPEN (13 R317). -/
def openWith (s : State) (x : Nat) : State :=
  sendOpen (modStream (drawn s 1) x (fun st => { st with sndUna := Config.entropy s.draws % 2 ^ 32 })) x

/-- Sends ACCEPT from an entry. -/
def sendAccept (s : State) (x : Nat) : State :=
  match stream s x with
  | none => s
  | some st => sendOn s x 5 0 (openPay st.jobkey st.peerPsn st.sndUna)

/-- Allocates the lowest free entry of a die for a stream, or says that the die is full or the quota reached (statuses 6 and 7). Of the two ends the one with the lower node opens, and the other listens; while no draw is served the initial SEQ waits (13 R317, R318, 18 R449). Until the entry is OPEN, `sndUna` is its initial SEQ and `sndNxt` counts the frames queued. -/
def openEntry (s : State) (d : Nat) (e : Stream) : Except Nat State :=
  match freeEntry s d with
  | none => .error 6
  | some x =>
    if quotaUsed s d e.part ≥ fld s (rNetSquota d e.part) 13 0 then .error 7
    else
      let e := { e with entropy := Config.pathEntropy s.draws }
      let s := { s with draws := s.draws + 1 }
      if e.peer ≤ s.prof.node then .ok { s with streams := tput s.streams x { e with st := .listen } }
      else if s.sec.entWait then .ok { s with streams := tput s.streams x { e with st := .opening, sndUna := noSeq } }
      else .ok (openWith { s with streams := tput s.streams x { e with st := .opening } } x)

/-- The group indexes that maps of given FANIN fields reach in a mode (14 R350). -/
def collPeers (c : Ctx) (fans : List Nat) (mode : Nat) : List Nat := (fans.flatMap (fun f => peersOf c mode (bits f (2 * mode + 1) (2 * mode)))).foldl sput []

/-- FANIN of the map in force at a step, the default map where none is, and of those to come (14 R363, R366). -/
def liveFans (c : Ctx) (step : Nat) : List Nat := (mapFor c step).2 :: (c.maps.filter (fun m => step < m.1)).map (fun m => m.2.2)

/-- Opens the collective streams that maps of given FANIN fields need and a context has not (14 R349, R350). A full table or quota faults it with *stream-table miss*. -/
def openColl (s : State) (k : Nat) (fans : Ctx → List Nat) : State :=
  match ctxOf s k with
  | none => s
  | some c =>
    if c.prog.plan.devices ≤ 1 then s
    else ((List.range 2).flatMap (fun d => (List.range 3).flatMap (fun m => (collPeers c (fans c) m).map (fun i => (d, m, i))))).foldl (fun s e =>
      let (d, m, i) := e
      let r := memberRank c m i
      let own := groupIdx c m c.rank
      if (collStream s k d m r).isSome then s
      else
        let psn := collPsn c d m own i
        match openEntry s d { st := .listen, part := k / 16, ctx := k % 16, jobkey := c.jobkey, psn := psn, peerPsn := collPsn c d m i own
                              peer := nodeOfRank c r, dscp := Config.dscp (k / 16) psn % 64, coll := some (m, r) } with
        | .ok s => setReg s (rCteDist d (collIdx c psn)) (nodeOfRank c r % 2 ^ 20 + at_ 1 52)
        | .error _ => fault1 s k (collMiss psn)) s

/-! ### Answers -/

/-- The bitmap of a SACK: bit i for SEQ ACK + 1 + i (13 R314), filled to a unit of 64 bytes. -/
def sackBits (st : Stream) : Bytes :=
  padTo 64 ((List.range 32).map (fun j => byte ((List.range 8).foldl (fun a b =>
    if st.rx.any (fun f => f.seq = seqAdd st.rcvNxt (1 + 8 * j + b)) then a + 2 ^ b else a) 0)))

def sendSack (s : State) (x : Nat) : State :=
  match stream s x with
  | none => s
  | some st => sendOn (modStream s x (fun st => { st with unacked := 0 })) x 3 0 (sackBits st)

/-- The streams of a context, by index. -/
def ctxStreams (s : State) (k : Nat) : Tbl Stream := s.streams.filter (fun e => e.2.part = k / 16 && e.2.ctx = k % 16)

/-- The streams of a context that becomes resident are OPEN, and each tells its peer so by an ACK without PARK (13 R343). -/
def unpark (s : State) (k : Nat) : State :=
  (ctxStreams s k).foldl (fun s e => if e.2.st = .parked || e.2.st = .opened then sendAck (modStream s e.1 (fun x => { x with st := .opened })) e.1 0 else s) s

/-! ### Application in SEQ order -/

/-- Whether the transfer that a frame ends fails its transfer check (13 R335). -/
def tornBy (st : Stream) (f : CvtFrame) : Bool := match f.xck with | some v => bit f.flags 7 && bit f.flags 6 && v ≠ st.xcrc | none => false

/-- Ends a transfer: with a transfer check that differs, every unit of it is poisoned and the failure counted (13 R335). -/
def endTransfer (s : State) (port x : Nat) (f : CvtFrame) : State :=
  match stream s x with
  | none => s
  | some st =>
    let s := if tornBy st f then st.xparts.foldl (fun s e => devTaint s e.1 e.2) (satFld s (rNetPorterr port) 47 32 1) else s
    modStream s x (fun y => { y with xcrc := 0, xparts := [] })

/-- A frame's payload in the clear (18 R464). -/
def clearFrame (s : State) (st : Stream) (f : CvtFrame) : CvtFrame :=
  if f.type = 0 || f.type = 10 then { f with payload := streamXor (streamKey s st false) f.seq st.rcvWraps f.payload } else f

/-- A DATA payload lands, or its address faults the context (13 R320, R326). -/
def applyData (s : State) (k port x : Nat) (st : Stream) (c : Ctx) (f : CvtFrame) : State :=
  let n := f.payload.length
  match mapRange s k c f.daddr n with
  | .error a => fault1 s k { cause := 6, unit := 10, d0 := a % 2 ^ 32, d1 := a / 2 ^ 32, d2 := n }
  | .ok a =>
    let s := hbmUse (landData s a f.pmask f.payload) st.part a n
    let s := modStream s x (fun y => { y with xcrc := crc64From y.xcrc f.payload, xparts := y.xparts ++ [(a, n)] })
    if bit f.flags 7 then endTransfer s port x f else s

/-- A remote chime write reaches its landing count (11 R263, R264). -/
def applyChime (s : State) (k : Nat) (c : Ctx) (f : CvtFrame) : State :=
  let v := bits f.daddr 47 32
  let ch := bits f.daddr 31 24
  if ch > 47 || v ≥ c.prog.plan.vcores then fault1 s k { cause := 5, unit := 13, d0 := ch, d1 := 0x80000000 + f.node }
  else if (vcoreOf c v).isNone then s
  else landSig s k v ch (bits f.daddr 23 16) (0x80000000 + f.node)

/-- The message that a CTE frame completes: the data of an integer message wait until they are whole. -/
def wholeMsg (s : State) (k x kind : Nat) (m : CteMsg) : State × Option CteMsg :=
  match stream s x, (ctxOf s k).bind (fun c => tDesc c m.id) with
  | some st, some d =>
    if kind ≠ 5 && kind ≠ 6 then (s, some m)
    else
      let b := st.cbuf ++ m.data
      if b.length < m.count * intBytes d then (modStream s x (fun y => { y with cbuf := b }), none)
      else (modStream s x (fun y => { y with cbuf := [] }), some { m with data := b })
  | _, _ => (s, some m)

/-- A map that a message has installed opens its streams (14 R350, R366). -/
def openInstalled (s : State) (k kind : Nat) : State := if kind = 9 || kind = 10 then openColl s k (fun c => (c.maps.head?.map (fun m => m.2.2)).toList) else s

/-- A CTE frame goes to the CTE; the frames of a part make a transfer (13 R320, 14 R356, R362). -/
def applyMsg (s : State) (k port x : Nat) (f : CvtFrame) : State :=
  let kind := fieldB f.payload 0 1
  let kind := if 1 ≤ kind && kind ≤ 10 then f.kind else kind
  let s := if kind = 7 then modStream s x (fun y => { y with xcrc := crc64From y.xcrc f.payload }) else s
  let torn := match stream s x with | some st => kind = 7 && tornBy st f | none => false
  let s := if kind = 7 && bit f.flags 7 then endTransfer s port x f else s
  match wholeMsg s k x kind (cteOf f torn) with
  | (s, some m) => openInstalled (applyCte s k port kind m) k kind
  | (s, none) => s

/-- A tunnel operation as DADDR and payload carry it (15 R397; DESIGN CHOICE, assumption 31). -/
def tunDaddr (o : TunOp) : Nat := o.op * 2 ^ 44 + o.addr % 2 ^ 44
def tunPay (o : TunOp) : Bytes :=
  let b := leBytes 8 o.addr ++ leBytes 4 o.data.length ++ o.data
  padTo (roundUp b.length 64) b
def tunOf (daddr : Nat) (b : Bytes) : TunOp := { op := daddr / 2 ^ 44, addr := fieldB b 0 8, data := sliceB b 12 (min (fieldB b 8 4) 4032) }

/-- What a tunnel brings is carried out in the next cycle, in its order (15 R397). -/
def fromTunnel (s : State) (n : Nat) (o : TunOp) : State := { s with tunIn := s.tunIn ++ [(n, o)] }

/-- What a stream has delivered in the last 1 ms. -/
def lastMs (s : State) (l : List (Nat × Nat)) : List (Nat × Nat) := l.filter (fun e => decide (s.cycle < e.1 + msCycles s))

/-- Applies one frame, in SEQ order (13 R320). A frame with ACKREQ makes an ACK due, as the eighth does (13 R321). -/
def applyFrame (s : State) (port x : Nat) (f : CvtFrame) : State :=
  match stream s x with
  | none => s
  | some st =>
    let s := modStream s x (fun y => { y with rcvNxt := seqAdd y.rcvNxt 1, rcvWraps := y.rcvWraps + (y.rcvNxt + 1) / 2 ^ 32, stopped := false
                                              unacked := if bit f.flags 4 then max 8 (y.unacked + 1) else y.unacked + 1
                                              took := if y.coll.isSome then lastMs s y.took ++ [(s.cycle, f.payload.length)] else [] })
    let f := clearFrame s st f
    if st.ctx ≥ 16 then (if f.type = 0 then fromTunnel s (st.ctx - 16) (tunOf f.daddr f.payload) else s)
    else
      let k := ctxKey st.part st.ctx
      match f.type, ctxOf s k with
      | 0, some c => applyData s k port x st c f
      | 1, some c => applyChime s k c f
      | 10, some _ => applyMsg s k port x f
      | _, _ => s

/-- Whether a frame is a CTE message that finds the early-arrival buffer full: its stream stops applying (14 R355). -/
def cteStops (s : State) (st : Stream) (f : CvtFrame) : Bool :=
  f.type = 10 && st.ctx < 16 && (match ctxOf s (ctxKey st.part st.ctx) with
    | some c => earlyFull s c f.kind (cteOf (clearFrame s st f) false)
    | none => false)

/-- A stream stops at such a frame, which is neither applied nor acknowledged; each stop counts once. -/
def stopStream (s : State) (x : Nat) (st : Stream) : State :=
  modStream (if st.stopped then s else satFld s (rCteCount (dieOfSidx x)) 47 32 1) x (fun y => { y with stopped := true })

/-- Applies the frames of the reorder store that continue the sequence (13 R320). -/
def applyHeld : Nat → State → Nat → Nat → State
  | 0, s, _, _ => s
  | n + 1, s, port, x =>
    match stream s x with
    | none => s
    | some st =>
      if st.st = .failed then s
      else match st.rx.find? (fun f => f.seq = st.rcvNxt && f.type ≠ 7) with
        | none => s
        | some f =>
          if cteStops s st f then stopStream s x st
          else applyHeld n (applyFrame (modStream s x (fun y => { y with rx := y.rx.filter (fun g => g.seq ≠ f.seq) })) port x f) port x

def discard (s : State) (port : Nat) : State := satFld s (rNetPorterr port) 63 48 1

/-- Whether a stream's context can take frames: it is resident, draining after its beat, or musters by this collective stream (13 R342, R343). The entry of a context that is neither answers as PARKED does (assumption 26). -/
def rxReady (s : State) (st : Stream) : Bool :=
  if st.ctx ≥ 16 then true
  else match ctxOf s (ctxKey st.part st.ctx) with
    | some c => (part s st.part).resident = some st.ctx || c.draining || (st.coll.isSome && c.st = 1 && c.muster ≠ .none)
    | none => false

/-- What a CLOSE does when it is applied: the last ACK goes out and the entry is free (13 R318, R320). -/
def applyClose (s : State) (x : Nat) : State :=
  let s := modStream s x (fun y => { y with rcvNxt := seqAdd y.rcvNxt 1 })
  let s := sendAck s x 0
  match stream s x with
  | some st => closedStream s x st
  | none => s

/-- Whether the next frame to apply is a CLOSE held in the store. -/
def heldClose (s : State) (x : Nat) : Bool :=
  match stream s x with
  | some st => st.rx.any (fun f => f.seq = st.rcvNxt && f.type = 7)
  | none => false

/-- A frame that consumes a SEQ meets its stream (13 R320, R321, R343). -/
def rxSeq (s : State) (port x : Nat) (f : CvtFrame) : State :=
  match stream s x with
  | none => s
  | some st =>
    let d := seqDiff st.rcvNxt f.seq
    let s := if f.ce then modStream s x (fun y => { y with ece := true }) else s
    if st.st = .parked || !rxReady s st then sendAck s x 4
    else if d = 0 then
      if cteStops s st f then stopStream s x st
      else if f.type = 7 then applyClose s x
      else
        let s := applyHeld 256 (applyFrame s port x f) port x
        if heldClose s x then applyClose s x
        else match stream s x with
          | none => s
          | some y =>
            if y.st = .failed then s
            else if y.unacked ≥ 8 then sendAck s x 0 else s
    else if d ≤ 255 then
      if st.rx.any (fun g => g.seq = f.seq) then sendSack (discard s port) x
      else if reorderFree s (dieOfSidx x) = 0 then discard s port
      else sendSack (modStream s x (fun y => { y with rx := y.rx ++ [f] })) x
    else if seqDiff f.seq st.rcvNxt ≤ 256 then sendAck (discard s port) x 0
    else discard s port

/-! ### The checks of a receiving port (13 R315) -/

/-- A frame that the port has not received as it was sent: NAK where link retry runs (13 R313). -/
def nakPort (s : State) (n : Nat) : State := queueCtl (modPort s n (fun p => { p with nak := true })) n 0xC0 []

/-- With link retry, a frame passes the shim check where the port has accepted it in LSEQ order. -/
def shimOk (s : State) (n : Nat) : Bool := !llrOn s n || decide (0 < (portSt s n).shimIn)
def shimTaken (s : State) (n : Nat) : State := if llrOn s n then modPort s n (fun p => { p with shimIn := p.shimIn - 1 }) else s

/-- The checks that come before the stream, in their order: FCS, shim, IPv6 and UDP, VER and TYPE, ICRC. A frame that fails one is discarded and counted at the first; one that its LSEQ shuts out has been counted with its shim. A port that is not up receives nothing. -/
def rxChecked (s : State) (port : Nat) (f : CvtFrame) (k : State → State) : State :=
  if !portUp s port then s
  else if !f.fcsOk then
    let s := satFld s (rNetPorterr port) 15 0 1
    if llrOn s port then nakPort s port else s
  else if !shimOk s port then s
  else
    let s := shimTaken s port
    let k := fun s => k (frameWake s)
    if !f.ipOk then satFld s (rNetPorterr port) 47 32 1
    else if f.ver ≠ 1 || decide (12 ≤ f.type) then discard s port
    else if !f.icrcOk then satFld s (rNetPorterr port) 47 32 1
    else k s

/-- The stream check: the entry lives on the port's die, and its peer node and index are those of the frame (13 R315, R316). -/
def rxStream (s : State) (port : Nat) (f : CvtFrame) (k : State → Stream → State) : State :=
  rxChecked s port f (fun s =>
    match stream s f.dsidx with
    | none => discard s port
    | some st =>
      let live := st.st = .opened || st.st = .draining || st.st = .parked || st.st = .closing
      if dieOfSidx f.dsidx ≠ port / 16 || st.peer ≠ f.node || !live || st.peerIdx ≠ f.ssidx then discard s port
      else k (modStream s f.dsidx (fun y => { y with lastIn := s.cycle })) st)

/-- A frame of a type that consumes a SEQ: its ACK and CREDIT, then its place in the sequence. -/
def rxOrdered (s : State) (port : Nat) (f : CvtFrame) : State :=
  rxStream s port f (fun s _ => rxSeq (takeAck s f.dsidx f none) port f.dsidx f)

/-- A frame as the frame of a command: a reserved TYPE stays (13 R315). -/
def typed (f : CvtFrame) (t : Nat) : CvtFrame := if 12 ≤ f.type then f else { f with type := t }

/-- CVT_DATA: 13 R320, R334, R335. -/
def execCvtData (port : Fin 32) (f : CvtFrame) (s : State) : Res := .next (rxOrdered s port (typed f 0))
/-- CVT_CHIME: 13 R320, 11 R263, R264. -/
def execCvtChime (port : Fin 32) (f : CvtFrame) (s : State) : Res := .next (rxOrdered s port (typed f 1))
/-- CVT_CLOSE: 13 R318, R320. -/
def execCvtClose (port : Fin 32) (f : CvtFrame) (s : State) : Res := .next (rxOrdered s port (typed f 7))

/-- A CTE message of a KIND: a frame of TYPE 0xA (14 R362). -/
def rxCte (s : State) (port kind : Nat) (f : CvtFrame) : State := rxOrdered s port { typed f 10 with kind := kind }

/-- CTE_ARRIVE: a device arrival from a tree child (11 R267, R271, R273). -/
def execCteArrive (port : Fin 32) (f : CvtFrame) (s : State) : Res := .next (rxCte s port 1 f)
/-- CTE_RELEASE: the release of a bell, or of the muster with R_M (11 R267, R273, R274). -/
def execCteRelease (port : Fin 32) (f : CvtFrame) (s : State) : Res := .next (rxCte s port 2 f)
/-- CTE_EXP_UP: exponent bytes of a subtree (05 R132, 14 R353). -/
def execCteExpUp (port : Fin 32) (f : CvtFrame) (s : State) : Res := .next (rxCte s port 3 f)
/-- CTE_EXP_DOWN: final exponent bytes and count (05 R132). -/
def execCteExpDown (port : Fin 32) (f : CvtFrame) (s : State) : Res := .next (rxCte s port 4 f)
/-- CTE_INT_UP: integers and code planes of a subtree (05 R132, R133). -/
def execCteIntUp (port : Fin 32) (f : CvtFrame) (s : State) : Res := .next (rxCte s port 5 f)
/-- CTE_INT_DOWN: final integers and code planes (05 R132, 14 R354). -/
def execCteIntDown (port : Fin 32) (f : CvtFrame) (s : State) : Res := .next (rxCte s port 6 f)
/-- CTE_PART: a frame of a part of an all-gather (14 R356, R359). -/
def execCtePart (port : Fin 32) (f : CvtFrame) (s : State) : Res := .next (rxCte s port 7 f)
/-- CTE_CADENCE: a wanted exponent, or a pair to commit (12 R296). -/
def execCteCadence (port : Fin 32) (f : CvtFrame) (s : State) : Res := .next (rxCte s port 8 f)
/-- CTE_MAP: a new job map (14 R366). -/
def execCteMap (port : Fin 32) (f : CvtFrame) (s : State) : Res := .next (rxCte s port 9 f)
/-- CTE_SUMMARY: a child's summary (14 R365). -/
def execCteSummary (port : Fin 32) (f : CvtFrame) (s : State) : Res := .next (rxCte s port 10 f)

/-- A round trip measured by an acknowledgement, in ns, enters SRTT, RTTVAR and RTO (13 R321; RFC 6298). -/
def takeRtt (s : State) (x : Nat) (r : Nat) : State :=
  let mn := fld s (rNetCvtcfg (dieOfSidx x)) 47 32 * 1000
  modStream s x (fun st =>
    let (sr, va) := if st.srtt = 0 then (r, r / 2)
      else ((7 * st.srtt + r) / 8, (3 * st.rttvar + (max st.srtt r - min st.srtt r)) / 4)
    { st with srtt := sr, rttvar := va, rto := max mn (sr + 4 * va) })

/-- The link class of a path (14 R364): one direct link, 2 to 8 links, or longer or external; a peer whose latency exceeds the cover of its class counts in the next one. -/
def linkClass (external : Bool) (h lat : Nat) : Nat :=
  if external || 8 < h then 5
  else if h ≤ 1 then (if 510 < lat then 4 else 3)
  else if 120 + 300 * h + 160 * (h - 1) + 90 < lat then 5 else 4

/-- Records what an acknowledgement of a collective stream measures, in the link-distance table: h is HOPLIMIT minus the received hop limit, plus 1; the latency is half the smoothed round trip, in CCLK cycles; the rate that of the last 1 ms (14 R364). OVER marks a class 5 path beyond 210 + L_NX (14 R367). -/
def takeDist (s : State) (x hop : Nat) : State :=
  match stream s x with
  | none => s
  | some st => match ctxOf s (st.part * 16 + st.ctx), st.coll with
    | some c, some _ =>
      let lat := st.srtt * fld s rPwrCclk 26 16 / 1600
      let h := fld s (rNetCvtcfg (dieOfSidx x)) 25 18 + 1 - hop
      let rate := (lastMs s st.took).foldl (fun a e => a + e.2) 0 / max 1 (msCycles s)
      let cls := linkClass (Config.external s.prof.node st.peer) h lat
      setReg s (rCteDist (dieOfSidx x) (collIdx c st.psn))
        (st.peer % 2 ^ 20 + at_ cls 20 + at_ (min h 15) 23 + at_ (min lat 65535) 27 + at_ (min rate 255) 43
          + at_ (b2n (cls = 5 && decide (210 + coverOr s st.part 10 4 0 < lat))) 51 + at_ 1 52)
    | _, _ => s

/-- CVT_ACK: 13 R321, R323, R327, R343. -/
def execCvtAck (port : Fin 32) (f : CvtFrame) (rtt : Option Nat) (s : State) : Res :=
  .next (rxStream s port f (fun s _ =>
    let s := match rtt with | some r => takeDist (takeRtt s f.dsidx r) f.dsidx f.hop | none => s
    takeAck s f.dsidx f (some (bit f.flags 2))))

/-- CVT_SACK: the frames that the bitmap shows lost on the same path are resent at once (13 R321). -/
def execCvtSack (port : Fin 32) (f : CvtFrame) (s : State) : Res :=
  .next (rxStream s port f (fun s _ =>
    let s := takeAck s f.dsidx f none
    let got := (List.range 256).filter (fun i => bit (fieldB f.payload (i / 8) 1) (i % 8))
    match got.getLast? with
    | none => s
    | some last => resend s f.dsidx (fun g => let d := seqDiff f.ack g.seq; decide (d < last + 1) && !(d ≥ 1 && got.contains (d - 1)))))

/-! ### Becoming OPEN, and closing -/

/-- Closes the collective streams that no map of the next step needs, once nothing begun under the old map is open on the device (14 R366). -/
def closeColl (s : State) (k : Nat) : State :=
  match ctxOf s k with
  | none => s
  | some c =>
    let busy := !c.gathers.isEmpty || c.sums.any (fun e => match tDesc c (e.1 % 65536) with | some d => d.scope = 3 | none => false)
      || (planBells c).any (fun b => arrOf (bell s b) false + arrOf (bell s b) true ≠ 0)
    if busy then s
    else s.streams.foldl (fun s e => match e.2.coll with
      | some (m, r) =>
        if e.2.part = k / 16 && e.2.ctx = k % 16 && e.2.st = .opened && !(collPeers c (liveFans c (c.step + 1)) m).contains (groupIdx c m r) then closeStream s e.1 else s
      | none => s) s

/-- The frames that waited for an entry to open take their places from its initial SEQ. -/
def renumber (s : State) (x : Nat) : State :=
  match stream s x with
  | none => s
  | some st =>
    let s := modCtx s (ctxKey st.part st.ctx) (fun c => { c with vc := tmap c.vc (fun _ vc =>
      { vc with sends := vc.sends.map (fun e => if e.sidx = x then { e with seq := seqAdd st.sndUna e.seq } else e) }) })
    modStream s x (fun y => { y with tx := y.tx.map (fun f => { f with seq := seqAdd y.sndUna f.seq, wraps := (y.sndUna + f.seq) / 2 ^ 32 })
                                     sndNxt := seqAdd y.sndUna y.sndNxt, sndWraps := (y.sndUna + y.sndNxt) / 2 ^ 32 })

/-- An entry reaches OPEN: its manifest completes with the SIDX; a tunnel stream brings its peer up (13 R317, 15 R382, R399). -/
def openedStream (s : State) (x peerIdx seq credit : Nat) : State :=
  let s := modStream { renumber s x with draws := s.draws + 1 } x (fun st =>
    { st with st := .opened, peerIdx := peerIdx, rcvNxt := seq, iss := st.sndUna, irs := seq, credit := min 256 credit, cwnd := 16, gap := Config.streamGap s.draws
              rto := 1000000000, lastIn := s.cycle })
  match stream s x with
  | none => s
  | some st =>
    let s := modStream s x (fun y => { y with man := none })
    let s := match st.man with | some (q, m) => finishMan s q m 0 (leBytes 2 x) | none => s
    if st.ctx ≥ 16 && fld s rRole 1 0 = 1 then setFld { s with chain := { s.chain with cut := sdel s.chain.cut (st.ctx - 16) } } rHifPeerstat (st.ctx - 16) (st.ctx - 16) 1 else s

/-- A peer that opens its tunnel again, as another entry or from another SEQ, has booted anew: the gateway's entry listens first (15 R399). -/
def tunReset (s : State) (d : Nat) (f : CvtFrame) : State :=
  { s with streams := tmap s.streams (fun x st =>
    if 16 < st.ctx && dieOfSidx x = d && st.peer = f.node && beNat (sliceB f.payload 0 8) = 0 && st.psn = beNat (sliceB f.payload 8 2)
      && (st.st = .failed || (st.st = .opened && (st.peerIdx ≠ f.ssidx || st.irs ≠ beNat (sliceB f.payload 10 4)))) then tunListen st else st) }

/-- CVT_OPEN: 13 R317, R318. It waits while no draw is served (18 R449): the peer sends it again. -/
def execCvtOpen (port : Fin 32) (f : CvtFrame) (s : State) : Res :=
  .next (rxChecked s port f (fun s =>
    let d := port / 16
    let key := beNat (sliceB f.payload 0 8)
    let psn := beNat (sliceB f.payload 8 2)
    let seq := beNat (sliceB f.payload 10 4)
    let mine := fun (e : Nat × Stream) => dieOfSidx e.1 = d && e.2.jobkey = key && e.2.psn = psn && e.2.peer = f.node
    let s := tunReset s d f
    match s.streams.find? (fun e => mine e && e.2.st = .listen) with
    | some (x, _) =>
      if s.sec.entWait then s else
      let q := Config.entropy s.draws % 2 ^ 32
      let s := modStream (drawn s 1) x (fun st => { st with sndUna := q })
      sendAccept (openedStream s x f.ssidx seq f.credit) x
    | none =>
      match s.streams.find? (fun e => mine e && e.2.st = .opened && e.2.peerIdx = f.ssidx) with
      | some (x, _) => sendAccept s x
      | none =>
        let full := s.ctxs.any (fun e => e.2.jobkey = key && decide (quotaUsed s d (e.1 / 16) ≥ fld s (rNetSquota d (e.1 / 16)) 13 0))
        let why := if (freeEntry s d).isNone then 1 else if full then 3 else 2
        sendBare s d none f.node 0 0 6 f.ssidx 0 0 (padTo 64 (beBytes 1 why))))

/-- CVT_ACCEPT: 13 R317. -/
def execCvtAccept (port : Fin 32) (f : CvtFrame) (s : State) : Res :=
  .next (rxChecked s port f (fun s =>
    match stream s f.dsidx with
    | none => discard s port
    | some st =>
      if dieOfSidx f.dsidx ≠ port / 16 || st.peer ≠ f.node then discard s port
      else if st.st = .opening && st.jobkey = beNat (sliceB f.payload 0 8) && st.psn = beNat (sliceB f.payload 8 2)
      then openedStream s f.dsidx f.ssidx (beNat (sliceB f.payload 10 4)) f.credit
      else if st.st = .opened && st.peerIdx = f.ssidx then s else discard s port))

/-- Removes an entry that never opened, and completes its manifest; a collective stream refused faults its context (14 R349). -/
def dropOpening (s : State) (x status : Nat) : State :=
  match stream s x with
  | none => s
  | some st =>
    let s := { s with streams := tdel s.streams x }
    let s := if st.coll.isSome then fault1 s (ctxKey st.part st.ctx) (collMiss st.psn) else s
    match st.man with | some (q, m) => finishMan s q m status | none => s

/-- CVT_REFUSE: 13 R318, 15 R382. -/
def execCvtRefuse (port : Fin 32) (f : CvtFrame) (s : State) : Res :=
  .next (rxChecked s port f (fun s =>
    match stream s f.dsidx with
    | none => discard s port
    | some st =>
      let r := fieldB f.payload 0 1
      if dieOfSidx f.dsidx ≠ port / 16 || st.peer ≠ f.node || st.st ≠ .opening || r = 0 || r > 3 then discard s port
      else dropOpening s f.dsidx (match r with | 1 => 6 | 2 => 8 | _ => 7)))

/-! ### Timers of streams -/

/-- ACK_DELAY_TIMER: 1 µs after the first unacknowledged frame (13 R321). -/
def execAckDelayTimer (x : Fin 16384) (s : State) : Res :=
  match stream s x with
  | some st => if st.unacked > 0 && st.st ≠ .failed then .next (sendAck s x 0) else .next s
  | none => .next s

/-- RTO_EXPIRY: the frame is resent and RTO doubles up to 4 ms, or the stream fails after RETRY_MAX timeouts (13 R321). -/
def execRtoExpiry (x : Fin 16384) (seq : BitVec 32) (s : State) : Res :=
  match stream s x with
  | none => .next s
  | some st =>
    match st.tx.find? (fun f => f.seq = seq.toNat && f.sent) with
    | none => .next s
    | some f =>
      if st.peerPark || st.st = .failed then .next s
      else if f.tries + 1 ≥ fld s (rNetCvtcfg (dieOfSidx x)) 55 48 then .next (failStream s x)
      else
        .next (modStream s x (fun y => { y with rto := if y.rto ≥ 4000000 then y.rto else min (2 * y.rto) 4000000
                                                tx := y.tx.map (fun g => if g.seq = f.seq then { g with tries := g.tries + 1, again := true } else g) }))

/-- OPEN_RESEND: every 64 µs while the entry is OPENING (13 R317). -/
def execOpenResend (x : Fin 16384) (s : State) : Res :=
  match stream s x with
  | some st => if st.st = .opening && !s.sec.entWait then .next (sendOpen s x) else .next s
  | none => .next s

/-- STREAM_OPEN_TIMEOUT: an open of a manifest not accepted within its TIMEOUT (15 R382, 13 R318). -/
def execStreamOpenTimeout (x : Fin 16384) (s : State) : Res :=
  match stream s x with
  | some st => if (st.st = .opening || st.st = .listen) && st.coll.isNone then .next (dropOpening s x 9) else .next s
  | none => .next s

end Sys2Proof.Machine
end

