-- ==== Sys2Proof/Machine/Tambour.lean ====
section
/-! DEFINITION. The Tambour generator (chapter 07): the core function, the counter block, the bits an element draws. -/

namespace Sys2Proof.Machine

def add32 (a b : Nat) : Nat := (a + b) % 2 ^ 32
def rotl32 (a n : Nat) : Nat := (a * 2 ^ n) % 2 ^ 32 + a / 2 ^ (32 - n)

/-- The quarter round (07 R170). -/
def quarter (a b c d : Nat) : Nat × Nat × Nat × Nat :=
  let a := add32 a b
  let d := rotl32 (d ^^^ a) 16
  let c := add32 c d
  let b := rotl32 (b ^^^ c) 12
  let a := add32 a b
  let d := rotl32 (d ^^^ a) 8
  let c := add32 c d
  let b := rotl32 (b ^^^ c) 7
  (a, b, c, d)

/-- A quarter round on four places of the sixteen words. -/
def qrAt (x : List Nat) (i j k l : Nat) : List Nat :=
  let (a, b, c, d) := quarter (x.getD i 0) (x.getD j 0) (x.getD k 0) (x.getD l 0)
  (((x.set i a).set j b).set k c).set l d

/-- A double round (07 R170). -/
def doubleRound (x : List Nat) : List Nat :=
  let x := qrAt (qrAt (qrAt (qrAt x 0 4 8 12) 1 5 9 13) 2 6 10 14) 3 7 11 15
  qrAt (qrAt (qrAt (qrAt x 0 5 10 15) 1 6 11 12) 2 7 8 13) 3 4 9 14

/-- n double rounds. -/
def rounds : Nat → List Nat → List Nat
  | 0, x => x
  | n + 1, x => rounds n (doubleRound x)

/-- One evaluation: the eight output words of a seed and eight counter words (07 R169, R170). -/
def tambour (seed : Bytes) (ctr : List Nat) : List Nat :=
  let x := [0x61707865, 0x3320646E, 0x79622D32, 0x6B206574] ++ (List.range 4).map (fun i => fieldB seed (4 * i) 4) ++ ctr
  let y := rounds 10 x
  (List.range 8).map (fun i => add32 (y.getD i 0) (x.getD i 0))

/-- The counter block (07 R171). -/
def ctrBlock (g vt purpose lot width draw blk : Nat) : List Nat :=
  [g % 2 ^ 32, g / 2 ^ 32 % 2 ^ 32, vt % 2 ^ 32, vt / 2 ^ 32 % 2 ^ 16 + at_ purpose 16, lot % 2 ^ 32, at_ width 22 + at_ draw 24,
   blk % 2 ^ 32, blk / 2 ^ 32 % 2 ^ 32]

/-- What a draw gives: its bits, or a position fault (07 R172, 06 R141). -/
def drawAt (seed : Bytes) (g : Nat) (t : Tensor) (purpose width draw pos : Nat) : Option Nat :=
  let lot := if t.lotShift = 63 then 0 else pos / 2 ^ t.lotShift
  let p := if t.lotShift = 63 then pos else pos % 2 ^ t.lotShift
  if pos ≥ 2 ^ 64 || lot ≥ 2 ^ 32 then none
  else if width = 0 then
    let y := tambour seed (ctrBlock g t.vt purpose lot 0 draw (p / 32))
    some (bits (y.getD (p % 32 / 4) 0) (8 * (p % 4) + 7) (8 * (p % 4)))
  else some ((tambour seed (ctrBlock g t.vt purpose lot 1 draw (p / 8))).getD (p % 8) 0)

/-- The tensor table entry of a TID; TID 0 names none (09 R216). -/
def tensorOf (c : Ctx) (tid : Nat) : Option Tensor := if tid = 0 then none else c.prog.tensors[tid - 1]?

/-- The random byte of an SR8 conversion at a position (07 R176). -/
def sr8Byte (c : Ctx) (tid pos : Nat) : Option Nat :=
  match tensorOf c tid with
  | some t => drawAt c.seed c.gen t 1 0 0 pos
  | none => some 0

/-! Descriptor slots (06 R140, R141). -/

/-- Geometry word of a slot as VSD.A loaded it. -/
def slotA (vc : Vcore) (n : Nat) : Nat := (tgetD vc.slots n (0, 0)).1.toNat
/-- Identity word of a slot as VSD.B loaded it. -/
def slotB (vc : Vcore) (n : Nat) : Nat := (tgetD vc.slots n (0, 0)).2.toNat
def sgBase (g : Nat) : Nat := bits g 33 12
def sgFmt (g : Nat) : Nat := bits g 37 34
def sgInner (g : Nat) : Nat := bits g 53 38 + 1
def sgOuter (g : Nat) : Nat := bits g 69 54 + 1
def sgStride (g : Nat) : Nat := bits g 85 70
def sgRowScalar (g : Nat) : Bool := bit g 86
def sgBits (g : Nat) : Bool := bit g 87
def slotTid (vc : Vcore) (n : Nat) : Nat := bits (slotB vc n) 27 12
/-- Logical position of element (r, i) of a slot (06 R141). -/
def slotPos (vc : Vcore) (n r i : Nat) : Nat := bits (slotB vc n) 127 64 + r * bits (slotB vc n) 59 28 + i
/-- Byte offset of element (r, i); for a mask stream, of the byte that holds its bit. -/
def slotOff (g r i : Nat) : Nat :=
  let i := if sgRowScalar g then 0 else i
  sgBase g + r * sgStride g * 64 + (if sgBits g then i / 8 else i * fmtBytes ((fmtOf (sgFmt g)).getD .fp32))
/-- One past the last byte of a stream's row r. -/
def slotRowEnd (g r : Nat) : Nat :=
  if sgBits g then slotOff g r (sgInner g - 1) + 1 else slotOff g r (sgInner g - 1) + fmtBytes ((fmtOf (sgFmt g)).getD .fp32)

end Sys2Proof.Machine
end

