-- ==== Sys2Proof/Machine/VseFun.lean ====
section
/-! DEFINITION. The reference functions of the vector engine (06 R154 to R159). -/

namespace Sys2Proof.Machine

/-- rne32 as a value. -/
def r32 (v : FVal) : FVal := f32 (rne32 v).1
/-- fma32 (06 R154). -/
def fma32 (a b c : FVal) : FVal := r32 (fadd (fmul a b) c)
/-- rne32 of a product. -/
def mul32 (a b : FVal) : FVal := r32 (fmul a b)
/-- A coefficient of a table. -/
def coef (t : List Nat) (i : Nat) : FVal := f32 (t.getD i 0)
/-- Small integer as a value. -/
def fint (z : Int) : FVal := .fin (decide (z < 0)) z.natAbs 0
/-- Normalised significand in [1, 2) and exponent of a finite nonzero value (06 R154). -/
def normSig (m : Nat) (e : Int) : FVal × Int :=
  let l := Nat.log2 m
  (.fin false m (-(l : Int)), (l : Int) + e)
/-- floor(2^k × (x − 1)) for x = m × 2^e in [1, 4). -/
def idxOf (v : FVal) (k : Nat) : Nat :=
  match v with
  | .fin _ m e => let (t, _, _) := toUnits m e (-(k : Int)); t - 2 ^ k
  | _ => 0
/-- Scales a value by 2^z exactly. -/
def scale2 (v : FVal) (z : Int) : FVal := match v with | .fin n m e => .fin n m (e + z) | w => w
/-- Horner over coefficients given from the highest down. -/
def horner (t : FVal) : List FVal → FVal → FVal
  | [], p => p
  | c :: r, p => horner t r (fma32 p t c)

/-- exp2 of a finite x (06 R155). -/
def exp2Alg (x : FVal) : FVal :=
  if flt (fint 128) x then .inf false
  else if flt x (fint (-151)) then fzero false
  else
    match x with
    | .fin neg m e =>
      let (u, _) := rneUnits m e 0
      let n : Int := if neg then -(u : Int) else u
      let t := fadd x (fint (-n))
      let p := horner t ((List.range 7).reverse.map (coef cExp2)) (coef cExp2 7)
      r32 (scale2 p n)
    | v => v

/-- exp2_ref with its special operands (06 R154). -/
def exp2Ref (x : FVal) : FVal :=
  match x with
  | .nan => .nan
  | .inf neg => if neg then fzero false else .inf false
  | .fin _ m _ => if m = 0 then fint 1 else exp2Alg x

/-- log2 of a finite positive x (06 R156). -/
def log2Alg (m0 : Nat) (e0 : Int) : FVal :=
  let (m, e) := normSig m0 e0
  let j := match fmul (fint 64) (fadd m (fint (-1))) with | .fin _ a b => (rneUnits a b 0).1 | _ => 0
  let t := fma32 m (coef gLog2 j) (fint (-1))
  let q := horner t ((List.range 4).reverse.map (coef bLog2)) (coef bLog2 4)
  let p := mul32 t q
  r32 (fadd (r32 (fadd (fint e) (coef lLog2 j))) p)

/-- rcp of a finite nonzero x (06 R157). -/
def rcpAlg (neg : Bool) (m0 : Nat) (e0 : Int) : FVal :=
  let (m, e) := normSig m0 e0
  let s0 := coef rRcp (idxOf m 7)
  let stepF (s : FVal) : FVal := let d := fma32 (fnegate m) s (fint 1); fma32 s d s
  let s := stepF (stepF s0)
  match r32 (scale2 s (-e)) with
  | .fin _ a b => .fin neg a b
  | .inf _ => .inf neg
  | v => v

/-- rcp_ref with its special operands. -/
def rcpRef (x : FVal) : FVal :=
  match x with
  | .nan => .nan
  | .inf neg => fzero neg
  | .fin neg m e => if m = 0 then .inf neg else rcpAlg neg m e

/-- rsq of a finite positive x (06 R157). -/
def rsqAlg (m0 : Nat) (e0 : Int) : FVal :=
  let (m1, e1) := normSig m0 e0
  let odd := e1 % 2 ≠ 0
  let m := if odd then scale2 m1 1 else m1
  let e := if odd then e1 - 1 else e1
  let s0 := coef qRsq (idxOf m 5)
  let stepF (s : FVal) : FVal :=
    let h := mul32 m s
    let d := fma32 (fnegate h) s (fint 1)
    fma32 (mul32 (.fin false 1 (-1)) s) d s
  r32 (scale2 (stepF (stepF (stepF s0))) (-(e / 2)))

/-- rsq_ref with its special operands. -/
def rsqRef (x : FVal) : FVal :=
  match x with
  | .nan => .nan
  | .inf neg => if neg then .nan else fzero false
  | .fin neg m e => if m = 0 then .inf neg else if neg then .nan else rsqAlg m e

/-- tanh of a finite nonzero x (06 R158). -/
def tanhAlg (x : FVal) : FVal :=
  let a := fabs x
  let sg (v : FVal) : FVal := if fneg? x then fnegate v else v
  if flt a (.fin false 1 (-1)) then
    let z := mul32 x x
    let s := horner z ((List.range 6).reverse.map (coef dTanh)) (coef dTanh 6)
    fma32 (mul32 x z) s x
  else if flt a (fint 10) then
    let e := exp2Ref (mul32 a (f32 kTanh))
    sg (fma32 (fint (-2)) (rcpRef (r32 (fadd e (fint 1)))) (fint 1))
  else sg (fint 1)

/-- erf of a finite nonzero x (06 R159). -/
def erfAlg (x : FVal) : FVal :=
  let a := fabs x
  let sg (v : FVal) : FVal := if fneg? x then fnegate v else v
  if flt a (fint 1) then
    let z := mul32 x x
    let s := horner z ((List.range 10).reverse.map (coef eErf)) (coef eErf 10)
    mul32 x s
  else if flt a (fint 4) then
    let t := rcpRef (fma32 (f32 pErf) a (fint 1))
    let s := horner t ((List.range 4).reverse.map (coef aErf)) (coef aErf 4)
    let s := mul32 s t
    let w := exp2Ref (mul32 (fnegate (mul32 a a)) (f32 lErf))
    sg (fma32 (fnegate s) w (fint 1))
  else sg (fint 1)

/-- The conditions of a reference function: those of 03 R83, and DIVZERO. -/
structure RefRes where
  y : FVal
  flags : CFlags := {}
  divzero : Bool := false

/-- Whether a finite value is a power of two times a sign. -/
def isPow2 (m : Nat) : Bool := m ≠ 0 && m = 2 ^ Nat.log2 m

/-- The integer that a finite value is, if it is one. -/
def asInt (v : FVal) : Option Int :=
  match v with
  | .fin n m e =>
    let (t, r, _) := toUnits m e 0
    if r = 0 then some (if n then -(t : Int) else t) else none
  | _ => none

/-- INEXACT, OVERFLOW and UNDERFLOW of an algorithm result y from finite nonzero x (06 R154). -/
def refFlags (y : FVal) (exact : Bool) : CFlags :=
  let tiny := match y with | .fin _ m e => m = 0 || decide (flog2 m e < -126) | _ => false
  { inexact := !exact, overflow := y = .inf false || y = .inf true, underflow := !exact && tiny }

/-- A reference function by OPC on an exact operand (06 R154 to R159). -/
def refFun (opc : Nat) (x0 : FVal) : RefRes :=
  let x := r32 x0
  match x with
  | .nan => { y := .nan }
  | .inf neg =>
    match opc with
    | 0x18 => { y := if neg then fzero false else .inf false }
    | 0x19 => if neg then { y := .nan, flags := { invalid := true } } else { y := .inf false }
    | 0x1A => { y := fzero neg }
    | 0x1B => if neg then { y := .nan, flags := { invalid := true } } else { y := fzero false }
    | _ => { y := if neg then fint (-1) else fint 1 }
  | .fin neg m e =>
    if m = 0 then
      match opc with
      | 0x18 => { y := fint 1 }
      | 0x19 => { y := .inf true, divzero := true }
      | 0x1A => { y := .inf neg, divzero := true }
      | 0x1B => { y := .inf neg, divzero := true }
      | _ => { y := x }
    else
      match opc with
      | 0x18 =>
        let y := exp2Alg x
        let ex := match asInt x with | some z => decide (-149 ≤ z) && decide (z ≤ 127) | none => false
        { y := y, flags := refFlags y ex }
      | 0x19 =>
        if neg then { y := .nan, flags := { invalid := true } }
        else let y := log2Alg m e; { y := y, flags := refFlags y (isPow2 m && feq y (fint (flog2 m e))) }
      | 0x1A =>
        let y := rcpAlg neg m e
        { y := y, flags := refFlags y (isPow2 m && feq y (.fin neg 1 (-(flog2 m e)))) }
      | 0x1B =>
        if neg then { y := .nan, flags := { invalid := true } }
        else
          let y := rsqAlg m e
          { y := y, flags := refFlags y (isPow2 m && (flog2 m e) % 2 = 0 && feq y (.fin false 1 (-(flog2 m e / 2)))) }
      | 0x1C => let y := tanhAlg x; { y := y, flags := refFlags y false }
      | _ =>
        let y := erfAlg x
        { y := y, flags := refFlags y (!flt (fabs x) (fint 4)) }

end Sys2Proof.Machine
end

