-- ==== Sys2Proof/Machine/Vse.lean ====
section
/-! DEFINITION. The vector stream engine (chapter 06): operand forms, field and chain checks, element-wise operations, row reductions, gathers, scatters, masks. -/

namespace Sys2Proof.Machine

/-- An operand specifier (06 R149). -/
inductive VOp where
  | slot (n : Nat)
  | relay (r fmt : Nat)
  | scalar
  | none
  deriving DecidableEq, Repr

def vop (b : Nat) : VOp :=
  match b / 64 with
  | 0 => .slot (b % 64)
  | 1 => .relay (b % 4) (b / 4 % 16)
  | 2 => .scalar
  | _ => .none

def vA (o : Nat) : VOp := vop (bits o 22 15)
def vB (o : Nat) : VOp := vop (bits o 30 23)
def vC (o : Nat) : VOp := vop (bits o 38 31)
def vD (o : Nat) : VOp := if bits o 5 0 = 0x30 then vop (bits o 17 10) else vop (bits o 46 39)
def vM (o : Nat) : VOp := if bits o 5 0 = 0x30 then .none else vop (bits o 54 47)
def vOpc (o : Nat) : Nat := bits o 5 0
/-- CHAIN of an operation (06 R149, R162). -/
def vChain (o : Nat) : Bool :=
  let c := vOpc o
  if c = 0x30 then bit o 9 else if 8 ≤ c && c ≤ 0x2A then bit o 14 else false
/-- Operations that may stand in a chain with others (06 R143). -/
def chainable (o : Nat) : Bool :=
  let c := vOpc o
  (8 ≤ c && c ≤ 0x11) || (0x18 ≤ c && c ≤ 0x1D) || (0x20 ≤ c && c ≤ 0x22) || c = 0x30
def isReduce (o : Nat) : Bool := 0x20 ≤ vOpc o && vOpc o ≤ 0x22
/-- Whether an operation writes a mask rather than data. -/
def writesMask (o : Nat) : Bool := vOpc o = 0x11 || (vOpc o = 0x30 && !bit o 8)

/-- Which of A, B, C an operation uses. -/
def vUses (c : Nat) : Bool × Bool × Bool :=
  if c = 0x0B then (true, true, true)
  else if c ∈ [0x08, 0x09, 0x0A, 0x0C, 0x0D, 0x11, 0x28, 0x29, 0x2A] then (true, true, false)
  else (true, false, false)

def relayFmtBad : VOp → Bool
  | .relay _ f => f > 5
  | _ => false

/-- Bad kind of a data source: `sc` whether a scalar is admitted, `slotOnly` for index and table operands. -/
def srcBad (x : VOp) (used sc slotOnly : Bool) : Bool :=
  match x with
  | .none => used
  | .scalar => !used || !sc
  | .slot _ => !used
  | .relay _ f => !used || slotOnly || f > 5

/-- The lowest bit of the first offending field of a VSE operation, checked without slot contents (06 R140, R148, R149, R162, R164). `tids` is the number of tensor table entries. -/
def vseBad (tids o : Nat) : Option Nat :=
  let c := vOpc o
  if c = 1 then
    if bits o 17 12 ≠ 0 then some 12
    else if bits o 37 34 > 5 || (bit o 87 && bits o 37 34 ≠ 0) then some 34
    else if bits o 127 88 ≠ 0 then some 88 else none
  else if c = 2 then
    if bits o 27 12 > tids then some 12 else if bits o 63 60 ≠ 0 then some 60 else none
  else if c = 3 then (if bits o 127 23 ≠ 0 then some 23 else none)
  else if c = 0x30 then
    let d := vD o
    if (match d with | .slot _ => false | .relay _ f => f > 5 || (bit o 8 && f > 2) | _ => true) then some 10
    else if bits o 27 18 ≠ 0 then some 18
    else if bits o 88 68 > 2 ^ 20 then some 68
    else if bit o 7 && (bits o 109 89 = 0 || bits o 109 89 > 2 ^ 20) then some 89
    else if bits o 127 110 ≠ 0 then some 110 else none
  else if !((8 ≤ c && c ≤ 0x11) || (0x18 ≤ c && c ≤ 0x1D) || (0x20 ≤ c && c ≤ 0x22) || (0x28 ≤ c && c ≤ 0x2A)) then some 0
  else
    let (ua, ub, uc) := vUses c
    let gs := 0x28 ≤ c
    let sc2 := c = 0x29 || c = 0x2A
    if cvcBad (bits o 8 6) || (sc2 && bits o 7 6 ≠ 0) then some 6
    else if bits o 13 12 = 3 then some 12
    else if srcBad (vA o) ua false gs then some 15
    else if srcBad (vB o) ub (c ≠ 0x28) (c = 0x28) then some 23
    else if srcBad (vC o) uc true false then some 31
    else if (match vD o with | .slot _ => false | .relay _ f => f > 5 || sc2 | _ => true) then some 39
    else if (match vM o with | .none => bits o 13 12 != 0 | .slot _ => bits o 13 12 == 0 | .relay _ f => bits o 13 12 == 0 || decide (f > 5) | .scalar => true) then some 47
    else if (if c = 0x11 then bits o 57 55 > 6 else bits o 57 55 ≠ 0) then some 55
    else if bits o 63 58 ≠ 0 then some 58
    else if bits o 127 96 ≠ 0 then some 96 else none

/-- Relays read as data by an operation. -/
def dataRelays (o : Nat) : List Nat :=
  if vOpc o = 0x30 then [] else
  ([vA o, vB o, vC o]).filterMap (fun x => match x with | .relay r _ => some r | _ => none)
def maskRelay (o : Nat) : Option Nat := match vM o with | .relay r _ => some r | _ => none
/-- Slots that an operation reads or writes with the chain's geometry. -/
def geomSlots (o : Nat) : List Nat :=
  let src := if vOpc o = 0x30 then [] else [vA o, vB o, vC o, vM o]
  let l := if isReduce o then src else src ++ [vD o]
  l.filterMap (fun x => match x with | .slot n => some n | _ => none)

/-- Whether an operation that is always a chain of one names a relay: as its mask or its values none has been written, as its destination it stands last (06 R145). -/
def relayAlone (o : Nat) : Bool :=
  0x28 ≤ vOpc o && ((maskRelay o).isSome || !(dataRelays o).isEmpty || match vD o with | .relay _ _ => true | _ => false)

/-- The chain rules that need no slot contents (06 R145): the index of the first operation at fault. SR8 in the CVC of a VCMP counts as an SR8 conversion (DESIGN CHOICE, assumption 58). `wr` holds the relays written so far, each with whether it carries a mask. -/
def chainBadFrom : List Nat → Nat → Tbl Bool → Option Nat
  | [], _, _ => none
  | o :: r, i, wr =>
    let isLast := r.isEmpty
    if i ≥ 16 then some i
    else if vChain o && isLast then some i
    else if !chainable o then (if i ≠ 0 then some (i - 1) else if !isLast || relayAlone o then some i else none)
    else if isReduce o && !isLast then some i
    else if (dataRelays o).any (fun x => tget wr x ≠ some false) then some i
    else if (match maskRelay o with | some x => tget wr x != some true | none => false) then some i
    else
      match vD o with
      | .relay x _ =>
        if isLast then some i
        else if vOpc o ≠ 0x30 && (bits o 7 6 = 1 || bits o 13 12 = 1) then some i
        else chainBadFrom r (i + 1) (tput wr x (writesMask o))
      | _ => chainBadFrom r (i + 1) wr

/-- The chain rules checked at load and at issue (06 R145). -/
def chainBad (ops : List Nat) : Option Nat :=
  match chainBadFrom ops 0 [] with
  | some i => some i
  | none =>
    if ops.all (fun o => vOpc o = 0x30 || chainable o) && ops.all (fun o => (geomSlots o).isEmpty) then some 0 else none

/-- The geometry of a chain: INNER and OUTER of its first memory descriptor (06 R162). -/
def chainGeom (vc : Vcore) (ops : List Nat) : Option (Nat × Nat) :=
  match ops.flatMap geomSlots with
  | [] => none
  | n :: _ => some (sgInner (slotA vc n), sgOuter (slotA vc n))

/-- Slots an earlier operation of the chain writes. -/
def slotsWritten (ops : List Nat) : List Nat := ops.filterMap (fun o => match vD o with | .slot n => some n | _ => none)

/-- The chain rules that depend on slot contents (06 R145): different geometries, a ROWSCALAR read of a slot written earlier. -/
def chainSlotBad (vc : Vcore) (ops : List Nat) (inner outer : Nat) : Option Nat :=
  (List.range ops.length).find? (fun i =>
    let o := ops.getD i 0
    (geomSlots o).any (fun n => sgInner (slotA vc n) ≠ inner || sgOuter (slotA vc n) ≠ outer)
    || (isReduce o && match vD o with | .slot n => sgInner (slotA vc n) ≠ 1 || sgOuter (slotA vc n) ≠ outer | _ => false)
    || (vOpc o ≠ 0x30 && [vA o, vB o, vC o, vM o].any (fun x => match x with
        | .slot n => sgRowScalar (slotA vc n) && (slotsWritten (ops.take i)).contains n | _ => false)))

/-- Slot-dependent field checks of one operation (06 R147, R149, R152, R164; of VCMP: assumption 58): the lowest bit of the first offending field. An SR8 write into a slot without identity offends in CVC, as it does in RND of an MDRAIN (07 R176). -/
def slotBad (vc : Vcore) (o : Nat) : Option Nat :=
  let c := vOpc o
  let onSlot (x : VOp) (f : Nat → Bool) : Bool := match x with | .slot n => f n | _ => false
  let geo (n : Nat) : Nat := slotA vc n
  let isBits (x : VOp) : Bool := onSlot x (fun n => sgBits (geo n))
  let dBad := onSlot (vD o) (fun n => sgBits (geo n) != writesMask o || sgRowScalar (geo n))
  if c = 0x30 then
    if dBad || (bit o 8 && onSlot (vD o) (fun n => sgFmt (geo n) > 2)) then some 10 else none
  else if bits o 7 6 = 1 && onSlot (vD o) (fun n => slotTid vc n = 0) then some 6
  else if isBits (vA o) || (0x28 ≤ c && onSlot (vA o) (fun n => sgFmt (geo n) ≠ 0)) then some 15
  else if isBits (vB o) || (c = 0x28 && onSlot (vB o) (fun n => sgOuter (geo n) ≠ 1)) then some 23
  else if isBits (vC o) then some 31
  else if dBad || ((c = 0x29 || c = 0x2A) && onSlot (vD o) (fun n => sgOuter (geo n) ≠ 1)) then some 39
  else if onSlot (vM o) (fun n => !sgBits (geo n)) then some 47
  else none

/-- Whether a slot's stream passes the end of the scratchpad in its rows: the offset of its first row that does. -/
def slotReach (g outer : Nat) : Option Nat := (List.range outer).findSome? (fun r => if slotRowEnd g r > spLimit then some (slotOff g r 0) else none)

/-- A relay's content for the current group: data (value, poison) or a mask bit (bit, poison). -/
inductive RVal where
  | data (v : FVal) (p : Bool)
  | mask (b p : Bool)

/-- What a chain has done so far: writes, flags by accumulator, and the first fault. -/
structure VAcc where
  segs : List Seg := []
  /-- Mask bits for slots: slot, row, lane, bit, poison. -/
  masks : List (Nat × Nat × Nat × Bool × Bool) := []
  flags : Tbl Nat := []
  prob : Option Prob := none

def vFlag (a : VAcc) (fsel f : Nat) : VAcc := { a with flags := tput a.flags fsel (tgetD a.flags fsel 0 ||| f) }

/-- Reads an operand of element (r, i): value and poison (06 R141, R144, R150). -/
def vRead (s : State) (pc : Nat) (vc : Vcore) (rel : Tbl RVal) (o r i : Nat) (x : VOp) : FVal × Bool :=
  match x with
  | .slot n =>
    let g := slotA vc n
    let f := (fmtOf (sgFmt g)).getD .fp32
    let a := spBase pc + slotOff g r i
    (decodeF f (leNat (devRead s a (fmtBytes f))), devPoison s a (fmtBytes f))
  | .relay k _ => match tget rel k with | some (.data v p) => (v, p) | _ => (fzero false, false)
  | .scalar => (f32 (bits o 95 64), false)
  | .none => (fzero false, false)

/-- Larger or smaller of two values; −0 lies below +0 (06 R150). -/
def vMaxMin (mx : Bool) (a b : FVal) : FVal :=
  if a = .nan || b = .nan then .nan
  else
    let lt := flt a b || (feq a b && fneg? a && !fneg? b)
    if mx then (if lt then b else a) else (if lt then a else b)

/-- A comparison of VCMP (06 R150). -/
def vCmp (f : Nat) (a b : FVal) : Bool :=
  let un := a = .nan || b = .nan
  match f with
  | 0 => feq a b
  | 1 => un || !feq a b
  | 2 => flt a b
  | 3 => flt a b || feq a b
  | 4 => flt b a
  | 5 => flt b a || feq a b
  | _ => un

/-- The exact result of an element-wise operation, with the flags of a reference function as bits 0 to 4 (06 R150, R154). An INT8 zero counts as +0, so a zero product or a negation of it is -0 where the rules of the sign give that (DESIGN CHOICE, assumption 50). -/
def vExact (c : Nat) (x y z : FVal) : FVal × Nat :=
  let nanIn := x = .nan || y = .nan || z = .nan
  let inv (v : FVal) : FVal × Nat := (v, if v = .nan && !nanIn then 8 else 0)
  match c with
  | 0x08 => inv (fadd x y)
  | 0x09 => inv (fadd x (fnegate y))
  | 0x0A => inv (fmul x y)
  | 0x0B => inv (fadd (fmul x y) z)
  | 0x0C => (vMaxMin true x y, 0)
  | 0x0D => (vMaxMin false x y, 0)
  | 0x0E => (fabs x, 0)
  | 0x0F => (fnegate x, 0)
  | 0x10 => (x, 0)
  | _ =>
    let r := refFun c x
    (r.y, cfBits r.flags + 16 * b2n r.divzero)

/-- Whether query q may see key k (06 R163). -/
def maskAllowed (o r i : Nat) : Bool :=
  let q := bits o 47 28 + r
  let k := bits o 67 48 + i
  let win := bits o 109 89
  decide (k < bits o 88 68) && (!bit o 6 || decide (k ≤ q))
    && (!bit o 7 || (if bit o 6 then decide (q - k < win) else decide ((if k ≤ q then q - k else k - q) < win)))

/-- The mask of element (r, i): whether its lane is active, or the poison that consumes it (06 R147). -/
def vActive (s : State) (pc v : Nat) (vc : Vcore) (rel : Tbl RVal) (o r i : Nat) : Bool × Option (Nat × Nat) :=
  if bits o 13 12 = 0 || vOpc o = 0x30 then (true, none)
  else match vM o with
    | .slot n =>
      let g := slotA vc n
      let off := slotOff g r i
      let i' := if sgRowScalar g then 0 else i
      if devPoison s (spBase pc + off) 1 then (false, some ((vspBase v + off) % 2 ^ 32, (vspBase v + off) / 2 ^ 32))
      else (bit (memGet s.mem (spBase pc + off)).toNat (i' % 8), none)
    | .relay k _ => match tget rel k with
      | some (.mask b p) => if p then (false, some (0, 0)) else (b, none)
      | _ => (true, none)
    | _ => (true, none)

/-- One destination element: its code in the destination format, its flags, or a position fault (03 R71, 06 R144, 07 R176). -/
def vConvert (c : Ctx) (vc : Vcore) (o r i : Nat) (v : FVal) : Option (Nat × Nat) :=
  let cvc := bits o 8 6
  match vD o with
  | .slot n =>
    let f := (fmtOf (sgFmt (slotA vc n))).getD .fp32
    if bits cvc 1 0 = 1 then
      match sr8Byte c (slotTid vc n) (slotPos vc n r i) with
      | some b => let (x, fl) := convertCvc f cvc b v; some (x, cfBits fl)
      | none => none
    else let (x, fl) := convertCvc f cvc 0 v; some (x, cfBits fl)
  | .relay _ fm => let (x, fl) := convertCvc ((fmtOf fm).getD .fp32) cvc 0 v; some (x, cfBits fl)
  | _ => some (0, 0)

def vDstFmt (vc : Vcore) (o : Nat) : Fmt :=
  match vD o with
  | .slot n => (fmtOf (sgFmt (slotA vc n))).getD .fp32
  | .relay _ f => (fmtOf f).getD .fp32
  | _ => .fp32

/-- Puts an element where the destination names: a scratchpad element or a relay. -/
def vPut (pc : Nat) (vc : Vcore) (o r i code : Nat) (po : Bool) (a : VAcc) (rel : Tbl RVal) : VAcc × Tbl RVal :=
  match vD o with
  | .slot n =>
    let f := vDstFmt vc o
    ({ a with segs := a.segs ++ [(spBase pc + slotOff (slotA vc n) r i, (leBytes (fmtBytes f) code).map (fun b => (b, po)))] }, rel)
  | .relay k _ => (a, tput rel k (.data (decodeF (vDstFmt vc o) code) po))
  | _ => (a, rel)

/-- One operation of a chain on element (r, i) (06 R143 to R153). -/
def vElem (s : State) (c : Ctx) (pc v : Nat) (vc : Vcore) (o r i : Nat) (a : VAcc) (rel : Tbl RVal) : VAcc × Tbl RVal :=
  let fsel := bits o 11 9
  let opc := vOpc o
  if a.prob.isSome then (a, rel)
  else if opc = 0x30 then
    let al := maskAllowed o r i
    if bit o 8 then vPut pc vc o r i (if al then 0 else infCode (vDstFmt vc o) true) false a rel
    else match vD o with
      | .relay k _ => (a, tput rel k (.mask al false))
      | .slot n => ({ a with masks := a.masks ++ [(n, r, i, al, false)] }, rel)
      | _ => (a, rel)
  else
    match vActive s pc v vc rel o r i with
    | (_, some (d0, d1)) => ({ a with prob := some { cause := 0x1C, unit := 1, vcore := some v, queue := some 1, d0 := d0, d1 := d1 } }, rel)
    | (false, none) =>
      if bits o 13 12 = 1 then (a, rel)
      else if opc = 0x11 then
        match vD o with
        | .relay k _ => (a, tput rel k (.mask false false))
        | .slot n => ({ a with masks := a.masks ++ [(n, r, i, false, false)] }, rel)
        | _ => (a, rel)
      else vPut pc vc o r i 0 false a rel
    | (true, none) =>
      let (x, px) := vRead s pc vc rel o r i (vA o)
      let (y, py) := vRead s pc vc rel o r i (vB o)
      let (z, pz) := vRead s pc vc rel o r i (vC o)
      let (_, ub, uc) := vUses opc
      let po := px || (ub && py) || (uc && pz)
      let nanIn := x = .nan || (ub && y = .nan) || (uc && z = .nan)
      if opc = 0x11 then
        let b := vCmp (bits o 57 55) x y
        let a := vFlag a fsel (if po then 64 else if nanIn then 32 else 0)
        match vD o with
        | .relay k _ => (a, tput rel k (.mask b po))
        | .slot n => ({ a with masks := a.masks ++ [(n, r, i, b, po)] }, rel)
        | _ => (a, rel)
      else
        let (w, f1) := vExact opc x (if ub then y else fzero false) (if uc then z else fzero false)
        match vConvert c vc o r i w with
        | none =>
          let n := match vD o with | .slot n => n | _ => 0
          let pos := slotPos vc n r i
          ({ a with prob := some { cause := 0x11, unit := 1, vcore := some v, queue := some 1, d0 := pos % 2 ^ 32, d1 := pos / 2 ^ 32 % 2 ^ 32, d2 := slotTid vc n } }, rel)
        | some (code, f2) =>
          let a := vFlag a fsel (if po then 64 else f1 ||| f2 ||| (if nanIn then 32 else 0))
          vPut pc vc o r i code po a rel

/-- One operation over the lanes of an element group, each lane with what the relays hold for it. -/
def vLanes (s : State) (c : Ctx) (pc v : Nat) (vc : Vcore) (o r : Nat) : List (Nat × Tbl RVal) → VAcc → VAcc × List (Nat × Tbl RVal)
  | [], a => (a, [])
  | (i, rel) :: t, a =>
    let (a, rel) := vElem s c pc v vc o r i a rel
    let (a, t) := vLanes s c pc v vc o r t a
    (a, (i, rel) :: t)

/-- The operations of a chain over the lanes of an element group, one operation after the other (06 R143). -/
def vGroup (s : State) (c : Ctx) (pc v : Nat) (vc : Vcore) (r : Nat) : List Nat → List (Nat × Tbl RVal) → VAcc → VAcc × List (Nat × Tbl RVal)
  | [], l, a => (a, l)
  | o :: ops, l, a =>
    let (a, l) := vLanes s c pc v vc o r l a
    vGroup s c pc v vc r ops l a

/-- One tree node of VRSUM over lanes that may be absent (06 R151): value and flags. -/
def sumNode (x y : Option (FVal × Nat)) : Option (FVal × Nat) :=
  match x, y with
  | a, none => a
  | none, b => b
  | some (a, fa), some (b, fb) =>
    let e := fadd a b
    let (code, fl) := convertF .fp32 .rne true e
    some (f32 code, fa ||| fb ||| cfBits fl ||| (if e = .nan && a ≠ .nan && b ≠ .nan then 8 else 0))

def sumLevel (l : List (Option (FVal × Nat))) : List (Option (FVal × Nat)) :=
  let w := l.length / 2
  List.zipWith sumNode (l.take w) (l.drop w)

/-- The tree of one group of 256 lanes. -/
def groupSum (l : List (Option (FVal × Nat))) : Option (FVal × Nat) :=
  let l := l ++ List.replicate (256 - l.length) none
  (sumLevel (sumLevel (sumLevel (sumLevel (sumLevel (sumLevel (sumLevel (sumLevel l)))))))).getD 0 none

/-- A list in pieces of n, at most `fuel` of them. -/
def pieces {α : Type} (n : Nat) : Nat → List α → List (List α)
  | 0, _ => []
  | f + 1, l => if l.isEmpty then [] else l.take n :: pieces n f (l.drop n)

/-- The reduction of one row from its present elements (06 R151): value and flags; a wholly absent row gives +0. -/
def reduceRow (opc : Nat) (l : List (Option FVal)) : FVal × Nat :=
  if opc = 0x20 then
    match ((pieces 256 (l.length / 256 + 1) (l.map (Option.map (fun v => (v, 0))))).map groupSum).foldl sumNode none with
    | some r => r
    | none => (fzero false, 0)
  else
    match l.foldl (fun (a : Option FVal) x => match a, x with
      | none, y => y
      | z, none => z
      | some z, some y => some (vMaxMin (opc = 0x21) z y)) none with
    | some r => (r, 0)
    | none => (fzero false, 0)

/-- Operand A of the lanes of a group that enters a row reduction, absent where inactive (06 R151). -/
def reduceLanes (s : State) (pc v : Nat) (vc : Vcore) (o r : Nat) (l : List (Nat × Tbl RVal)) (a : VAcc) : VAcc × List (Option (FVal × Bool)) :=
  l.foldl (fun acc e =>
    match vActive s pc v vc e.2 o r e.1 with
    | (_, some (d0, d1)) => ({ acc.1 with prob := acc.1.prob.or (some { cause := 0x1C, unit := 1, vcore := some v, queue := some 1, d0 := d0, d1 := d1 }) }, acc.2)
    | (false, none) => (acc.1, acc.2 ++ [none])
    | (true, none) => (acc.1, acc.2 ++ [some (vRead s pc vc e.2 o r e.1 (vA o))])) (a, [])

/-- The result of a row reduction from all the lanes of its row (06 R151). -/
def reduceEnd (c : Ctx) (pc v : Nat) (vc : Vcore) (o r : Nat) (lanes : List (Option (FVal × Bool))) (a : VAcc) : VAcc :=
  if a.prob.isSome then a
  else
    let po := lanes.any (fun x => match x with | some (_, p) => p | none => false)
    let nanIn := lanes.any (fun x => match x with | some (w, _) => w = .nan | none => false)
    let (w, f1) := reduceRow (vOpc o) (lanes.map (Option.map (fun x => x.1)))
    match vConvert c vc o r 0 w with
    | none =>
      let n := match vD o with | .slot n => n | _ => 0
      let pos := slotPos vc n r 0
      { a with prob := some { cause := 0x11, unit := 1, vcore := some v, queue := some 1, d0 := pos % 2 ^ 32, d1 := pos / 2 ^ 32 % 2 ^ 32, d2 := slotTid vc n } }
    | some (code, f2) =>
      let absent := lanes.all (fun x => x.isNone)
      let a := vFlag a (bits o 11 9) (if po then 64 else if absent then 0 else f1 ||| f2 ||| (if nanIn then 32 else 0))
      (vPut pc vc o r 0 code po a []).1

/-- ORs the flags of a chain into VSE_STATUS and into the status accumulators (06 R153). -/
def vFlagsInto (s : State) (k v pc : Nat) (fl : Tbl Nat) : State :=
  let all := fl.foldl (fun a e => a ||| e.2) 0
  let s := orReg s (rVseStatus pc) all
  modVc s k v (fun vc => { vc with accum := fl.foldl (fun t e => tput t e.1 (tgetD t e.1 0 ||| e.2)) vc.accum })

/-- Mask bits of a row that are written to a slot: a byte with a written lane takes its bits, keeps those of its other lanes, and holds zero behind the row's end; a byte without one is not written (06 R141, R147). A byte with some written lanes counts as written whole, and an RFILL too leaves zero behind the end (DESIGN CHOICE, assumption 58). -/
def maskSeg (s : State) (pc g inner r : Nat) (lanes : List (Nat × Bool × Bool)) : List Seg :=
  (List.range ((inner + 7) / 8)).filterMap (fun b =>
    let ad := spBase pc + slotOff g r (8 * b)
    let mine := lanes.filter (fun x => x.1 / 8 = b)
    let v := mine.foldl (fun v x => setBits v (x.1 % 8) (x.1 % 8) (b2n x.2.1)) (memGet s.mem ad).toNat
    let v := if 8 * b + 8 > inner then v % 2 ^ (inner - 8 * b) else v
    if mine.isEmpty then none else some (ad, [(byte v, mine.any (fun x => x.2.2))]))

/-- Writes what a group produced: elements, then mask bytes. -/
def vWrite (s : State) (pc : Nat) (vc : Vcore) (a : VAcc) : State :=
  let rows := a.masks.foldl (fun (t : Tbl (List (Nat × Bool × Bool))) m => tput t (m.1 * 65536 + m.2.1) (tgetD t (m.1 * 65536 + m.2.1) [] ++ [m.2.2])) []
  let s := devSegs s a.segs
  devSegs s (rows.flatMap (fun e => maskSeg s pc (slotA vc (e.1 / 65536)) (sgInner (slotA vc (e.1 / 65536))) (e.1 % 65536) e.2))

/-! ### Element groups (06 R141, R142) -/

/-- Whether an operand is of at most 16 bits and so leaves W at 512; a scalar does not count. -/
def narrow (vc : Vcore) (x : VOp) : Bool :=
  match x with
  | .slot n => sgBits (slotA vc n) || decide (fmtBytes ((fmtOf (sgFmt (slotA vc n))).getD .fp32) ≤ 2)
  | .relay _ f => decide (fmtBytes ((fmtOf f).getD .fp32) ≤ 2)
  | _ => true

def wide16 (c : Nat) : Bool := 8 ≤ c && c ≤ 0x11

/-- W of a chain. A mask has no element width. -/
def chainWidth (vc : Vcore) (ops : List Nat) : Nat :=
  if ops.all (fun o => wide16 (vOpc o) && [vA o, vB o, vC o].all (narrow vc) && (writesMask o || narrow vc (vD o))) then 512 else 256

/-- The element groups of a row: its index, first column and lanes. -/
def rowGroups (w inner r : Nat) : List (Nat × Nat × Nat) := (List.range ((inner + w - 1) / w)).map (fun j => (r, j * w, min w (inner - j * w)))

/-- The element groups of a geometry in order. -/
def chainGroups (w inner outer : Nat) : List (Nat × Nat × Nat) := (List.range outer).flatMap (rowGroups w inner)

/-- The bytes of a slot's stream that a group touches. -/
def groupSpan (g : Nat) (x : Nat × Nat × Nat) : Nat × Nat :=
  (slotOff g x.1 x.2.1, slotOff g x.1 (x.2.1 + x.2.2 - 1) + (if sgBits g then 1 else fmtBytes ((fmtOf (sgFmt g)).getD .fp32)))

/-- The slots an operation reads with the chain's geometry; the table of a gather is not one. -/
def srcSlots (o : Nat) : List Nat :=
  (if vOpc o = 0x30 then [] else if vOpc o = 0x28 then [vA o, vM o] else [vA o, vB o, vC o, vM o]).filterMap
    (fun x => match x with | .slot n => some n | _ => none)

/-- The slot an operation writes with the chain's geometry; the table of a scatter is not one. -/
def dstSlots (o : Nat) : List Nat :=
  match vD o with | .slot n => if vOpc o = 0x29 || vOpc o = 0x2A then [] else [n] | _ => []

def readSpans (vc : Vcore) (ops : List Nat) (x : Nat × Nat × Nat) : List (Nat × Nat) :=
  (ops.flatMap srcSlots).map (fun n => groupSpan (slotA vc n) x)

/-- The bytes a group writes: of a row reduction one element, with the last group of the row. -/
def writeSpans (vc : Vcore) (ops : List Nat) (inner : Nat) (x : Nat × Nat × Nat) : List (Nat × Nat) :=
  ops.flatMap (fun o => (dstSlots o).filterMap (fun n =>
    if !isReduce o then some (groupSpan (slotA vc n) x)
    else if x.2.1 + x.2.2 = inner then some (groupSpan (slotA vc n) (x.1, 0, 1)) else none))

/-- The first byte beyond the scratchpad that a chain would access, in its order: group by group, sources before destinations (06 R142, R149, 09 R238). -/
def chainReach (vc : Vcore) (ops : List Nat) (inner outer : Nat) : Option Nat :=
  let far := fun (r : Nat) => (ops.flatMap (fun o => srcSlots o ++ dstSlots o)).any (fun n => decide (slotRowEnd (slotA vc n) r > spLimit))
  ((List.range outer).filter far).findSome? (fun r => (rowGroups (chainWidth vc ops) inner r).findSome? (fun x =>
    ((readSpans vc ops x ++ writeSpans vc ops inner x).find? (fun e => decide (e.2 > spLimit))).map (·.1)))

/-- Whether a group reads a byte that an earlier group of the chain writes. -/
def chainOverlap (vc : Vcore) (ops : List Nat) (inner : Nat) : List (Nat × Nat × Nat) → List (Nat × Nat) → Bool
  | [], _ => false
  | x :: r, w =>
    (readSpans vc ops x).any (fun e => w.any (fun d => decide (e.1 < d.2) && decide (d.1 < e.2)))
      || chainOverlap vc ops inner r (writeSpans vc ops inner x ++ w)

/-- A chain as it runs: what its groups have written, what those still in the lanes will write, and the present row of a reduction. -/
structure VRun where
  s : State
  late : List VAcc := []
  row : List (Option (FVal × Bool)) := []
  flags : Tbl Nat := []
  prob : Option Prob := none

/-- Writes the oldest group in flight where more than `lag` are. -/
def VRun.settle (t : VRun) (pc : Nat) (vc : Vcore) (lag : Nat) : VRun :=
  match t.late with
  | a :: r => if lag < t.late.length then { t with s := vWrite t.s pc vc a, late := r } else t
  | [] => t

/-- What a group produces from the memory before it, and the row of a reduction after it. -/
def groupEval (s : State) (c : Ctx) (pc v : Nat) (vc : Vcore) (ops : List Nat) (inner : Nat) (row : List (Option (FVal × Bool))) (x : Nat × Nat × Nat) :
    VAcc × List (Option (FVal × Bool)) :=
  let l := (List.range x.2.2).map (fun i => (x.2.1 + i, ([] : Tbl RVal)))
  match ops.getLast? with
  | none => ({}, row)
  | some o =>
    if isReduce o then
      let (a, l) := vGroup s c pc v vc x.1 ops.dropLast l {}
      let (a, m) := reduceLanes s pc v vc o x.1 l a
      if x.2.1 + x.2.2 = inner then (reduceEnd c pc v vc o x.1 (row ++ m) a, []) else (a, row ++ m)
    else ((vGroup s c pc v vc x.1 ops l {}).1, row)

/-- One group of a chain: it reads before it writes, and what it writes lands up to `lag` groups later. A group at fault leaves nothing and ends the chain. -/
def groupStep (c : Ctx) (pc v : Nat) (vc : Vcore) (ops : List Nat) (inner lag : Nat) (t : VRun) (x : Nat × Nat × Nat) : VRun :=
  if t.prob.isSome then t
  else
    let t := t.settle pc vc lag
    let (a, row) := groupEval t.s c pc v vc ops inner t.row x
    match a.prob with
    | some p => { t with prob := some p }
    | none => { t with late := t.late ++ [a], row := row, flags := a.flags.foldl (fun f e => tput f e.1 (tgetD f e.1 0 ||| e.2)) t.flags }

/-- Runs the groups of a chain; those in flight at its end land in order. -/
def runGroups (s : State) (c : Ctx) (pc v : Nat) (vc : Vcore) (ops : List Nat) (inner outer lag : Nat) : VRun :=
  let t := (chainGroups (chainWidth vc ops) inner outer).foldl (groupStep c pc v vc ops inner lag) { s := s }
  { t with s := t.late.foldl (fun s a => vWrite s pc vc a) t.s, late := [] }

/-- Runs a chain over its geometry. Where no group reads what an earlier one writes, the groups in flight do not show. Where one does, the manual gives the bytes by the cycle of each access, and gives no cycle: how many groups are in flight is a free value (06 R142, 09 R235, DESIGN CHOICE, assumption 27). -/
def vRun (s : State) (c : Ctx) (pc v : Nat) (vc : Vcore) (ops : List Nat) (inner outer : Nat) : VRun :=
  if chainOverlap vc ops inner (chainGroups (chainWidth vc ops) inner outer) [] then
    runGroups { s with draws := s.draws + 1 } c pc v vc ops inner outer (Config.groupLag s.draws)
  else runGroups s c pc v vc ops inner outer 0

end Sys2Proof.Machine
end

