-- ==== Sys2Proof/Machine/VseExec.lean ====
section
/-! DEFINITION. The meanings of the VSE commands: chains, descriptor slots, status, gather and scatter (chapter 06). -/

namespace Sys2Proof.Machine

/-- A VSE problem of the operation at `i` of a chain: a field at fault. -/
def vProb (vc : Vcore) (v cause : Nat) (d0 d1 d2 : Nat := 0) : Prob := engProb vc v 1 1 cause d0 d1 d2

/-- Fills in where a chain's problem stands. -/
def vLocate (vc : Vcore) (pr : Prob) : Prob := { pr with loc := runLoc vc 1 }

/-- The field check of an operation as a problem (06 R140, R149). -/
def vFieldProb (c : Ctx) (vc : Vcore) (v o : Nat) : Option Prob :=
  match vseBad c.prog.tensors.length o with
  | some b => some (vProb vc v 5 (128 + b) (if vOpc o = 2 && b = 12 then bits o 27 12 else 0))
  | none => none

/-- Everything that faults a chain before it runs, in the order fields, chain rules, slot contents, addresses, geometry, sequence limit (DESIGN CHOICE, assumption 40: the spec orders no two of them). -/
def vChainProb (c : Ctx) (vc : Vcore) (v : Nat) (ops : List Nat) : Option Prob :=
  match ops.findSome? (vFieldProb c vc v), chainBad ops with
  | some p, _ => some p
  | none, some i => some (vProb vc v 9 i)
  | none, none =>
    match ops.findSome? (slotBad vc), chainGeom vc ops with
    | some b, _ => some (vProb vc v 5 (128 + b))
    | none, none => some (vProb vc v 9 0)
    | none, some (inner, outer) =>
      match chainReach vc ops inner outer, chainSlotBad vc ops inner outer,
            ops.find? (fun o => vOpc o = 0x30 && (bits o 47 28 + outer > 2 ^ 20 || bits o 67 48 + inner > 2 ^ 20)) with
      | some off, _, _ => some (spProb vc v 1 1 off 64)
      | none, some i, _ => some (vProb vc v 9 i)
      | none, none, some o => some (vProb vc v 0xA (bits o 47 28) (bits o 67 48))
      | none, none, none => none

/-- Faults a context where there is a problem. -/
def faultIf (s : State) (k : Nat) (p : Option Prob) : State := match p with | some p => fault1 s k p | none => s

/-- Runs a whole chain, or faults the context (06 R143 to R154); the groups before the one at fault have run. -/
def runChain (s : State) (k : Nat) (c : Ctx) (vc : Vcore) (v : Nat) (ops : List Nat) : State :=
  match vChainProb c vc v ops with
  | some p => fault1 s k p
  | none =>
    match chainGeom vc ops with
    | none => s
    | some (inner, outer) =>
      let t := vRun s c (pcoreOf c v) v vc ops inner outer
      let s := vFlagsInto t.s k v (pcoreOf c v) t.flags
      faultIf s k (t.prob.map (vLocate vc))

/-- A chainable operation: joins the open chain, and runs it when CHAIN is 0 (06 R143). -/
def doChainOp (s : State) (k : Nat) (c : Ctx) (vc : Vcore) (v : Nat) (op : BitVec 128) : State :=
  let ops := vc.chain ++ [op]
  let s := modVc s k v (fun x => { x with chain := if vChain op.toNat && ops.length ≤ 16 then ops else [] })
  if vChain op.toNat && ops.length ≤ 16 then s
  else runChain s k c vc v (ops.map (·.toNat))

/-- An operation that always forms a chain of one; an open chain before it is a chain violation (06 R143, R145). -/
def doAlone (s : State) (k : Nat) (c : Ctx) (vc : Vcore) (v : Nat) (op : BitVec 128) (f : State → State) : State :=
  if vc.chain ≠ [] then fault1 s k (vProb vc v 9 (vc.chain.length - 1))
  else match vFieldProb c vc v op.toNat with
    | some p => fault1 s k p
    | none => if vChain op.toNat then fault1 s k (vProb vc v 9 0) else f s

/-- VSD.A: geometry, and the identity reset to TID 0 (06 R140); its positions with it (DESIGN CHOICE, assumption 58). -/
def doVsdA (s : State) (k v : Nat) (op : BitVec 128) : State :=
  modVc s k v (fun vc => { vc with slots := tput vc.slots (bits op.toNat 11 6) (op, 0) })

/-- VSD.B: identity (06 R140). -/
def doVsdB (s : State) (k v : Nat) (op : BitVec 128) : State :=
  modVc s k v (fun vc => { vc with slots := tput vc.slots (bits op.toNat 11 6) ((tgetD vc.slots (bits op.toNat 11 6) (0, 0)).1, op) })

/-- VSTAT: stores the eight accumulators and clears them if CLR (06 R153). -/
def doVstat (s : State) (k : Nat) (c : Ctx) (vc : Vcore) (v : Nat) (op : BitVec 128) : State :=
  let off := bits op.toNat 22 7 * 64
  if off + 8 > spLimit then fault1 s k (spProb vc v 1 1 off 64)
  else
    let s := devWrite s (spBase (pcoreOf c v) + off) ((List.range 8).map (fun a => byte (tgetD vc.accum a 0)))
    if bit op.toNat 6 then modVc s k v (fun x => { x with accum := [] }) else s

/-- The index of element (r, i) of an index stream, or the poison that it carries. -/
def vIndex (s : State) (pc : Nat) (g r i : Nat) : Nat × Bool :=
  let a := spBase pc + slotOff g r i
  (leNat (devRead s a 4), devPoison s a 4)

def slotNum : VOp → Nat
  | .slot n => n
  | _ => 0

/-- The slots of a gather or scatter whose geometry is that of its index stream: all but the table (06 R145, R152; assumption 40). -/
def gathGeom (o : Nat) : List Nat :=
  ((if vOpc o = 0x28 then [vD o] else [vB o]) ++ [vM o]).filterMap (fun x => match x with | .slot n => some n | _ => none)

/-- What faults a gather or scatter before it runs. It is a chain of one, so it names no relay (06 R145). -/
def gathProb (vc : Vcore) (v o : Nat) : Option Prob :=
  if relayAlone o then some (vProb vc v 9 0) else
  let g := slotA vc (slotNum (vA o))
  match slotBad vc o, chainReach vc [o] (sgInner g) (sgOuter g) with
  | some b, _ => some (vProb vc v 5 (128 + b))
  | none, some off => some (spProb vc v 1 1 off 64)
  | none, none =>
    if (gathGeom o).any (fun n => sgInner (slotA vc n) ≠ sgInner g || sgOuter (slotA vc n) ≠ sgOuter g) then some (vProb vc v 9 0) else none

/-- Of some elements of a gather or scatter, in their order, whether each is active and its index, up to the first at fault: a poisoned index or mask is consumed, an index past the table or past the scratchpad is unmapped (06 R147, R149, R152). -/
def gathElemsOf (s : State) (c : Ctx) (vc : Vcore) (v o tbl : Nat) (cells : List (Nat × Nat)) : List (Nat × Nat × Bool × Nat) × Option Prob :=
  let pc := pcoreOf c v
  let g := slotA vc (slotNum (vA o))
  let tg := slotA vc tbl
  let w := fmtBytes ((fmtOf (sgFmt tg)).getD .fp32)
  cells.foldl (fun acc ri =>
    if acc.2.isSome then acc
    else
      let at_ := fun (p : Prob) => (acc.1, some p)
      match vActive s pc v vc [] o ri.1 ri.2 with
      | (_, some (d0, d1)) => at_ (vProb vc v 0x1C d0 d1)
      | (false, none) => (acc.1 ++ [(ri.1, ri.2, false, 0)], none)
      | (true, none) =>
        let (x, po) := vIndex s pc g ri.1 ri.2
        let ia := vspBase v + slotOff g ri.1 ri.2
        let ta := vspBase v + sgBase tg + x * w
        if po then at_ (vProb vc v 0x1C (ia % 2 ^ 32) (ia / 2 ^ 32))
        else if x ≥ sgInner tg then at_ (vProb vc v 6 (ta % 2 ^ 32) (ta / 2 ^ 32) 64)
        else if slotOff tg 0 x + w > spLimit then at_ (spProb vc v 1 1 (slotOff tg 0 x) 64)
        else (acc.1 ++ [(ri.1, ri.2, true, x)], none)) ([], none)

/-- The elements of a gather or scatter, in ascending (r, i). -/
def gathElems (s : State) (c : Ctx) (vc : Vcore) (v o tbl : Nat) : List (Nat × Nat × Bool × Nat) × Option Prob :=
  let g := slotA vc (slotNum (vA o))
  gathElemsOf s c vc v o tbl ((List.range (sgOuter g)).flatMap (fun r => (List.range (sgInner g)).map (fun i => (r, i))))

/-- The element groups of a gather or scatter. -/
def gathGroups (vc : Vcore) (o : Nat) : List (Nat × Nat × Nat) := let g := slotA vc (slotNum (vA o)); chainGroups 256 (sgInner g) (sgOuter g)

/-- Whether a gather or scatter writes a byte that a later group of it reads, or its table meets its other streams: a program error whose bytes the cycle of each access gives (06 R142). -/
def gathOverlap (vc : Vcore) (o : Nat) : Bool :=
  let t := slotA vc (slotNum (if vOpc o = 0x28 then vB o else vD o))
  let span := (slotOff t 0 0, slotOff t 0 (sgInner t - 1) + fmtBytes ((fmtOf (sgFmt t)).getD .fp32))
  let inner := sgInner (slotA vc (slotNum (vA o)))
  let gs := gathGroups vc o
  chainOverlap vc [o] inner gs [] || gs.any (fun x =>
    (if vOpc o = 0x28 then writeSpans vc [o] inner x else readSpans vc [o] x).any (fun e => decide (e.1 < span.2) && decide (span.1 < e.2)))

/-- Runs the groups of such an operation, each on what the groups up to `lag` before it had left: `f` takes the state that is read, the state that is written, and the elements. -/
def lagGroups (s : State) (lag : Nat) (groups : List (List (Nat × Nat))) (f : State → State → List (Nat × Nat) → State × Option Prob) : State × Option Prob :=
  let r := groups.foldl (fun (t : List State × Option Prob) x =>
    if t.2.isSome then t else let y := f (t.1.getD lag s) (t.1.headD s) x; (y.1 :: t.1, y.2)) ([s], none)
  (r.1.headD s, r.2)

/-- The elements of each group. -/
def groupCells (vc : Vcore) (o : Nat) : List (List (Nat × Nat)) := (gathGroups vc o).map (fun x => (List.range x.2.2).map (fun i => (x.1, x.2.1 + i)))

/-- What a gather produces from its active elements. -/
def gathAcc (s : State) (c : Ctx) (vc : Vcore) (v o : Nat) (l : List (Nat × Nat × Bool × Nat)) : VAcc :=
  let pc := pcoreOf c v
  let tn := slotNum (vB o)
  l.foldl (fun (a : VAcc) e =>
    if a.prob.isSome then a
    else if !e.2.2.1 then (if bits o 13 12 = 2 then (vPut pc vc o e.1 e.2.1 0 false a []).1 else a)
    else
      let (x, po) := vRead s pc vc [] o 0 e.2.2.2 (.slot tn)
      match vConvert c vc o e.1 e.2.1 x with
      | none => { a with prob := some (vProb vc v 0x11 (slotPos vc (slotNum (vD o)) e.1 e.2.1 % 2 ^ 32) (slotPos vc (slotNum (vD o)) e.1 e.2.1 / 2 ^ 32 % 2 ^ 32) (slotTid vc (slotNum (vD o)))) }
      | some (code, fl) => (vPut pc vc o e.1 e.2.1 code po (vFlag a (bits o 11 9) (if po then 64 else fl ||| (if x = .nan then 32 else 0))) []).1) {}

/-- Writes what a gather produced, with its flags. -/
def vCommit (s : State) (k v pc : Nat) (vc : Vcore) (a : VAcc) : State := vFlagsInto (vWrite s pc vc a) k v pc a.flags

/-- VGATH: T[idx] into D, up to the first element at fault (06 R152). -/
def doVgath (s : State) (k : Nat) (c : Ctx) (vc : Vcore) (v o : Nat) : State :=
  match gathProb vc v o with
  | some p => fault1 s k p
  | none =>
    if gathOverlap vc o then
      let r := lagGroups { s with draws := s.draws + 1 } (Config.groupLag s.draws) (groupCells vc o) (fun src now x =>
        let e := gathElemsOf src c vc v o (slotNum (vB o)) x
        let a := gathAcc src c vc v o e.1
        (vCommit now k v (pcoreOf c v) vc a, a.prob.or e.2))
      faultIf r.1 k r.2
    else
      let (l, p) := gathElems s c vc v o (slotNum (vB o))
      let a := gathAcc s c vc v o l
      faultIf (vCommit s k v (pcoreOf c v) vc a) k (a.prob.or p)

/-- One scatter update: T[idx] := convert(T[idx] + value), one rounding to nearest even (06 R152). -/
def scatOne (s : State) (k : Nat) (pc v : Nat) (vc : Vcore) (o : Nat) (src : State) (e : Nat × Nat × Bool × Nat) : State :=
  if !e.2.2.1 then s
  else
    let tn := slotNum (vD o)
    let (t, pt) := vRead s pc vc [] o 0 e.2.2.2 (.slot tn)
    let (x, px) := vRead src pc vc [] o e.1 e.2.1 (vB o)
    let sum := fadd t x
    let f := vDstFmt vc o
    let (code, fl) := convertF f .rne (bit o 8) sum
    let po := pt || px
    let nan := t = .nan || x = .nan
    let flags := if po then 64 else cfBits fl ||| (if nan then 32 else 0) ||| (if sum = .nan && !nan then 8 else 0)
    let s := devSeg s (spBase pc + slotOff (slotA vc tn) 0 e.2.2.2, (leBytes (fmtBytes f) code).map (fun b => (b, po)))
    vFlagsInto s k v pc [(bits o 11 9, flags)]

/-- A scatter with its updates in a given order, up to the first element at fault. -/
def doScat (s : State) (k : Nat) (c : Ctx) (vc : Vcore) (v o : Nat) (order : List (Nat × Nat × Bool × Nat) → List (Nat × Nat × Bool × Nat)) : State :=
  match gathProb vc v o with
  | some p => fault1 s k p
  | none =>
    if gathOverlap vc o then
      let r := lagGroups { s with draws := s.draws + 1 } (Config.groupLag s.draws) (groupCells vc o) (fun src now x =>
        let e := gathElemsOf src c vc v o (slotNum (vD o)) x
        ((order e.1).foldl (fun t y => scatOne t k (pcoreOf c v) v vc o src y) now, e.2))
      faultIf r.1 k r.2
    else
    let (l, p) := gathElems s c vc v o (slotNum (vD o))
    faultIf ((order l).foldl (fun t e => scatOne t k (pcoreOf c v) v vc o s e) s) k p

/-- Inserts by key, keeping equal keys in order. -/
def insKey {α : Type} (key : Nat) (a : α) : List (Nat × α) → List (Nat × α)
  | [] => [(key, a)]
  | e :: t => if e.1 ≤ key then e :: insKey key a t else (key, a) :: e :: t

/-- The order in which updates arrive: by an arrival key that nothing constrains, for the draw `n` (06 R148). -/
def arrivalOrder {α : Type} (n : Nat) (l : List α) : List α :=
  (((List.range l.length).zip l).foldl (fun t x => insKey (Config.arrival n x.1) x.2 t) []).map (·.2)

/-- The faults that a context has raised in this cycle. -/
def probsOf (s : State) (k : Nat) : List Prob := match ctxOf s k with | some c => c.probs | none => []

/-- SCATADD.FAST: VAR class 1, updates in arrival order, and after an update its use counted with the digest of the whole table row, which consumes poison (06 R148, 02 R48, R49, 12 R289). -/
def doScatFast (s : State) (k : Nat) (c : Ctx) (vc : Vcore) (v o : Nat) : State :=
  if c.prog.canon && !bit c.prog.varGrant 0 then fault1 s k (vProb vc v 8 1)
  else
    let n := s.draws
    let s' := doScat { s with draws := n + 1 } k c vc v o (arrivalOrder n)
    if probsOf s' k ≠ probsOf s k then s' else
    let g := slotA vc (slotNum (vD o))
    let base := spBase (pcoreOf c v) + sgBase g
    let w := fmtBytes (vDstFmt vc o)
    match (List.range (sgInner g)).find? (fun i => devPoison s' (base + i * w) w) with
    | some i =>
      let a := vspBase v + sgBase g + i * w
      fault1 s' k (vProb vc v 0x1C (a % 2 ^ 32) (a / 2 ^ 32))
    | none =>
      let layer := match tensorOf c (slotTid vc (slotNum (vD o))) with | some t => t.layer | none => 0xFFFFFFFF
      recVar s' k 1 1 v layer c.frame (crc64 (devRead s' base (sgInner g * w)))

/-- The word of a row's operation: the OPC field set to the row's code, the rest as given. -/
def withOpc (op : BitVec 128) (c : Nat) : BitVec 128 := BitVec.ofNat 128 (setBits op.toNat 5 0 c)

/-- VSD.A: 06 R140. -/
def execVsdA (p : Fin 8) (v : Fin 96) (op : BitVec 128) (s : State) : Res :=
  .next (onEngine s p v 1 (withOpc op 1).toNat (fun k c vc => doAlone s k c vc v (withOpc op 1) (fun s => doVsdA s k v (withOpc op 1))))
/-- VSD.B: 06 R140. -/
def execVsdB (p : Fin 8) (v : Fin 96) (op : BitVec 128) (s : State) : Res :=
  .next (onEngine s p v 1 (withOpc op 2).toNat (fun k c vc => doAlone s k c vc v (withOpc op 2) (fun s => doVsdB s k v (withOpc op 2))))
/-- VSTAT: 06 R153. -/
def execVstat (p : Fin 8) (v : Fin 96) (op : BitVec 128) (s : State) : Res :=
  .next (onEngine s p v 1 (withOpc op 3).toNat (fun k c vc => doAlone s k c vc v (withOpc op 3) (fun s => doVstat s k c vc v (withOpc op 3))))
/-- VGATH: 06 R152. -/
def execVgath (p : Fin 8) (v : Fin 96) (op : BitVec 128) (s : State) : Res :=
  .next (onEngine s p v 1 (withOpc op 40).toNat (fun k c vc => doAlone s k c vc v (withOpc op 40) (fun s => doVgath s k c vc v (withOpc op 40).toNat)))
/-- SCATADD: 06 R152, updates in ascending source order. -/
def execScatadd (p : Fin 8) (v : Fin 96) (op : BitVec 128) (s : State) : Res :=
  .next (onEngine s p v 1 (withOpc op 41).toNat (fun k c vc => doAlone s k c vc v (withOpc op 41) (fun s => doScat s k c vc v (withOpc op 41).toNat id)))
/-- SCATADD.FAST: 06 R152, R148. -/
def execScataddFast (p : Fin 8) (v : Fin 96) (op : BitVec 128) (s : State) : Res :=
  .next (onEngine s p v 1 (withOpc op 42).toNat (fun k c vc => doAlone s k c vc v (withOpc op 42) (fun s => doScatFast s k c vc v (withOpc op 42).toNat)))

/-- The common path of the chainable rows. -/
def chainRow (p : Fin 8) (v : Fin 96) (op : BitVec 128) (c : Nat) (s : State) : Res :=
  .next (onEngine s p v 1 (withOpc op c).toNat (fun k x vc => doChainOp s k x vc v (withOpc op c)))

/-- VADD: 06 R150. -/
def execVadd (p : Fin 8) (v : Fin 96) (op : BitVec 128) (s : State) : Res := chainRow p v op 0x08 s
/-- VSUB: 06 R150. -/
def execVsub (p : Fin 8) (v : Fin 96) (op : BitVec 128) (s : State) : Res := chainRow p v op 0x09 s
/-- VMUL: 06 R150. -/
def execVmul (p : Fin 8) (v : Fin 96) (op : BitVec 128) (s : State) : Res := chainRow p v op 0x0A s
/-- VFMA: 06 R150. -/
def execVfma (p : Fin 8) (v : Fin 96) (op : BitVec 128) (s : State) : Res := chainRow p v op 0x0B s
/-- VMAX: 06 R150. -/
def execVmax (p : Fin 8) (v : Fin 96) (op : BitVec 128) (s : State) : Res := chainRow p v op 0x0C s
/-- VMIN: 06 R150. -/
def execVmin (p : Fin 8) (v : Fin 96) (op : BitVec 128) (s : State) : Res := chainRow p v op 0x0D s
/-- VABS: 06 R150. -/
def execVabs (p : Fin 8) (v : Fin 96) (op : BitVec 128) (s : State) : Res := chainRow p v op 0x0E s
/-- VNEG: 06 R150. -/
def execVneg (p : Fin 8) (v : Fin 96) (op : BitVec 128) (s : State) : Res := chainRow p v op 0x0F s
/-- VCVT: 06 R150. -/
def execVcvt (p : Fin 8) (v : Fin 96) (op : BitVec 128) (s : State) : Res := chainRow p v op 0x10 s
/-- VCMP: 06 R150. -/
def execVcmp (p : Fin 8) (v : Fin 96) (op : BitVec 128) (s : State) : Res := chainRow p v op 0x11 s
/-- VEXP2: 06 R155. -/
def execVexp2 (p : Fin 8) (v : Fin 96) (op : BitVec 128) (s : State) : Res := chainRow p v op 0x18 s
/-- VLOG2: 06 R156. -/
def execVlog2 (p : Fin 8) (v : Fin 96) (op : BitVec 128) (s : State) : Res := chainRow p v op 0x19 s
/-- VRCP: 06 R157. -/
def execVrcp (p : Fin 8) (v : Fin 96) (op : BitVec 128) (s : State) : Res := chainRow p v op 0x1A s
/-- VRSQ: 06 R157. -/
def execVrsq (p : Fin 8) (v : Fin 96) (op : BitVec 128) (s : State) : Res := chainRow p v op 0x1B s
/-- VTANH: 06 R158. -/
def execVtanh (p : Fin 8) (v : Fin 96) (op : BitVec 128) (s : State) : Res := chainRow p v op 0x1C s
/-- VERF: 06 R159. -/
def execVerf (p : Fin 8) (v : Fin 96) (op : BitVec 128) (s : State) : Res := chainRow p v op 0x1D s
/-- VRSUM: 06 R151. -/
def execVrsum (p : Fin 8) (v : Fin 96) (op : BitVec 128) (s : State) : Res := chainRow p v op 0x20 s
/-- VRMAX: 06 R151. -/
def execVrmax (p : Fin 8) (v : Fin 96) (op : BitVec 128) (s : State) : Res := chainRow p v op 0x21 s
/-- VRMIN: 06 R151. -/
def execVrmin (p : Fin 8) (v : Fin 96) (op : BitVec 128) (s : State) : Res := chainRow p v op 0x22 s
/-- VMASK: 06 R162, R163. -/
def execVmask (p : Fin 8) (v : Fin 96) (op : BitVec 128) (s : State) : Res := chainRow p v op 0x30 s

end Sys2Proof.Machine
end

