-- ==== Sys2Proof/Machine/Wayst.lean ====
section
/-! DEFINITION. The waystation: stash, read back, check, spill (08 R187 to R195), and the segment rule (08 R183). -/

namespace Sys2Proof.Machine

/-- The segment of a frame: 0 forward, 1 backward, 2 tail (08 R182). -/
def segmentOf (c : Ctx) : Nat := if c.frame < c.prog.fb then 0 else if c.frame < c.prog.ft then 1 else 2

/-- Runs `f` where the segment is allowed; otherwise the pass-order fault (08 R183). -/
def inSegment (s : State) (k : Nat) (c : Ctx) (vc : Vcore) (v unit q : Nat) (ok : List Nat) (f : State) : State :=
  if ok.contains (segmentOf c) then f else fault1 s k (engProb vc v unit q 0xB (segmentOf c))

def wayOf (c : Ctx) (v : Nat) : WayDecl := c.prog.plan.ways.getD v ⟨0, 0, 0⟩

/-- The vcores below v that share its cluster. -/
def clusterMates (c : Ctx) (v : Nat) : List Nat :=
  (List.range v).filter (fun u => clusterOf (pcoreOf c u) = clusterOf (pcoreOf c v))

/-- Address of resident slot r of vcore v: the stash areas of a cluster's vcores follow one another in vcore order (08 R187; DESIGN CHOICE, assumption 42). -/
def slotAddr (c : Ctx) (v r : Nat) : Nat :=
  let before := (clusterMates c v).foldl (fun a u => a + (wayOf c u).nRes) 0
  wayBase (clusterOf (pcoreOf c v)) + (before + r) * 16384

/-- Address of spill slot d of vcore v, behind the code area of the context's region (08 R187; DESIGN CHOICE, assumption 42). -/
def spillAddr (c : Ctx) (v d : Nat) : Nat :=
  let before := (List.range v).foldl (fun a u => a + (wayOf c u).nSpill * 16384) 0
  c.hbmBase + c.codeOff + roundUp c.prog.codeLen 64 + before + d * 16384

/-- The lowest bit of the first offending field of a waystation operation (08 R188). -/
def wsBad (o : Nat) : Option Nat :=
  let put := bits o 5 0 = 0x31
  let get := bits o 5 0 = 0x32
  if !put && bit o 6 then some 6
  else if put && bit o 7 then some 7
  else if bits o 63 56 ≠ 0 then some 56
  else if get && bits o 103 96 ≠ 0 then some 96
  else if bits o 127 104 ≠ 0 then some 104
  else none

/-- Bytes of block b of an operation that are read from the scratchpad (08 R188). -/
def wsLen (o b : Nat) : Nat := if bits o 5 0 ≠ 0x32 && b = bits o 31 24 then (bits o 103 96 + 1) * 64 else 16384
def wsOff (o b : Nat) : Nat := bits o 23 8 * 64 + b * 16384

/-- The first offset at which a waystation operation leaves the scratchpad. -/
def wsReach (o : Nat) : Option Nat :=
  (List.range (bits o 31 24 + 1)).findSome? (fun b => if wsOff o b + wsLen o b > spLimit then some (wsOff o b) else none)

/-- The block that WSPUT or WSCHECK sees: bytes beyond LASTV are zero (08 R188). -/
def wsBlock (s : State) (pc o b : Nat) : Bytes := padTo 16384 (devRead s (spBase pc + wsOff o b) (wsLen o b))
def wsBlockPoison (s : State) (pc o b : Nat) : Bool := devPoison s (spBase pc + wsOff o b) (wsLen o b)

/-- Changes a vcore's waystation area. -/
def modWay (s : State) (k v : Nat) (f : WayArea → WayArea) : State := modVc s k v (fun vc => { vc with ws := f vc.ws })

/-- Writes a block with the poison of its source units. -/
def putBlock (s : State) (pc o b dst : Nat) : State :=
  let n := wsLen o b
  let tags := (List.range n).map (fun i => s.poison.contains ((spBase pc + wsOff o b + i) / 64))
  devSeg s (dst, (wsBlock s pc o b).zip (tags ++ List.replicate (16384 - n) false))

/-- A spill transfer of operation `o`, or a read of a spill slot: it joins the queue, moves 16 KiB of HBM, and adds their whole cover to the operation's (08 R195, 12 R300). -/
def spill (s : State) (k : Nat) (c : Ctx) (v o d : Nat) (rd_ : Bool) : State :=
  let a := spillAddr c v d
  let n := transferCover s (k / 16) 8 (if rd_ then 0 else 1) 16384 (decide (hbmHalf ≤ a) != decide (dieOf (pcoreOf c v) = 1))
  modWay (hbmUse s (k / 16) a 16384) k v (fun w => { w with spillQ := w.spillQ ++ [(d, rd_)], spilt := tput w.spilt o (tgetD w.spilt o 0 + n) })

def orTag (w : WayArea) (i f : Nat) : WayArea := { w with tags := tmod w.tags i (fun t => { t with flags := t.flags ||| f }) }

/-- WSPUT of one block, or the problem it meets (08 R189, R192). -/
def wsPutOne (s : State) (k : Nat) (c : Ctx) (v o b : Nat) : Except Prob State :=
  match (ctxOf s k).bind (fun x => vcoreOf x v) with
  | none => .ok s
  | some vc =>
    let w := vc.ws
    let d := wayOf c v
    let i := bits o 55 32 + b
    let layer := bits o 95 64
    let pc := pcoreOf c v
    let spills := rMemWstat (clusterOf pc)
    if i ≠ w.nextSidx then .error (engProb vc v 7 3 0x16 layer i)
    else if i ≥ d.nTag then .error (engProb vc v 7 3 0x15 layer i)
    else
      let po := if wsBlockPoison s pc o b then 8 else 0
      let crc := crc32c (wsBlock s pc o b)
      if bit o 6 then
        .ok (modWay s k v (fun w => { w with nextSidx := i + 1, tags := tput w.tags i ⟨crc, layer, 1 ||| po, 0xFFFFFFFF⟩ }))
      else
        let e := w.nextDord
        let tag : WayTag := ⟨crc, layer, po, e⟩
        if d.nRes = 0 then
          if e ≥ d.nSpill then .error (engProb vc v 7 3 0x15 layer i)
          else
            let s := putBlock s pc o b (spillAddr c v e)
            let s := setFld s spills 63 32 (fld s spills 63 32 + 1)
            .ok (modWay (spill s k c v o e false) k v (fun w =>
              { w with nextSidx := i + 1, nextDord := e + 1, tags := tput w.tags i { tag with flags := tag.flags ||| 2 } }))
        else
          let r := e % d.nRes
          let own := tgetD w.owner r 0
          let j := e - d.nRes
          let full := d.nRes ≤ e
          if full && j ≥ d.nSpill then
            .error (engProb vc v 7 3 0x15 ((tget w.tags own).map (·.layer) |>.getD layer) own)
          else
            let s := if full then
                let s := devCopy s (slotAddr c v r) (spillAddr c v j) 16384
                let s := setFld s spills 63 32 (fld s spills 63 32 + 1)
                modWay (spill s k c v o j false) k v (fun w => orTag w own 2)
              else s
            let s := putBlock s pc o b (slotAddr c v r)
            .ok (modWay s k v (fun w => { w with nextSidx := i + 1, nextDord := e + 1, owner := tput w.owner r i, tags := tput w.tags i tag }))

/-- The address a stored block is read from, and whether it is a spill slot (08 R189). -/
def blockAddr (c : Ctx) (v : Nat) (t : WayTag) : Nat × Bool :=
  if bit t.flags 1 then (spillAddr c v t.dord, true)
  else (slotAddr c v (t.dord % max 1 (wayOf c v).nRes), false)

/-- The tag of a block that may be read: present, not freed, of this layer, and for WSGET not a recompute tag (08 R190, R191). -/
def readableTag (w : WayArea) (i layer : Nat) (get : Bool) : Option WayTag :=
  match tget w.tags i with
  | some t => if bit t.flags 2 || t.layer ≠ layer || (get && bit t.flags 0) then none else some t
  | none => none

/-- WSGET of one block (08 R190, R192). -/
def wsGetOne (s : State) (k : Nat) (c : Ctx) (v o b : Nat) : Except Prob State :=
  match (ctxOf s k).bind (fun x => vcoreOf x v) with
  | none => .ok s
  | some vc =>
    let i := bits o 55 32 + b
    let layer := bits o 95 64
    match readableTag vc.ws i layer true with
    | none => .error (engProb vc v 7 3 0x16 layer i)
    | some t =>
      let (a, sp) := blockAddr c v t
      let po := bit t.flags 3 || devPoison s a 16384
      if !po && crc32c (devRead s a 16384) ≠ t.crc then .error (engProb vc v 7 3 0x17 layer i (b2n sp))
      else
        let s := devCopy s a (spBase (pcoreOf c v) + wsOff o b) 16384
        let s := if sp then spill s k c v o t.dord true else s
        .ok (modWay s k v (fun w => if bit o 7 then orTag w i 4 else w))

/-- WSCHECK of one block (08 R191, R192). -/
def wsCheckOne (s : State) (k : Nat) (c : Ctx) (v o b : Nat) : Except Prob State :=
  match (ctxOf s k).bind (fun x => vcoreOf x v) with
  | none => .ok s
  | some vc =>
    let i := bits o 55 32 + b
    let layer := bits o 95 64
    let pc := pcoreOf c v
    match readableTag vc.ws i layer false with
    | none => .error (engProb vc v 7 3 0x16 layer i)
    | some t =>
      let po := bit t.flags 3 || wsBlockPoison s pc o b
      if !po && crc32c (wsBlock s pc o b) ≠ t.crc then .error (engProb vc v 7 3 0x18 layer i)
      else .ok (modWay s k v (fun w => orTag w i ((if po then 0 else 16) + (if bit o 7 then 4 else 0))))

/-- Blocks in ascending stash index, up to the first problem; the blocks before it stand (08 R188, R189, 09 R239). -/
def wsRun (f : State → Nat → Except Prob State) : List Nat → State → State × Option Prob
  | [], s => (s, none)
  | b :: r, s => match f s b with
    | .ok s' => wsRun f r s'
    | .error p => (s, some p)

/-- A waystation operation: field checks, segment, addresses, then its blocks. -/
def doWs (s : State) (k : Nat) (c : Ctx) (vc : Vcore) (v o : Nat) (f : State → Nat → Except Prob State) : State :=
  match wsBad o with
  | some b => fault1 s k (engProb vc v 3 3 5 (128 + b))
  | none =>
    inSegment s k c vc v 4 3 (if bits o 5 0 = 0x31 then [0] else [1])
      (match wsReach o with
       | some off => fault1 s k (spProb vc v 7 3 off 64)
       | none =>
         let (s, p) := wsRun f (List.range (bits o 31 24 + 1)) (modWay s k v (fun w => { w with spilt := tdel w.spilt o }))
         match p with | some p => fault1 s k p | none => s)

/-- The word of an SDM or waystation row: the OPC field set to the row's code. -/
def sdmWord (op : BitVec 128) (c : Nat) : Nat := setBits op.toNat 5 0 c

/-- WSPUT: 08 R189. -/
def execWsput (p : Fin 8) (v : Fin 96) (op : BitVec 128) (s : State) : Res :=
  .next (onEngine s p v 3 (sdmWord op 0x31) (fun k c vc => doWs s k c vc v (sdmWord op 0x31) (fun s b => wsPutOne s k c v (sdmWord op 0x31) b)))
/-- WSGET: 08 R190. -/
def execWsget (p : Fin 8) (v : Fin 96) (op : BitVec 128) (s : State) : Res :=
  .next (onEngine s p v 3 (sdmWord op 0x32) (fun k c vc => doWs s k c vc v (sdmWord op 0x32) (fun s b => wsGetOne s k c v (sdmWord op 0x32) b)))
/-- WSCHECK: 08 R191. -/
def execWscheck (p : Fin 8) (v : Fin 96) (op : BitVec 128) (s : State) : Res :=
  .next (onEngine s p v 3 (sdmWord op 0x33) (fun k c vc => doWs s k c vc v (sdmWord op 0x33) (fun s b => wsCheckOne s k c v (sdmWord op 0x33) b)))
/-- WS_SPILL_DONE: the oldest spill transfer of the vcore completes, and the block stream goes on (08 R195). -/
def execWsSpillDone (p : Fin 8) (v : Fin 96) (s : State) : Res :=
  .next (onVcore s p v (fun k _ _ => modWay s k v (fun w => { w with spillQ := w.spillQ.drop 1 })))

/-- The step boundary of the waystation: every tag, block, owner and counter of the context is discarded; unfreed tags are counted into UNREAD, SPILLS is cleared (08 R193). -/
def wsStepEnd (s : State) (k : Nat) : State :=
  match ctxOf s k with
  | none => s
  | some c =>
    let clusters := (c.vtab.map clusterOf).foldl sput []
    let s := clusters.foldl (fun s cl =>
      let unread := c.vc.foldl (fun a e => if clusterOf (pcoreOf c e.1) = cl
        then a + (e.2.ws.tags.filter (fun t => !bit t.2.flags 2)).length else a) 0
      setFld (setFld s (rMemWserr cl) 31 16 (min unread 0xFFFF)) (rMemWstat cl) 63 32 0) s
    modCtx s k (fun c => { c with vc := tmap c.vc (fun _ vc => { vc with ws := {} }) })

end Sys2Proof.Machine
end

