-- ==== Sys2Proof/Machine/Sdm.lean ====
section
/-! DEFINITION. The SDM commands that move data: COPY, SEND, CHIME, CDIG, GATHACC.UNORD, CEXP, RFILL, SNAP (13 R325 to R329, 11 R265, 07 R177, 08 R205 to R207, 18 R463). -/

namespace Sys2Proof.Machine

def sProb (vc : Vcore) (v cause : Nat) (d0 d1 d2 : Nat := 0) : Prob := engProb vc v 3 3 cause d0 d1 d2
/-- The unmapped-address problem of an access of n bytes whose first bad byte is at a. -/
def unmapped (vc : Vcore) (v a n : Nat) : Prob := sProb vc v 6 (a % 2 ^ 32) (a / 2 ^ 32) n
/-- The poison-consumed problem of a read at a (12 R289). -/
def consumed (vc : Vcore) (v a : Nat) : Prob := sProb vc v 0x1C (a % 2 ^ 32) (a / 2 ^ 32)
/-- First field of a list of (bad, lowest bit) that is bad. -/
def firstBad (l : List (Bool × Nat)) : Option Nat := (l.find? (·.1)).map (·.2)
/-- PSNs of the plan that belong to the CTE (14 R349). -/
def ctePsn (c : Ctx) (psn : Nat) : Bool := c.prog.plan.devices > 1 && decide (psn + 192 ≥ c.prog.plan.streams) && decide (psn < c.prog.plan.streams)
/-- Runs an SDM operation behind its field checks (13 R325). -/
def sdmChecked (s : State) (k : Nat) (vc : Vcore) (v : Nat) (bad : Option Nat) (f : State) : State :=
  match bad with | some b => fault1 s k (sProb vc v 5 (128 + b)) | none => f

/-- Of the problems that the checks of an operation find, the first of each cause: the SDM raises every cause that applies (13 R326). -/
def oneEach (l : List Prob) : List Prob := l.foldl (fun a x => if a.any (fun y => y.cause = x.cause) then a else a ++ [x]) []

/-! ### COPY (13 R327) -/

def copyBad (o : Nat) : Option Nat := firstBad [(decide (bits o 127 113 ≠ 0), 113)]

/-- The digest channel that a COPY feeds. CH 5 to 7 name none of the four, and 13 R325 does not refuse them (DEDUCED, assumption 49). -/
def copyCh (o : Nat) : Option Nat := if 1 ≤ bits o 8 6 && bits o 8 6 ≤ 4 then some (bits o 8 6 - 1) else none

/-- Copies n bytes of partition p with their poison; where destination and source overlap, the bytes written are open (13 R327, 01 R13). -/
def moveBytes (s : State) (p src dst n : Nat) : State :=
  let s := hbmMove s p src dst n
  if src < dst + n && dst < src + n && src ≠ dst then
    let t := devCopy s src dst n
    devWrite { t with draws := s.draws + 1 } dst ((List.range n).map (fun i => byte (Config.overlapByte s.draws i)))
  else devCopy s src dst n

/-- Feeds written bytes to a digest channel (13 R329). -/
def feedDig (s : State) (k v ch : Nat) (b : Bytes) : State :=
  modVc s k v (fun vc => let d := tgetD vc.dig ch {}; { vc with dig := tput vc.dig ch { d with val := crc64From d.val b, fed := d.fed + b.length } })

def doCopy (s : State) (k : Nat) (c : Ctx) (vc : Vcore) (v o : Nat) : State :=
  sdmChecked s k vc v (copyBad o)
    (let n := 64 * (bits o 28 9 + 1)
     let src := 64 * bits o 70 29
     match mapRange s k c src n, mapRange s k c (64 * bits o 112 71) n with
     | .error a, _ => fault1 s k (unmapped vc v a n)
     | .ok _, .error a => fault1 s k (unmapped vc v a n)
     | .ok a, .ok d =>
       match (List.range (n / 64)).find? (fun i => (copyCh o).isSome && devPoison s (a + 64 * i) 64) with
       | some i => fault1 s k (consumed vc v (src + 64 * i))
       | none =>
         let s := moveBytes s (k / 16) a d n
         match copyCh o with | none => s | some ch => feedDig s k v ch (devRead s d n))

/-- COPY: 13 R326, R327, R329. -/
def execCopy (p : Fin 8) (v : Fin 96) (op : BitVec 128) (s : State) : Res :=
  .next (onEngine s p v 3 (sdmWord op 0x01) (fun k c vc => doCopy s k c vc v (sdmWord op 0x01)))

/-! ### SEND and CHIME (13 R326, R327) -/

def sendBad (c : Ctx) (o : Nat) : Option Nat := firstBad [(bit o 7, 7), (ctePsn c (bits o 21 8), 8), (decide (bits o 127 126 ≠ 0), 126)]

/-- The frames of a SEND: MAXPAY bytes each, in ascending address; the last carries LAST and ACKREQ, and with XCHK the transfer check. -/
def sendFrames (s : State) (mp src daddr n : Nat) (xchk : Bool) : List TxFrame :=
  let m := (n + mp - 1) / mp
  (List.range m).map (fun j =>
    let last := j + 1 = m
    { seq := 0, type := 0, flags := if last then 0x90 + 0x40 * b2n xchk else 0, daddr := daddr + j * mp, src := src + j * mp,
      len := min mp (n - j * mp), xck := if last && xchk then some (crc64 (devRead s src n)) else none })

/-- Whether a stream may start a SEND or CHIME now: its credit admits the first frame (13 R327). -/
def mayStart (st : Stream) : Bool := decide ((st.tx.filter (·.sent)).length < sendLimit st) && st.tx.all (·.sent)

def doSend (s : State) (k : Nat) (c : Ctx) (vc : Vcore) (v o : Nat) : State :=
  sdmChecked s k vc v (sendBad c o)
    (let n := 64 * (bits o 41 22 + 1)
     let psn := bits o 21 8
     let st := match psnStream s (k / 16) (k % 16) psn with | some (x, st) => if st.st = .opened then some (x, st) else none | none => none
     match mapRange s k c (64 * bits o 83 42) n, st with
     | .error a, none => faultCtx s k [unmapped vc v a n, sProb vc v 0x1A psn]
     | .error a, some _ => fault1 s k (unmapped vc v a n)
     | .ok _, none => fault1 s k (sProb vc v 0x1A psn)
     | .ok a, some (x, st) =>
       if !mayStart st then s
       else
         let fs := sendFrames s (maxPay s (dieOfSidx x)) a (64 * bits o 125 84) n (bit o 6)
         let s := modVc s k v (fun vc => { vc with sends := vc.sends ++ [(⟨runCia vc, x, seqAdd st.sndNxt (fs.length - 1), false⟩ : SendOp)] })
         queueFrames s x fs)

/-- SEND: 13 R326, R327, R334, R335. -/
def execSend (p : Fin 8) (v : Fin 96) (op : BitVec 128) (s : State) : Res :=
  .next (onEngine s p v 3 (sdmWord op 0x02) (fun k c vc => doSend s k c vc v (sdmWord op 0x02)))

def chimeBad (c : Ctx) (o : Nat) : Option Nat :=
  firstBad [(decide (bits o 7 6 ≠ 0), 6), (ctePsn c (bits o 21 8), 8), (decide (bits o 28 22 ≥ c.prog.plan.vcores), 22), (decide (bits o 34 29 > 47), 29),
    (decide (bits o 42 35 = 0), 35), (decide (bits o 127 43 ≠ 0), 43)]

def doChime (s : State) (k : Nat) (c : Ctx) (vc : Vcore) (v o : Nat) : State :=
  sdmChecked s k vc v (chimeBad c o)
    (match psnStream s (k / 16) (k % 16) (bits o 21 8) with
     | none => fault1 s k (sProb vc v 0x1A (bits o 21 8))
     | some (x, st) =>
       if st.st ≠ .opened then fault1 s k (sProb vc v 0x1A (bits o 21 8))
       else if !mayStart st then s
       else queueFrames s x [{ seq := 0, type := 1, daddr := bits o 28 22 * 2 ^ 32 + bits o 34 29 * 2 ^ 24 + bits o 42 35 * 2 ^ 16 }])

/-- CHIME: handed to its stream (13 R327). -/
def execChime (p : Fin 8) (v : Fin 96) (op : BitVec 128) (s : State) : Res :=
  .next (onEngine s p v 3 (sdmWord op 0x03) (fun k c vc => doChime s k c vc v (sdmWord op 0x03)))

/-! ### CDIG (13 R329) -/

def cdigBad (o : Nat) : Option Nat := firstBad [(decide (bits o 10 9 = 3), 9), (decide (bits o 63 27 ≠ 0), 27)]

def doCdigStart (s : State) (k : Nat) (vc : Vcore) (v o : Nat) : State :=
  sdmChecked s k vc v (cdigBad o)
    (modVc s k v (fun vc => { vc with dig := tput vc.dig (bits o 8 7) { val := 0, fed := 0, endLen := bits o 127 64 } }))

def doCdigFold (s : State) (k : Nat) (c : Ctx) (vc : Vcore) (v o : Nat) : State :=
  sdmChecked s k vc v (cdigBad o)
    (let ch := bits o 8 7
     let d := tgetD vc.dig ch {}
     let off := 64 * bits o 26 11
     let a := spBase (pcoreOf c v) + off
     let probs := (if d.fed > d.endLen then [sProb vc v 5 (128 + 7) ch] else []) ++ (if bits o 10 9 = 2 && off ≥ spLimit then [spProb vc v 3 3 off 64] else [])
     if !probs.isEmpty then faultCtx s k probs
     else if bits o 10 9 = 2 && devPoison s a 8 then fault1 s k (consumed vc v (vspBase v + off))
     else
       let x := crc64Zeros d.val (d.endLen - d.fed)
       let s := modVc s k v (fun vc => { vc with dig := tput vc.dig ch { d with val := x, fed := d.endLen } })
       match bits o 10 9 with
       | 0 => modRec s k (fun r => { r with inDig := r.inDig ^^^ x })
       | 1 => modRec s k (fun r => { r with lossDig := r.lossDig ^^^ x })
       | _ => devWrite s a (leBytes 8 (leNat (devRead s a 8) ^^^ x)))

/-- CDIG with FOLD 0: 13 R329. -/
def execCdigStart (p : Fin 8) (v : Fin 96) (op : BitVec 128) (s : State) : Res :=
  .next (onEngine s p v 3 (setBits (sdmWord op 0x04) 6 6 0) (fun k _ vc => doCdigStart s k vc v (setBits (sdmWord op 0x04) 6 6 0)))
/-- CDIG with FOLD 1: 13 R329. -/
def execCdigFold (p : Fin 8) (v : Fin 96) (op : BitVec 128) (s : State) : Res :=
  .next (onEngine s p v 3 (setBits (sdmWord op 0x04) 6 6 1) (fun k c vc => doCdigFold s k c vc v (setBits (sdmWord op 0x04) 6 6 1)))

/-! ### GATHACC.UNORD (13 R328) -/

/-- One block added element by element under RNE, poison carried by unit. -/
def addBlock (s : State) (dst src : Nat) : State :=
  (List.range 256).foldl (fun s i =>
    let a := dst + 4 * i
    let b := src + 4 * i
    let po := devPoison s a 4 || devPoison s b 4
    let x := (rne32 (fadd (f32 (leNat (devRead s a 4))) (f32 (leNat (devRead s b 4))))).1
    devSeg s (a, (leBytes 4 x).map (fun y => (y, po)))) s

/-- What faults a GATHACC.UNORD as it starts: its index array, the blocks that its sound indices name, its destination, and a poisoned index; the SDM raises every cause that applies (13 R326). -/
def gathaccProbs (s : State) (k : Nat) (c : Ctx) (vc : Vcore) (v o : Nat) : List Prob :=
  let io := 64 * bits o 21 6
  let off := 64 * bits o 53 38
  let at_ := fun i => spBase (pcoreOf c v) + io + 4 * i
  let idx := if io + 4 * (bits o 37 22 + 1) > spLimit then [] else List.range (bits o 37 22 + 1)
  let away := (idx.filter (fun i => !devPoison s (at_ i) 4)).findSome? (fun i =>
    match mapRange s k c (64 * bits o 95 54 + 1024 * leNat (devRead s (at_ i) 4)) 1024 with | .error a => some a | .ok _ => none)
  oneEach ((if idx.isEmpty then [spProb vc v 3 3 io 64] else []) ++ (away.map (fun a => unmapped vc v a 1024)).toList
    ++ (if off + 1024 > spLimit then [spProb vc v 3 3 off 64] else [])
    ++ ((idx.find? (fun i => devPoison s (at_ i) 4)).map (fun i => consumed vc v (vspBase v + io + 4 * i))).toList)

def doGathacc (s : State) (k : Nat) (c : Ctx) (vc : Vcore) (v o : Nat) : State :=
  sdmChecked s k vc v (firstBad [(decide (bits o 127 96 ≠ 0), 96)])
    (if c.prog.canon && !bit c.prog.varGrant 1 then fault1 s k (sProb vc v 8 2)
     else
       let n := bits o 37 22 + 1
       let io := 64 * bits o 21 6
       let off := 64 * bits o 53 38
       let pc := pcoreOf c v
       if !(gathaccProbs s k c vc v o).isEmpty then faultCtx s k (gathaccProbs s k c vc v o)
       else
         let d := spBase pc + off
         let srcs := (List.range n).filterMap (fun i =>
           match mapRange s k c (64 * bits o 95 54 + 1024 * leNat (devRead s (spBase pc + io + 4 * i) 4)) 1024 with | .ok a => some a | .error _ => none)
         let s' := (arrivalOrder s.draws srcs).foldl (fun t a => addBlock (hbmUse t (k / 16) a 1024) d a) { s with draws := s.draws + 1 }
         match (List.range 16).find? (fun i => devPoison s' (d + 64 * i) 64) with
         | some i => fault1 s' k (consumed vc v (vspBase v + off + 64 * i))
         | none => recVar s' k 2 3 v 0xFFFFFFFF c.frame (crc64 (devRead s' d 1024)))

/-- GATHACC.UNORD: 13 R328, 02 R48, R49. -/
def execGathaccUnord (p : Fin 8) (v : Fin 96) (op : BitVec 128) (s : State) : Res :=
  .next (onEngine s p v 3 (sdmWord op 0x05) (fun k c vc => doGathacc s k c vc v (sdmWord op 0x05)))

/-! ### CEXP (11 R265) -/

def cexpBad (o : Nat) : Option Nat :=
  firstBad [(decide (bits o 11 6 > 47), 6), (decide (bits o 19 12 = 0), 12), (decide (bits o 31 20 ≠ 0), 20),
    (decide (bits o 63 32 = 0 || bits o 63 32 > 2 ^ 26), 32), (decide (bits o 127 64 ≠ 0), 64)]

def doCexp (s : State) (k : Nat) (vc : Vcore) (v o : Nat) : State :=
  sdmChecked s k vc v (cexpBad o)
    (modVc s k v (fun vc => { vc with cexps := vc.cexps ++ [⟨bits o 11 6, bits o 19 12, s.run + bits o 63 32, runCia vc⟩] }))

/-- CEXP: starts an expectation due DUE run cycles later (11 R265). -/
def execCexp (p : Fin 8) (v : Fin 96) (op : BitVec 128) (s : State) : Res :=
  .next (onEngine s p v 3 (sdmWord op 0x35) (fun k _ vc => doCexp s k vc v (sdmWord op 0x35)))

/-- The first CEXP that takes its count now: due, with its landings there, and behind no other CEXP for its chime (11 R265). -/
def cexpReady (s : State) (vc : Vcore) : Option Nat :=
  (List.range vc.cexps.length).find? (fun i => match vc.cexps[i]? with
    | some e => decide (e.due ≤ s.run) && decide (e.count ≤ tgetD vc.land e.chime 0) && (vc.cexps.take i).all (fun x => x.chime ≠ e.chime)
    | none => false)

/-- CEXP_DUE: at its due cycle, with the landing count there, a CEXP moves COUNT from the landing count to the chime (11 R265). -/
def execCexpDue (p : Fin 8) (v : Fin 96) (s : State) : Res :=
  .next (onGate s p v (fun k _ vc =>
    match (cexpReady s vc).bind (fun i => vc.cexps[i]?.map (fun e => (i, e))) with
    | none => s
    | some (i, e) =>
        let s := modVc s k v (fun x => { x with cexps := x.cexps.eraseIdx i, land := tput x.land e.chime (tgetD x.land e.chime 0 - e.count) })
        modCtx s k (fun c => { c with counted := c.counted ++ [{ vcore := v.val, chime := e.chime, count := e.count, src := v.val }] })))

/-! ### RFILL (07 R177) -/

def rfillBad (o : Nat) : Option Nat :=
  firstBad [(decide (bits o 14 12 > 4), 12), (bit o 15, 15), (decide (bits o 39 24 < 0x100), 24),
    (decide (bits o 14 12 = 3 && bits o 71 40 ≥ 256), 40), (decide (bits o 127 72 ≠ 0), 72)]

/-- Whether a slot's kind is wrong for a mode, or it names no tensor (07 R177). -/
def rfillSlotBad (vc : Vcore) (o : Nat) : Bool :=
  let g := slotA vc (bits o 11 6)
  (match bits o 14 12 with
   | 0 => sgBits g || sgFmt g ≠ 5
   | 1 | 2 => sgBits g || sgFmt g ≠ 0
   | _ => !sgBits g) || slotTid vc (bits o 11 6) = 0

/-- The value that a mode writes for a draw. -/
def rfillVal (mode thr x : Nat) : Nat :=
  match mode with
  | 0 | 1 => x
  | 2 => (rne32 (.fin false (x / 256) (-24))).1
  | 3 => b2n (x < thr % 256)
  | _ => b2n (x < thr)

/-- RFILL writes element (r, i) where 06 R141 puts it, ROWSCALAR or not, since that describes reads only (06 R149). The SDM raises every cause that applies (13 R326). -/
def doRfill (s : State) (k : Nat) (c : Ctx) (vc : Vcore) (v o : Nat) : State :=
  sdmChecked s k vc v (rfillBad o)
    (let n := bits o 11 6
     let g := setBits (slotA vc n) 86 86 0
     let mode := bits o 14 12
     let pc := pcoreOf c v
     let w := if mode = 0 || mode = 3 then 0 else 1
     let cells := (List.range (sgOuter g)).flatMap (fun r => (List.range (sgInner g)).map (fun i => (r, i)))
     let draw := fun r i => (tensorOf c (slotTid vc n)).bind (fun t => drawAt c.seed c.gen t (bits o 39 24) w (bits o 23 16) (slotPos vc n r i))
     let far := if (tensorOf c (slotTid vc n)).isNone then none else cells.find? (fun e => (draw e.1 e.2).isNone)
     let probs := (if rfillSlotBad vc o then [sProb vc v 5 (128 + 6)] else if (tensorOf c (slotTid vc n)).isNone then [sProb vc v 5 (128 + 6) (slotTid vc n)] else [])
       ++ (match slotReach g (sgOuter g) with | some off => [spProb vc v 3 3 off 64] | none => [])
       ++ (match far with | some e => let pos := slotPos vc n e.1 e.2; [sProb vc v 0x11 (pos % 2 ^ 32) (pos / 2 ^ 32 % 2 ^ 32) (slotTid vc n)] | none => [])
     if !probs.isEmpty then faultCtx s k probs
     else
       let val := fun r i => rfillVal mode (bits o 71 40) ((draw r i).getD 0)
       if sgBits g then
         devSegs s ((List.range (sgOuter g)).flatMap (fun r =>
           maskSeg s pc g (sgInner g) r ((List.range (sgInner g)).map (fun i => (i, val r i = 1, false)))))
       else
         devSegs s (cells.map (fun e => (spBase pc + slotOff g e.1 e.2, (leBytes (fmtBytes ((fmtOf (sgFmt g)).getD .fp32)) (val e.1 e.2)).map (fun b => (b, false))))))

/-- RFILL: 07 R169 to R172, R177. -/
def execRfill (p : Fin 8) (v : Fin 96) (op : BitVec 128) (s : State) : Res :=
  .next (onEngine s p v 3 (sdmWord op 0x30) (fun k c vc => doRfill s k c vc v (sdmWord op 0x30)))

/-! ### SNAP (08 R205 to R207) -/

def snapBase (s : State) (p : Nat) : Nat := fld s (rSnapBase p) 47 16 * 65536
def snapLen (s : State) (p : Nat) : Nat := fld s (rSnapSize p) 17 0 * 65536
def snapUsed (s : State) (p : Nat) : Nat := (part s p).snap.written.foldl (fun a e => a + e.2.1) 0

/-- Counts a SNAP that wrote nothing (08 R207). -/
def snapDrop (s : State) (p : Nat) : State := satFld s (rSnapCtrl p) 31 16 1

/-- One sealed chunk: ciphertext, INDEX, NONCE, zeros, TAG (18 R463). -/
def sealChunk (k : Seal) (index nonce : Nat) (b : Bytes) : Bytes :=
  let ix := leBytes 8 index
  let ct := padTo 4112 (gcmSeal k.key (leBytes 12 nonce) (k.setId ++ ix) (padTo 4096 b))
  ct.take 4096 ++ ix ++ leBytes 12 nonce ++ List.replicate 28 0 ++ ct.drop 4096

/-- Bytes as sealed chunks from chunk index i, each with a nonce of its own. -/
def sealChunks (k : Seal) (draw : Nat) (first : Nat) (b : Bytes) : Bytes :=
  let cs := chunksB 4096 (b.length / 4096 + 1) b
  ((List.range cs.length).zip cs).flatMap (fun e => sealChunk k (first + e.1) (Config.entropy (draw + e.1) % 2 ^ 96) e.2)

/-- The header of a snapshot record; `hdrCrc` closes it (08 R206). -/
def snapHdr (s : State) (k : Nat) (c : Ctx) (seq epoch flags len step w : Nat) (d : Bytes) : Bytes :=
  let b := padTo 128 (leBytes 4 seq ++ leBytes 2 epoch ++ leBytes 2 flags ++ leBytes 8 len ++ leBytes 8 step ++ leBytes 8 (rd s rArv) ++ padTo 48 c.prog.hash
    ++ sliceB d 0x20 4 ++ sliceB d 0x24 2 ++ sliceB d 0x26 2 ++ sliceB d 0x10 8 ++ sliceB d 0x18 8 ++ leBytes 8 w ++ leBytes 4 (originOf s k) ++ sliceB d 0x28 1)
  spliceB b 0x78 (leBytes 8 (crc64 b))

/-- The pad before a record of n bytes that does not fit before the end of the ring (08 R207). -/
def snapPad (s : State) (p n : Nat) : Nat :=
  let w := fld s (rSnapPtr p) 28 0 * 64
  if snapLen s p - w < n then snapLen s p - w else 0

/-- Whether a record and its pad fit the free space (08 R207). -/
def snapFits (s : State) (p n : Nat) : Bool := decide (snapUsed s p + snapPad s p n + n ≤ snapLen s p)

/-- Places a record of n bytes in the ring, a pad first where it does not fit before the end (08 R207). -/
def snapPlace (s : State) (k : Nat) (c : Ctx) (p n : Nat) (rec_ : Nat → Nat → Bytes) : State :=
  let x := (part s p).snap
  let len := snapLen s p
  let w := fld s (rSnapPtr p) 28 0 * 64
  let padN := snapPad s p n
  if !snapFits s p n then snapDrop s p
  else
    let s := if padN = 0 then s else devWrite s (snapBase s p + w) (padTo (min 128 padN) (snapHdr s k c x.seq x.epoch 1 padN 0 0 []))
    let a := if padN = 0 then w else 0
    let s := devWrite s (snapBase s p + a) (rec_ x.seq x.epoch)
    let seq' := (x.seq + 1) % 2 ^ 32
    let s := modPart s p (fun y => { y with snap := { y.snap with
      written := y.snap.written ++ (if padN = 0 then [] else [(w, padN, true)]) ++ [(a, n, false)], seq := seq',
      epoch := if seq' = 0 then (x.epoch + 1) % 65536 else x.epoch } })
    setFld s (rSnapPtr p) 28 0 ((if a + n ≥ len then 0 else a + n) / 64)

/-- The snapshot itself. Reserved bytes of its descriptor have no effect, SRC is read as given, and STEP is 0 where the forward segment runs in step 0 (DESIGN CHOICE, assumption 58). -/
def doSnap (s : State) (k : Nat) (c : Ctx) (vc : Vcore) (v o : Nat) : State :=
  sdmChecked s k vc v (firstBad [(decide (bits o 127 22 ≠ 0), 22)])
    (inSegment s k c vc v 4 3 [0, 2]
      (let p := k / 16
       let off := 64 * bits o 21 6
       let da := spBase (pcoreOf c v) + off
       if off ≥ spLimit then fault1 s k (spProb vc v 3 3 off 64)
       else if devPoison s da 64 then fault1 s k (consumed vc v (vspBase v + off))
       else
         let d := devRead s da 64
         let src := fieldB d 0 8
         let n := fieldB d 8 8
         match mapRange s k c src n with
         | .error a => fault1 s k (unmapped vc v a (min n (2 ^ 32 - 1)))
         | .ok a =>
           if src ≥ vspBase 0 && !(c.hbmBase ≤ src && src < c.hbmBase + c.hbmMib * 1048576) then fault1 s k (unmapped vc v src (min n (2 ^ 32 - 1)))
           else
             let sealed := tget s.seals p
             let body := match sealed with | some _ => (n + 4095) / 4096 * 4160 | none => roundUp n 64
             let full := match sealed with | some q => decide (q.chunks + (n + 4095) / 4096 > 2 ^ 32) | none => false
             if !bit (rd s (rSnapCtrl p)) 0 || full || !snapFits s p (128 + body) then snapDrop s p
             else match (List.range ((n + 63) / 64)).find? (fun i => devPoison s (a + 64 * i) 64) with
               | some i => fault1 s k (consumed vc v (src + 64 * i))
               | none =>
                 let b := devRead s a n
                 let io := fieldB d 0x10 8
                 let il := fieldB d 0x18 8
                 let w := if io + n > il then Config.openDigest s.draws else posDigest io b il
                 let step := if segmentOf c = 2 then c.step else c.step - 1
                 let data := match sealed with | some q => sealChunks q (s.draws + 1) 0 b | none => padTo (roundUp n 64) b
                 let s := { drawn (hbmUse s p a n) (1 + (n + 4095) / 4096) with seals := tmod s.seals p (fun q => { q with chunks := q.chunks + (n + 4095) / 4096 }) }
                 snapPlace s k c p (128 + body) (fun sq ep => snapHdr s k c sq ep 0 n step (w % 2 ^ 64) d ++ data)))

/-- SNAP: 08 R205 to R207, 18 R463; a sealed one waits while no draw is served (18 R449). -/
def execSnap (p : Fin 8) (v : Fin 96) (op : BitVec 128) (s : State) : Res :=
  if s.sec.entWait && thas s.seals p then .next s
  else .next (onEngine s p v 3 (sdmWord op 0x34) (fun k c vc => doSnap s k c vc v (sdmWord op 0x34)))

end Sys2Proof.Machine
end

