-- ==== Sys2Proof/Machine/Collect.lean ====
section
/-! DEFINITION. Collective commands of this device: all-gather (14 R356), permute (14 R360, R361), releases of bells (11 R268), its own arrival in the muster (11 R273, R274), and the job map at a step boundary (14 R365, R366). -/

namespace Sys2Proof.Machine

/-! ### All-gather (14 R356 to R359) -/

def agatherBad (o : Nat) : Option Nat := firstBad [(decide (bits o 7 6 = 3), 6), (decide (bits o 127 24 ≠ 0), 24)]

/-- Takes the ordinal of a collective operation of a vcore (14 R355). -/
def takeOrd (s : State) (k v : Nat) : State := modVc s k v (fun x => { x with ords := tput x.ords 0 (tgetD x.ords 0 0 + 1) })

/-- Whether a gather descriptor holds a value out of range (14 R356). -/
def gatherDescBad (d : Bytes) : Bool :=
  fieldB d 0x20 1 > 2 || leNat (sliceB d 0x21 31) ≠ 0 || fieldB d 0x10 8 % 64 ≠ 0 || fieldB d 0x10 8 = 0 || fieldB d 0x10 8 > 2 ^ 26
    || fieldB d 0 8 % 64 ≠ 0 || fieldB d 8 8 % 64 ≠ 0

def doAgather (s : State) (k : Nat) (c : Ctx) (vc : Vcore) (v o : Nat) : State :=
  sdmChecked s k vc v (agatherBad o)
    (let off := 64 * bits o 23 8
     let da := spBase (pcoreOf c v) + off
     if off ≥ spLimit then fault1 s k (spProb vc v 3 3 off 64)
     else if devPoison s da 64 then fault1 s k (consumed vc v (vspBase v + off))
     else
       let d := devRead s da 64
       let gm := bits o 7 6
       let g := max 1 (groupSize c gm)
       let n := fieldB d 0x10 8
       let vm := fieldB d 0x20 1
       if gatherDescBad d then fault1 s k (sProb vc v 5 (128 + 8))
       else if vm ≠ 0 && fieldB d 0x1C 4 + g > 65536 then fault1 s k (sProb vc v 5 (128 + 8) (fieldB d 0x1C 4))
       else match mapRange s k c (fieldB d 0 8) n, mapRange s k c (fieldB d 8 8) (g * n) with
         | .error a, _ => fault1 s k (unmapped vc v a n)
         | .ok _, .error a => fault1 s k (unmapped vc v a n)
         | .ok src, .ok dst =>
           match (List.range (n / 64)).find? (fun i => devPoison s (src + 64 * i) 64) with
           | some i => fault1 s k (consumed vc v (fieldB d 0 8 + 64 * i))
           | none =>
             let own := groupIdx c gm c.rank
             let dig := crc64 (devRead s src n)
             let ord := tgetD vc.ords 0 0
             let x : Gather := { v := v, ord := ord, gmode := gm, own := own, g := g, dst := dst, len := n, layer := fieldB d 0x18 4, vidx := fieldB d 0x1C 4,
                                 vmode := vm, got := [own], count := (part s (k / 16)).points, cia := runCia vc, step := c.step }
             let s := takeOrd (modCtx s k (fun c => { c with gathers := c.gathers ++ [x] })) k v
             let s := if src = dst + own * n then s else moveBytes s (k / 16) src (dst + own * n) n
             let s := partSend s k c x own dig (partTargets c x own c.rank)
             drainParts (versionStep s k x own dig) k v ord)

/-- AGATHER: 14 R356, R357. -/
def execAgather (p : Fin 8) (v : Fin 96) (op : BitVec 128) (s : State) : Res :=
  .next (onEngine s p v 3 (sdmWord op 0x21) (fun k c vc => doAgather s k c vc v (sdmWord op 0x21)))

/-- AGATHER_PART_TIMEOUT: a part still missing TIMEOUT grid points after the gather started (14 R356). -/
def execAgatherPartTimeout (p : Fin 8) (v : Fin 96) (s : State) : Res :=
  .next (onVcore s p v (fun k c _ =>
    match c.gathers.find? (fun x => x.v = v.val && decide (x.got.length < x.g) && decide ((part s p).points ≥ x.count + musterTimeout s c)) with
    | some _ => fault1 s k { cause := 0x1E, unit := 11, vcore := some v, d0 := musterD0 c }
    | none => s))

/-! ### Permute (14 R360, R361) -/

def permuteBad (c : Ctx) (o : Nat) : Option Nat :=
  firstBad [(!c.prog.plan.bells.testBit (bits o 11 6), 6), (decide (bits o 127 28 ≠ 0), 28)]

/-- What a permute descriptor breaks apart from its ranges: reserved bytes, an alignment or a LEN that is no multiple of 64, D0 the field of the descriptor; a landing area that leaves the context's HBM region (14 R360, 09 R502). -/
def permuteDesc (c : Ctx) (vc : Vcore) (v : Nat) (hd : Bytes) (outs ins : List Bytes) : List Prob :=
  let land := fieldB hd 8 8
  let n := fieldB hd 0x10 8
  (if land % 64 ≠ 0 || leNat (sliceB hd 0x18 40) ≠ 0 || outs.any (fun e => fieldB e 8 8 % 64 ≠ 0 || fieldB e 0x1A 6 ≠ 0)
      || ins.any (fun e => fieldB e 8 8 % 64 ≠ 0 || fieldB e 0x18 8 ≠ 0) then [sProb vc v 5 (128 + 12)] else [])
    ++ (if 0 < n && (land < c.hbmBase || c.hbmBase + c.hbmMib * 1048576 < land + n) then [unmapped vc v land (min n (2 ^ 32 - 1))] else [])

/-- What an out entry asks: a stream with its frames, or a local copy; or its problems. -/
def outEntry (s : State) (k : Nat) (c : Ctx) (vc : Vcore) (v : Nat) (e : Bytes) : Except (List Prob) (Option (Nat × Nat × Nat × Nat) × Option (Nat × Nat × Nat)) :=
  let n := fieldB e 8 8
  let psn := fieldB e 0x18 2
  let away := fun a => unmapped vc v a (min n (2 ^ 32 - 1))
  let src := mapRange s k c (fieldB e 0 8) n
  if psn = 0xFFFF then
    match src, mapRange s k c (fieldB e 0x10 8) n with
    | .ok a, .ok b => .ok (none, some (a, b, n))
    | .error a, _ => .error [away a]
    | .ok _, .error b => .error [away b]
  else match src, (psnStream s (k / 16) (k % 16) psn).filter (fun x => x.2.st = .opened && x.2.coll.isNone) with
    | .ok a, some (x, _) => .ok (some (x, a, fieldB e 0x10 8, n), none)
    | .ok _, none => .error [sProb vc v 0x1A psn]
    | .error a, some _ => .error [away a]
    | .error a, none => .error [away a, sProb vc v 0x1A psn]

/-- What an in entry asks: source in the landing area, final address, bytes. -/
def inEntry (s : State) (k : Nat) (c : Ctx) (vc : Vcore) (v land len : Nat) (e : Bytes) : Except (List Prob) (Nat × Nat × Nat) :=
  let n := fieldB e 8 8
  if fieldB e 0 8 + n > len then .error [unmapped vc v (land + max len (fieldB e 0 8)) (min n (2 ^ 32 - 1))]
  else match mapRange s k c (land + fieldB e 0 8) n, mapRange s k c (fieldB e 0x10 8) n with
    | .error a, _ => .error [unmapped vc v a (min n (2 ^ 32 - 1))]
    | .ok _, .error a => .error [unmapped vc v a (min n (2 ^ 32 - 1))]
    | .ok a, .ok b => .ok (a, b, n)

/-- The problems of a list of checked entries, and what the others ask. -/
def errs {α : Type} (l : List (Except (List Prob) α)) : List Prob := l.flatMap (fun e => match e with | .error p => p | .ok _ => [])
def oks {α : Type} (l : List (Except (List Prob) α)) : List α := l.filterMap (fun e => match e with | .ok a => some a | .error _ => none)

def doPermute (s : State) (k : Nat) (c : Ctx) (vc : Vcore) (v o : Nat) : State :=
  sdmChecked s k vc v (permuteBad c o)
    (let off := 64 * bits o 27 12
     let da := spBase (pcoreOf c v) + off
     let hd := devRead s da 64
     let n := 64 + 32 * (fieldB hd 0 4 + fieldB hd 4 4)
     if off + 64 > spLimit then fault1 s k (spProb vc v 3 3 off 64)
     else if devPoison s da 64 then fault1 s k (consumed vc v (vspBase v + off))
     else if off + n > spLimit then fault1 s k (spProb vc v 3 3 off 64)
     else match (List.range ((n + 63) / 64)).find? (fun i => devPoison s (da + 64 * i) 64) with
       | some i => fault1 s k (consumed vc v (vspBase v + off + 64 * i))
       | none =>
         let land := fieldB hd 8 8
         let nout := fieldB hd 0 4
         let outB := (List.range nout).map (fun i => devRead s (da + 64 + 32 * i) 32)
         let inB := (List.range (fieldB hd 4 4)).map (fun i => devRead s (da + 64 + 32 * (nout + i)) 32)
         let outs := outB.map (outEntry s k c vc v)
         let ins := inB.map (inEntry s k c vc v land (fieldB hd 0x10 8))
         let probs := oneEach (permuteDesc c vc v hd outB inB ++ errs outs ++ errs ins)
         if !probs.isEmpty then faultCtx s k probs
         else
           let pm : Permute := { v := v, bell := bits o 11 6, cia := runCia vc, copies := oks ins, outB := outB.foldl (fun a e => a + fieldB e 8 8) 0 }
           let s := takeOrd (modCtx s k (fun c => { c with permutes := c.permutes ++ [pm] })) k v
           let s := (oks outs).foldl (fun s e =>
             match e with
             | (some (x, a, dst, len), _) =>
               match stream s x with
               | none => s
               | some st =>
                 let fs := sendFrames s (maxPay s (dieOfSidx x)) a dst len true
                 let mark : SendOp := { cia := runCia vc, sidx := x, seq := seqAdd st.sndNxt (fs.length - 1) }
                 if fs.isEmpty then s else queueFrames (modCtx s k (fun c => { c with permutes := c.permutes.map (fun q => if q.v = v && q.phase = 1 then { q with sends := q.sends ++ [mark] } else q) })) x fs
             | (none, some (a, b, len)) => moveBytes s (k / 16) a b len
             | (none, none) => s) s
           permuteArrive s k)

/-- PERMUTE: its sends, then its bell, then its final copies (14 R360, R361). -/
def execPermute (p : Fin 8) (v : Fin 96) (op : BitVec 128) (s : State) : Res :=
  .next (onEngine s p v 3 (sdmWord op 0x22) (fun k c vc => doPermute s k c vc v (sdmWord op 0x22)))

/-- Phase 3 of the PERMUTEs that waited for a bell: the final copies, in ascending order (14 R361). -/
def permuteFinish (s : State) (k b : Nat) : State :=
  match ctxOf s k with
  | none => s
  | some c =>
    let ps := c.permutes.filter (fun p => p.bell = b && p.phase = 2)
    let s := ps.foldl (fun s p => p.copies.foldl (fun s e => moveBytes s (k / 16) e.1 e.2.1 e.2.2) s) s
    modCtx s k (fun c => { c with permutes := c.permutes.map (fun p => if p.bell = b && p.phase = 2 then { p with phase := 4 } else p) })

/-! ### Releases of bells (11 R267, R268) -/

/-- BELL_RELEASE: at its due cycle, with the release of the tree where the scope is JOB. -/
def execBellRelease (b : Fin 64) (s : State) : Res :=
  let x := bell s b
  match x.ctx, x.due with
  | some k, some u =>
    if u ≤ s.run && (belScope s b = 0 || x.jobRel) then .next (permuteFinish (releaseBell s b) k b) else .next s
  | _, _ => .next s

/-! ### Muster (11 R273, R274, 02 R45) -/

/-- MUSTER_ARRIVE: the device arrives for phase 0 of the muster bell once load is complete, the SRAMs are zeroed and REFCNT is valid; a plan of one device musters alone (11 R273, R274). -/
def execMusterArrive (p : Fin 8) (s : State) : Res :=
  let x := part s p
  match x.letIn with
  | none => .next s
  | some cn =>
    let k := ctxKey p cn
    match ctxOf s k with
    | none => .next s
    | some c =>
      let busy := x.resident.isSome || s.ctxs.any (fun e => e.1 / 16 = p.val && (e.2.st = 3 || e.2.st = 6))
      if c.muster ≠ .waiting || x.zeroing || busy || !bit (rd s rBelMuster) 17 then .next s
      else match musterBell c with
        | some b =>
          if c.prog.plan.devices ≤ 1 then .next (musterRelease s k c (s.refcnt + 64 * fld s rBelMuster 15 0))
          else
            let s := modCtx s k (fun c => { c with muster := .arrived })
            .next (musterStep (modBell s b (fun y => { y with node0 := y.node0 ++ [c.rank] })) k b)
        | none => .next (musterRelease s k c (s.refcnt + 64 * fld s rBelMuster 15 0))

/-- Whether the muster of a LOADED context has not been released within TIMEOUT periods from the end of load, admitted or not (11 R274). -/
def musterLate (s : State) (k : Nat) (c : Ctx) : Bool :=
  c.st = 1 && (match c.muster with | .released _ => false | _ => true) && decide (c.loadEnd + musterTimeout s c * 2 ^ ptnK s (k / 16) ≤ s.cycle) && c.probs.isEmpty

/-- MUSTER_TIMEOUT: 11 R274. -/
def execMusterTimeout (p : Fin 8) (s : State) : Res :=
  .next ((s.ctxs.filter (fun e => e.1 / 16 = p.val && musterLate s e.1 e.2)).foldl (fun s e => fault1 s e.1 { cause := 0x1E, unit := 13, d0 := musterD0 e.2 }) s)

/-- Whether a step boundary is one of a summary: every MAP_PERIOD steps, by the root's register as of the summary before (14 R365, R370). -/
def summaryDue (c : Ctx) : Bool :=
  if c.rank = 0 then c.step % max 1 (bits c.mapCfg 7 0) = 0 else Config.rootSummary (c.ranks.getD 0 0) c.step

/-- What the step boundary does for the map: the streams that no map needs any more close, and each MAP_PERIOD steps a summary goes, for which CTE_MAPCFG counts as it then stands (14 R365, R366, R370). -/
def mapStepEnd (s : State) (k : Nat) : State :=
  match ctxOf s k with
  | none => s
  | some c =>
    if c.prog.plan.devices ≤ 1 then s
    else
      let s := closeColl s k
      if !summaryDue c then s
      else openInstalled (summaryStep (modCtx s k (fun c => { c with mapCfg := rd s (rCteMapcfg 0), summ := tput c.summ c.rank ((List.range 3).map (ownSummary s k c)) })) k) k 10

end Sys2Proof.Machine
end

