-- ==== Sys2Proof/Machine/Ports.lean ====
section
/-! DEFINITION. Ports: link retry, link state, probes, the transit switch, Neighbor Discovery, and the register-fed check-value unit (13 R308 to R313, R324, R333, R336 to R339). -/

namespace Sys2Proof.Machine

/-! ### Link state -/

def portEn (s : State) (n : Nat) : Bool := bit (rd s (rNetPortcfg n)) 0
def portMode (s : State) (n : Nat) : Nat := fld s (rNetPortcfg n) 2 1

/-- Takes a port down: it leaves every route mask in one cycle, its link-retry state and what waits in it are dropped, LINKDOWNS counts (13 R309, R313, R337). CVT recovers what is lost. -/
def portDown (s : State) (n : Nat) : State :=
  let was := portUp s n
  let s := clearRoutes s n
  let s := modPort s n (fun p => { router := p.router })
  let s := setFld s (rNetPortstat n) 26 0 0
  if was then satFld s (rNetPortstat n) 63 48 1 else s

/-- Sends a hello: a shim with CTRL and HELLO and the port's own number (13 R312). -/
def sendHello (s : State) (n : Nat) : State :=
  queueCtl s n 0x60 (beBytes 4 (s.prof.node * 32 + n))

/-- Whether a port has power: from entry step 3 on the ports but WAKE_PORT, which step 8 takes down, are idle or down (19 R471). -/
def portPowered (s : State) (n : Nat) : Bool := decide (s.power.steps < 3) || (decide (s.power.steps < 8) && decide (n = fld s rPwrWake 4 0))

/-- PORT_LINK_UP: the PHY reports link; a port without LLR is then up, one with LLR sends a hello first (13 R308, R312). -/
def execPortLinkUp (n : Fin 32) (s : State) : Res :=
  if !portEn s n || (portSt s n).link || !portPowered s n then .next s
  else
    let s := modPort s n (fun p => { p with link := true })
    if bit (rd s (rNetPortcfg n)) 3 then .next (sendHello s n) else .next (setFld s (rNetPortstat n) 0 0 1)

/-- PORT_LINK_DOWN: 13 R337. -/
def execPortLinkDown (n : Fin 32) (s : State) : Res :=
  if (portSt s n).link || portUp s n then .next (portDown s n) else .next s

/-- LLR_HELLO: a neighbour's hello turns link retry on; a port that had it off answers with its own hello (13 R312). -/
def execLlrHello (n : Fin 32) (node : Fin 1048576) (peer : Fin 32) (fcsOk : Bool) (s : State) : Res :=
  if !(portSt s n).link || !bit (rd s (rNetPortcfg n)) 3 then .next s
  else if !fcsOk then .next (satFld s (rNetPorterr n) 15 0 1)
  else if llrOn s n && fld s (rNetPortstat n) 21 2 = node.val && fld s (rNetPortstat n) 26 22 = peer.val then .next s
  else
    let s := modPort s n (fun p => { p with lseq := 0, expect := 0, replay := [], shimIn := 0, nak := false })
    let s := setFld (setFld s (rNetPortstat n) 21 2 node) (rNetPortstat n) 26 22 peer
    .next (sendHello (setFld s (rNetPortstat n) 1 0 3) n)

/-- LLR_HELLO_TIMER: without an answer the port runs without the shim and sends a hello again (13 R312). -/
def execLlrHelloTimer (n : Fin 32) (s : State) : Res :=
  if !(portSt s n).link || !bit (rd s (rNetPortcfg n)) 3 || llrOn s n then .next s
  else .next (sendHello (setFld s (rNetPortstat n) 0 0 1) n)

/-! ### The replay buffer (13 R313) -/

/-- LACK passes the frames below it. -/
def takeLack (s : State) (n lack : Nat) : State :=
  let p := portSt s n
  let base := match p.replay with | [] => p.lseq | e :: _ => e.1
  let k := (lack + 65536 - base) % 65536
  if k > p.replay.length then s
  else modPort s n (fun p => { p with replay := p.replay.drop k })

/-- Replays from LACK in LSEQ order; a frame replayed 8 times takes the port down. -/
def linkReplay (s : State) (n : Nat) : State :=
  if (portSt s n).replay.isEmpty then s
  else
    let s := satFld s (rNetPorterr n) 31 16 1
    let bytes := (portSt s n).replay.foldl (fun a r => a + wireBytes s n r.2.1) 0
    let s := modPort s n (fun p => { p with replay := p.replay.map (fun r => (r.1, r.2.1, r.2.2 + 1)), busy := max s.cycle p.busy + (bytes + portRate s n - 1) / portRate s n })
    let s := (portSt s n).replay.foldl (fun s r => emit s n (ethFrame s n (some r.1) r.2.1)) s
    if (portSt s n).replay.any (fun r => r.2.2 ≥ 8) then portDown s n else s

/-- LLR_FRAME: a frame or control frame with its shim (13 R313). A control frame carries LACK and perhaps NAK; any other is accepted in LSEQ order and goes on to the checks of 13 R315 with the command for its inner packet, or is discarded and answered with NAK and LACK. -/
def execLlrFrame (n : Fin 32) (lseq lack : BitVec 16) (flags : BitVec 8) (fcsOk : Bool) (s : State) : Res :=
  if !llrOn s n then .next s
  else if !fcsOk then .next (nakPort (satFld s (rNetPorterr n) 15 0 1) n)
  else if bit flags.toNat 6 then
    let s := takeLack s n lack.toNat
    .next (if bit flags.toNat 7 then linkReplay s n else s)
  else if lseq.toNat ≠ (portSt s n).expect then .next (nakPort (discard s n) n)
  else
    let s := takeLack (modPort s n (fun p => { p with expect := (p.expect + 1) % 65536, shimIn := p.shimIn + 1, nak := false })) n lack.toNat
    .next (if bit flags.toNat 7 then linkReplay s n else s)

/-- LLR_NAK: 13 R313. -/
def execLlrNak (n : Fin 32) (lack : BitVec 16) (s : State) : Res :=
  if llrOn s n then .next (linkReplay (takeLack s n lack.toNat) n) else .next s

/-- LLR_CTRL_TIMER: 512 ns without a frame to carry LACK (13 R313). -/
def execLlrCtrlTimer (n : Fin 32) (s : State) : Res :=
  if llrOn s n then .next (queueCtl s n 0x40 []) else .next s

/-- LLR_ACK_TIMEOUT: LACK has not advanced for 10 µs (13 R313). -/
def execLlrAckTimeout (n : Fin 32) (s : State) : Res :=
  if llrOn s n then .next (linkReplay s n) else .next s

/-! ### Probes (13 R324) -/

/-- A probe or its reply, of no stream, out of a port to a node. -/
def sendProbe (s : State) (n node type : Nat) (payload : Bytes) : State :=
  queueAck s n (ipPacket s (n / 16) node 0 0 0 (cvtBody (cvtHdr type 0 payload.length 0 0 0 0 0 0 0) payload none))

/-- PROBE_TIMER: the port sends a PROBE with its time, to the neighbour of a link-retry port, else to the node measured. -/
def execProbeTimer (n : Fin 32) (dest : Fin 1048576) (s : State) : Res :=
  if !portUp s n then .next s
  else .next (sendProbe s n (if llrOn s n then fld s (rNetPortstat n) 21 2 else dest) 8 (padTo 64 (beBytes 8 s.cycle)))

/-- CVT_PROBE: answered with the same timestamp. -/
def execCvtProbe (port : Fin 32) (f : CvtFrame) (s : State) : Res :=
  .next (rxChecked s port f (fun s => sendProbe s port f.node 9 f.payload))

/-- CVT_PROBE_REPLY: the round trip enters RTT, saturating. -/
def execCvtProbeReply (port : Fin 32) (f : CvtFrame) (s : State) : Res :=
  .next (rxChecked s port f (fun s =>
    setFld s (rNetPortstat port) 47 32 (min 65535 (s.cycle - beNat (sliceB f.payload 0 8)))))

/-! ### Transit (13 R336 to R339) -/

/-- The packet as it leaves: one hop less, and CE where the egress queue is above half its share and the packet is ECT. -/
def transitPacket (pkt : Bytes) (ce : Bool) : Bytes :=
  let h := beNat (sliceB pkt 0 4)
  let ecn := bits h 21 20
  let h' := if ce && ecn ≠ 0 then setBits h 21 20 3 else h
  beBytes 4 h' ++ sliceB pkt 4 3 ++ [byte (fieldB pkt 7 1 - 1)] ++ pkt.drop 8

/-- Bytes in an egress port's transit queue and in the transit buffer of a die, which holds 4 MiB; the share of one queue is free. -/
def transitBytes (s : State) (n : Nat) : Nat := (portSt s n).transit.foldl (fun a b => a + b.length) 0
def transitHeld (s : State) (d : Nat) : Nat := (rangeFrom (16 * d) 16).foldl (fun a n => a + transitBytes s n) 0
def transitShare (n : Nat) : Nat := 1 + Config.transitShare n % 2 ^ 22

/-- Puts a transit packet behind those of its egress port: it is dropped where its share or the buffer is full, and marked CE above half the share (13 R339). -/
def queueTransit (s : State) (n : Nat) (pkt : Bytes) : State :=
  let have_ := transitBytes s n
  if have_ ≥ transitShare n || transitHeld s (n / 16) + pkt.length > 2 ^ 22 then satFld s (rNetTransit (n / 16)) 47 32 1
  else
    let b := transitPacket pkt (decide (have_ * 2 > transitShare n))
    modPort (satFld s (rNetTransit (n / 16)) 31 0 1) n (fun p => { p with transit := p.transit ++ [b] })

/-- TRANSIT_FRAME: a frame for another node of the die's plane, in order of arrival and for one cycle of ascending ingress port. In Still and deeper it is dropped (19 R469, R470). -/
def execTransitFrame (port : Fin 32) (pkt : Bytes) (fcsOk : Bool) (s : State) : Res :=
  let d := port.val / 16
  let low := beNat (sliceB pkt 32 8)
  let node := low / 32
  if !portUp s port || 2 ≤ fld s rPwrStat 2 0 then .next s
  else if !fcsOk then .next (let s := satFld s (rNetPorterr port) 15 0 1; if llrOn s port then nakPort s port else s)
  else if node = s.prof.node || !shimOk s port then .next s
  else
    let s := shimTaken s port
    if beNat (sliceB pkt 24 8) ≠ rd s (rNetPrefix d) then .next (discard s port)
    else if fieldB pkt 7 1 ≤ 1 then .next (satFld s (rNetTransit d) 55 48 1)
    else match pickPort (sliceB pkt 8 16) (sliceB pkt 24 16) (beNat (sliceB pkt 0 4) % 2 ^ 20) d (routeMask s d node) with
      | none => .next (satFld s (rNetTransit d) 63 56 1)
      | some n => .next (queueTransit s n pkt)

/-! ### Neighbor Discovery (13 R311, RFC 4861) -/

/-- The Neighbor Advertisement for one of the device's port addresses. -/
def advert (s : State) (n : Nat) (mac : Nat) (dst target : Bytes) : Bytes :=
  let own := beBytes 6 (portMac s.prof.node n)
  let b0 := beBytes 1 136 ++ beBytes 1 0 ++ beBytes 2 0 ++ beBytes 4 0x60000000 ++ target ++ beBytes 1 2 ++ beBytes 1 1 ++ own
  let ck := 65535 - onesSum (target ++ dst ++ beBytes 4 b0.length ++ beBytes 4 58 ++ b0) 0
  let b := spliceB b0 2 (beBytes 2 ck)
  let f := beBytes 6 mac ++ own ++ beBytes 2 0x86DD ++ beBytes 4 0x60000000 ++ beBytes 2 b.length ++ beBytes 1 58 ++ beBytes 1 255 ++ target ++ dst ++ b
  f ++ leBytes 4 (fcs f)

/-- NEIGHBOR_DISCOVERY: on a port without link retry, a Router Advertisement gives the next-hop router's MAC, and a solicitation of the port's address is answered. -/
def execNeighborDiscovery (n : Fin 32) (ra : Bool) (mac : BitVec 48) (src target : Bytes) (s : State) : Res :=
  if !portUp s n || llrOn s n then .next s
  else if ra then .next (modPort s n (fun p => { p with router := some mac.toNat }))
  else if target = ip6 s (n.val / 16) s.prof.node n then .next (emit s n (advert s n mac.toNat (padTo 16 src) target))
  else .next s

/-! ### Enabling ports (13 R307, R309) -/

/-- Whether a value may be written to NET_PORTCFG of port n that was disabled. -/
def portCfgOk (s : State) (n v : Nat) : Bool :=
  let odd := n % 2 = 1
  let mode := bits v 2 1
  !(odd && bit v 0 && portMode s (n - 1) = 3) && !(odd && mode = 3)
    && !(bit v 4 && !(n < 4 || (16 ≤ n && n < 20))) && !(!odd && bit v 0 && mode = 3 && portEn s (n + 1))

/-- PORT_ENABLE: a write with EN 1 to a disabled port. -/
def execPortEnable (n : Fin 32) (v : BitVec 32) (w : Writer) (s : State) : Res := gate s w fun s =>
  if portEn s n || !v.getLsbD 0 then .next s
  else if !portCfgOk s n v.toNat then .next (reject s 10 (rNetPortcfg n))
  else .next (setReg s (rNetPortcfg n) (v.toNat % 32))

/-- PORT_DISABLE: a write that clears EN; the route masks first, then the link. The other fields keep their values, since they may change only while EN is 0. -/
def execPortDisable (n : Fin 32) (v : BitVec 32) (w : Writer) (s : State) : Res := gate s w fun s =>
  if !portEn s n || v.getLsbD 0 then .next s
  else if bits v.toNat 4 1 ≠ fld s (rNetPortcfg n) 4 1 then .next (reject s 10 (rNetPortcfg n))
  else .next (setFld (portDown s n) (rNetPortcfg n) 0 0 0)

/-! ### The register-fed check-value unit (13 R333) -/

def cvuPoly (s : State) (d c : Nat) : Bool := bit (rd s (rCvuCfg d)) (1 + c)
def cvuRaw (s : State) (d c : Nat) : Nat := tgetD s.cvu (d * 4 + c) 0
def setCvu (s : State) (d c v : Nat) : State := { s with cvu := tput s.cvu (d * 4 + c) v }
def cvuInit (s : State) (d c : Nat) : State := setCvu s d c (if cvuPoly s d c then 0 else 0xFFFFFFFF)
/-- The running value after the final XOR. -/
def cvuResult (s : State) (d c : Nat) : Nat := if cvuPoly s d c then cvuRaw s d c else cvuRaw s d c % 2 ^ 32 ^^^ 0xFFFFFFFF

/-- CVU_FEED: a write of 1, 2 or 4 bytes, absorbed least significant byte first; in MODE 1 channel 0 alone runs. -/
def execCvuFeed (d : Fin 2) (c : Fin 4) (data : Bytes) (w : Writer) (s : State) : Res := gate s w fun s =>
  if bit (rd s (rCvuCfg d)) 0 && c.val ≠ 0 then .next s
  else if cvuPoly s d c then .next (setCvu s d c (crc64From (cvuRaw s d c) data))
  else .next (setCvu s d c (data.foldl crc32cByte (cvuRaw s d c % 2 ^ 32)))

/-- CVU_INIT: a write to CVU_CFG that leaves MODE and names channels in INIT: POLY is written, and the channels return to their initial values. -/
def execCvuInit (d : Fin 2) (v : BitVec 32) (w : Writer) (s : State) : Res := gate s w fun s =>
  if bit (rd s (rCvuCfg d)) 0 ≠ bit v.toNat 0 then .next s
  else .next (writeThen s (rCvuCfg d) v.toNat (fun s => (setBitsOf 4 (bits v.toNat 8 5)).foldl (fun s c => cvuInit s d c) s))

/-- CVU_MODE_CHANGE: a write to CVU_CFG that changes MODE resets all channels. -/
def execCvuModeChange (d : Fin 2) (v : BitVec 32) (w : Writer) (s : State) : Res := gate s w fun s =>
  if bit (rd s (rCvuCfg d)) 0 = bit v.toNat 0 then .next s
  else .next (writeThen s (rCvuCfg d) v.toNat (fun s => (List.range 4).foldl (fun s c => cvuInit s d c) s))

/-- CVU_RUN_LOAD: in MODE 1 a write loads channel 0's raw value; in MODE 0 it is ignored. -/
def execCvuRunLoad (d : Fin 2) (v : BitVec 64) (w : Writer) (s : State) : Res := gate s w fun s =>
  if bit (rd s (rCvuCfg d)) 0 then .next (setCvu s d 0 v.toNat) else .next s

end Sys2Proof.Machine
end

