-- ==== Sys2Proof/Machine/Reset.lean ====
section
/-! DEFINITION. Resets: stopping every context, the full reset, the reset inputs, the hold in reset (19 R478, R479, R483, 20 R487 to R490). -/

namespace Sys2Proof.Machine

/-- Stops every context of the device in this cycle and writes no record: contexts, their requests, bells and seal keys go, their stream entries fail (17 R440, 18 R462, 19 R478). -/
def stopAll (s : State) : State :=
  let s := s.ctxs.foldl (fun s e => freeBells (endStreams s e.1 true) e.1) ((List.range 8).foldl dropSeal s)
  let moving := fun (p : Nat) => s.ctxs.any (fun e => e.1 / 16 = p && (e.2.st = 3 || e.2.st = 6))
  { s with
    ctxs := [], holds := s.holds.filter (fun h => h.ctx.isNone), coverOf := []
    parts := tmap s.parts (fun p x => { x with
      resident := none, letIn := none, zeroing := x.zeroing || x.resident.isSome || moving p
      ring := { x.ring with waiting := x.ring.waiting.map (fun w => { w with ctx := none }) } }) }

/-- A full reset (19 R478): everything at its reset value but TRIPPED, CLK_LOST and FLOOR, which a power-on reset clears too. The waiting commands, what has left the device, host memory and the pins lie outside its reach. -/
def fullReset (s : State) (por : Bool) : State :=
  let floor := rd s rWard
  let keep := fld s rPwrStat 15 14
  let t : State :=
    { pending := s.pending, out := s.out, hostMem := s.hostMem, draws := s.draws
      pins := { s.pins with pcieUp := false, pwrEn := true, railWait := if por || !s.pins.pwrEn then 156250 else s.pins.railWait }
      boot := { loadFloor := por || s.boot.loadFloor } }
  let t := if por then t else setFld (setReg t rWard floor) rPwrStat 15 14 keep
  setReg t rStrap (b2n s.pins.bootPeer + at_ (b2n s.pins.laneRev) 1 + at_ (b2n s.pins.sris) 2 + at_ (b2n s.pins.test) 3)

/-- Whether the part attaches to a host by its strap: PERST_N is then a reset input (19 R479, 20 R490). -/
def hostStrap (s : State) : Bool := !s.pins.bootPeer

/-- Whether a reset input is asserted, or DRUM_REF is lost. -/
def resetHeld (s : State) : Bool := s.pins.drumLost || s.pins.por || s.pins.rst || s.pins.supply || (hostStrap s && s.pins.perst) || s.pins.test

/-- Starts the boot if nothing holds the device in reset any more (19 R479). -/
def tryBoot (s : State) : State :=
  if resetHeld s then { s with boot := { s.boot with held := max 1 s.boot.held } }
  else if s.boot.held = 1 then { s with boot := { s.boot with held := 0, step := 1 } }
  else s

/-- A full reset that holds until `tryBoot` finds its inputs deasserted; a trip or a lost DRUM_REF goes on holding (19 R477, R482). -/
def resetNow (s : State) (por : Bool) : State :=
  let h := s.boot.held
  let t := fullReset s por
  { t with boot := { t.boot with held := if h = 0 then 1 else h } }

/-- Samples the straps (20 R490): bits 0 to 3 are BOOTROLE, LANEREV, SRIS, TEST. -/
def sampleStraps (s : State) (straps : BitVec 4) : State :=
  let x := straps.toNat
  setReg { s with pins := { s.pins with bootPeer := bit x 0, laneRev := bit x 1, sris := bit x 2, test := bit x 3 } } rStrap x

/-- Deassertion of POR_N or RST_N: the later of the two samples the straps; a trip is over if T_J has fallen to 90 °C (19 R479, R482, 20 R490). -/
def releaseInput (s : State) (straps : BitVec 4) (tj : Nat) : State :=
  if s.pins.por || s.pins.rst then s
  else
    let s := sampleStraps s straps
    let s := if s.boot.held = 3 && tj ≤ 90 then { s with boot := { s.boot with held := 1 } } else s
    tryBoot s

/-- POR_N: `low` asserts it. The straps and T_J are those at a deassertion. -/
def execPorN (low : Bool) (straps : BitVec 4) (tj : Nat) (s : State) : Res :=
  if low then .next (resetNow { s with pins := { s.pins with por := true, thermTrip := false } } true)
  else if s.pins.por then .next (releaseInput { s with pins := { s.pins with por := false } } straps tj)
  else .next s

/-- RST_N (19 R478, R479). -/
def execRstN (low : Bool) (straps : BitVec 4) (tj : Nat) (s : State) : Res :=
  if low then .next (resetNow { s with pins := { s.pins with rst := true, thermTrip := false } } false)
  else if s.pins.rst then .next (releaseInput { s with pins := { s.pins with rst := false } } straps tj)
  else .next s

/-- PERST_N, or with `hot` a hot reset or link disable, which asserts no level. A part strapped PEER ignores them (19 R478, 20 R490). -/
def execPerstN (hot low : Bool) (s : State) : Res :=
  if !hostStrap s then .next (if hot then s else { s with pins := { s.pins with perst := low } })
  else if hot then .next (tryBoot (resetNow s false))
  else if low then .next (resetNow { s with pins := { s.pins with perst := true } } false)
  else if s.pins.perst then .next (tryBoot { s with pins := { s.pins with perst := false } })
  else .next s

/-- Whether the HBM rails are monitored (20 R487). -/
def hbmWatched (s : State) : Bool := s.pins.pwrEn && decide (s.pins.railWait = 0)

/-- The monitor of the HBM rails as it starts: rails that are not in tolerance then reset the device (20 R487). -/
def railCheck (s : State) : State :=
  if hbmWatched s && s.pins.hbmOut && !s.pins.supply then resetNow { s with pins := { s.pins with supply := true } } true else s

/-- SUPPLY_FAULT: a rail has been out of tolerance for more than 10 µs, or with `out` false all are back. The HBM rails are monitored from 1 ms after the assertion of HBM_PWREN (20 R487). -/
def execSupplyFault (hbmRail out : Bool) (s : State) : Res :=
  let s := if hbmRail || !out then { s with pins := { s.pins with hbmOut := out } } else s
  if hbmRail && !hbmWatched s then .next s
  else if out then .next (resetNow { s with pins := { s.pins with supply := true } } true)
  else if s.pins.supply then .next (tryBoot { s with pins := { s.pins with supply := false } })
  else .next s

/-- What the loss of a DRUM_REF that is needed does: every context stops, CLK_LOST is set, the device is held in reset; a trip goes on holding it too (19 R477). -/
def drumLoss (s : State) : State :=
  let t := orReg (fullReset s false) rPwrStat (2 ^ 14)
  { t with boot := { t.boot with held := max 2 s.boot.held } }

/-- DRUM_REF_LOSS: in Deep the device does without it (19 R475). -/
def execDrumRefLoss (s : State) : Res :=
  let s := { s with pins := { s.pins with drumLost := true } }
  .next (if s.power.steps = 8 then s else drumLoss s)

/-- DRUM_REF_RETURN: present for 1 ms, the device boots from ROM as after RST_N. -/
def execDrumRefReturn (s : State) : Res :=
  let s := { s with pins := { s.pins with drumLost := false } }
  if s.boot.held = 2 then .next (tryBoot { s with boot := { s.boot with held := 1 } }) else .next s

/-- THERMAL_TRIP: overrides every transition; THERMTRIP_N is asserted and the device held in reset until RST_N or POR_N (19 R482, R483). -/
def execThermalTrip (s : State) : Res :=
  let t := orReg (fullReset s false) rPwrStat (2 ^ 15)
  .next { t with boot := { t.boot with held := 3 }, pins := { t.pins with thermTrip := true } }

end Sys2Proof.Machine
end

