-- ==== Sys2Proof/Machine/Power.lean ====
section
/-! DEFINITION. The power ladder, the sensors and what they start: refresh, cadence and throttle steps (12 R295 to R297, 19 R469 to R476, R482). -/

namespace Sys2Proof.Machine

/-! ### The ladder -/

/-- Row 1 of 19 R470: no context is resident, stowing or restoring, and no manifest is in progress. -/
def idleRow (s : State) : Bool :=
  !(List.range 8).any (fun p => (part s p).resident.isSome || s.ctxs.any (fun e => e.1 / 16 = p && (e.2.st = 2 || e.2.st = 3 || e.2.st = 6)))
    && !s.qps.any (fun e => e.2.mans.any manActive)

/-- The first row of 19 R470 that fails for a target, 0 if none. A tunnel entry, whose context number is 16 or more, does not count in row 2: the section's example takes a peer with its tunnel stream to Dormant (DEDUCED, assumption 44). -/
def refusedRow (s : State) (target : Nat) : Nat :=
  if 1 ≤ target && !idleRow s then 1
  else if 2 ≤ target && (s.streams.any (fun e => decide (e.2.ctx < 16)) || !s.roce.isEmpty) then 2
  else if 3 ≤ target && (List.range 8).any (fun p => bit (rd s (rPtnCfg p)) 0) then 3
  else if 3 ≤ target && !(portEn s (fld s rPwrWake 4 0) && portUp s (fld s rPwrWake 4 0)) then 4
  else if 4 ≤ target && ((List.range 8).any (fun p => bit (rd s (rLdgCtrl p)) 0 || bit (rd s (rSnapCtrl p)) 0) || fld s rRole 1 0 = 2) then 5
  else 0

/-- A request for a state (19 R470, R473). -/
def requestState (s : State) (target : Nat) : State :=
  let p := s.power
  if p.leaving then { s with power := { p with queued := some target } }
  else
    let cur := if p.entering then stateOfSteps p.goal else stateOfSteps p.steps
    if target < cur then wake (setFld s rPwrStat 6 4 0) 2 target
    else if target = cur then setFld s rPwrStat 6 4 0
    else
      let r := refusedRow s target
      let s := setFld s rPwrStat 6 4 r
      if r ≠ 0 then s else syncPower { s with power := { s.power with entering := true, goal := stepsOfState target } }

/-- POWER_TARGET: a write of PWR_CTL; a value outside the ranges leaves it unchanged (19 R484). It wakes the device as its TARGET says, and not by being an access (19 R470, R472; DEDUCED, assumption 44). -/
def execPowerTarget (v : BitVec 32) (w : Writer) (s : State) : Res :=
  let x := v.toNat
  if !accepts s w then .next (refuseBar s w)
  else if bits x 2 0 > 4 || bits x 31 16 = 0 then .next (reject s 16 rPwrCtl)
  else .next (requestState (setReg s rPwrCtl (bits x 3 0 + at_ (bits x 31 16) 16)) (bits x 2 0))

/-- SRAM of every core and cluster reads zero again, its accumulators and tables empty (19 R471, 18 R458). -/
def clearSrams (s : State) : State :=
  devZero { s with mxe := [], echo := [], thirds := [] } 0x00C000000000 0x000200000000

/-- Draws a new pair of ledger keys for a partition (12 R304). -/
def newKeys (s : State) (p : Nat) : State :=
  { drawn s 1 with ldgKeys := tput s.ldgKeys p (Config.entropy s.draws % 2 ^ 256, Config.entropy s.draws / 2 ^ 256 % 2 ^ 256) }

/-- New ledger keys for a partition, as at a write of its region: every unit of it reads as poisoned (12 R304). While no draw is served the write of the region waits, with it the keys (18 R449). -/
def rekeyPart (s : State) (p : Nat) : State :=
  let r := rd s (rLdgRegion p)
  let t := if s.sec.entWait then { s with sec := { s.sec with entQ := s.sec.entQ ++ [(p, r)] } } else newKeys s p
  poisonRange t (bits r 47 20 * 1048576) (bits r 63 48 * 1048576)

/-- Ledger memory under new keys. -/
def rekeyLedger (s : State) : State := (List.range 8).foldl rekeyPart s

/-- What an entry step does when it is done (19 R471); `lpi` names the ports that stay in low-power idle at step 3, `pme` says whether the host has sent PME_Turn_Off by step 8. -/
def entryStep (s : State) (n : Nat) (lpi : BitVec 32) (pme : Bool) : State :=
  match n with
  | 2 => clearSrams s
  | 3 => (List.range 32).foldl (fun s q => if portUp s q && !lpi.getLsbD q then portDown s q else s) s
  | 5 => (List.range 32).foldl (fun s q => if q ≠ fld s rPwrWake 4 0 && ((portSt s q).link || portUp s q) then portDown s q else s) s
  | 7 => { devZero (devZero s 0 hbmEnd) ledgerBase (ledgerEnd - ledgerBase) with pins := { s.pins with pwrEn := false } }
  | 8 =>
    let s := portDown s (fld s rPwrWake 4 0)
    { s with pins := { s.pins with pcieUp := s.pins.pcieUp && !pme } }
  | _ => s

/-- What the reverse of an entry step does (19 R471, R474, R476): at that of step 5 the die 1 MGC runs again, and its heartbeats and kicks are due from then on. -/
def exitStep (s : State) (n : Nat) : State :=
  match n with
  | 8 => { s with pins := { s.pins with pcieUp := hostStrap s } }
  | 7 => rekeyLedger (setFld { s with pins := { s.pins with pwrEn := true, railWait := 156250 } } rPwrStat 10 10 1)
  | 5 => { s with chain := { s.chain with beat := s.cycle, kicks := tput s.chain.kicks 1 s.cycle } }
  | 3 => setFld s rPwrCclk 26 16 (fld s rPwrCclk 10 0)
  | 2 => clearSrams s
  | _ => s

/-- POWER_STEP_DONE: one entry or exit step ends (19 R471, R473). Out of Deep a device needs DRUM_REF (19 R475, R477). -/
def execPowerStepDone (lpi : BitVec 32) (pme : Bool) (s : State) : Res :=
  let p := s.power
  if p.entering then
    let s := entryStep s (p.steps + 1) lpi pme
    let n := p.steps + 1
    if p.leaving then .next (syncPower { s with power := { p with steps := n, entering := false, leaving := decide (p.goal < n) } })
    else .next (syncPower { s with power := { p with steps := n, entering := decide (n < p.goal) } })
  else if p.leaving && p.steps = 8 && s.pins.drumLost then .next (drumLoss s)
  else if p.leaving then
    let s := exitStep s p.steps
    let n := p.steps - 1
    if p.goal < n then .next (syncPower { s with power := { p with steps := n } })
    else
      let s := syncPower { s with power := { p with steps := n, leaving := false, queued := none } }
      .next (match p.queued with | some t => requestState s t | none => s)
  else .next s

/-- A thermal step wakes a device that is deeper than Rest, or on its way there, to Rest (19 R472). -/
def thermalWake (s : State) : State :=
  if 1 < s.power.steps || (s.power.entering && decide (1 < s.power.goal)) then wake s 5 1 else s

/-- POWER_WAKE: 1 PCIe, 3 a frame in Rest, 4 a ward frame in Dormant, 5 a thermal step, which wakes to Rest (19 R472). -/
def execPowerWake (kind : Fin 6) (s : State) : Res :=
  match kind.val with
  | 1 => .next (wakeUp s 1)
  | 3 => .next (frameWake s)
  | 4 => if begunState s.power = 3 then .next (wake s 4 0) else .next s
  | 5 => .next (thermalWake s)
  | _ => .next s

/-- AUTO_REST_TIMER: row 1 of 19 R470 has held for IDLE µs. -/
def execAutoRestTimer (s : State) : Res :=
  let held := match s.power.idleAt with | some t => usPassed s t (fld s rPwrCtl 31 16) | none => false
  if bit (rd s rPwrCtl) 3 && !moving s && s.power.steps = 0 && idleRow s && held
  then .next (syncPower { s with power := { s.power with entering := true, goal := 1 } }) else .next s

/-- HBM_REWRITE_DONE: every sector has been rewritten with zeros (19 R474). -/
def execHbmRewriteDone (s : State) : Res :=
  if bit (rd s rPwrStat) 10 then .next (setFld (devZero s 0 hbmEnd) rPwrStat 10 10 0) else .next s

/-! ### Sensors (12 R295, 19 R482) -/

def maxOf (l : List Nat) : Nat := l.foldl max 0

/-- Temperature of stack h: 110 °C on die 1 while it runs degraded (17 R442). -/
def stackTemp (s : State) (m : Sensors) (h : Nat) : Nat := if s.chain.die1Bad && 4 ≤ h then 110 else m.hbm.getD h 0

/-- The thermal steps after one poll of hottest stack, T_J and package power. A one-second release counts 1,000 polls below its value, a 100 ms one 100 (one poll a millisecond). -/
def pollThermal (t : Thermal) (hot tj p pl : Nat) : Thermal :=
  let hl := if hot ≤ 100 then t.hbmCadLow + 1 else 0
  let cl := if tj ≤ 95 then t.pkgCadLow + 1 else 0
  let tl := if tj ≤ 105 && p ≤ pl then t.pkgThrLow + 1 else 0
  { t with
    hbmCad := decide (105 ≤ hot) || (t.hbmCad && decide (hl < 1000)), hbmCadLow := min hl 1000
    hbmThr := decide (110 ≤ hot) || (t.hbmThr && decide (107 < hot))
    pkgCad := decide (100 ≤ tj) || (t.pkgCad && decide (cl < 1000)), pkgCadLow := min cl 1000
    pkgThr := decide (108 ≤ tj) || decide (pl < p) || (t.pkgThr && decide (tl < 100)), pkgThrLow := min tl 100 }

/-- Adds a poll to the one-second averages; the thousandth writes SEC_TENV (18 R466). -/
def averageTenv (s : State) (hot p : Nat) : State :=
  let t := s.thermal
  if t.polls + 1 < 1000 then { s with thermal := { t with polls := t.polls + 1, sumP := t.sumP + p, sumT := t.sumT + hot } }
  else
    let s := setReg s rTenv (min 4095 ((t.sumP + p) / 1000) + at_ (min 255 ((t.sumT + hot) / 1000)) 12)
    { s with thermal := { t with polls := 0, sumP := 0, sumT := 0 } }

/-- Raises the wanted exponent of a partition that runs a context. A raise takes effect when the committed K has reached it (12 R296). -/
def raiseCadence (s : State) (p : Nat) : State :=
  match resident s p with
  | none => s
  | some (k, _) =>
    let x := part s p
    if x.kWant < 26 then
      cadenceVote (modPart s p (fun x => { x with kWant := x.kWant + 1, kRaised := if x.kWant + 1 ≤ ptnK s p then some s.cycle else none })) k
    else s

/-- Whether a step of 19 R482 starts between two polls. -/
def stepStarts (a b : Thermal) : Bool := (b.pkgCad && !a.pkgCad) || (b.pkgThr && !a.pkgThr)

/-- What a poll reads and what follows from it in the registers: temperatures, steps, averages, the first duty of a throttle step (12 R295, R297, 19 R482). -/
def sensorRegs (m : Sensors) (s : State) : State :=
  let temps := (List.range 8).map (stackTemp s m)
  let hot := maxOf temps
  let tj0 := maxOf (m.dies.take 8)
  let tj1 := maxOf ((m.dies.drop 8).take 8)
  let tj := max tj0 tj1
  let thr0 := thrOn s
  let s := { s with thermal := pollThermal s.thermal hot tj m.power (fld s rPwrLimit 11 0) }
  let s := (List.range 8).foldl (fun s h =>
    let t := temps.getD h 0
    let x := fld s (rMemHstat h) 8 8
    setFld (setFld s (rMemHstat h) 7 0 (min 255 t)) (rMemHstat h) 8 8 (if 95 ≤ t then 1 else if t ≤ 92 then 0 else x)) s
  let refresh := (List.range 8).any (fun h => temps.getD h 0 = hot && bit (rd s (rMemHstat h)) 8)
  let hs := if s.thermal.hbmThr then 3 else if s.thermal.hbmCad then 2 else if refresh then 1 else 0
  let s := (List.range 8).foldl (fun s h => setFld s (rMemHstat h) 10 9 hs) s
  let ps := if s.thermal.pkgThr then 2 else if s.thermal.pkgCad then 1 else 0
  let s := setReg s rPwrSense (min 255 tj + at_ (min 255 tj0) 8 + at_ (min 255 tj1) 16 + at_ (min 4095 m.power) 24 + at_ ps 36)
  syncThrottle thr0 (averageTenv s hot m.power)

/-- SENSOR_POLL: temperatures and power are read, and the steps start or end (12 R295 to R297, 19 R482). -/
def execSensorPoll (m : Sensors) (s : State) : Res :=
  let u := sensorRegs m s
  let u := if cadOn s && !cadOn u then { u with thermal := { u.thermal with cadEnd := u.cycle } } else u
  let w := if cadOn u && !cadOn s then (List.range 8).foldl raiseCadence u else u
  .next (if stepStarts s.thermal u.thermal then thermalWake w else w)

/-- Whether CAD_WAIT ms have passed since a partition's last raise took effect. -/
def raiseDue (s : State) (x : Part) : Bool := match x.kRaised with | some t => decide (t + fld s rMemCadence 7 1 * msCycles s ≤ s.cycle) | none => false

/-- Whether a second has passed since the cadence step ended and since a partition's last lowering. -/
def lowerDue (s : State) (x : Part) : Bool := decide (max s.thermal.cadEnd x.kLowered + 1000 * msCycles s ≤ s.cycle)

/-- CADENCE_RAISE: CAD_WAIT ms after the last raise took effect, while the cadence step lasts. -/
def execCadenceRaise (p : Fin 8) (s : State) : Res :=
  match resident s p with
  | some _ => if cadOn s && raiseDue s (part s p) then .next (raiseCadence s p) else .next s
  | none => .next s

/-- CADENCE_LOWER: each second after the step has ended, never below the K of the manifest. -/
def execCadenceLower (p : Fin 8) (s : State) : Res :=
  match resident s p with
  | none => .next s
  | some (k, c) =>
    if !cadOn s && lowerDue s (part s p) && decide (c.kMan < (part s p).kWant)
    then .next (cadenceVote (modPart s p (fun x => { x with kWant := x.kWant - 1, kLowered := s.cycle })) k) else .next s

/-- THROTTLE_DUTY_STEP: every 10 ms of the throttle step, up to 7. -/
def execThrottleDutyStep (s : State) : Res :=
  let d := fld s rMemCadence 26 24
  if thrOn s && d < 7 && decide (s.thermal.dutyAt + 10 * msCycles s ≤ s.cycle)
  then .next { setFld s rMemCadence 26 24 (d + 1) with thermal := { s.thermal with dutyAt := s.cycle } } else .next s

/-- THROTTLE_WINDOW: at the start of a window of 8,192 cycles the gates close for THR_DUTY × 1,024 of them, as a hold of cause 6; the steps under way lose their time class (12 R297, 02 R41). -/
def execThrottleWindow (s : State) : Res :=
  let d := fld s rMemCadence 26 24
  if d = 0 || !thrOn s || s.cycle < s.thermal.thrNext then .next s
  else
    let s := raiseHold { s with thermal := { s.thermal with thrNext := s.cycle + 8192 } } 15 0 6 0 none s.run 0 (some (s.cycle + d * 1024))
    .next (gateEval (s.parts.foldl (fun s e => match resident s e.1 with | some (k, _) => recFlag s k 1 | none => s) s))

end Sys2Proof.Machine
end

