-- ==== Sys2Proof/Machine/Boot.lean ====
section
/-! DEFINITION. Boot, firmware push, profile, references and their loss, the recovery chain, the bridge, JTAG (01 R17, R19, R25, R34 to R36, 11 R272, 15 R396, 17 R440 to R442, 18 R447, R448, 19 R477, R480, R481, 20 R491 to R495). -/

namespace Sys2Proof.Machine

/-! ### Profile and firmware -/

def setStage (s : State) (v : Nat) : State := setFld s rBootstat 2 0 v

/-- Check 7 of 18 R447: R35, R491 and the range of every field. -/
def profileOk (s : State) (f : Profile) : Bool :=
  decide (f.role < 3) && decide (f.peers ≤ 63) && (f.role ≠ 2 || decide (1 ≤ f.vfIndex)) && decide (f.vfIndex ≤ 63)
    && (decide (f.role = 2) == s.pins.bootPeer) && decide (f.node < 2 ^ 20) && decide (f.grade ≤ 1)
    && f.retired.all (· < 108)
    && f.ports.all (fun q => decide (q.port < 32) && decide (q.mode < 4) && !(decide (q.port % 2 = 1) && decide (q.mode = 3)))
    && f.paths.all (fun e => decide (1 ≤ e.1) && decide (e.1 ≤ 63) && decide (e.2.1 < 2 ^ 20) && decide (1 ≤ e.2.2.length) && decide (e.2.2.length ≤ 8)
        && e.2.2.all (· < 32) && decide (e.2.2.headD 0 < 16))
    && [2, 4, 6, 8, 12].contains f.ledgerPop && decide (f.ledgerDens ≤ 1)
    && decide (f.wardKey.length = 48) && decide (f.sealAuth.length = 48) && decide (f.floor < 2 ^ 64)
    && f.repairs.all (fun r => decide (r.1 < 8))

/-- FW_PUSH_GO: writing GO. Ignored while BUSY, and while firmware runs; after a failure of boot step 5 or 7 the push restarts from reset (15 R396, 19 R481). -/
def execFwPushGo (w : Writer) (s : State) : Res := gate s w fun s =>
  if bit (rd s rHifFwctl) 1 then .next s
  else if fld s rPwrStat 13 11 ≠ 0 then .next (tryBoot (resetNow s false))
  else if s.boot.step ≠ 3 then .next s
  else
    let s := { s with boot := { s.boot with step := 4, fwAddr := rd s rHifFwaddr, fwLen := rd s rHifFwlen } }
    .next (setStage (setReg s rHifFwctl 2) 2)

/-- A push that ends without a running image: RESULT, FW_DONE, and the device waits for another. -/
def pushFailed (s : State) (result reason : Nat) : State :=
  let rec_ := reason ≠ 0 || bit (rd s rHifStatus) 1
  let s := setFld (setReg { s with boot := { s.boot with step := 3 } } rHifFwctl (at_ result 2)) rBootstat 5 3 reason
  let s := if rec_ then setFld s rHifStatus 1 1 1 else s
  setEvent (setStage s (if rec_ then 4 else 1)) 1

/-- The first check of 18 R447 that a package fails, 0 where it passes all seven. -/
def pushCheck (s : State) (x : FwPush) (b : Bytes) : Nat :=
  let n := pkgCheck x b s.boot.fwLen
  if n ≠ 0 then n else if pkgSec b 5 ≠ profileBytes x.prof || !profileOk s x.prof then 7 else 0

/-- FTL comes with the first verified image and cannot change out of reset: the push that follows a ROM recovery leaves it (02 R43, 19 R478). -/
def firstImage (s : State) (ftl : Nat) : State :=
  if s.boot.known then s else setFld { s with boot := { s.boot with known := true } } rArv 47 32 ftl

/-- The ward floor is loaded from the profile where a power-on reset or a supply fault has cleared it (17 R439). -/
def loadFloor (s : State) (floor : Nat) : State :=
  if s.boot.loadFloor then { setReg s rWard floor with boot := { s.boot with loadFloor := false } } else s

/-- A package that has passed every check: its firmware and profile are installed. -/
def takePush (s : State) (x : FwPush) : State :=
  let s := { s with fw := installFw x, prof := x.prof, boot := { s.boot with step := 5 } }
  let s := setFld (setFld (setFld (setReg s rHifFwctl 4) rBootstat 5 3 0) rBootstat 31 16 x.fw.svn) rBootstat 8 8 (b2n x.prof.debug)
  let s := setFld (setFld s rHifStatus 1 1 0) rWardstat 0 0 1
  setEvent (setStage (loadFloor (firstImage s x.fw.ftl) x.prof.floor) 3) 1

/-- FW_PUSH_DONE: the package has been read and is checked, in the order of 18 R447; a PROFILE that is not laid out as its contents fails check 7. The identity keys wait for the first seed (18 R447, R449). -/
def execFwPushDone (x : FwPush) (s : State) : Res :=
  if !bit (rd s rHifFwctl) 1 then .next s
  else match x.pkg with
  | none => .next (pushFailed s 2 0)
  | some b =>
    let bad := pushCheck s x b
    if bad ≠ 0 then .next (pushFailed s 3 bad)
    else if !bit (rd s rBootstat) 6 then .next s
    else .next (takePush s x)

/-! ### Boot order (19 R480) -/

/-- GLB_CLUSTAT of all twelve clusters (01 R17). Its reset is "—": before boot completes it is computed from the sentinel and retired lists as they stand then, which reset leaves empty (DESIGN CHOICE, assumption 3). -/
def clustatWord (s : State) : Nat := (List.range 12).foldl (fun a k => a + at_ (clustatOf s k) (4 * k)) 0
/-- GLB_RETIRED_0 and GLB_RETIRED_1 as one number: bit p for pcore p (17 R433). -/
def retiredWord (s : State) : Nat := s.retired.foldl (fun a p => a ||| 2 ^ p) 0

/-- Step 6: grade, role, node, retired cores and cluster states, RBG self-tests, repairs. `rbgBad` are the pcores whose RBG failed its vectors. -/
def applyProfile (s : State) (rbgBad : List Nat) : State :=
  let f := s.prof
  let gone := (f.retired ++ rbgBad ++ s.retired).foldl sput []
  let s := { s with retired := gone, sentinels := (List.range 12).flatMap (resetSentinels s gone) }
  let s := { s with short := (List.range 12).filter (fun cl => (sentinelsIn s cl).isEmpty && decide ((enabledIn s cl).length < gradeCores s)) }
  let s := { s with unitMap := (s.sentinels ++ s.retired).foldl (fun a p => a ||| 2 ^ p) 0 }
  let s := (List.range 108).foldl (fun s p => setReg s (rCoreRbg p) (if rbgBad.contains p then 2 else 1)) s
  let s := s.sentinels.foldl (fun s p => setFld { s with passAt := tput s.passAt p s.cycle } (rCoreEcho p) 55 54 2) s
  let s := f.repairs.foldl (fun s r => if r.2.1 = 4 then sparePc s r.1 r.2.2 else s) s
  let s := setReg s rIdent (0x0F07 + at_ (if f.grade = 1 then 0x54 else 0x60) 24)
  let s := setReg s rRole (f.role + at_ (if f.role = 1 then f.peers else 0) 2 + at_ (if f.role = 2 then f.vfIndex else 0) 8)
  let s := setReg (setReg s (rNetIdent 0) f.node) (rNetIdent 1) f.node
  setReg (setReg s (rNetPrefix 0) f.prefix0) (rNetPrefix 1) f.prefix1

/-- The populated channels that have trained: `bad` names the failed ones above the eight stacks. -/
def trainedChans (s : State) (bad : List Nat) : Nat :=
  (setBitsOf 12 (ledgerChans s.prof.ledgerPop)).foldl (fun m i => if bad.contains (8 + i) then m else m + 2 ^ i) 0

/-- The tunnel entries of a gateway and of a peer, when firmware runs (15 R397, R399; DESIGN CHOICE, assumption 31): the gateway listens for every peer of its boot paths, the peer opens to its gateway. -/
def tunnelEntries (s : State) : State :=
  if s.prof.role = 1 then
    s.prof.paths.foldl (fun s e => match freeEntry s 0 with
      | some x => { s with streams := tput s.streams x { st := .listen, part := 0, ctx := 16 + e.1, psn := e.1, peerPsn := e.1, peer := e.2.1 } }
      | none => s) s
  else if s.prof.role = 2 then
    match s.prof.paths.head?, freeEntry s 0 with
    | some e, some x =>
      let t := { s with streams := tput s.streams x { st := .opening, part := 0, ctx := 16, psn := s.prof.vfIndex, peerPsn := s.prof.vfIndex, peer := e.2.1, sndUna := noSeq } }
      if s.sec.entWait then t else openWith t x
    | _, _ => s
  else s

/-- NET_PORTCFG of a port as the profile sets it; a port that the profile does not list is off (DEDUCED, assumption 37). -/
def profilePort (s : State) (n : Nat) : Nat :=
  match s.prof.ports.find? (fun q => q.port = n) with | some q => b2n q.en + at_ q.mode 1 + at_ (b2n q.llr) 3 | none => 0

/-- A port takes its configuration from the profile: one that is up under another goes down first (13 R309). -/
def setPort (s : State) (n : Nat) : State :=
  let v := profilePort s n
  if bits v 3 0 = fld s (rNetPortcfg n) 3 0 then s
  else setReg (if (portSt s n).link || portUp s n then portDown s n else s) (rNetPortcfg n) v

/-- Step 8: ports from the profile, FW_READY, cluster state and ARV valid. -/
def bootReady (s : State) : State :=
  let s := (List.range 32).foldl setPort s
  let s := setFld s rHifStatus 0 0 1
  tunnelEntries { s with boot := { s.boot with step := 9, warm := false, up := true }, chain := { s.chain with beat := s.cycle } }

/-- BOOT_STEP_DONE: the step in progress ends; steps 3 and 4 end by the push. `ok` says that step 5 or 7 succeeded; `bad` lists the pcores whose RBG failed in step 6, or in step 7 the stacks 0 to 7 and the ledger channels Gi, as 8 + i, that failed training. After ROM recovery memories are not trained again (19 R478). Step 7 draws keys, and waits while no draw is served (18 R449). -/
def execBootStepDone (ok : Bool) (bad : List Nat) (s : State) : Res :=
  if s.boot.held ≠ 0 || fld s rPwrStat 13 11 ≠ 0 then .next s
  else
    let go := fun (s : State) (n : Nat) => { s with boot := { s.boot with step := n } }
    match s.boot.step with
    | 1 => .next (setStage (go s 2) 1)
    | 2 =>
      let s := go s 3
      if hostStrap s then .next { s with pins := { s.pins with pcieUp := true } }
      else .next ((List.range 4).foldl (fun s q => setReg s (rNetPortcfg q) 0xD) s)
    | 5 => if ok then .next { go s 6 with chain := { s.chain with die1Bad := false, beat := s.cycle, kicks := tput s.chain.kicks 1 s.cycle } } else .next (setFld s rPwrStat 13 11 5)
    | 6 => .next (go (applyProfile s bad) (if s.boot.warm then 8 else 7))
    | 7 =>
      if s.sec.entWait then .next s else
      let s := (List.range 8).foldl (fun s h => if bad.contains h then s else setStack s h 1) s
      let s := setReg s rLdgMemcfg (s.prof.ledgerPop + at_ s.prof.ledgerDens 4 + at_ (trainedChans s bad) 5)
      if ok && !bad.any (fun n => decide (n < 8) || bit (ledgerChans s.prof.ledgerPop) (n - 8)) then .next (go ((List.range 8).foldl newKeys (devZero s 0 hbmEnd)) 8) else .next (setFld s rPwrStat 13 11 7)
    | 8 => .next (bootReady s)
    | _ => .next s

/-! ### References (11 R272, 19 R477, 20 R495) -/

def domain1 (s : State) : Bool := bit (rd s rBelMuster) 16
def setRefValid (s : State) (b : Bool) : State := setFld s rBelMuster 17 17 (b2n b)

/-- floor(t / 6.4 ns) for the device's IEEE 1588 time now: the time of the last update and the DRUM_REF cycles since. -/
def refTime (s : State) (t : Nat × Nat) : Nat := t.1 * 10 / 64 + (s.refs.drum - t.2)

/-- IEEE_1588_TIME_UPDATE: `ns` is the device's time. In DOMAIN 1 REFCNT follows it; REF_VALID becomes possible. -/
def execIeee1588TimeUpdate (ns : BitVec 64) (s : State) : Res :=
  let s := { s with refs := { s.refs with time := some (ns.toNat, s.refs.drum) } }
  if domain1 s then .next (setRefValid { s with refcnt := ns.toNat * 10 / 64 % 2 ^ 64, refAcc := 0 } true)
  else .next (if s.refs.good ≥ 1 then setRefValid s true else s)

/-- What a pulse does to REFCNT in the drum domain: bits [19:0] fall to zero, and [63:20] are sampled from the IEEE 1588 time once that is known (11 R272). -/
def samplePulse (s : State) : State :=
  if domain1 s then s
  else
    let up := match s.refs.time with | some t => refTime s t / 2 ^ 20 | none => s.refcnt / 2 ^ 20
    { s with refcnt := up * 2 ^ 20 % 2 ^ 64, refAcc := 0 }

/-- DRUM_SYNC_PULSE: counted in DRUM_REF cycles since the pulse before. A pulse off the grid is ignored and clears REF_VALID; two consecutive good ones set it once the time is known. -/
def execDrumSyncPulse (s : State) : Res :=
  let d := s.refs.drum
  if s.boot.held = 2 then .next s
  else match s.refs.lastPulse with
    | some l =>
      if d - l ≠ 2 ^ 20 then
        let s := { s with refs := { s.refs with good := 0, lastPulse := some d } }
        .next (if domain1 s then s else setRefValid s false)
      else
        let s := samplePulse { s with refs := { s.refs with good := s.refs.good + 1, lastPulse := some d } }
        .next (if !domain1 s && s.refs.time.isSome then setRefValid s true else s)
    | none => .next (samplePulse { s with refs := { s.refs with lastPulse := some d, good := 0 } })

/-- DRUM_SYNC_SILENCE: no pulse for two periods. -/
def execDrumSyncSilence (s : State) : Res :=
  let late := match s.refs.lastPulse with | some l => decide (s.refs.drum ≥ l + 2 ^ 21) | none => true
  if late && !domain1 s then .next (setRefValid { s with refs := { s.refs with good := 0, lastPulse := none } } false) else .next s

/-- SERDES_REF_LOSS: every port of the die goes down. -/
def execSerdesRefLoss (d : Fin 2) (s : State) : Res :=
  .next ((rangeFrom (16 * d) 16).foldl (fun s n => if (portSt s n).link || portUp s n then portDown s n else s) s)

/-- REFCLK_LOSS: the PCIe link goes down. -/
def execRefclkLoss (s : State) : Res := .next { s with pins := { s.pins with pcieUp := false } }

/-! ### The recovery chain (17 R440 to R442) -/

/-- The tunnel streams stop answering and leave the table; a gateway's UP_n clear (15 R399, 17 R440). -/
def dropTunnels (s : State) : State :=
  (s.streams.filter (fun e => decide (16 ≤ e.2.ctx))).foldl (fun s e => let t := failStream s e.1; { t with streams := tdel t.streams e.1 }) s

/-- Drops the die 0 MGC to ROM recovery: every context stops without a record, the device awaits a push (17 R440). Memories and links that a boot has trained are not trained again (19 R478). -/
def romRecovery (s : State) : State :=
  let s := dropTunnels (stopAll s)
  let s := { s with boot := { s.boot with step := 3, warm := s.boot.warm || decide (8 ≤ s.boot.step) } }
  setStage (setFld (setFld (setFld s rHifFwctl 1 1 0) rHifStatus 0 0 0) rHifStatus 1 1 1) 4

/-- The die 1 MGC restarts from ROM and die 1 runs degraded (17 R442). -/
def restartDie1 (s : State) : State :=
  if s.chain.die1Bad then s else { s with chain := { s.chain with die1Bad := true, badAt := s.cycle } }

/-- Whether the die 1 MGC runs: from boot step 5, in which it is sent the verified image, until step 5 of a power entry halts it (19 R471, R480). -/
def die1Runs (s : State) : Bool := decide (6 ≤ s.boot.step) && decide (s.power.steps < 5)

/-- WATCHDOG_KICK: a write to GLB_WDOG_d with 1 in KICK, which counts only from die d's MGC; the other fields of the value are written (00 R7, R8). -/
def execWatchdogKick (d : Fin 2) (v : BitVec 32) (w : Writer) (s : State) : Res := gate s w fun s =>
  if !bit v.toNat 16 then .next s
  else .next (writeThen s (rWdog d) v.toNat (fun s => if w = .mgc d then { s with chain := { s.chain with kicks := tput s.chain.kicks d s.cycle } } else s))

/-- WATCHDOG_EXPIRE: no kick for TIMEOUT ms. While DBT_CYCLE is frozen the model takes the expiry as given. -/
def execWatchdogExpire (d : Fin 2) (s : State) : Res :=
  let due := tgetD s.chain.kicks d 0 + fld s (rWdog d) 15 0 * msCycles s
  if s.boot.held ≠ 0 || (s.power.steps < 6 && s.cycle < due) || (d = 1 && !die1Runs s) then .next s
  else
    let s := orReg { s with chain := { s.chain with kicks := tput s.chain.kicks d s.cycle } } (rWdog d) (2 ^ 17)
    .next (if d = 0 then romRecovery s else restartDie1 s)

/-- A pass of a die 1 sentinel does not go on while its tests are suspended (17 R442). -/
def resumePasses (s : State) : State :=
  { s with passAt := tmap s.passAt (fun p t => if dieOf p = 1 then t + (s.cycle - max t s.chain.badAt) else t) }

/-- DIE1_HEARTBEAT: the die 1 MGC, once it runs the verified image, reports. -/
def execDie1Heartbeat (s : State) : Res :=
  if !die1Runs s then .next s
  else
    let s := if s.chain.die1Bad then resumePasses s else s
    .next { s with chain := { s.chain with die1Bad := false, beat := s.cycle } }
/-- Whether `n` milliseconds have passed since a cycle; while DBT_CYCLE is frozen the model takes it as given. -/
def msPassed (s : State) (since n : Nat) : Bool := decide (6 ≤ s.power.steps) || decide (since + n * msCycles s ≤ s.cycle)
/-- DIE1_HEARTBEAT_LOSS: ten heartbeats, one due each millisecond, are missing. -/
def execDie1HeartbeatLoss (s : State) : Res := .next (if s.boot.held = 0 && die1Runs s && msPassed s s.chain.beat 10 then restartDie1 s else s)
/-- DIE1_REPORT_TIMEOUT: the restarted die 1 MGC has not reported within 100 ms. -/
def execDie1ReportTimeout (s : State) : Res := .next (if s.chain.die1Bad && msPassed s s.chain.badAt 100 then romRecovery s else s)

/-! ### The bridge (01 R25) -/

/-- Faults every context that runs when the bridge goes down: those that are RESIDENT (01 R25; DESIGN CHOICE, assumption 40: the spec does not say whether one that stows, restores or waits LOADED runs). -/
def faultRunning (s : State) (pr : Prob) : State :=
  (tkeys s.ctxs).foldl (fun s k => match ctxOf s k with | some c => if c.st = 2 then fault1 s k pr else s | none => s) s

/-- BRIDGE_REPLAY: a beat group of direction `dir` fails its CRC and is replayed; `again` says that it is the replay of the group that failed last. `miss` names the partition whose resident context consumes a flit that misses its delivery cycle, and the due run cycle: the package holds with cause 2. The fourth failure in a row takes the bridge down. -/
def execBridgeReplay (dir : Fin 2) (again : Bool) (miss : Option (Fin 8 × Nat)) (s : State) : Res :=
  if s.chain.bridgeDown then .next s
  else
    let n := if again then tgetD s.chain.bridge dir 0 + 1 else 1
    let s := { s with chain := { s.chain with bridge := tput s.chain.bridge dir n } }
    if n ≥ 4 then .next (faultRunning { s with chain := { s.chain with bridgeDown := true } } { cause := 0x1F, unit := 12, d0 := dir })
    else match miss with
      | some (p, u) => (match resident s p with
        | some (k, _) => .next (gateEval (raiseHold s 12 0 2 dir (some k) u (tolOr s p 12 0 0)))
        | none => .next s)
      | none => .next s

/-! ### JTAG (20 R492) -/

/-- JTAG_INSTRUCTION: boundary scan is always there; debug access only while DEBUG of the verified profile is set; all else selects bypass. -/
def execJtagInstruction (i : Fin 3) (s : State) : Res :=
  let sel := if i.val = 1 then 1 else if i.val = 2 && bit (rd s rBootstat) 8 then 2 else 0
  .next { s with sec := { s.sec with jtag := sel } }

end Sys2Proof.Machine
end

