-- ==== Sys2Proof/Machine/Sec.lean ====
section
/-! DEFINITION. Security: entropy, attestation, IDE, TDISP and its scrub, seal keys, configuration requests (chapter 18, 15 R372, R373). -/

namespace Sys2Proof.Machine

/-! ### Entropy (18 R449) -/

/-- Sets a partition's ledger region under new keys: every unit of it reads as poisoned (12 R304, R305). -/
def setRegion (s : State) (p v : Nat) : State :=
  let s := setReg (newKeys s p) (rLdgRegion p) v
  poisonRange s (bits v 47 20 * 1048576) (bits v 63 48 * 1048576)

/-- What a GDDR device holds of 64-byte unit u of ledger memory under the keys of partition p: AES-256-XTS with the unit's number as tweak (12 R304). -/
def ledgerCell (s : State) (p u : Nat) : Bytes :=
  let k := tgetD s.ldgKeys p (0, 0)
  aesXts (beBytes 32 k.1) (beBytes 32 k.2) u (devRead s (u * 64) 64)

/-! ### Attestation (18 R450 to R453) -/

def totalVfs (s : State) : Nat := if s.prof.role = 1 then s.prof.peers else 0
/-- NumVFs as last configured. -/
def numVfs (s : State) : Nat := match tget s.sec.cfg 7 with | some v => v.toNat % 65536 | none => 0
/-- A VF that the host has enabled (15 R372). -/
def vfOn (s : State) (f : Nat) : Bool := decide (1 ≤ f) && decide (f ≤ numVfs s) && decide (f ≤ totalVfs s)
/-- First VF Offset and VF Stride of the SR-IOV capability; and the requester ID of a function, that of PF0 being `pf` (15 R372). -/
def firstVfOffset : Nat := 1
def vfStride : Nat := 1
def requesterId (pf f : Nat) : Nat := if f = 0 then pf else pf + firstVfOffset + (f - 1) * vfStride

/-- The firmware measurement FWM. -/
def fwm (s : State) : Bytes := sha384 (s.fw.imageDig ++ s.fw.profileDig)

/-- The certificate chain of slot 0. -/
def certChain (s : State) : Bytes := Config.certChain s.fw.vendor s.fw.devKey (publicKey s.fw.aliasKey) (publicKey s.fw.sealKey)

/-- An answer of the mailbox of a function, under its response code; a peer's goes through the tunnel to its VF (18 R453). -/
def answer (s : State) (f code : Nat) (b : Bytes) : State :=
  if s.prof.role = 2 then toTunnel s 0 6 0 (byte code :: b) else { s with out := s.out ++ [.spdm f (byte code :: b)] }

/-- An answer with a signature by the alias key over what it says, under a nonce of its own (18 R451). -/
def signedAnswer (s : State) (f code : Nat) (b msg : Bytes) : State :=
  answer (drawn s 1) f code (b ++ ecdsaSign s.fw.aliasKey (Config.entropy s.draws % (ecN - 1) + 1) (sha384 msg))

/-- Measurement block i (18 R452). -/
def measurement (s : State) (f i : Nat) : Bytes :=
  match i with
  | 1 => padTo 48 Config.romDigest
  | 2 => s.fw.imageDig
  | 3 => leBytes 2 s.fw.svn ++ leBytes 4 s.fw.version ++ leBytes 2 s.fw.ftl
  | 4 => s.fw.profileDig
  | 5 => s.fw.ownerDig
  | 6 => leBytes 4 (identWord s) ++ leBytes 8 (rd s rArv)
  | 7 => leBytes 16 (retiredWord s) ++ leBytes 8 (clustatWord s)
  | 8 => leBytes 1 (b2n s.prof.debug) ++ leBytes 1 s.sec.jtag ++ leBytes 4 (rd s (rSecTdi f))
  | _ => []

/-- What the device does for a request that needs a draw: the signature of CHALLENGE is over chain digest and nonce, that of GET_MEASUREMENTS over the blocks asked for, all eight for 255, and the nonce; a KEY_EXCHANGE opens a secure session, at most four at a time. -/
def doAsk (s : State) (f : Nat) (a : Ask) : State :=
  match a with
  | .challenge nonce => let d := sha384 (certChain s); signedAnswer s f 0x03 d (d ++ nonce)
  | .measure i nonce =>
    let b := if i = 255 then (rangeFrom 1 8).flatMap (measurement s f) else measurement s f i
    signedAnswer s f 0x60 b (b ++ nonce)
  | .exchange req =>
    if s.sec.sessions.length ≥ 4 then s
    else
      let n := s.sec.nextSession
      answer { drawn s 1 with sec := { (drawn s 1).sec with sessions := s.sec.sessions ++ [(f, n)], nextSession := n + 1 } } f 0x64
        (leBytes 2 n ++ Config.keyExchange s.draws (fwm s) req)

/-- Such a request is answered, or waits while no draw is served (18 R449). -/
def ask (s : State) (f : Nat) (a : Ask) : State :=
  if s.sec.entWait then { s with sec := { s.sec with asks := s.sec.asks ++ [(f, a)] } } else doAsk s f a

/-- The answer to a heartbeat: while its session is open. -/
def beatSession (s : State) (f n : Nat) : State := if s.sec.sessions.contains (f, n) then answer s f 0x68 (leBytes 2 n) else s

/-- Answers SPDM on function f. A VF of a gateway is its peer's own mailbox: request code and content go into the tunnel unchanged. Nothing answers before firmware runs. The content is modelled, not its DSP0274 encoding (DESIGN CHOICE, assumption 32). -/
def spdm (s : State) (f code : Nat) (req : Bytes) (k : State → State) : State :=
  if s.boot.step < 5 then s
  else if f ≠ 0 then (if s.prof.role = 1 && vfOn s f then toTunnel s f 6 0 (byte code :: req) else s)
  else k s

/-- SPDM_GET_CERTIFICATE: bytes of the chain of slot 0. -/
def execSpdmGetCertificate (f : Fin 64) (off len : Nat) (s : State) : Res :=
  .next (spdm s f 0x82 (leBytes 4 off ++ leBytes 4 len) (fun s => answer s f 0x02 (((certChain s).drop off).take len)))

/-- SPDM_CHALLENGE: answered with a signature by the alias key. -/
def execSpdmChallenge (f : Fin 64) (nonce : Bytes) (s : State) : Res :=
  .next (spdm s f 0x83 nonce (fun s => ask s f (.challenge nonce)))

/-- SPDM_GET_MEASUREMENTS: block i, or all eight for i = 255. -/
def execSpdmGetMeasurements (f : Fin 64) (i : BitVec 8) (nonce : Bytes) (s : State) : Res :=
  .next (spdm s f 0xE0 (leBytes 1 i.toNat ++ nonce) (fun s => ask s f (.measure i.toNat nonce)))

/-- SPDM_KEY_EXCHANGE: opens a secure session. -/
def execSpdmKeyExchange (f : Fin 64) (req : Bytes) (s : State) : Res :=
  .next (spdm s f 0xE4 req (fun s => ask s f (.exchange req)))

/-- The session ends. -/
def endSession (s : State) (f n : Nat) : State := { s with sec := { s.sec with sessions := s.sec.sessions.filter (· ≠ (f, n)) } }

/-- SPDM_HEARTBEAT: answered while the session is open; with `expired` its period has passed without one and the session ends, which is no message. -/
def execSpdmHeartbeat (f : Fin 64) (n : Nat) (expired : Bool) (s : State) : Res :=
  if expired then .next (endSession s f n)
  else .next (spdm s f 0xE8 (leBytes 2 n) (fun s => beatSession s f n))

/-- An SPDM message that a gateway's tunnel brings to a peer: request code and content (18 R453). -/
def spdmMessage (s : State) (b : Bytes) : State :=
  let r := b.drop 1
  if s.boot.step < 5 then s
  else match fieldB b 0 1 with
    | 0x82 => answer s 0 0x02 (((certChain s).drop (fieldB r 0 4)).take (fieldB r 4 4))
    | 0x83 => ask s 0 (.challenge r)
    | 0xE0 => ask s 0 (.measure (fieldB r 0 1) (r.drop 1))
    | 0xE4 => ask s 0 (.exchange r)
    | 0xE8 => beatSession s 0 (fieldB r 0 2)
    | _ => s

/-- A peer's SPDM answer that the tunnel brings to its gateway: it is the answer of VF n. A session that it opens is the VF's, within which IDE_KM and TDISP messages come (18 R451, R453; DEDUCED, assumption 32). -/
def spdmFrom (s : State) (n : Nat) (b : Bytes) : State :=
  let s := if fieldB b 0 1 = 0x64 then { s with sec := { s.sec with sessions := s.sec.sessions ++ [(n, fieldB b 1 2)] } } else s
  { s with out := s.out ++ [.spdm n b] }

/-- ENTROPY_FAIL: a health test fails after boot; no draw is served until a reseed passes. -/
def execEntropyFail (s : State) : Res :=
  if bit (rd s rBootstat) 6 then .next { orReg s rBootstat 128 with sec := { s.sec with entWait := true } } else .next s

/-- ENTROPY_RESEED: a seed passes its health tests. Waiting region writes, stream opens and SPDM answers proceed. -/
def execEntropyReseed (s : State) : Res :=
  let q := s.sec.entQ
  let s := setFld { s with sec := { s.sec with entWait := false, entQ := [], asked := 0 } } rBootstat 6 6 1
  let a := s.sec.asks
  let s := q.foldl (fun s e => setRegion s e.1 e.2) { s with sec := { s.sec with asks := [] } }
  let s := s.streams.foldl (fun s e => if e.2.st = .opening && e.2.sndUna = noSeq then openWith s e.1 else s) s
  .next (a.foldl (fun s e => doAsk s e.1 e.2) s)

/-! ### IDE and TDISP (18 R454 to R456) -/

def setTdi (s : State) (f v : Nat) : State := setFld s (rSecTdi f) 2 0 v
/-- A request of the host driver to the BARs of a VF, which `k` sends to its peer: the VF is enabled, its TDI takes the request (18 R455), and the peer's writes are not dropped (15 R374). The push registers are reached all the same, since a peer is pushed before UP_n can be set (15 R398; DEDUCED, assumption 31). -/
def toVf (s : State) (f off : Nat) (t : Option (Fin 8)) (k : State → State) : State :=
  if !vfOn s f then s
  else if !tdiTakes s f t then { s with out := s.out ++ [.unsupported f] }
  else if s.chain.cut.contains f && !(0x60010 ≤ off && off < 0x60020) then s
  else k s
/-- Whether a function is a TDI (18 R455). -/
def isTdi (s : State) (f : Nat) : Bool := if s.prof.role = 0 then decide (f = 0) else vfOn s f

/-- Ends every context with a status and destroys every seal key; every waiting completion that has room is written before its QP goes (18 R456). -/
def scrubContexts (s : State) (status : Nat) : State :=
  let s := settleFaults s
  let s := (tkeys s.ctxs).foldl (fun s k => endCtx s k status) s
  let s := (List.range 8).foldl dropSeal s
  (List.range 64).foldl (fun s q => flushQp (qp s q).waiting.length s q) s

/-- Clears EN of every QP, partition, ledger ring and bell. -/
def scrubEnables (s : State) : State :=
  let s := (List.range 64).foldl (fun s q => setFld (setFld s (rHifQpcfg q) 0 0 0) (rBelCfg q) 0 0 0) s
  let s := (List.range 8).foldl (fun s p => setFld (setFld s (rPtnCfg p) 0 0 0) (rLdgCtrl p) 0 0 0) s
  { s with qps := [], parts := tmap s.parts (fun _ x => { x with ring := {}, letIn := none }) }

/-- Zeroes every HBM region with its stow areas, every SRAM and tally store, and draws new ledger keys. -/
def scrubMemory (s : State) : State :=
  let s := (List.range 8).foldl (fun s p => devZero s (ptnHbm s p).1 ((ptnHbm s p).2 - (ptnHbm s p).1)) s
  let s := clearSrams s
  rekeyLedger { s with parts := tmap s.parts (fun _ x => { x with zeroing := false }) }

/-- Starts the scrub of the device that a TDI presents: this one for PF0, the peer behind its tunnel for a VF (18 R456). -/
def startScrub (s : State) (f status : Nat) : State :=
  let s := setTdi s f 4
  if f = 0 then scrubMemory (scrubEnables (scrubContexts s status)) else toTunnel s f 7 status []

/-- A TDI enters ERROR: the entry counts, and the scrub starts (18 R455, R456). -/
def tdiError (s : State) (f : Nat) : State :=
  if tdiState s f = 1 || tdiState s f = 2 then startScrub (satFld s (rSecTdi f) 31 16 1) f 12 else s

/-- IDE_KM_KEY_SET_GO: within a secure session the stream goes to the key set; traffic is not lost. `key` is what IDE_KM has programmed into the set since its last use; a set without keys is not gone to. -/
def execIdeKmKeySetGo (f : Fin 64) (st : Fin 9) (keySet : Bool) (key : Option Bytes) (s : State) : Res :=
  let i := st.val * 2 + b2n keySet
  let keys := match key with | some k => tput s.sec.ideKeys i k | none => s.sec.ideKeys
  if !s.sec.sessions.any (fun e => e.1 = f.val) then .next s
  else .next { s with sec := { s.sec with ideKeys := keys, ide := if thas keys i then tput s.sec.ide st (b2n keySet, true) else s.sec.ide } }

/-- IDE_TLP_FAIL: the TLP is dropped, the stream turns insecure, every TDI bound to it enters ERROR. -/
def execIdeTlpFail (st : Fin 9) (s : State) : Res :=
  match tget s.sec.ide st with
  | some (k, true) =>
    let s := { s with sec := { s.sec with ide := tput s.sec.ide st (k, false) } }
    .next ((List.range 64).foldl (fun s f => if bit (rd s (rSecTdi f)) 3 && fld s (rSecTdi f) 6 4 = st.val then tdiError s f else s) s)
  | _ => .next s

/-- TDISP_LOCK_INTERFACE: an unlocked TDI binds to a secure selective stream and its configuration is locked. -/
def execTdispLockInterface (f : Fin 64) (st : Fin 8) (s : State) : Res :=
  if !isTdi s f || tdiState s f ≠ 0 || !(match tget s.sec.ide st with | some e => e.2 | none => false) || !s.sec.sessions.any (fun e => e.1 = f.val) then .next s
  else .next (setFld (setFld (setTdi s f 1) (rSecTdi f) 3 3 1) (rSecTdi f) 6 4 st)

/-- TDISP_START_INTERFACE: a locked TDI runs. -/
def execTdispStartInterface (f : Fin 64) (s : State) : Res :=
  if tdiState s f = 1 && s.sec.sessions.any (fun e => e.1 = f.val) then .next (setTdi s f 2) else .next s

/-- TDISP_STOP_INTERFACE: a TDI that leaves RUN is scrubbed; one that is only locked unlocks. -/
def execTdispStopInterface (f : Fin 64) (s : State) : Res :=
  if !s.sec.sessions.any (fun e => e.1 = f.val) then .next s
  else if tdiState s f = 2 then .next (startScrub s f 13)
  else if tdiState s f = 1 then .next (setFld (setTdi s f 0) (rSecTdi f) 6 3 0)
  else .next s

/-- TDI_SCRUB_DONE: the TDI enters CONFIG_UNLOCKED and is bound to no stream. -/
def execTdiScrubDone (f : Fin 64) (s : State) : Res :=
  if tdiState s f = 4 then .next (setFld (setTdi s f 0) (rSecTdi f) 6 3 0) else .next s

/-! ### Configuration requests (15 R372, R373, 18 R455) -/

def cfgKey (f : Nat) (i : CfgItem) : Nat :=
  f * 2048 + (match i with | .bar j => j.val | .msixTable => 6 | .numVfs => 7 | .other o => 8 + o.toNat | .sriov j => 1056 + j.val | .vector n w => 1280 + 4 * n.val + w.val)

/-- Bytes of the three BARs of a function; an address bit below the size reads zero, as the PCIe specification has it (15 R373). -/
def barSize (j : Nat) : Nat := match j with | 0 => 0x10000000 | 2 => 0x40000 | 4 => 0x4000 | _ => 1
/-- What a configuration dword holds after a write. -/
def cfgValue (i : CfgItem) (v : BitVec 32) : BitVec 32 :=
  match i with | .bar j => BitVec.ofNat 32 (v.toNat / barSize j * barSize j) | _ => v

/-- A write of a dword of an MSI-X table entry: address low and high, data, mask; a pending message is sent when its vector is unmasked (15 R394). -/
def writeVector (s : State) (f n w : Nat) (v : Nat) : State :=
  let e := msixEnt s f n
  let put := fun (x : MsixEnt) => { s with msix := tput s.msix (f * 128 + n) x }
  match w with
  | 0 => put { e with addr := setBits e.addr 31 0 v }
  | 1 => put { e with addr := setBits e.addr 63 32 v }
  | 2 => put { e with data := v % 2 ^ 32 }
  | _ =>
    if bit v 0 then put { e with mask := true }
    else if e.pend then sendMsixOf (put { e with mask := false, pend := false }) f n
    else put { e with mask := false }

/-- CONFIGURATION_REQUEST: a configuration write takes effect; a change to the BARs, the MSI-X table location or the SR-IOV capability of a locked TDI moves it to ERROR. NumVFs is a field of PF0 and at most TotalVFs. Writes of the MSI-X tables come with this row. -/
def execConfigurationRequest (f : Fin 64) (i : CfgItem) (v : BitVec 32) (s : State) : Res :=
  let pf := match i with | .numVfs => true | .sriov _ => true | _ => false
  if !s.pins.pcieUp || !(f.val = 0 || vfOn s f) || (pf && f.val ≠ 0) || (i = .numVfs && decide (v.toNat > totalVfs s)) then .next s
  else match i with
  | .vector n w => .next (writeVector s f n w v.toNat)
  | _ =>
    let v := cfgValue i v
    let old := (tget s.sec.cfg (cfgKey f i)).getD 0
    let hit := fun (n : Nat) => (pf || (match i with
      | .bar _ => decide (n = f.val) | .msixTable => decide (n = f.val) | _ => false)) && isTdi s n
    let l := (List.range 64).filter hit
    let s := { s with sec := { s.sec with cfg := tput s.sec.cfg (cfgKey f i) v } }
    .next (if old = v then s else l.foldl tdiError s)

/-! ### Seal keys (18 R460 to R463) -/

def setSealStatus (s : State) (p v : Nat) : State := setFld s (rSealctl p) 10 8 v

/-- Whether slot c of a partition is in state NONE; an EXPORTED context is not (16 R404). -/
def ctxNone (s : State) (p c : Nat) : Bool := (ctxOf s (ctxKey p c)).isNone && !(part s p).exported.contains c

/-- SEAL_INSTALL: a write to SEC_SEALCTL_p with 1 in INSTALL, and CTX; a 1 in CLEAR beside it destroys the installed key first (DESIGN CHOICE, assumption 52). While KEYED or for a context in state NONE it is refused with STATUS 7; a refused one, or one whose context's region does not hold the seal window, is rejected: no other field changes, and CLEAR has no effect (18 R461, R468). While BUSY it changes nothing. -/
def execSealInstall (p : Fin 8) (v : BitVec 32) (w : Writer) (s : State) : Res := gate s w fun s =>
  let c := bits v.toNat 5 2
  if !bit v.toNat 0 || bit (rd s (rSealctl p)) 7 then .next s
  else if bits v.toNat 31 11 = 0 && (bit (rd s (rSealctl p)) 6 && !bit v.toNat 1 || ctxNone s p c) then .next (setSealStatus (rejectOff s (rSealctl p)) p 7)
  else if !winFits s p c (rd s (rSealwin p)) then .next (rejectOff s (rSealctl p))
  else .next (writeThen s (rSealctl p) v.toNat (fun s =>
    let s := if bit v.toNat 1 then dropSeal s p else s
    setSealStatus (setFld s (rSealctl p) 7 7 1) p 0))

/-- SEAL_CLEAR: a write to SEC_SEALCTL_p with 1 in CLEAR and 0 in INSTALL destroys the key; CTX is written. -/
def execSealClear (p : Fin 8) (v : BitVec 32) (w : Writer) (s : State) : Res := gate s w fun s =>
  if !bit v.toNat 1 || bit v.toNat 0 then .next s
  else .next (writeThen s (rSealctl p) v.toNat (fun s => dropSeal s p))

/-- The first failing check of a blob as its STATUS, or the set key (18 R460, R461). The blob carries no public key: its signature verifies under one whose digest is SEAL_AUTH where one of the keys that fit it has that digest. -/
def unwrapBlob (s : State) (b : Bytes) : Except Nat Bytes :=
  if fieldB b 0 4 ≠ 0x4B374E46 || fieldB b 4 2 ≠ 1 || fieldB b 6 2 = 0 || fieldB b 0x109 7 ≠ 0 || fieldB b 0x11C 4 ≠ 0 then .error 3
  else if !(ecdsaKeys (sha384 (sliceB b 0 0x150)) (sliceB b 0x150 96)).any (fun k => sha384 k = s.prof.sealAuth) then .error 4
  else if sliceB b 0x18 48 ≠ sha384 s.fw.devKey || sliceB b 0x48 48 ≠ fwm s then .error 5
  else match ecdh s.fw.sealKey (sliceB b 0xA8 97) with
    | none => .error 6
    | some z =>
      let kek := hkdf384 (sliceB b 8 16) z (ascii "FN7 seal wrap" ++ sliceB b 0x18 48 ++ sliceB b 0x78 48) 32
      match gcmOpen kek (sliceB b 0x110 12) (sliceB b 0 0x110) (sliceB b 0x120 48) with
      | some k => .ok k
      | none => .error 6

/-- SEAL_INSTALL_DONE: the blob has been read, or its read failed; BUSY clears and STATUS and KEYED are set. -/
def execSealInstallDone (p : Fin 8) (blob : Option Bytes) (s : State) : Res :=
  if !bit (rd s (rSealctl p)) 7 then .next s
  else
    let s := setFld s (rSealctl p) 7 7 0
    let c := fld s (rSealctl p) 5 2
    match blob with
    | none => .next (setSealStatus s p 2)
    | some b =>
      if ctxNone s p c then .next (setSealStatus s p 7)
      else match unwrapBlob s (padTo 432 b) with
        | .error e => .next (setSealStatus s p e)
        | .ok k =>
          let s := { s with seals := tput s.seals p { ctx := c, setId := sliceB b 8 16, key := k } }
          .next (setSealStatus (setFld (setFld s (rSealctl p) 6 6 1) (rSealuse p) 31 0 0) p 1)

end Sys2Proof.Machine
end

