-- ==== Sys2Proof/Machine/Ward.lean ====
section
/-! DEFINITION. Ward frames: toll checks and verdicts, ward resets, tunnels before firmware runs, and the gateway's side of its peers (17 R434 to R439, 15 R372, R374, R397 to R399). -/

namespace Sys2Proof.Machine

/-! ### The frame (17 R438) -/

/-- The node under which a device sends ward frames: its own, or before a profile is verified the one under which its gateway names it (15 R398; DESIGN CHOICE, assumption 31). -/
def wardNode (s : State) : Nat := if bit (rd s rWardstat) 0 then s.prof.node else match s.chain.gate with | some g => g.2.2 | none => s.prof.node

/-- The 64-byte ward body with its TAG under the ward key. -/
def wardBody (s : State) (op pidx : Nat) (path : List Nat) (target counter : Nat) (arg tunnel : Bytes) : Bytes :=
  let mk := fun (i : Nat) => leBytes 1 op ++ leBytes 1 i ++ leBytes 1 path.length ++ leBytes 1 0 ++ padTo 8 (path.map byte) ++ leBytes 4 target
    ++ leBytes 4 (wardNode s) ++ leBytes 4 0 ++ leBytes 8 counter ++ padTo 16 arg
  mk pidx ++ (hmac384 s.prof.wardKey (mk 0 ++ tunnel)).take 16

/-- The CVT body of TYPE 0xB around a ward body. -/
def wardCvt (b tunnel : Bytes) : Bytes := cvtBody (cvtHdr 11 0 (b.length + tunnel.length) 0xFFFF 0xFFFF 0 0 0 0 0) (b ++ tunnel) none

/-- Sends a ward frame: along its path from the first port, or routed by IPv6 from die 0. -/
def sendWard (s : State) (op : Nat) (path : List Nat) (target counter : Nat) (arg tunnel : Bytes) : State :=
  match path with
  | [] => routeBody s 0 none target 0 0 0xFFFF false (wardCvt (wardBody s op 0 [] target counter arg tunnel) tunnel)
  | n :: _ => queueLocal s n (ipPacket s (n / 16) target 0 0 0xFFFF (wardCvt (wardBody s op 1 path target counter arg tunnel) tunnel))

def keyed (s : State) : Bool := bit (rd s rWardstat) 0
def rejectWard (s : State) : State := satFld s rWardstat 31 16 1

/-- The ward body as it came, under a PIDX. -/
def bodyAt (w : WardFrame) (op pidx : Nat) : Bytes :=
  let arg := if op = 1 then leBytes 8 w.step ++ leBytes 8 w.t else if op = 2 then leBytes 8 w.step ++ leBytes 1 w.code ++ leBytes 1 (b2n w.stop) ++ leBytes 2 0 ++ leBytes 4 w.equal else []
  leBytes 1 op ++ leBytes 1 pidx ++ leBytes 1 w.path.length ++ leBytes 1 0 ++ padTo 8 (w.path.map byte) ++ leBytes 4 w.target
    ++ leBytes 4 w.source ++ leBytes 4 0 ++ leBytes 8 w.counter ++ padTo 16 arg ++ padTo 16 w.tag

/-- Whether a frame carries the TAG of its body, PIDX taken as zero, and of its tunnel payload (17 R438). -/
def tagFits (s : State) (w : WardFrame) (op : Nat) : Bool := padTo 16 w.tag = (hmac384 s.prof.wardKey ((bodyAt w op 0).take 48 ++ w.tunnel)).take 16

/-- A ward frame for this node wakes a device in Dormant, any frame one in Rest (19 R472). -/
def wardWake (s : State) (port : Nat) : State :=
  if begunState s.power = 3 && port = fld s rPwrWake 4 0 then wake s 4 0 else frameWake s

/-- Ward logic: the checks of 13 R315, the OP, the TAG, the hop along PATH, the target; `k` handles a frame that has arrived. Until a profile is verified only TUNNEL and RESET are taken, on ports 0 to 3, from the link-retry neighbour, without the TAG; NODE is then not known, so TARGET is not compared (17 R438, R439). -/
def onWard (s : State) (port op : Nat) (w : WardFrame) (k : State → State) : State :=
  rxChecked s port { fcsOk := w.fcsOk, ipOk := w.ipOk, icrcOk := w.icrcOk, node := w.source, dsidx := 0xFFFF, ssidx := 0xFFFF, type := 11 } (fun s =>
    if w.op = 0 || 4 < w.op then rejectWard s
    else if !keyed s && !((op = 3 || op = 4) && port < 4 && llrOn s port && w.fromNeighbour) then s
    else if keyed s && !tagFits s w op then rejectWard s
    else if w.pidx < w.path.length then
      let n := w.path.getD w.pidx 0
      queueLocal s n (ipPacket s (n / 16) w.target 0 0 0xFFFF (wardCvt (bodyAt w op (w.pidx + 1)) w.tunnel))
    else if keyed s && w.target ≠ s.prof.node then s
    else k (wardWake s port))

/-! ### Toll checks (17 R434 to R437) -/

/-- Whether a step of a context is a toll step. -/
def tollStep (s : State) (k : Nat) (c : Ctx) (step : Nat) : Bool :=
  let r := rd s (rPtnToll (k / 16))
  bit r 0 && decide (2 ≤ c.prog.plan.replicas) && step % (max 1 (bits r 31 16)) = 0

/-- T: the CRC-64 over the layer entries of a step in ledger order. -/
def tollDigest (ls : List LayerEnt) : Nat :=
  crc64 (ls.flatMap (fun e => leBytes 4 e.layer ++ leBytes 2 e.shard ++ leBytes 2 e.shards ++ leBytes 8 e.w))

/-- Position of a rank (14 R348). -/
def positionOf (c : Ctx) (r : Nat) : Nat := r % (max 1 (c.prog.plan.devices / max 1 c.prog.plan.replicas))

/-- Code and count of equal members for a rank, given the T of every rank (17 R435). -/
def verdictOf (c : Ctx) (ts : Tbl Nat) (r : Nat) : Nat × Nat :=
  let grp := (List.range c.prog.plan.devices).filter (fun q => positionOf c q = positionOf c r)
  let t := tgetD ts r 0
  let cnt := fun (x : Nat) => (grp.filter (fun q => tgetD ts q 0 = x)).length
  let eq := cnt t
  let code := if eq = grp.length then 3 else if 2 * eq > grp.length then 1
    else if grp.any (fun q => decide (2 * cnt (tgetD ts q 0) > grp.length)) then 0 else 2
  (code, eq)

/-- Whether the job stops: some code is not AGREE. -/
def jobStops (c : Ctx) (ts : Tbl Nat) : Bool := (List.range c.prog.plan.devices).any (fun r => (verdictOf c ts r).1 ≠ 3)

/-- A verdict reaches the context: it is recorded; a stop faults the context with *toll expulsion*; otherwise the hold that waited for it ends (17 R436, R437). -/
def takeVerdict (s : State) (k : Nat) (step code : Nat) (stop : Bool) (equal : Nat) : State :=
  let p := k / 16
  let s := satFld s (rPtnTollstat p) 31 0 1
  let s := setFld s (rPtnTollstat p) 34 32 (code + 4 * b2n stop)
  if stop then fault1 s k { cause := 0x21, unit := 11, d0 := 0xFFFFFFFF, d1 := step, d2 := code, d3 := equal }
  else gateEval (returnHolds (modCtx s k (fun c => { c with toll := none })) (fun h => h.unit = 11 && h.term = tollTerm && h.ctx = some k))
where
  /-- MODEL: the term under which the toll hold is kept; no cover table entry names it. -/
  tollTerm : Nat := 255

/-- A VERDICT arrives: that of a context that is not resident is held in its block and acted on at its restore (17 R443). -/
def landVerdict (s : State) (k : Nat) (c : Ctx) (step code : Nat) (stop : Bool) (equal : Nat) : State :=
  if c.st = 2 then takeVerdict s k step code stop equal
  else modCtx s k (fun c => { c with toll := c.toll.map (fun t => { t with verdict := some (code, stop, equal) }) })

/-- Sends the VERDICT of a rank, or hands the root its own. -/
def sendVerdict (s : State) (k : Nat) (c : Ctx) (ts : Tbl Nat) (step r : Nat) : State :=
  let (code, eq) := verdictOf c ts r
  let stop := jobStops c ts
  if r = c.rank then
    (match (ctxOf s k).bind (·.toll) with
     | some t => if t.step = step then landVerdict s k c step code stop eq else s
     | none => s)
  else sendWard s 2 [] (c.ranks.getD r 0) 0 (leBytes 8 step ++ leBytes 1 code ++ leBytes 1 (b2n stop) ++ leBytes 2 0 ++ leBytes 4 eq) []

/-- The root takes the T of a rank; the last one decides, and a repeated TOLL is answered again (17 R435). A rank that sends its T of a later toll step has its verdict of the one before, so a step's values go when the next step's are complete. The root's own verdict comes last. -/
def rootToll (s : State) (k step r t : Nat) : State :=
  match ctxOf s k with
  | none => s
  | some c =>
    let n := c.prog.plan.devices
    let old := tgetD c.tollIn step []
    if old.length = n then (if r = c.rank then s else sendVerdict s k c old step r)
    else
      let ts := if thas old r then old else tput old r t
      let s := modCtx s k (fun c => { c with tollIn := if ts.length < n then tput c.tollIn step ts else [(step, ts)] })
      if ts.length < n then s
      else ((List.range n).filter (· ≠ c.rank) ++ [c.rank]).foldl (fun s q => sendVerdict s k c ts step q) s

/-- Sends or resends this device's TOLL. -/
def sendToll (s : State) (k : Nat) (c : Ctx) (t : Toll) : State :=
  let s := modCtx s k (fun c => { c with toll := c.toll.map (fun t => { t with sentAt := s.cycle }) })
  if c.rank = 0 then rootToll s k t.step 0 t.t
  else sendWard s 1 [] (c.ranks.getD 0 0) 0 (leBytes 8 t.step ++ leBytes 8 t.t) []

/-- At the step boundary that ends a toll step the device forms T and sends it (17 R434). -/
def tollBoundary (s : State) (k : Nat) (ls : List LayerEnt) : State :=
  match ctxOf s k with
  | none => s
  | some c =>
    if !tollStep s k c c.step then s
    else
      let t : Toll := { step := c.step, t := tollDigest ls, verdict := none, dueCount := none }
      sendToll (modCtx s k (fun c => { c with toll := some t })) k c t

/-- Whether a context runs in the sense of 17 R439. -/
def tollRuns (c : Ctx) : Bool := c.st = 2 || c.st = 3 || c.st = 4 || c.st = 5 || c.st = 6

/-- WARD_TOLL: a TOLL at the root; one for a step that no toll of a running context awaits is rejected. -/
def execWardToll (port : Fin 32) (w : WardFrame) (s : State) : Res :=
  .next (onWard s port 1 w (fun s =>
    match s.ctxs.find? (fun e => tollRuns e.2 && e.2.rank = 0 && e.2.ranks.contains w.source && tollStep s e.1 e.2 w.step
        && (w.step = e.2.step || thas e.2.tollIn w.step)) with
    | some (k, c) => rootToll s k w.step (c.ranks.findIdx (· = w.source)) w.t
    | none => rejectWard s))

/-- The first context of a partition, resident or stowed, whose TOLL is due again, with its toll: 64 µs after the last sending and no VERDICT yet (17 R434). Rank 0, which is the root, has nothing to resend. -/
def tollDue (s : State) (p : Nat) : Option (Nat × Ctx × Toll) :=
  s.ctxs.findSome? (fun e => if e.1 / 16 ≠ p || e.2.rank = 0 || !tollRuns e.2 then none
    else e.2.toll.bind (fun t => if t.verdict.isNone && usPassed s t.sentAt 64 then some (e.1, e.2, t) else none))

/-- TOLL_RESEND: every 64 µs until the VERDICT arrives. -/
def execTollResend (p : Fin 8) (s : State) : Res :=
  match tollDue s p with
  | some (k, c, t) => .next (sendToll s k c t)
  | none => .next s

/-- WARD_VERDICT: 17 R437; the verdict of a context that is not resident is held and acted on at its restore (17 R443). -/
def execWardVerdict (port : Fin 32) (w : WardFrame) (s : State) : Res :=
  .next (onWard s port 2 w (fun s =>
    match s.ctxs.find? (fun e => tollRuns e.2 && e.2.ranks.getD 0 0 = w.source && (match e.2.toll with | some t => t.step = w.step && t.verdict.isNone | none => false)) with
    | some (k, c) =>
      landVerdict s k c w.step w.code w.stop w.equal
    | none => rejectWard s))

/-- TOLL_VERDICT_TIMEOUT: still missing TIMEOUT grid points of the muster bell after its beat (17 R436). -/
def execTollVerdictTimeout (p : Fin 8) (s : State) : Res :=
  match resident s p with
  | some (k, c) => match c.toll.bind (·.dueCount) with
    | some n =>
      if (part s p).points ≥ n + musterTimeout s c then .next (fault1 s k { cause := 0x1E, unit := 13, d0 := musterD0 c }) else .next s
    | none => .next s
  | none => .next s

/-! ### Ward reset and tunnels -/

/-- WARD_RESET: an accepted RESET sets FLOOR and resets the device as RST_N does (17 R439, 19 R478). -/
def execWardReset (port : Fin 32) (w : WardFrame) (s : State) : Res :=
  .next (onWard s port 3 w (fun s =>
    if w.counter ≤ rd s rWard then rejectWard s
    else tryBoot (setReg (resetNow s false) rWard w.counter)))

/-- The peer number of a node in the boot paths. -/
def peerOfNode (s : State) (node : Nat) : Option Nat := (s.prof.paths.find? (fun e => e.2.1 = node)).map (·.1)

/-- WARD_TUNNEL: relayed along the path, or delivered: the operation that it carries is carried out in the next cycle. A peer learns from it where its gateway is (15 R398; DESIGN CHOICE, assumption 31). -/
def execWardTunnel (port : Fin 32) (w : WardFrame) (s : State) : Res :=
  .next (onWard s port 4 w (fun s =>
    let o := tunOf (beNat (w.tunnel.take 6)) (w.tunnel.drop 6)
    if s.prof.role = 1 then (match peerOfNode s w.source with | some n => fromTunnel s n o | none => s)
    else fromTunnel { s with chain := { s.chain with gate := some (port.val, w.source, w.target) } } 0 o))

/-- Sends a tunnel operation before the peer's firmware runs, or while the stream is not OPEN: from a gateway in a ward frame along the peer's boot path, from a peer back by the port that the gateway's frames come by, routed by IPv6 (15 R398; DESIGN CHOICE, assumption 31). -/
def wardTunnelOut (s : State) (n : Nat) (o : TunOp) : State :=
  let b := beBytes 6 (tunDaddr o) ++ tunPay o
  if s.prof.role = 1 then
    match s.prof.paths.find? (fun e => e.1 = n) with
    | some e => sendWard s 4 e.2.2 e.2.1 0 [] b
    | none => s
  else match s.chain.gate with
    | some (q, node, _) => queueLocal s q (ipPacket s (q / 16) node 0 0 0xFFFF (wardCvt (wardBody s 4 0 [] node 0 [] b) b))
    | none => s

/-- The tunnel stream that reaches a peer, or on a peer its gateway, while it is OPEN. -/
def tunStream (s : State) (n : Nat) : Option Nat := (s.streams.find? (fun e => e.2.ctx = 16 + n && e.2.st = .opened)).map (·.1)

/-- A tunnel operation leaves: as a DATA frame of the tunnel stream, or in a ward frame (15 R397, R398). -/
def sendTunnel (s : State) (e : Nat × TunOp) : State :=
  match tunStream s e.1 with
  | some x => queueFrames s x [{ seq := 0, type := 0, flags := 0x80, daddr := tunDaddr e.2, body := tunPay e.2 }]
  | none => wardTunnelOut s e.1 e.2

/-- What waits for a tunnel leaves in its order. -/
def tunnelsOut (s : State) : State := s.tunOut.foldl sendTunnel { s with tunOut := [] }

/-! ### The gateway's peers -/

/-- Sends a ward RESET along peer n's boot path, with the next count of this gateway (15 R399). -/
def resetPeer (s : State) (n : Nat) : State :=
  match s.prof.paths.find? (fun e => e.1 = n) with
  | none => s
  | some e =>
    let ctr := max s.chain.wardCtr s.prof.floor + 1
    sendWard { s with chain := { s.chain with wardCtr := ctr } } 3 e.2.2 e.2.1 ctr [] []

/-- PEER_RESET: a write of 1 to RESET_n. -/
def execPeerReset (n : Fin 64) (w : Writer) (s : State) : Res := gate s w fun s =>
  if s.prof.role = 1 && n.val ≠ 0 && bit (rd s rHifStatus) 0 then .next (resetPeer s n) else .next s

/-- VF_FLR: as a write to RESET_n. An FLR without the T bit is a change to a locked configuration (15 R372, 18 R455). -/
def execVfFlr (n : Fin 64) (t : Option (Fin 8)) (s : State) : Res :=
  if !vfOn s n then .next s
  else .next (resetPeer (if tdiTakes s n t then s else tdiError s n) n)

/-- PEER_READ_TIMEOUT: a read of the VF's configuration BAR at `off` has gone to the peer, and no answer has come within 1 ms: it is completed with all ones, UP_n clears, further writes are dropped, PEER_DOWN is set (15 R374, R399). -/
def execPeerReadTimeout (n : Fin 64) (off : BitVec 32) (wide : Bool) (s : State) : Res :=
  if !vfOn s n then .next s
  else
    let s := toTunnel s n 3 off.toNat [byte (if wide then 8 else 4)]
    let s := { s with out := s.out ++ [.pcie n (List.replicate (if wide then 8 else 4) 0xFF)], chain := { s.chain with cut := sput s.chain.cut n.val } }
    .next (setEvent (setFld s rHifPeerstat n n 0) 2)

end Sys2Proof.Machine
end

