-- ==== Sys2Proof/Machine/Host.lean ====
section
/-! DEFINITION. The host interface: doorbells, manifests, completions, interrupts, stream and copy manifests, queue pairs (15 R375 to R394, 18 R463). -/

namespace Sys2Proof.Machine

/-! ### Queue pairs (15 R376, R377, R391 to R394) -/

/-- A QP enters ERROR with a code (15 R392). -/
def qpError (s : State) (q e : Nat) : State := setEvent (modQp s q (fun x => { x with st := 2, err := e })) 0

/-- DOORBELL: a write of `width` bytes at offset `off` of QP q's page. A write of another shape or to a disabled QP is dropped (15 R391, R392). A gateway sends one of a peer's function into the tunnel (01 R34). -/
def execDoorbell (vf : Fin 64) (q : Fin 64) (off : Fin 4096) (width : Fin 9) (v : BitVec 64) (t : Option (Fin 8)) (s : State) : Res := gate s (.host (if vf = 0 then t else none)) fun s =>
  if vf.val ≠ 0 then .next (toVf s vf 0 t (fun s => toTunnel s vf 5 (q * 4096 + off) (leBytes width v.toNat)))
  else if off.val ≠ 0 || width.val ≠ 8 || !qpEn s q then .next (setEvent s 4)
  else
    let x := qp s q
    let tail := bits v.toNat 31 0
    let head := bits v.toNat 63 32
    let tailOk := qpKind s q = 1 || x.st = 2 || decide ((tail + 2 ^ 32 - x.sqHead) % 2 ^ 32 ≤ 2 ^ fld s (rHifQpcfg q) 10 6)
    let headOk := decide ((head + 2 ^ 32 - x.cqHead) % 2 ^ 32 ≤ (x.cqTail + 2 ^ 32 - x.cqHead) % 2 ^ 32)
    if x.st = 2 then .next (if headOk then modQp s q (fun y => { y with cqHead := head }) else s)
    else if !tailOk then .next (qpError s q 1)
    else if !headOk then .next (qpError s q 2)
    else .next (modQp s q (fun y => { y with sqTail := if qpKind s q = 1 then y.sqTail else tail, cqHead := head }))

/-- MANIFEST_FETCH: the fetch of the slot at SQ_HEAD completes, or returns an error (15 R393); a START counts as submitted (16 R421). -/
def execManifestFetch (q : Fin 64) (slot : Option Bytes) (s : State) : Res :=
  let x := qp s q
  if !qpEn s q || qpKind s q ≠ 0 || x.st ≠ 1 || x.sqHead = x.sqTail then .next s
  else match slot with
    | none => .next (qpError s q 3)
    | some b =>
      let s := if fieldB b 0 1 = 1 then satFld s (rPtnAccta q) 31 0 1 else s
      .next (modQp s q (fun y =>
        { y with mans := y.mans ++ [{ seq := y.nextSeq, slot := padTo 128 b }], nextSeq := y.nextSeq + 1, sqHead := (y.sqHead + 1) % 2 ^ 32 }))

/-- COMPLETION_WRITE: the oldest waiting completion of a QP is written if its ring has room; a host write error puts the QP into ERROR and the completion goes on waiting (15 R390, R392). -/
def execCompletionWrite (q : Fin 64) (ok : Bool) (s : State) : Res :=
  if ok then .next (writeNext s q)
  else if qpEn s q && (qp s q).st = 1 && !(qp s q).waiting.isEmpty then .next (qpError s q 4) else .next s

/-- MSIX_COAL_TIMER: COAL_TIME µs after the first unannounced header (15 R394). -/
def execMsixCoalTimer (q : Fin 64) (s : State) : Res :=
  let x := qp s q
  let t := fld s (rHifQpcfg q) 47 32
  if !qpEn s q || x.unann = 0 || t = 0 || !usPassed s x.unannAt t then .next s
  else .next (sendMsix (modQp s q (fun y => { y with unann := 0 })) (fld s (rHifQpcfg q) 22 16))

/-- Whether another enabled ledger QP serves a partition. -/
def ledgerQpTaken (s : State) (q p : Nat) : Bool := (List.range 64).any (fun r => r ≠ q && qpEn s r && qpKind s r = 1 && qpPtn s r = p)

/-- Defined bits of HIF_QPCFG. -/
def qpcfgMask : Nat := 0xFFFFFF7FFFDF

/-- QP_ENABLE: a write with EN 1 to a disabled QP (15 R376, R377, R396). -/
def execQpEnable (q : Fin 64) (v : BitVec 64) (w : Writer) (s : State) : Res := gate s w fun s =>
  let x := v.toNat &&& qpcfgMask
  let sq := bits x 10 6
  let cq := bits x 15 11
  if qpEn s q || !bit x 0 then .next s
  else if !bit (rd s rHifStatus) 0 || sq < 4 || 16 < sq || cq < 9 || 20 < cq || (bit x 1 && ledgerQpTaken s q (bits x 4 2)) then .next (reject s 13 (rHifQpcfg q))
  else .next { setReg s (rHifQpcfg q) x with qps := tput s.qps q { st := 1 } }

/-- QP_DISABLE: a write with EN 0 to an enabled QP; refused before FW_READY, while a manifest is in progress or a context started from it runs, and while a completion of either waits for room: it has its ring to go to (R396; DEDUCED, assumption 39). EN alone changes; the QP's counts stand until EN is set again (15 R377). -/
def execQpDisable (q : Fin 64) (v : BitVec 64) (w : Writer) (s : State) : Res := gate s w fun s =>
  if !qpEn s q || v.getLsbD 0 then .next s
  else if !bit (rd s rHifStatus) 0 || (qp s q).mans.any manActive || (qp s q).waiting.any (fun e => e.1.kind ≠ 4) || s.ctxs.any (fun e => e.2.qp = q.val && qpPtn s q = e.1 / 16) then .next (reject s 13 (rHifQpcfg q))
  else .next { setFld s (rHifQpcfg q) 0 0 0 with qps := tput s.qps q { sqHead := (qp s q).sqHead, sqTail := (qp s q).sqTail, cqHead := (qp s q).cqHead, cqTail := (qp s q).cqTail } }

/-! ### Starting manifests (15 R378, R387) -/

/-- The manifests that would run a context in HBM or move its bytes there: START, COPY_IN, COPY_OUT, ROCE, RESTORE. They wait while a half of the partition's region is in MAINT (12 R298; DESIGN CHOICE, assumption 54). -/
def manWaits (s : State) (q : Nat) (m : Man) : Bool := [1, 6, 7, 9, 11].contains (fieldB m.slot 0 1) && ptnMaint s (qpPtn s q)

/-- Whether the QP has manifests still to fetch: none starts before they are fetched (15 R393). In ERROR no more are. -/
def fetching (s : State) (q : Nat) : Bool := (qp s q).st = 1 && (qp s q).sqHead ≠ (qp s q).sqTail

/-- The manifest that a QP may start next: the oldest unstarted one once all are fetched; with FENCE only when every earlier one has written its completion. -/
def nextMan (s : State) (q : Nat) : Option Man :=
  if fetching s q then none else
  match (qp s q).mans.find? (fun m => m.stage = 0) with
  | none => none
  | some m => if manWaits s q m || (bit (fieldB m.slot 1 1) 0 && (qp s q).mans.head?.map (·.seq) ≠ some m.seq) then none else some m

def setMan (s : State) (q seq : Nat) (f : Man → Man) : State :=
  modQp s q (fun x => { x with mans := x.mans.map (fun m => if m.seq = seq then f m else m) })

/-- Whether bytes `lo` to `hi` of a slot are zero. -/
def zeroB (b : Bytes) (lo hi : Nat) : Bool := (sliceB b lo (hi - lo)).all (· == 0)

/-- The bits that every manifest reserves. -/
def manHeadBad (b : Bytes) : Bool := decide (fieldB b 1 1 > 3) || decide (fieldB b 2 1 > 15) || !zeroB b 3 8

/-- Starts the next manifest of a QP if it has the type and its reserved bits are zero: unused body bytes lie in [lo, 128). -/
def onMan (s : State) (q type lo : Nat) (k : State → Man → State) : State :=
  match nextMan s q with
  | none => s
  | some m =>
    if fieldB m.slot 0 1 ≠ type then s
    else
      let s := setMan s q m.seq (fun x => { x with stage := 1 })
      if manHeadBad m.slot || !zeroB m.slot lo 128 then finishMan s q m.seq 1 else k s m

/-- A host address above 52 bits (15 R375). -/
def hostBad (a : Nat) : Bool := decide (2 ^ 52 ≤ a)

def manCtx (s : State) (q : Nat) (m : Man) : Nat := ctxKey (qpPtn s q) (fieldB m.slot 2 1 % 16)

/-- A running context: one in any state from LOADED to RESTORING, for each of which END is defined (15 R381, 16 R404; DEDUCED, assumption 40). -/
def ctxRuns (c : Ctx) : Bool := 1 ≤ c.st && c.st ≤ 6

/-- MANIFEST_NOP: completes at once; a manifest of a reserved TYPE completes with BAD_MANIFEST in its place (15 R378). -/
def execManifestNop (q : Fin 64) (s : State) : Res :=
  match nextMan s q with
  | none => .next s
  | some m =>
    let t := fieldB m.slot 0 1
    if 1 ≤ t && t ≤ 11 then .next s
    else
      let s := setMan s q m.seq (fun x => { x with stage := 1 })
      .next (finishMan s q m.seq (if t ≠ 0 || manHeadBad m.slot || !zeroB m.slot 16 128 then 1 else 0))

/-! ### Streams (13 R317, R318, 15 R382) -/

/-- STREAM_OPEN: an entry for the named context. The end of lower node opens, the other listens. While no draw is served the initial SEQ waits (18 R449). -/
def openMan (s : State) (q : Nat) (m : Man) : State :=
  let b := m.slot
  let k := manCtx s q m
  let p := k / 16
  let psn := fieldB b 0x10 2
  let peer := fieldB b 0x14 4
  let key := fieldB b 0x18 8
  let bad := !zeroB b 0x12 0x14 || 2 ^ 20 ≤ peer || fieldB b 0x20 4 = 0 || 16384 ≤ psn || (match ctxOf s k with
    | some c => decide (c.prog.plan.streams - (if c.prog.plan.devices > 1 then 192 else 0) ≤ psn) || c.jobkey ≠ key
    | none => false)
  let d := Config.streamDie psn peer % 2
  if bad then finishMan s q m.seq 1
  else if (psnStream s p (k % 16) psn).isSome then finishMan s q m.seq 4
  else match openEntry s d { st := .listen, part := p, ctx := k % 16, jobkey := key, psn := psn, peerPsn := psn, peer := peer, dscp := Config.dscp p psn % 64, man := some (q, m.seq) } with
    | .error n => finishMan s q m.seq n
    | .ok s => s

/-- STREAM_OPEN: 15 R382. -/
def execStreamOpen (q : Fin 64) (s : State) : Res := .next (onMan s q 3 0x24 (fun s m => openMan s q m))

/-- STREAM_CLOSE: a CLOSE behind all unacknowledged data of an OPEN stream; the manifest completes when it is acknowledged. -/
def execStreamClose (q : Fin 64) (s : State) : Res := .next (onMan s q 4 0x12 (fun s m =>
  let k := manCtx s q m
  match psnStream s (k / 16) (k % 16) (fieldB m.slot 0x10 2) with
  | some (x, st) =>
    if st.st = .opened then closeStream (modStream s x (fun y => { y with man := some (q.val, m.seq) })) x else finishMan s q m.seq 4
  | none => finishMan s q m.seq 4))

/-- STREAM_FREE: frees a FAILED entry. -/
def execStreamFree (q : Fin 64) (s : State) : Res := .next (onMan s q 5 0x12 (fun s m =>
  let k := manCtx s q m
  match psnStream s (k / 16) (k % 16) (fieldB m.slot 0x10 2) with
  | some (x, st) => if st.st = .failed then finishMan { s with streams := tdel s.streams x } q m.seq 0 else finishMan s q m.seq 4
  | none => finishMan s q m.seq 4))

/-! ### Copies (15 R383, R384, 18 R463) -/

/-- How a device range stands to the seal window of its partition: plain, sealed, or refused. -/
inductive CopyWay where
  | plain | sealed (k : Seal) (first : Nat) | bad
  deriving DecidableEq, Repr

def copyWay (s : State) (p dev len : Nat) : CopyWay :=
  match tget s.seals p with
  | none => .plain
  | some k =>
    let lo := fld s (rSealwin p) 47 20 * 1048576
    let hi := lo + fld s (rSealwin p) 63 48 * 1048576
    if hi ≤ lo || dev + len ≤ lo || hi ≤ dev then .plain
    else if lo ≤ dev && dev + len ≤ hi && dev % 4096 = 0 && len % 4096 = 0 then .sealed k ((dev - lo) / 4096)
    else .bad

/-- The checks of a copy manifest that need no data: its status, 0 if it may move. -/
def copyCheck (s : State) (q : Nat) (m : Man) (inn : Bool) : Nat :=
  let b := m.slot
  let p := qpPtn s q
  let host := fieldB b 0x10 8
  let dev := fieldB b 0x18 8
  let len := fieldB b 0x20 8
  let sig := inn && fieldB b 0x2B 1 ≠ 0
  if len % 64 ≠ 0 || len < 64 || 2 ^ 36 < len || (!inn && !zeroB b 0x28 0x2C) || (inn && !sig && decide (48 ≤ fieldB b 0x2A 1)) then 1
  else if hostBad host || host % 64 ≠ 0 || dev % 64 ≠ 0 || !inPtn s p dev (dev + len) then 2
  else if copyWay s p dev len = .bad then 2
  else if sig && !(match ctxOf s (manCtx s q m) with
      | some c => ctxRuns c && decide (fieldB b 0x28 2 < c.prog.plan.vcores) && decide (fieldB b 0x2A 1 < 48)
      | none => false) then 4
  else 0

/-- The RESULT of a copy: bytes moved, offset of a poisoned unit. -/
def copyResult (moved off : Nat) : Bytes := leBytes 8 moved ++ leBytes 8 off

/-- Lands sealed chunks: a chunk whose INDEX or TAG fails is poisoned whole (18 R463). -/
def landChunks (s : State) (p dev first : Nat) (k : Seal) (cs : List Bytes) : State × Option Nat :=
  ((List.range cs.length).zip cs).foldl (fun (x : State × Option Nat) e =>
    let c := e.2
    let a := dev + 4096 * e.1
    let idx := sliceB c 4096 8
    let opened := if fieldB c 4096 8 = first + e.1
      then gcmOpen k.key (sliceB c 4104 12) (k.setId ++ idx) (c.take 4096 ++ sliceB c 4144 16) else none
    match opened with
    | some b => (devWrite x.1 a (padTo 4096 b), x.2)
    | none => (satFld (devTaint x.1 a 4096) (rSealuse p) 47 32 1, match x.2 with | some o => some o | none => some (4096 * e.1))) (s, none)

/-- COPY_IN: the host bytes have been read, or the read failed. The manifest stays in progress until COPY_IN_LAND. -/
def execCopyIn (q : Fin 64) (data : Option Bytes) (s : State) : Res := .next (onMan s q 6 0x2C (fun s m =>
  let p := qpPtn s q
  let dev := fieldB m.slot 0x18 8
  let len := fieldB m.slot 0x20 8
  let st := copyCheck s q m true
  if st ≠ 0 then finishMan s q m.seq st
  else match data with
    | none => finishMan s q m.seq 3
    | some d =>
      match copyWay s p dev len with
      | .sealed k first =>
        let (s, bad) := landChunks (hbmUse s p dev len) p dev first k (chunksB 4160 (len / 4096) (padTo (len / 4096 * 4160) d))
        (match bad with
         | some o => finishMan s q m.seq 10 (copyResult len o)
         | none => setMan s q m.seq (fun x => { x with aux := 1 }))
      | _ => hbmUse (devWrite s dev (padTo len d)) p dev len))

/-- COPY_IN_LAND: every byte of the oldest COPY_IN of QP q in progress is readable: COUNT is added to the landing count, and the copy completes (15 R383). -/
def execCopyInLand (q : Fin 64) (s : State) : Res :=
  match (qp s q).mans.find? (fun m => m.stage = 1 && fieldB m.slot 0 1 = 6) with
  | none => .next s
  | some m =>
    let n := fieldB m.slot 0x2B 1
    let s := finishMan s q m.seq 0 (copyResult (fieldB m.slot 0x20 8) 0)
    .next (if n = 0 then s else landSig s (manCtx s q m) (fieldB m.slot 0x28 2) (fieldB m.slot 0x2A 1) n (0xC0000000 + q.val))

/-- Bytes that a COPY_OUT reads: the code area of a context of the partition, also of an exported one, reads as zeros (16 R418). -/
def outBytes (s : State) (p a n : Nat) : Bytes :=
  let areas := (s.ctxs.filter (fun e => e.1 / 16 = p)).map (fun e => (e.2.hbmBase + e.2.codeOff, e.2.hbmBase + e.2.codeOff + e.2.prog.codeLen))
    ++ (part s p).codes.map (fun e => (e.2.1, e.2.1 + e.2.2))
  let b := devRead s a n
  if areas.any (fun r => rangesMeet r (a, a + n)) then
    (List.range n).map (fun i => if areas.any (fun r => decide (r.1 ≤ a + i) && decide (a + i < r.2)) then 0 else b.getD i 0)
  else b

/-- A COPY_OUT that has passed its head checks: device bytes go to host memory up to the first poisoned unit; sealed ranges as chunks, each with a nonce of its own (15 R384, 18 R463). A sealed one waits while no draw is served; it is in progress, and so ends with STATE where the key is destroyed (18 R449, R462). -/
def copyOut (s : State) (q : Nat) (m : Man) : State :=
  let p := qpPtn s q
  let host := fieldB m.slot 0x10 8
  let dev := fieldB m.slot 0x18 8
  let len := fieldB m.slot 0x20 8
  let st := copyCheck s q m false
  if st ≠ 0 then finishMan s q m.seq st
  else
    let bad := ((List.range (len / 64)).find? (fun i => s.poison.contains (dev / 64 + i))).map (64 * ·)
    match copyWay s p dev len with
    | .sealed k first =>
      let n := (bad.getD len) / 4096
      if s.sec.entWait then setMan s q m.seq (fun x => { x with aux := 1 })
      else if k.chunks + n > 2 ^ 32 then finishMan s q m.seq 4
      else
        let s' := hostWrite (hbmUse s p dev (4096 * n)) host (sealChunks k s.draws first (outBytes s p dev (4096 * n)))
        let s' := { drawn s' n with seals := tmod s.seals p (fun x => { x with chunks := x.chunks + n }) }
        (match bad with | some o => finishMan s' q m.seq 10 (copyResult (4096 * n) o) | none => finishMan s' q m.seq 0 (copyResult len 0))
    | _ =>
      let n := bad.getD len
      let s' := hostWrite (hbmUse s p dev n) host (outBytes s p dev n)
      (match bad with | some o => finishMan s' q m.seq 10 (copyResult n o) | none => finishMan s' q m.seq 0 (copyResult len 0))

/-- COPY_OUT: one that has waited for a draw goes on, else the next manifest starts. -/
def execCopyOut (q : Fin 64) (s : State) : Res :=
  match (qp s q).mans.find? (fun m => m.stage = 1 && fieldB m.slot 0 1 = 7) with
  | some m => .next (if ptnMaint s (qpPtn s q) then s else copyOut s q m)
  | none => .next (onMan s q 7 0x2C (fun s m => copyOut s q m))

/-- The snapshot records that fit a buffer, oldest first: pads are passed over (15 R385). -/
def snapFit : Nat → List (Nat × Nat × Bool) → List (Nat × Nat)
  | _, [] => []
  | room, (o, n, pad) :: r => if pad then snapFit room r else if n ≤ room then (o, n) :: snapFit (room - n) r else []

/-- SNAP_READ: whole records from RPTR onwards; a poisoned unit is copied as zeros. NEXT is in units of 64 bytes, as RPTR is (15 R385). `corr` and `bad` are what the GDDR devices report of the read (12 R306). -/
def execSnapRead (q : Fin 64) (corr : Nat) (bad : List Nat) (s : State) : Res := .next (onMan s q 8 0x20 (fun s m =>
  let p := qpPtn s q
  let host := fieldB m.slot 0x10 8
  if hostBad host then finishMan s q m.seq 2
  else
    let l := snapFit (fieldB m.slot 0x18 8) (part s p).snap.written
    let s := l.foldl (fun s e => gddrReport s (snapBase s p + e.1) e.2 0 bad) (gddrReport s 0 0 corr [])
    let b := l.flatMap (fun e => streamBytes s (snapBase s p + e.1) e.2)
    let next := match l.getLast? with
      | some e => if e.1 + e.2 ≥ snapLen s p then 0 else (e.1 + e.2) / 64
      | none => fld s (rSnapPtr p) 60 32
    finishMan (hostWrite s host b) q m.seq 0 (leBytes 8 b.length ++ leBytes 4 l.length ++ leBytes 4 0 ++ leBytes 8 next)))

end Sys2Proof.Machine
end

