-- ==== Sys2Proof/Machine/Mxe.lean ====
section
/-! DEFINITION. The matrix engine (chapter 04): operand addresses, K-tile sums, K-block accumulation under the cursor, drain. -/

namespace Sys2Proof.Machine

/-- The operand pairs the MXE accepts, by FMT_S, FMT_T and PASSES (04 R94). -/
def pairOf (fs ft passes : Nat) : Option PairClass :=
  match fs, ft, passes with
  | 3, 3, 0 => some .e4 | 6, 3, 0 => some .e4 | 7, 3, 0 => some .e4
  | 3, 4, 0 => some .e45 | 4, 3, 0 => some .e45 | 6, 4, 0 => some .e45 | 7, 4, 0 => some .e45
  | 5, 5, 0 => some .i8 | 1, 1, 0 => some .bf16 | 2, 2, 0 => some .fp16
  | 0, 0, 1 => some .fp32 | 0, 0, 2 => some .fp32 | 0, 0, 3 => some .fp32
  | _, _, _ => none

/-- The largest channel count of a pair class (04 R93, R109). -/
def pairN : PairClass → Nat
  | .e4 => 128 | .e45 => 128 | .i8 => 128 | .bf16 => 64 | .fp16 => 64 | .fp32 => 64

/-- The lowest bit of the first offending field of an MMA, in the operation half (04 R109, R110, 09 R502). Of a pair that no PASSES admits, FMT_T offends; of a pair that another PASSES admits, PASSES does (DEDUCED, assumption 49). -/
def mmaBad (o : Nat) : Option Nat :=
  let fs := bits o 7 4
  let ft := bits o 11 8
  let ps := bits o 13 12
  let four := fs = 6 || fs = 7
  if fs > 7 then some 4
  else
    match pairOf fs ft ps with
    | none => if (pairOf fs ft 0).isSome || (pairOf fs ft 1).isSome then some 12 else some 8
    | some pc =>
      if four && bit o 14 then some 14
      else if bits o 25 21 = 0 then some 21
      else if bits o 34 27 ≠ 255 && !bit o 26 then some 27
      else if bits o 50 44 + 1 > pairN pc then some 44
      else if bits o 63 51 ≠ 0 then some 51
      else if !four && bits o 111 96 ≠ 0 then some 96
      else if bits o 127 112 ≠ 0 then some 112
      else none

/-- The lowest bit of the first offending field of an MDRAIN (04 R107, R110, 09 R502). -/
def mdrainBad (o : Nat) : Option Nat :=
  if bits o 7 4 > 5 then some 4
  else if bit o 14 && bits o 7 4 ≠ 0 then some 4
  else if cvcBad (bits o 10 8) then some 8
  else if bit o 14 && bits o 10 8 ≠ 0 then some 8
  else if bit o 15 then some 15
  else if !bit o 12 && bits o 47 32 ≠ 0 then some 32
  else if bits o 95 80 = 0 then some 80
  else if !bit o 14 && bits o 111 96 ≠ 0 then some 96
  else if bits o 127 112 ≠ 0 then some 112
  else none

/-- Offending field of any MXE operation. -/
def mxeBad (o : Nat) : Option Nat :=
  match bits o 3 0 with
  | 1 => mmaBad o
  | 2 => mdrainBad o
  | _ => some 0

/-- One operand element as the array takes it: value and poison tag. -/
structure MElem where
  val : FVal
  bits32 : Nat
  poison : Bool

/-- Reads one element of `w` bytes of format `f` at scratchpad offset `off` of a pcore. -/
def mxeElem (s : State) (pc : Nat) (f : Fmt) (off : Nat) : MElem :=
  let w := fmtBytes f
  let a := spBase pc + off
  let n := leNat (devRead s a w)
  ⟨decodeF f n, n, devPoison s a w⟩

/-- The streamed element (m, k) of tile t (04 R95). -/
def streamedOff (o : Nat) (w t m k : Nat) : Nat :=
  let rows := bits o 43 35 + 1
  let mp := roundUp rows 128
  let base := bits o 79 64 * 64
  if bit o 15 then base + t * 256 * mp * w + k * mp * w + m * w
  else base + (t * rows + m) * 256 * w + k * w

/-- The stationary element (k, n) of tile t (04 R95). -/
def stationaryOff (o : Nat) (nw w t n k : Nat) : Nat :=
  let base := bits o 95 80 * 64
  if bit o 14 then base + t * 256 * nw * w + k * nw * w + n * w
  else base + (t * nw + n) * 256 * w + k * w

/-- A 4-bit weight of block (t, n): its expanded value and poison (04 R97, 03 R84 to R86). -/
def weight4 (s : State) (pc o t n k : Nat) : MElem :=
  let nib := bits o 95 80 * 64 + (t * 128 + n) * 128 + k / 2
  let b := (memGet s.mem (spBase pc + nib)).toNat
  let q := if k % 2 = 0 then b % 16 else b / 16
  let lut := bits o 7 4 = 7
  let h := if lut then 16 else 8
  let hb := bits o 111 96 * 64 + (t * 128 + n) * h + (if lut then q else k / 32)
  let hv := (memGet s.mem (spBase pc + hb)).toNat
  let po := devPoison s (spBase pc + nib) 1 || devPoison s (spBase pc + hb) 1
  ⟨if lut then decodeF .e4m3 hv else int4wVal hv q, 0, po⟩

/-- What one tile result gives: the FP32 value, poison, and MXE_STATUS bits raised. -/
structure TileRes where
  val : Nat
  poison : Bool
  flags : Nat

/-- Largest floor(log2) over the nonzero leaves. -/
def maxLog (l : List FVal) : Option Int :=
  l.foldl (fun a v => match v with
    | .fin _ m e => if m = 0 then a else some (match a with | none => flog2 m e | some x => max x (flog2 m e))
    | _ => a) none

/-- The 48-bit fixed-point sum of the 8-bit classes (04 R100). -/
def fixedSum (lamClass : Int) (l : List FVal) : FVal :=
  let lam := match maxLog l with | some a => max lamClass (a - 38) | none => lamClass
  let sum := l.foldl (fun (z : Int) v => match v with
    | .fin n m e => let (t, _) := rneUnits m e lam; if n then z - t else z + t
    | _ => z) 0
  if sum = 0 then fzero (l.all (fun v => match v with | .fin n 0 _ => n | _ => false))
  else .fin (decide (sum < 0)) sum.natAbs lam

/-- A leaf of two integers: a zero has no sign (03 R68). -/
def intLeaf : FVal → FVal
  | .fin n m e => .fin (n && decide (m ≠ 0)) m e
  | w => w

/-- One level of the pairing tree: node j takes j and j + w (04 R101). -/
def treeLevel (l : List FVal) : List FVal :=
  let w := l.length / 2
  List.zipWith (fun a b => rneSig 34 (fadd a b)) (l.take w) (l.drop w)

/-- The root of the pairing tree of 256 leaves (04 R101). -/
def treeSum (l : List FVal) : FVal :=
  (treeLevel (treeLevel (treeLevel (treeLevel (treeLevel (treeLevel (treeLevel (treeLevel l)))))))).getD 0 (fzero false)

/-- The special cases of 04 R99: a result that is not finite, and whether INVALID is set. Leaves are given with the operands that formed them. -/
def specials (ops : List (FVal × FVal)) : Option (Nat × Bool) :=
  let leaves := ops.map (fun x => fmul x.1 x.2)
  if leaves.any (fun v => v = .nan) then
    some (canonNaN .fp32, ops.any (fun x => fmul x.1 x.2 = .nan && x.1 ≠ .nan && x.2 ≠ .nan))
  else
    let pos := leaves.contains (.inf false)
    let neg := leaves.contains (.inf true)
    if pos && neg then some (canonNaN .fp32, true)
    else if pos then some (infCode .fp32 false, false)
    else if neg then some (infCode .fp32 true, false)
    else none

/-- The piece of a split (03 R87). -/
def piece (n i : Nat) : FVal :=
  let (a, b, c) := split32 n
  match i with | 0 => a | 1 => b | _ => c

/-- The result of one output element of one K-tile over its valid leaves (04 R98 to R102, 03 R88). Leaves from `kv` up are +0. In the order of the FP32 products of three passes x is the streamed element and y the stationary one (DESIGN CHOICE, assumption 50). -/
def tileResult (cls : PairClass) (passes : Nat) (xs ys : List MElem) : TileRes :=
  let ops := List.zipWith (fun x y => (x.val, y.val)) xs ys
  let pad := List.replicate (256 - ops.length) (fzero false)
  let po := xs.any (·.poison) || ys.any (·.poison)
  let nanOp := if ops.any (fun x => x.1 = .nan || x.2 = .nan) then 16 else 0
  match specials ops with
  | some (r, inv) => ⟨r, po, nanOp + (if inv then 8 else 0)⟩
  | none =>
    let leaves := ops.map (fun x => fmul x.1 x.2) ++ pad
    match cls with
    | .i8 => let (r, ov) := rne32 (fixedSum 0 (leaves.map intLeaf)); ⟨r, po, b2n ov * 2⟩
    | .e4 => let (r, ov) := rne32 (fixedSum (-18) leaves); ⟨r, po, b2n ov * 2⟩
    | .e45 => let (r, ov) := rne32 (fixedSum (-25) leaves); ⟨r, po, b2n ov * 2⟩
    | .bf16 => let (r, ov) := rne32 (treeSum leaves); ⟨r, po, b2n ov * 2⟩
    | .fp16 => let (r, ov) := rne32 (treeSum leaves); ⟨r, po, b2n ov * 2⟩
    | .fp32 =>
      let (r, ov) := (splitOrder passes).foldl (fun (acc : Nat × Bool) ij =>
        let lv := List.zipWith (fun x y => fmul (piece x.bits32 ij.1) (piece y.bits32 ij.2)) xs ys ++ pad
        let (p, o1) := rne32 (treeSum lv)
        let (a, o2) := rne32 (fadd (f32 acc.1) (f32 p))
        (a, acc.2 || o1 || o2)) (0, false)
      ⟨r, po, b2n ov * 2⟩

/-- Adds a tile result into an accumulator entry (04 R103). -/
def accAdd (t0 : Bool) (old : Nat × Bool) (r : TileRes) : (Nat × Bool) × Nat :=
  if t0 then ((r.val, r.poison), r.flags)
  else
    let (a, ov) := rne32 (fadd (f32 old.1) (f32 r.val))
    ((a, old.2 || r.poison), r.flags ||| (b2n ov * 2))

/-- All entries of one K-tile (04 R103). `j` is the tile's index within the instruction, `t0` whether it is K-tile 0. -/
def addTile (s : State) (pc o : Nat) (cls : PairClass) (j : Nat) (t0 : Bool) (kv : Nat) (acc : List (List (Nat × Bool))) : List (List (Nat × Bool)) × Nat :=
  let fs := (fmtOf (bits o 7 4)).getD .fp32
  let ft := (fmtOf (bits o 11 8)).getD .fp32
  let m := bits o 43 35 + 1
  let n := bits o 50 44 + 1
  let four := bits o 7 4 = 6 || bits o 7 4 = 7
  let stat := (List.range n).map (fun c => (List.range kv).map (fun k =>
    if four then weight4 s pc o j c k else mxeElem s pc fs (stationaryOff o (pairN cls) (fmtBytes fs) j c k)))
  let rows := (List.range m).map (fun r =>
    let xs := (List.range kv).map (fun k => mxeElem s pc ft (streamedOff o (fmtBytes ft) j r k))
    (List.range n).map (fun c =>
      accAdd t0 (((acc.getD r []).getD c (0, false))) (tileResult cls (bits o 13 12) xs (stat.getD c []))))
  (rows.map (fun r => r.map (·.1)), rows.foldl (fun a r => r.foldl (fun a e => a ||| e.2) a) 0)

/-- All tiles of an MMA. -/
def addTiles (s : State) (pc o : Nat) (cls : PairClass) : List Nat → List (List (Nat × Bool)) → Nat → List (List (Nat × Bool)) × Nat
  | [], acc, fl => (acc, fl)
  | j :: r, acc, fl =>
    let kt := bits o 25 21
    let kv := if j + 1 = kt then bits o 34 27 + 1 else 256
    let (acc', f) := addTile s pc o cls j (bits o 20 17 + j = 0) kv acc
    addTiles s pc o cls r acc' (fl ||| f)

/-- One past the highest operand byte that the tiles of an MMA read from `base`, and the first offset at or beyond the limit, if any (04 R95). The operands are walked streamed, then stationary, then header. -/
def mmaReach (o : Nat) (cls : PairClass) : List (Nat × Nat) :=
  let ft := (fmtOf (bits o 11 8)).getD .fp32
  let fs := (fmtOf (bits o 7 4)).getD .fp32
  let kt := bits o 25 21
  let m := bits o 43 35 + 1
  let n := bits o 50 44 + 1
  let kv := bits o 34 27 + 1
  let wt := fmtBytes ft
  let ws := fmtBytes fs
  let last := kt - 1
  let four := bits o 7 4 = 6 || bits o 7 4 = 7
  let h := if bits o 7 4 = 7 then 16 else 8
  [(bits o 79 64 * 64, streamedOff o wt last (m - 1) (kv - 1) + wt),
   (bits o 95 80 * 64, if four then bits o 95 80 * 64 + (last * 128 + (n - 1)) * 128 + (kv - 1) / 2 + 1
      else stationaryOff o (pairN cls) ws last (n - 1) (kv - 1) + ws)]
   ++ (if four then [(bits o 111 96 * 64, bits o 111 96 * 64 + (last * 128 + n) * h)] else [])

/-- The first block of which a read INT4W header byte holds a reserved SCALE (03 R85). A group wholly at or above KV has no operand that the array reads (04 R98; DEDUCED, assumption 49). The answer numbers blocks by K-tile and column, 128 to a K-tile (DESIGN CHOICE, assumption 50). -/
def badScale (s : State) (pc o : Nat) : Option Nat :=
  if bits o 7 4 ≠ 6 then none
  else
    let kt := bits o 25 21
    let n := bits o 50 44 + 1
    let groups (t : Nat) : Nat := if t + 1 = kt then (bits o 34 27 + 32) / 32 else 8
    ((List.range kt).flatMap (fun t => (List.range n).map (fun c => t * 128 + c))).find? (fun blk =>
      (List.range (groups (blk / 128))).any (fun g => bits (memGet s.mem (spBase pc + bits o 111 96 * 64 + blk * 8 + g)).toNat 7 4 > 13))

def region (s : State) (pc r : Nat) : MxeRegion := tgetD s.mxe (pc * 2 + r) {}

/-- Whether two pairs are of one pair class: the two 16-bit pairs are (04 R94). -/
def sameClass (a b : PairClass) : Bool := a = b || ((a = .bf16 || a = .fp16) && (b = .bf16 || b = .fp16))

/-- The cursor's check of an MMA: what it expected, where it refuses (04 R104). -/
def cursorBad (g : MxeRegion) (o : Nat) (cls : PairClass) : Option Nat :=
  let first := bits o 20 17
  let expct := if g.st = .opened then g.nextTile else 0
  if first + bits o 25 21 > 16 then some expct
  else if first = 0 then none
  else if g.st = .opened && g.nextTile = first && g.m = bits o 43 35 + 1 && g.n = bits o 50 44 + 1 && sameClass g.cls cls && g.passes = bits o 13 12
  then none else some expct

/-- The operand bytes that an MMA reads, for the echo copy: of each K-tile the stationary operands, then the streamed rows (17 R426; the order within a tile is the model's, DESIGN CHOICE, assumption 59). -/
def mmaOperands (s : State) (pc o : Nat) (cls : PairClass) : Bytes :=
  let fs := (fmtOf (bits o 7 4)).getD .fp32
  let ft := (fmtOf (bits o 11 8)).getD .fp32
  let kt := bits o 25 21
  let four := bits o 7 4 = 6 || bits o 7 4 = 7
  let h := if bits o 7 4 = 7 then 16 else 8
  let at_ := fun (off n : Nat) => devRead s (spBase pc + off) n
  (List.range kt).flatMap (fun j =>
    let kv := List.range (if j + 1 = kt then bits o 34 27 + 1 else 256)
    (List.range (bits o 50 44 + 1)).flatMap (fun c =>
      if four then at_ (bits o 111 96 * 64 + (j * 128 + c) * h) h ++ at_ (bits o 95 80 * 64 + (j * 128 + c) * 128) ((kv.length + 1) / 2)
      else kv.flatMap (fun k => at_ (stationaryOff o (pairN cls) (fmtBytes fs) j c k) (fmtBytes fs)))
    ++ (List.range (bits o 43 35 + 1)).flatMap (fun r => kv.flatMap (fun k => at_ (streamedOff o (fmtBytes ft) j r k) (fmtBytes ft))))

/-- MMA: multiplies K-tiles into a region, or faults (04 R95 to R104, R108, R109). Of several faults it reports one: fields, cursor, addresses, SCALE in this order (DESIGN CHOICE, assumption 50). -/
def doMma (s : State) (k : Nat) (c : Ctx) (vc : Vcore) (v o : Nat) : State :=
  let pc := pcoreOf c v
  match mmaBad o, pairOf (bits o 7 4) (bits o 11 8) (bits o 13 12) with
  | some b, _ => fault1 s k (engProb vc v 0 0 5 (128 + b))
  | none, none => fault1 s k (engProb vc v 0 0 5 (128 + 4))
  | none, some cls =>
    let r := bits o 16 16
    let g := region s pc r
    match cursorBad g o cls, (mmaReach o cls).find? (fun x => x.2 > spLimit), badScale s pc o with
    | some e, _, _ => fault1 s k (engProb vc v 0 0 7 r e (bits o 20 17))
    | none, some x, _ => fault1 s k (spProb vc v 0 0 x.1 64)
    | none, none, some blk => fault1 s k (engProb vc v 0 0 5 (128 + 96) blk)
    | none, none, none =>
      let kt := bits o 25 21
      let (acc, fl) := addTiles s pc o cls (List.range kt) g.acc 0
      let g' : MxeRegion := { st := if bit o 26 then .closed else .opened, nextTile := bits o 20 17 + kt, m := bits o 43 35 + 1,
                              n := bits o 50 44 + 1, cls := cls, passes := bits o 13 12, acc := acc }
      let s := orReg { s with mxe := tput s.mxe (pc * 2 + r) g' } (rMxeStatus pc) fl
      let s := if bits o 20 17 = 0 then echoOpen s k c vc v pc r else s
      echoBytes s pc r (mmaOperands s pc o cls)

/-- MMA: 04 R104. -/
def execMma (p : Fin 8) (v : Fin 96) (op : BitVec 128) (s : State) : Res :=
  .next (onEngine s p v 0 (setBits op.toNat 3 0 1) (fun k c vc => doMma s k c vc v (setBits op.toNat 3 0 1)))

/-! ### Drain -/

/-- One drained element: its FP32 code before conversion, poison, and conditions (04 R106). -/
structure DElem where
  val : Nat
  poison : Bool
  flags : Nat

/-- A scale multiplication of the drain, rounded to FP32 (04 R106, R102). INVALID has only the cases of R99 and of a drain to INT8. -/
def dScale (x : DElem) (sc : Nat) (po : Bool) : DElem :=
  let (r, ov) := rne32 (fmul (f32 x.val) (f32 sc))
  ⟨r, x.poison || po, x.flags ||| 2 * b2n ov⟩

/-- The scaled FP32 entry (m, n) of a region (04 R106). -/
def drainElem (s : State) (pc o : Nat) (g : MxeRegion) (m n : Nat) : DElem :=
  let e := (g.acc.getD m []).getD n (0, false)
  let x : DElem := ⟨e.1, e.2, 0⟩
  let a := spBase pc + bits o 47 32 * 64 + 4 * n
  let x := if bit o 12 then dScale x (leNat (devRead s a 4)) (devPoison s a 4) else x
  if bit o 13 then dScale x (bits o 79 48) false else x

/-- The converted entry: its bytes, poison, and conditions. -/
def drainOut (c : Ctx) (vc : Vcore) (o m n : Nat) (x : DElem) : Option (Bytes × Bool × Nat) :=
  let f := (fmtOf (bits o 7 4)).getD .fp32
  if bit o 14 then some (leBytes 4 x.val, x.poison, x.flags)
  else
    let cvc := bits o 10 8
    let rb := if bits cvc 1 0 = 1 then sr8Byte c (slotTid vc 63) (slotPos vc 63 m n) else some 0
    rb.map (fun b =>
      let (code, fl) := convertCvc f cvc b (f32 x.val)
      (leBytes (fmtBytes f) code, x.poison, x.flags ||| cfBits fl))

/-- All rows of a drain, or none where a position of a draw lies outside the generator's fields. -/
def drainRows (s : State) (c : Ctx) (vc : Vcore) (pc o : Nat) (g : MxeRegion) : List (List (Option (Bytes × Bool × Nat))) :=
  (List.range g.m).map (fun m => (List.range g.n).map (fun n => drainOut c vc o m n (drainElem s pc o g m n)))

/-- The first row whose bytes differ from the shadow's (17 R427). -/
def firstDiff (rows shadow : List Bytes) : Option Nat :=
  (List.range rows.length).find? (fun m => rows.getD m [] ≠ shadow.getD m (rows.getD m []))

/-- The addend blocks of a drain under a tag: entry (m, n) is element m × N + n (DESIGN CHOICE, assumption 58), filled with +0 to the sum's last block (05 R117, 04 R107). -/
def drainBlocks (c : Ctx) (tag : Nat) (es : List TElem) : List (List TElem) :=
  let want := match c.prog.tallies.find? (fun d => d.tag = tag) with | some d => d.blocks + 1 | none => 0
  let n := max want ((es.length + 255) / 256)
  (List.range n).map (fun j =>
    let b := (es.drop (256 * j)).take 256
    b ++ List.replicate (256 - b.length) (0, false))

/-- Whether a sum is a lot's (05 R128): its result is an addend of an outer sum, none of its own addends is a sum's, and it is no group of 05 R127, whose outer sum has a member of 2^20 addends (DEDUCED, assumption 51). -/
def lotSum (g : Prog) (d : TallyDesc) : Bool :=
  d.hasGroup && !g.tallies.any (fun x => x.hasGroup && (x.outerTag = d.tag || (x.outerTag = d.outerTag && x.nAdd = 2 ^ 20)))

/-- The sum that a drain feeds, where it is a lot's. -/
def drainLot (c : Ctx) (o : Nat) : Option TallyDesc := if bit o 14 then (c.prog.tallies.find? (fun d => d.tag = bits o 111 96)).filter (lotSum c.prog) else none

/-- Whether a drain would split a lot's contribution across cores: another vcore has drained into its sum (02 R47). -/
def lotSplit (c : Ctx) (v o : Nat) : Bool :=
  c.prog.canon && (match drainLot c o with | some d => tgetD c.lotCore d.tag v != v | none => false)

/-- The vcores of the lots' sums after a drain. -/
def lotCoreOf (c : Ctx) (v o : Nat) : Tbl Nat := match drainLot c o with | some d => tput c.lotCore d.tag v | none => c.lotCore

/-- MDRAIN: scales, converts and writes a closed region, or sends it to the reduce unit, comparing with the shadow where the K-block is echoed (04 R106 to R111, 17 R427). Of several faults it reports one: fields, cursor, lot, tensor, addresses, draws in this order (DESIGN CHOICE, assumption 50). -/
def doMdrain (s : State) (k : Nat) (c : Ctx) (vc : Vcore) (v o : Nat) (shadow : Option (List Bytes)) : State :=
  let pc := pcoreOf c v
  match mdrainBad o with
  | some b => fault1 s k (engProb vc v 0 0 5 (128 + b))
  | none =>
    let r := bits o 11 11
    let g := region s pc r
    let w := fmtBytes ((fmtOf (bits o 7 4)).getD .fp32)
    let stride := bits o 95 80 * 64
    let d0 := bits o 31 16 * 64
    let sc := bits o 47 32 * 64
    let spad := !bit o 14
    if g.st ≠ .closed then fault1 s k (engProb vc v 0 0 7 r (if g.st = .opened then g.nextTile else 0))
    else if lotSplit c v o then fault1 s k (engProb vc v 0 0 7 (bits o 111 96))
    else if spad && bits o 9 8 = 1 && slotTid vc 63 = 0 then fault1 s k (engProb vc v 0 0 5 (128 + 8))
    else if bit o 12 && sc + 4 * g.n > spLimit then fault1 s k (spProb vc v 0 0 sc 64)
    else if spad && g.n * w > stride then
      let a := vspBase v + d0 + stride
      fault1 s k (engProb vc v 0 0 6 (a % 2 ^ 32) (a / 2 ^ 32) 64)
    else match (List.range g.m).find? (fun m => spad && decide (d0 + m * stride + g.n * w > spLimit)) with
    | some m => fault1 s k (spProb vc v 0 0 (d0 + m * stride) 64)
    | none =>
      let rows := drainRows s c vc pc o g
      match (List.range g.m).findSome? (fun m => ((rows.getD m []).findIdx? (·.isNone)).map (fun n => slotPos vc 63 m n)) with
      | some pos => fault1 s k (engProb vc v 0 0 0x11 (pos % 2 ^ 32) (pos / 2 ^ 32 % 2 ^ 32) (slotTid vc 63))
      | none =>
        let es := rows.map (fun row => row.filterMap id)
        let bytesOf := es.map (fun row => row.flatMap (·.1))
        let echoed := tget s.echo (pc * 2 + r)
        let sh := match echoed with | some _ => shadow.getD bytesOf | none => bytesOf
        let diff := match echoed with | some _ => firstDiff bytesOf sh | none => none
        let bad (m : Nat) : Bool := match diff with | some x => decide (x ≤ m) | none => false
        let fl := es.foldl (fun a row => row.foldl (fun a e => a ||| e.2.2 ||| 32 * b2n e.2.1) a) 0
        let s := orReg s (rMxeStatus pc) (fl ||| 32 * b2n diff.isSome)
        let s := match echoed with
          | none => s
          | some e =>
            let n1 := crc64From e.r1 bytesOf.flatten
            let n2 := crc64From e.r2 ((List.range g.m).flatMap (fun m => sh.getD m (bytesOf.getD m [])))
            let s := { s with echo := tput s.echo (pc * 2 + r) { e with mism := e.mism || diff.isSome, r1 := n1, r2 := n2 } }
            if diff.isSome then satFld s (rCoreEcho pc) 51 40 1 else s
        if spad then
          (List.range g.m).foldl (fun s m =>
            devSeg s (spBase pc + d0 + m * stride, (es.getD m []).flatMap (fun e => e.1.map (fun b => (b, e.2.1 || bad m))))) s
        else
          let elems : List TElem := (List.range g.m).flatMap (fun m => (es.getD m []).map (fun e => (leNat e.1, e.2.1 || bad m)))
          let bl := drainBlocks c (bits o 111 96) elems
          let fl := (List.range bl.length).map (fun j => (⟨clusterOf pc, bits o 111 96, j, bl.getD j [], v⟩ : Flight))
          modCtx s k (fun c => { c with flights := c.flights ++ fl, lotCore := lotCoreOf c v o })

/-- MDRAIN: 04 R106. -/
def execMdrain (p : Fin 8) (v : Fin 96) (op : BitVec 128) (shadow : Option (List Bytes)) (s : State) : Res :=
  .next (onEngine s p v 0 (setBits op.toNat 3 0 2) (fun k c vc => doMdrain s k c vc v (setBits op.toNat 3 0 2) shadow))

end Sys2Proof.Machine
end

