-- ==== Sys2Proof/Machine/Upe.lean ====
section
/-! DEFINITION. The update engine: USGD, UADAM and ULION (08 R197 to R202). -/

namespace Sys2Proof.Machine

/-- The lowest bit of the first offending field of an update operation (08 R197). -/
def upeBad (o : Nat) : Option Nat :=
  if bits o 5 0 = 0 || bits o 5 0 > 3 then some 0
  else if cvcBad (bits o 8 6) then some 6
  else if bits o 12 9 > 5 then some 9
  else if bits o 31 27 ≠ 0 then some 27
  else if bits o 5 0 ≠ 2 && bits o 95 80 ≠ 0 then some 80
  else if bits o 12 9 = 0 && bits o 111 96 ≠ 0 then some 96
  else none

/-- A value on its way through an update, with the conditions gathered so far. -/
abbrev UVal := FVal × Nat

/-- Rounds an exact value to FP32 with the conditions of 03 R83; INVALID where a NaN arises from operands that are no NaN (08 R200). -/
def uRound (x : FVal) (nanIn : Bool) (fl : Nat) : UVal :=
  let (c, f) := convertF .fp32 .rne true x
  (f32 c, fl ||| cfBits f ||| (if x = .nan && !nanIn then 8 else 0))

/-- fma32 of 06 R154 with its conditions. -/
def uFma (a b c : UVal) : UVal :=
  uRound (fadd (fmul a.1 b.1) c.1) (a.1 = .nan || b.1 = .nan || c.1 = .nan) (a.2 ||| b.2 ||| c.2)
/-- rne32 of a product. -/
def uMul (a b : UVal) : UVal := uRound (fmul a.1 b.1) (a.1 = .nan || b.1 = .nan) (a.2 ||| b.2)
/-- rne32 of a sum. -/
def uAdd (a b : UVal) : UVal := uRound (fadd a.1 b.1) (a.1 = .nan || b.1 = .nan) (a.2 ||| b.2)
/-- rsq_ref with the conditions that 06 R154 gives its result. -/
def uRsq (a : UVal) : UVal :=
  let r := refFun 0x1B a.1
  (r.y, a.2 ||| cfBits r.flags ||| 16 * b2n r.divzero)
/-- sgn of 08 R199. -/
def uSgn (a : UVal) : UVal :=
  match a.1 with
  | .nan => a
  | .inf n => (.fin n 1 0, a.2)
  | .fin n m _ => if m = 0 then a else (.fin n 1 0, a.2)
def uNeg (a : UVal) : UVal := (fnegate a.1, a.2)

/-- The new w, m and v of one element under the parameter words (08 R199). -/
def upeStep (opc : Nat) (par : Nat → UVal) (g w m v : UVal) : UVal × UVal × UVal :=
  let lr := par 0
  let wd := par 1
  match opc with
  | 1 =>
    let m' := uFma (par 2) m (uFma wd w g)
    (uFma (uNeg lr) m' w, m', v)
  | 2 =>
    let m' := uFma (par 3) m (uMul (par 4) g)
    let v' := uFma (par 5) v (uMul (uMul (par 6) g) g)
    let d := uMul (uMul m' (par 7)) (uRsq (uAdd (uMul v' (par 8)) (par 9)))
    (uFma (uNeg lr) (uFma wd w d) w, m', v')
  | _ =>
    let c := uFma (par 3) m (uMul (par 4) g)
    let w' := uFma (uNeg lr) (uFma wd w (uSgn c)) w
    let m' := uFma (par 5) m (uMul (par 6) g)
    (w', m', v)

/-- The parameter words that an optimiser uses (08 R198). -/
def upeParams (opc : Nat) : List Nat := match opc with | 1 => [0, 1, 2] | 2 => [0, 1, 3, 4, 5, 6, 7, 8, 9] | _ => [0, 1, 3, 4, 5, 6]

def upeCount (o : Nat) : Nat := 256 * (bits o 20 13 + 1)
def upeWb (o : Nat) : Nat := fmtBytes ((fmtOf (bits o 12 9)).getD .fp32)

/-- The arrays that an update reads or writes, as offset and length: parameters, G, W, M, V, stored copy. -/
def upeArrays (o : Nat) : List (Nat × Nat) :=
  let n := upeCount o
  [(bits o 127 112 * 64, 64), (bits o 47 32 * 64, 4 * n), (bits o 63 48 * 64, 4 * n), (bits o 79 64 * 64, 4 * n)]
    ++ (if bits o 5 0 = 2 then [(bits o 95 80 * 64, 4 * n)] else [])
    ++ (if bits o 12 9 ≠ 0 then [(bits o 111 96 * 64, upeWb o * n)] else [])

/-- What an update gives for one element: the FP32 codes of g as read, of w, m and v, the stored copy, its poison, and the conditions. -/
structure UElem where
  g : Nat
  w : Nat
  m : Nat
  v : Nat
  ws : Nat
  poison : Bool
  flags : Nat
  deriving DecidableEq, Repr

/-- One element of the slice (08 R199 to R201), or none where the position of its draw lies outside the tensor. -/
def upeElem (s : State) (c : Ctx) (pc o tid pos0 i : Nat) (par : Nat → UVal) : Option UElem :=
  let a (off : Nat) : Nat := spBase pc + off * 64 + 4 * i
  let ld (off : Nat) : Nat := leNat (devRead s (a off) 4)
  let opc := bits o 5 0
  let gO := bits o 47 32
  let wO := bits o 63 48
  let mO := bits o 79 64
  let vO := bits o 95 80
  let po := devPoison s (a gO) 4 || devPoison s (a wO) 4 || devPoison s (a mO) 4 || (opc = 2 && devPoison s (a vO) 4)
  let q (off : Nat) : UVal := let x := f32 (ld off); (x, if x = .nan then 32 else 0)
  let v0 : UVal := if opc = 2 then q vO else (fzero false, 0)
  let (w, m, v) := upeStep opc par (q gO) (q wO) (q mO) v0
  let enc (x : UVal) : Nat := (convertF .fp32 .rne true x.1).1
  let wsR : Option (Nat × CFlags) :=
    if bits o 12 9 = 0 then some (0, {})
    else
      let f := (fmtOf (bits o 12 9)).getD .fp32
      if bits o 7 6 = 1 then (sr8Byte c tid (pos0 + i)).map (fun b => convertCvc f (bits o 8 6) b w.1)
      else some (convertCvc f (bits o 8 6) 0 w.1)
  wsR.map (fun r => ⟨ld gO, enc w, enc m, enc v, r.1, po, if po then 64 else w.2 ||| m.2 ||| v.2 ||| cfBits r.2⟩)

def upeElems (s : State) (c : Ctx) (pc o tid pos0 : Nat) (par : Nat → UVal) : List Nat → Option (List UElem)
  | [] => some []
  | i :: r => match upeElem s c pc o tid pos0 i par, upeElems s c pc o tid pos0 par r with
    | some e, some l => some (e :: l)
    | _, _ => none

/-- The first poisoned byte that an update reads, element by element, in the order G, W, M, V. -/
def upePoisonAt (s : State) (pc o : Nat) : Option Nat :=
  let offs := [bits o 47 32, bits o 63 48, bits o 79 64] ++ (if bits o 5 0 = 2 then [bits o 95 80] else [])
  (List.range (upeCount o)).findSome? (fun i => offs.findSome? (fun x =>
    let a := x * 64 + 4 * i
    if devPoison s (spBase pc + a) 4 then some a else none))

/-- Writes one array of an update from element `i` on. -/
def upeArr (s : State) (pc off k i : Nat) (l : List UElem) (f : UElem → Nat) : State :=
  devSeg s (spBase pc + off * 64 + k * i, l.flatMap (fun e => (leBytes k (f e)).map (fun b => (b, e.poison))))

/-- Writes what an update gives for the elements from `i` on. -/
def upeWrite (s : State) (pc o i : Nat) (l : List UElem) : State :=
  let s := upeArr s pc (bits o 63 48) 4 i l (·.w)
  let s := upeArr s pc (bits o 79 64) 4 i l (·.m)
  let s := if bits o 5 0 = 2 then upeArr s pc (bits o 95 80) 4 i l (·.v) else s
  if bits o 12 9 ≠ 0 then upeArr s pc (bits o 111 96) (upeWb o) i l (·.ws) else s

/-- Whether two arrays of an update overlap, a program error whose bytes the cycle of each access gives (08 R197, 01 R13). -/
def upeOverlap (o : Nat) : Bool :=
  let l := upeArrays o
  (List.range l.length).any (fun i => (l.drop (i + 1)).any (fun y => (l[i]?).any (fun x => decide (x.1 < y.1 + y.2) && decide (y.1 < x.1 + x.2))))

/-- Such an update, 64 elements in a cycle: a group reads what the groups up to `lag` before it had left. -/
def upeLag (s : State) (c : Ctx) (pc o tid pos : Nat) (par : Nat → UVal) (lag : Nat) : List UElem × State :=
  let r := (List.range (upeCount o / 64)).foldl (fun (t : List State × List UElem) j =>
    let l := (upeElems (t.1.getD lag s) c pc o tid pos par (rangeFrom (64 * j) 64)).getD []
    (upeWrite (t.1.headD s) pc o (64 * j) l :: t.1, t.2 ++ l)) ([s], [])
  (r.2, r.1.headD s)

/-- The digests of one update: G, W and O images of the layer (08 R202). -/
def upeDigests (o e pos : Nat) (l : List UElem) : Nat × Nat × Nat :=
  let copy := bits o 12 9 ≠ 0
  let adam := bits o 5 0 = 2
  let img4 (f : UElem → Nat) : Bytes := l.flatMap (fun x => leBytes 4 (f x))
  let a := b2n copy
  let wb := if copy then upeWb o else 4
  let g := posDigest (4 * pos) (img4 (·.g)) (4 * e)
  let w := posDigest (wb * pos) (l.flatMap (fun x => leBytes wb (if copy then x.ws else x.w))) (wb * e)
  let ol := 4 * e * (a + 1 + b2n adam)
  let od := (if copy then posDigest (4 * pos) (img4 (·.w)) ol else 0)
    ^^^ posDigest (4 * (a * e + pos)) (img4 (·.m)) ol
    ^^^ (if adam then posDigest (4 * ((a + 1) * e + pos)) (img4 (·.v)) ol else 0)
  (g, w, od)

/-- An update operation: its checks, its arithmetic, its digests, its status flags (08 R197 to R202, R183, 06 R147, 07 R172, 12 R289). The digests of a slice consume the poison of an element that its arrays and UPE_STATUS carry. A position past 2^64 − 1 lies outside the tensor too, and faults as that (DESIGN CHOICE, assumption 58). -/
def doUpe (s : State) (k : Nat) (c : Ctx) (vc : Vcore) (v o : Nat) : State :=
  match upeBad o with
  | some b => fault1 s k (engProb vc v 2 2 5 (128 + b))
  | none =>
    inSegment s k c vc v 4 2 [1, 2]
      (let pc := pcoreOf c v
       let slot := bits o 26 21
       let tid := slotTid vc slot
       let pos := slotPos vc slot 0 0
       if sgBits (slotA vc slot) then fault1 s k (engProb vc v 2 2 5 (128 + 21)) else
       match tensorOf c tid with
       | none => fault1 s k (engProb vc v 2 2 5 (128 + 21) tid)
       | some t =>
         if pos + upeCount o > t.elems then fault1 s k (engProb vc v 2 2 5 (128 + 21) tid)
         else match (upeArrays o).find? (fun x => x.1 + x.2 > spLimit) with
         | some x => fault1 s k (spProb vc v 2 2 x.1 64)
         | none =>
           let pA := bits o 127 112 * 64
           let va := vspBase v + pA
           if devPoison s (spBase pc + pA) 64 then fault1 s k (engProb vc v 2 2 0x1C (va % 2 ^ 32) (va / 2 ^ 32))
           else
             let blk := devRead s (spBase pc + pA) 64
             let par (i : Nat) : UVal := let x := f32 (fieldB blk (4 * i) 4); (x, if x = .nan then 32 else 0)
             let digests := t.layer ≠ 0xFFFFFFFF
             match upeElems s c pc o tid pos par (List.range (upeCount o)) with
             | none =>
               let q := pos + (((List.range (upeCount o)).find? (fun i => (upeElem s c pc o tid pos i par).isNone)).getD 0)
               fault1 s k (engProb vc v 2 2 0x11 (q % 2 ^ 32) (q / 2 ^ 32 % 2 ^ 32) tid)
             | some l =>
               let eaten := if digests then upePoisonAt s pc o else none
               let (l, s) := if upeOverlap o then upeLag { s with draws := s.draws + 1 } c pc o tid pos par (Config.groupLag s.draws) else (l, upeWrite s pc o 0 l)
               let (g, w, od) := upeDigests o t.elems pos l
               let s := orReg s (rUpeStatus pc) (l.foldl (fun a e => a ||| e.flags) 0)
               match eaten with
               | some off => let a := vspBase v + off; fault1 s k (engProb vc v 2 2 0x1C (a % 2 ^ 32) (a / 2 ^ 32))
               | none => if digests then recLayer s k t.layer (shardAt c t.layer pos) w g od else s)

/-- USGD: 08 R199. -/
def execUsgd (p : Fin 8) (v : Fin 96) (op : BitVec 128) (s : State) : Res :=
  .next (onEngine s p v 2 (setBits op.toNat 5 0 1) (fun k c vc => doUpe s k c vc v (setBits op.toNat 5 0 1)))
/-- UADAM: 08 R199. -/
def execUadam (p : Fin 8) (v : Fin 96) (op : BitVec 128) (s : State) : Res :=
  .next (onEngine s p v 2 (setBits op.toNat 5 0 2) (fun k c vc => doUpe s k c vc v (setBits op.toNat 5 0 2)))
/-- ULION: 08 R199. -/
def execUlion (p : Fin 8) (v : Fin 96) (op : BitVec 128) (s : State) : Res :=
  .next (onEngine s p v 2 (setBits op.toNat 5 0 3) (fun k c vc => doUpe s k c vc v (setBits op.toNat 5 0 3)))

end Sys2Proof.Machine
end

