-- ==== Sys2Proof/Machine/Operands.lean ====
section
/-! DEFINITION. The checks of an instruction word that the loader and the conductor make (09 R227, R230, R502), and the static covers (09 R225). -/

namespace Sys2Proof.Machine

/-! ### Fields of a word (09 R227, R230) -/

def wQueue (w : Nat) : Nat := bits w 1 0
def wCtrl (w : Nat) : Bool := bit w 2
/-- Operation half. -/
def wOp (w : Nat) : Nat := bits w 255 128
def wTag (w : Nat) : Nat := bits w 127 96
def wSlack (w : Nat) : Nat := bits w 89 74
/-- COP of a conductor word, none for an engine word. -/
def wCop (w : Nat) : Option Nat := if wCtrl w then some (bits w 135 128) else none
/-- The waits of nonzero count: chime and count. -/
def wWaits (w : Nat) : List (Nat × Nat) := ([(bits w 9 4, bits w 17 10), (bits w 23 18, bits w 31 24)]).filter (fun x => x.2 ≠ 0)
/-- The signals of nonzero count, to vcores: an issuing vcore's own is named 0x7F. -/
def wSigs (w v : Nat) : List Sig :=
  ([(bits w 52 46, bits w 37 32, bits w 45 38), (bits w 73 67, bits w 58 53, bits w 66 59)]).filterMap (fun x =>
    if x.2.2 = 0 then none else some { vcore := if x.1 = 0x7F then v else x.1, chime := x.2.1, count := x.2.2, src := v })

/-! ### Checks -/

/-- The control half: the lowest bit of the first offending field. Of two waits with one chime the second offends; a signal of a conductor operation offends (DEDUCED, assumption 34). -/
def ctlBad (c : Ctx) (w : Nat) : Option Nat :=
  let w0 := bits w 17 10 ≠ 0
  let w1 := bits w 31 24 ≠ 0
  let s0 := bits w 45 38 ≠ 0
  let s1 := bits w 66 59 ≠ 0
  let vBad := fun (v : Nat) => v ≠ 0x7F && decide (c.prog.plan.vcores ≤ v)
  firstBad [(bit w 3, 3), (w0 && decide (bits w 9 4 > 47), 4), (w1 && (decide (bits w 23 18 > 47) || (w0 && decide (bits w 9 4 = bits w 23 18))), 18),
    (s0 && decide (bits w 37 32 > 47), 32), (s0 && wCtrl w, 38), (s0 && vBad (bits w 52 46), 46),
    (s1 && decide (bits w 58 53 > 47), 53), (s1 && wCtrl w, 59), (s1 && vBad (bits w 73 67), 67), (decide (bits w 95 90 ≠ 0), 90)]

/-- A conductor operation (09 R230, 11 R266). -/
def copBad (c : Ctx) (o : Nat) : Option Nat :=
  firstBad [(decide (bits o 7 0 > 6), 0), (decide (bits o 7 0 = 5) && !c.prog.plan.bells.testBit (bits o 13 8), 8),
    (decide (bits o 31 18 ≠ 0), 18), (decide (bits o 127 96 ≠ 0), 96)]

/-- An SDM operation (13 R325, 14 R351, 07 R177, 08 R188, R205, 11 R265). -/
def sdmBad (c : Ctx) (o : Nat) : Option Nat :=
  match bits o 5 0 with
  | 0x01 => copyBad o
  | 0x02 => sendBad c o
  | 0x03 => chimeBad c o
  | 0x04 => cdigBad o
  | 0x05 => firstBad [(decide (bits o 127 96 ≠ 0), 96)]
  | 0x20 => tgroupBad c o
  | 0x21 => agatherBad o
  | 0x22 => permuteBad c o
  | 0x30 => rfillBad o
  | 0x31 => wsBad o
  | 0x32 => wsBad o
  | 0x33 => wsBad o
  | 0x34 => firstBad [(decide (bits o 127 22 ≠ 0), 22)]
  | 0x35 => cexpBad o
  | _ => some 0

/-- The operation half of a word. -/
def opBad (c : Ctx) (w : Nat) : Option Nat :=
  let o := wOp w
  if wCtrl w then copBad c o
  else match wQueue w with
    | 0 => mxeBad o
    | 1 => vseBad c.prog.tensors.length o
    | 2 => upeBad o
    | _ => sdmBad c o

/-- VAR class of a word, 0 if none (02 R48). -/
def varClass (w : Nat) : Nat :=
  if wCtrl w then (if bits w 135 128 = 6 then 3 else 0)
  else if wQueue w = 1 && bits (wOp w) 5 0 = 0x2A then 1
  else if wQueue w = 3 && bits (wOp w) 5 0 = 5 then 2
  else 0

/-- What a word is refused for, as cause, D0 and D1: a field, or a VAR class that a canonical binary was not granted. -/
def wordBad (c : Ctx) (w : Nat) : Option (Nat × Nat × Nat) :=
  match ctlBad c w, (opBad c w).map (· + 128) with
  | some b, _ => some (5, b, 0)
  | none, some b => some (5, b, if !wCtrl w && wQueue w = 1 && bits (wOp w) 5 0 = 2 && b = 140 then bits (wOp w) 27 12 else 0)
  | none, none =>
    if c.prog.canon && varClass w ≠ 0 && !bit c.prog.varGrant (varClass w - 1) then some (8, varClass w, 0)
    else none

/-! ### Static covers (04 R114, 06 R167, 07 R179, 08 R195, R203) -/

/-- Cover of an MXE operation. -/
def mxeCover (o : Nat) : Nat :=
  if bits o 3 0 = 2 then (if bit o 14 then 18 else 14)
  else
    let fp32 := bits o 11 8 = 0
    let ft := (fmtOf (bits o 11 8)).getD .fp32
    let one := fmtBytes ft = 1
    let m := bits o 43 35 + 1
    let d := if fp32 then (match bits o 13 12 with | 1 => 1 | 2 => 3 | _ => 6) else 1
    let p := max (d * m) (if fp32 then 256 else 128)
    (if fp32 then 260 else 132) + (if bits o 7 4 = 6 || bits o 7 4 = 7 then 6 else 0) + (if bit o 14 then 4 else 0) + (if bit o 15 then 130 else 0)
      + (bits o 25 21 - 1) * p + d * m - 1 + (if fp32 then 33 else if one then 21 else 29)

/-- Rows that an MDRAIN of a region adds. -/
def drainCover (g : MxeRegion) (o : Nat) : Nat := mxeCover o + g.m - 1

/-- Cost c and latency term of an operation (06 R165, R166). -/
def opCost (o : Nat) : Nat × Nat :=
  let c := vOpc o
  let isSlot := fun (x : VOp) => match x with | .slot _ => true | _ => false
  if c = 0x30 then (1, 3)
  else if c = 0x1C || c = 0x1D then (8, 52)
  else if 0x18 ≤ c && c ≤ 0x1B then (4, 24)
  else if c = 0x0B && isSlot (vA o) && isSlot (vB o) && isSlot (vC o) then (2, 5)
  else (1, 5)

/-- Active elements of a gather or scatter: the lanes of its index stream that its mask admits (06 R147, R167). -/
def activeElems (s : State) (pc v : Nat) (vc : Vcore) (o : Nat) : Nat :=
  let g := slotA vc (slotNum (vA o))
  ((List.range (sgOuter g)).flatMap (fun r => (List.range (sgInner g)).filter (fun i => (vActive s pc v vc [] o r i).1))).length

/-- Cover of a VSE chain under the slots it read as it started; `n` counts the active elements of a gather or scatter (06 R167). -/
def vseCover (vc : Vcore) (n : Nat) (ops : List Nat) : Nat :=
  match ops with
  | [] => 0
  | o :: _ =>
    let c := vOpc o
    if c = 1 || c = 2 then 1
    else if c = 3 then 10
    else if c = 0x28 then 6 + 8 + n - 1 + 4
    else if c = 0x29 then 6 + n * 5 + 4
    else if c = 0x2A then 6 + (n + 63) / 64 + 16 + 4
    else match chainGeom vc ops with
      | none => 0
      | some (inner, outer) =>
        let w := chainWidth vc ops
        let g := outer * ((inner + w - 1) / w)
        6 + ops.foldl (fun a o => a + (opCost o).2) 0 + 4 + (if ops.any isReduce then 12 else 0) + g * ops.foldl (fun a o => a + (opCost o).1) 0 - 1

/-- Cover of an UPE operation. -/
def upeCover (o : Nat) : Nat :=
  6 + (match bits o 5 0 with | 1 => 12 | 2 => 40 | _ => 14) + 4 * (upeCount o / 256) - 1 + 4

/-- Cover of a waystation operation without its spill transfers. -/
def wsCover (o : Nat) : Nat :=
  (match bits o 5 0 with | 0x31 => 12 | 0x32 => 16 | _ => 10) + 32 * (bits o 31 24 + 1) - 1 + 4

/-- A number for the evaluation that a position needs: lot and counter block. -/
def evalKey (shift per p : Nat) : Nat :=
  let q := if shift = 63 then 0 else p >>> shift
  (q <<< 64) + (p - (q <<< shift)) / per

/-- Distinct evaluations that an RFILL needs: one for each lot and counter block (07 R171, R172). -/
def rfillEvals (c : Ctx) (vc : Vcore) (o : Nat) : Nat :=
  let n := bits o 11 6
  let g := slotA vc n
  let per := if bits o 14 12 = 0 || bits o 14 12 = 3 then 32 else 8
  let shift := match tensorOf c (slotTid vc n) with | some t => t.lotShift | none => 63
  let cells := (List.range (sgOuter g)).flatMap (fun r => (List.range (sgInner g)).map (fun i => slotPos vc n r i))
  (cells.foldl (fun l p => sput l (evalKey shift per p)) []).length

/-- The static cover of the first of a queue's entries `run`, none where its terms are variable or where the end of its chain is not there yet (09 R225, R226, 13 R344). -/
def staticCover (s : State) (c : Ctx) (vc : Vcore) (v q : Nat) (run : List Entry) : Option Nat :=
  match run with
  | [] => none
  | e :: rest =>
    let o := wOp e.word.toNat
    match q with
    | 0 => some (if bits o 3 0 = 2 then drainCover (region s (pcoreOf c v) (bits o 11 11)) o else mxeCover o)
    | 1 =>
      let ops := (e :: rest).map (fun x => wOp x.word.toNat)
      let n := (ops.takeWhile vChain).length
      if n = ops.length then none else some (vseCover { vc with slots := e.slots } e.active (ops.take (n + 1)))
    | 2 => some (upeCover o)
    | _ =>
      if bits o 5 0 = 0x30 then some (14 + (rfillEvals c { vc with slots := e.slots } o + 7) / 8 - 1)
      else if bits o 5 0 = 4 then some (8 + e.active)
      else if 0x31 ≤ bits o 5 0 && bits o 5 0 ≤ 0x33 && vc.ws.spillQ.isEmpty then some (wsCover o + tgetD vc.ws.spilt o 0)
      else none

end Sys2Proof.Machine
end

