-- ==== Sys2Proof/Machine/Conductor.lean ====
section
/-! DEFINITION. The conductor: fetch, issue, queue starts and completions, conductor operations, the step boundary, cover violations (09 R225 to R233, 11 R260, R269). -/

namespace Sys2Proof.Machine

/-! ### Frames -/

/-- Entries of a queue that have not completed. -/
def queueLen (vc : Vcore) (q : Nat) : Nat := (tgetD vc.queues q []).length + (tgetD vc.running q []).length
def queuesEmpty (vc : Vcore) : Bool := (List.range 4).all (fun q => queueLen vc q = 0)
/-- Whether a vcore has completed its frame (10 R243). -/
def vcoreDone (vc : Vcore) : Bool := (vc.cond = .atFend || vc.cond = .atSend || vc.cond = .halted) && queuesEmpty vc
def frameComplete (c : Ctx) : Bool := c.vc.all (fun e => vcoreDone e.2)

/-- Notes the run counter at which a frame completes. -/
def markDone (s : State) (k : Nat) : State :=
  modCtx s k (fun c => if c.began && c.frameDone.isNone && frameComplete c then { c with frameDone := some s.run } else c)

/-- Whether the conductors of a context may issue in this cycle: in a frame, from run cycle 32 of it, with open gates (10 R244). -/
def mayIssue (s : State) (c : Ctx) : Bool := c.st = 2 && c.began && !stands s && decide (32 ≤ frameRun s c)

/-- A problem that the conductor raises at a word. -/
def condProb (vc : Vcore) (v w cause d0 d1 : Nat) : Prob :=
  { cause := cause, unit := 4, vcore := some v, queue := some 4, loc := some (vc.cia, wTag w), d0 := d0, d1 := d1 }

/-- Ends a stall: something of the context moved (11 R276). -/
def unstall (s : State) (k : Nat) : State := modCtx s k (fun c => { c with stall := 0 })

/-! ### Waits (11 R259, R260) -/

def waitsMet (vc : Vcore) (w : Nat) : Bool := (wWaits w).all (fun x => decide (x.2 ≤ tgetD vc.chime x.1 0))
def consume (vc : Vcore) (w : Nat) : Vcore := { vc with chime := (wWaits w).foldl (fun t x => tput t x.1 (tgetD t x.1 0 - x.2)) vc.chime }

/-- Takes the word at the conductor out of the buffer. -/
def stepCia (s : State) (vc : Vcore) (w : Nat) : Vcore :=
  { consume vc w with buf := tdel vc.buf vc.cia, cia := vc.cia + 1, issueAt := s.run + 1 }

/-! ### Queue heads (04 R111, 06 R153, 09 R228, 11 R260) -/

/-- Whether an operation touches region r of its MXE as an MMA or as an MDRAIN. -/
def usesRegion (mma : Bool) (r : Nat) (e : Entry) : Bool :=
  let o := wOp e.word.toNat
  if mma then bits o 3 0 = 1 && bits o 16 16 = r else bits o 3 0 = 2 && bits o 11 11 = r

/-- Whether the interlocks of an engine let the head of its queue start: an MDRAIN of r after every earlier MMA into r, an MMA with KT_FIRST 0 into r after every earlier MDRAIN of r, a VSTAT after every earlier entry of the VSE. -/
def interlockOk (vc : Vcore) (q : Nat) (e : Entry) : Bool :=
  let o := wOp e.word.toNat
  let run := tgetD vc.running q []
  match q with
  | 0 => if bits o 3 0 = 2 then !run.any (usesRegion true (bits o 11 11)) else !(bits o 20 17 = 0 && run.any (usesRegion false (bits o 16 16)))
  | 1 => bits o 5 0 ≠ 3 || run.isEmpty
  | _ => true

/-- Whether the head of a queue can start. -/
def startable (vc : Vcore) (q : Nat) : Bool :=
  match tgetD vc.queues q [] with
  | [] => false
  | e :: _ => !vc.blocked.any (fun b => b.1 = q) && waitsMet vc e.word.toNat && interlockOk vc q e

/-- Whether a queue has started an entry in this run cycle. -/
def startedNow (s : State) (vc : Vcore) (q : Nat) : Bool :=
  match (tgetD vc.running q []).getLast? with | some e => decide (e.started = s.run) | none => false

/-- A vcore once the head of queue r has taken its waits, where that can start in this cycle. -/
def headTakes (s : State) (vc : Vcore) (r : Nat) : Vcore :=
  match tgetD vc.queues r [] with
  | e :: _ => if startable vc r && !startedNow s vc r then consume vc e.word.toNat else vc
  | [] => vc

/-- Whether the heads before queue q that can start in this cycle leave `w` short of its waits: they go first, in the order MXE, VSE, UPE, SDM, conductor (q = 4). -/
def givesWay (s : State) (vc : Vcore) (q w : Nat) : Bool := !waitsMet ((List.range q).foldl (headTakes s) vc) w

/-! ### Fetch (09 R233) -/

/-- Device address of word i of a stream. -/
def wordAddr (c : Ctx) (stream i : Nat) : Nat := c.hbmBase + c.codeOff + (c.prog.dir.getD stream (0, 0)).1 + 32 * i
def streamWords (c : Ctx) (stream : Nat) : Nat := (c.prog.dir.getD stream (0, 0)).2

/-- The next word to fetch: the first that is not buffered, in stream order from the conductor, then from LOOP's target. -/
def nextFetch (c : Ctx) (vc : Vcore) : Option Nat :=
  let n := streamWords c vc.stream
  if vc.buf.length ≥ 2048 then none
  else match (rangeFrom vc.cia (min (n - vc.cia) 2049)).find? (fun i => !thas vc.buf i) with
    | some i => some i
    | none => (List.range (min vc.cia 2048)).find? (fun i => !thas vc.buf i)

/-- MODEL: the object under which the hold for a late word of vcore v is kept; other holds of unit 8 name a die. -/
def fetchObj (v : Nat) : Nat := 256 + v
/-- The hold for a late word of vcore v of context k. -/
def fetchHold (k v : Nat) (h : Hold) : Bool := h.unit = 8 && h.obj = fetchObj v && h.ctx = some k

/-- INSTR_FETCH: the next word of vcore v's stream arrives; a poisoned one faults the context (09 R233). -/
def execInstrFetch (p : Fin 8) (v : Fin 96) (s : State) : Res :=
  .next (onVcore s p v (fun k c vc =>
    match nextFetch c vc with
    | none => s
    | some i =>
      let a := wordAddr c vc.stream i
      let w := leNat (devRead s a 32)
      if devPoison s a 32 then
        fault1 s k { cause := 0x1C, unit := 4, vcore := some v, queue := some 4, loc := some (i, wTag w), d0 := a % 2 ^ 32, d1 := a / 2 ^ 32 }
      else
        let s := modVc (hbmUse s p a 32) k v (fun x => { x with buf := tput x.buf i (BitVec.ofNat 256 w) })
        if i = vc.cia then gateEval (returnHolds s (fetchHold k v)) else s))

/-- Vcores of the resident contexts whose conductor is due a word that is not present (09 R233). -/
def lateFetches (s : State) : List (Nat × Nat) :=
  s.parts.flatMap (fun e => match resident s e.1 with
    | some (k, c) => (c.vc.filter (fun x => mayIssue s c && x.2.cond = .issuing && decide (x.2.issueAt ≤ s.run) && !thas x.2.buf x.2.cia
        && c.probs.isEmpty && !s.holds.any (fun h => fetchHold k x.1 h && h.endAt.isNone))).map (fun x => (k, x.1))
    | none => [])

/-- A word that is not present when due holds the machine as a late HBM result, cause 1 (09 R233, 10 R250). -/
def fetchHolds (s : State) : State :=
  match lateFetches s with
  | [] => s
  | l => gateEval (l.foldl (fun s x => raiseHold s 8 0 1 (fetchObj x.2) (some x.1) s.run (tolOr s (x.1 / 16) 8 0 0)) s)

/-! ### Issue (09 R229, R230) -/

/-- The chain rules at the conductor (06 R145): the index of the operation at fault once a word ends its chain, or where FEND or SEND meets a chain that nothing has ended. -/
def issueChainBad (vc : Vcore) (w : Nat) : Option Nat :=
  if wCtrl w then
    (if (wCop w = some 1 || wCop w = some 2) && !vc.issuedOps.isEmpty then some (vc.issuedOps.length - 1) else none)
  else if wQueue w ≠ 1 || (vChain (wOp w) && decide (vc.issuedOps.length < 16)) then none
  else chainBad (vc.issuedOps.map (·.toNat) ++ [wOp w])

/-- The operations of the chain left open by a word. -/
def chainAfter (vc : Vcore) (w : Nat) : List (BitVec 128) :=
  if wCtrl w || wQueue w ≠ 1 then vc.issuedOps
  else if vChain (wOp w) then vc.issuedOps ++ [BitVec.ofNat 128 (wOp w)] else []

/-- What a word is refused for at issue: its own checks, then the chain it belongs to. -/
def issueBad (c : Ctx) (vc : Vcore) (w : Nat) : Option (Nat × Nat × Nat) :=
  (wordBad c w).or ((issueChainBad vc w).map (fun i => (9, i, 0)))

/-- Issue by one conductor in a run cycle: an engine word goes to its queue if that has room; a word that fails its checks faults the context. -/
def issueVcore (s : State) (k v : Nat) : State :=
  match ctxOf s k with
  | none => s
  | some c => match vcoreOf c v with
    | none => s
    | some vc =>
      if !mayIssue s c || vc.cond ≠ .issuing || s.run < vc.issueAt then s
      else match tget vc.buf vc.cia with
        | none => s
        | some b =>
          let w := b.toNat
          match issueBad c vc w with
          | some (cause, d0, d1) => fault1 s k (condProb vc v w cause d0 d1)
          | none =>
            let q := wQueue w
            if wCtrl w || (tgetD vc.queues q []).length ≥ 32 then s
            else
              let e : Entry := ⟨b, vc.cia, c.frame, s.run, 0, [], 0⟩
              unstall (modVc s k v (fun x =>
                { x with buf := tdel x.buf x.cia, cia := x.cia + 1, issueAt := s.run + 1, issuedOps := chainAfter x w, queues := tput x.queues q (tgetD x.queues q [] ++ [e]) })) k

/-- Issue by every conductor of the resident contexts in a run cycle; a word that is due and not present closes the gates first. -/
def issueAll (s : State) : State :=
  let s := fetchHolds s
  if s.gate then s
  else s.parts.foldl (fun s e => match resident s e.1 with
    | some (k, c) => (tkeys c.vc).foldl (fun s v => issueVcore s k v) s
    | none => s) s

/-- Runs a conductor operation: the word at the conductor is one, its checks pass, and its waits are satisfied, with no queue head before it that takes them (09 R230, 11 R260). `f` gets the word and the vcore with the waits consumed and the word passed. -/
def onCond (s : State) (p v cop : Nat) (f : Nat → Ctx → Vcore → Nat → Vcore → State) : State :=
  onVcore s p v (fun k c vc =>
    if !mayIssue s c || vc.cond ≠ .issuing || s.run < vc.issueAt then s
    else match tget vc.buf vc.cia with
      | none => s
      | some b =>
        let w := b.toNat
        if wCop w ≠ some cop then s
        else match issueBad c vc w with
          | some (cause, d0, d1) => fault1 s k (condProb vc v w cause d0 d1)
          | none => if waitsMet vc w && !givesWay s vc 4 w then f k c vc w (stepCia s vc w) else s)

/-- Puts a vcore back after its conductor moved. -/
def putVc (s : State) (k v : Nat) (vc : Vcore) : State := unstall (modVc s k v (fun _ => vc)) k

/-- NOP: 09 R230. -/
def execNop (p : Fin 8) (v : Fin 96) (s : State) : Res := .next (onCond s p v 0 (fun k _ _ _ x => putVc s k v x))

/-- FEND: the conductor issues nothing more until the next frame (09 R230). -/
def execFend (p : Fin 8) (v : Fin 96) (s : State) : Res :=
  .next (onCond s p v 1 (fun k _ _ _ x => markDone (putVc s k v { x with cond := .atFend }) k))

/-- The step boundary of a context: every vcore has marked it (09 R230, 07 R174, 08 R193, 14 R358, R365, 17 R434). The record of the step closes with its last frame. -/
def stepBoundary (s : State) (k : Nat) : State :=
  match ctxOf s k with
  | none => s
  | some c =>
    if c.gen ≥ 2 ^ 64 - 1 then fault1 s k { cause := 0x10, unit := 4, d0 := 0 }
    else if c.step ≥ 2 ^ 64 - 1 then fault1 s k { cause := 0x10, unit := 4, d0 := 1 }
    else
      let ls := match c.open_ with | some r => recLayers c r | none => []
      let s := clearVersions (mapStepEnd (wsStepEnd s k) k) c
      let s := modCtx s k (fun c =>
        { c with
          gen := c.gen + 1, finals := [], stepMarked := true, stepsLeft := c.stepsLeft - 1,
          stepsDone := c.stepsDone || c.stepsLeft = 1, vc := tmap c.vc (fun _ x => { x with kblk := 0 }) })
      tollBoundary s k ls

/-- COND_SEND: with the four queues empty the vcore ends its step; the last vcore marks the step boundary (09 R230, R231). -/
def execCondSend (p : Fin 8) (v : Fin 96) (s : State) : Res :=
  .next (onCond s p v 2 (fun k c vc w x =>
    if !queuesEmpty vc then s
    else if c.frame + 1 ≠ c.prog.frames then fault1 s k (condProb vc v w 0xC c.prog.frames (c.frame + 1))
    else
      let s := markDone (putVc s k v { x with cond := .atSend }) k
      match ctxOf s k with
      | some c => if c.vc.all (fun e => e.2.cond = .atSend || e.2.cond = .halted) && !c.stepMarked then stepBoundary s k else s
      | none => s))

/-- LOOP: to TARGET unless the requested steps are done (09 R230). -/
def execLoop (p : Fin 8) (v : Fin 96) (s : State) : Res :=
  .next (onCond s p v 3 (fun k c _ w x => putVc s k v (if c.stepsDone then x else { x with cia := bits w 191 160 })))

/-- HALT: the vcore ends; with the last one the context ends with OK, its frame booked (09 R230, 15 R380, 18 R465). -/
def execHalt (p : Fin 8) (v : Fin 96) (s : State) : Res :=
  .next (onCond s p v 4 (fun k _ vc _ x =>
    if !queuesEmpty vc then s
    else
      let s := markDone (putVc s k v { x with cond := .halted }) k
      match ctxOf s k with
      | some c => if c.vc.all (fun e => e.2.cond = .halted) then endCtx (bookFrame s k c false) k 0 else s
      | none => s))

/-- BELL: arrives and blocks the queues of QMASK, or stops while an earlier arrival of this vcore at the bell is not released (09 R230, 11 R267 to R269). -/
def execBell (p : Fin 8) (v : Fin 96) (s : State) : Res :=
  .next (onCond s p v 5 (fun k c vc w x =>
    let b := bits w 141 136
    if vc.bellOut.contains b then modVc s k v (fun y => { y with cond := .bellStop })
    else arriveBell (putVc s k v { x with blocked := x.blocked ++ (setBitsOf 4 (bits w 145 142)).map (fun q => (q, b)) }) k c v b))

/-- DSAMP: scratchpad bytes, as they stand, go to the debug sample path as VAR class 3 (09 R230, 02 R49). -/
def execDsamp (p : Fin 8) (v : Fin 96) (s : State) : Res :=
  .next (onCond s p v 6 (fun k c vc w x =>
    let off := bits w 207 192 * 64
    let n := (bits w 223 208 + 1) * 64
    if off + n > spLimit then
      let a := vspBase v + max off spLimit
      fault1 s k { condProb vc v w 6 (a % 2 ^ 32) (a / 2 ^ 32) with d2 := 64 }
    else
      let s := recVar (putVc s k v x) k 3 4 v 0xFFFFFFFF c.frame 0
      { s with out := s.out ++ [.sample p (k % 16) v off (devRead s (spBase (pcoreOf c v) + off) n)] }))

/-! ### Queues (09 R228, 11 R260) -/

/-- Squaring steps of a zero advance over z bytes (13 R331). -/
def squarings (z : Nat) : Nat := if z = 0 then 0 else 1 + Nat.log2 z

/-- An entry as it starts; an operation of the VSE and an RFILL read their slots then (06 R140), and a CDIG that folds its channel (13 R331). -/
def startEntry (s : State) (c : Ctx) (vc : Vcore) (v q : Nat) (e : Entry) : Entry :=
  let o := wOp e.word.toNat
  if q = 1 then { e with started := s.run, slots := vc.slots, active := if 0x28 ≤ vOpc o && vOpc o ≤ 0x2A then activeElems s (pcoreOf c v) v vc o else 0 }
  else if q = 3 && bits o 5 0 = 0x30 then { e with started := s.run, slots := vc.slots }
  else if q = 3 && bits o 5 0 = 4 && bit o 6 then let d := tgetD vc.dig (bits o 8 7) {}; { e with started := s.run, active := squarings (d.endLen - d.fed) }
  else { e with started := s.run }

/-- ENTRY_START: the head of queue q starts and consumes its waits. A queue of lower number whose head can start goes first (11 R260). -/
def execEntryStart (p : Fin 8) (v : Fin 96) (q : Fin 4) (s : State) : Res :=
  .next (onVcore s p v (fun k c vc =>
    if stands s || !c.began || c.st ≠ 2 || !startable vc q || startedNow s vc q then s
    else match tgetD vc.queues q [] with
      | [] => s
      | e :: rest =>
        if givesWay s vc q e.word.toNat then s
        else putVc s k v { consume vc e.word.toNat with queues := tput vc.queues q rest, running := tput vc.running q (tgetD vc.running q [] ++ [startEntry s c vc v q e]) }))

/-- The signals of a completed entry of vcore v, on their way. -/
def entrySigs (s : State) (p : Nat) (c : Ctx) (v w : Nat) : List Sig :=
  (wSigs w v).map (fun g => { g with due := s.cycle + sigDelay s p (pcoreOf c v) (pcoreOf c g.vcore) (g.vcore = v) })

/-- Whether an entry of the SDM queue is one of the waystation slice. -/
def isWs (o : Nat) : Bool := decide (0x31 ≤ bits o 5 0) && decide (bits o 5 0 ≤ 0x33)

/-- Whether what an entry of the SDM started still goes on: its CEXP, SEND, AGATHER or PERMUTE (11 R265, 13 R327, 14 R356, R361), or spill transfers, which its block stream waits for (08 R195). -/
def entryBusy (c : Ctx) (vc : Vcore) (v q : Nat) (e : Entry) : Bool :=
  q = 3 && ((isWs (wOp e.word.toNat) && thas vc.ws.spilt (wOp e.word.toNat) && !vc.ws.spillQ.isEmpty) || vc.cexps.any (fun x => x.cia = e.cia) || vc.sends.any (fun x => x.cia = e.cia && !x.acked)
    || c.gathers.any (fun g => g.v = v && g.cia = e.cia && decide (g.got.length < g.g)) || c.permutes.any (fun x => x.v = v && x.cia = e.cia && x.phase ≠ 4))

/-- Collective instances that an entry of the SDM has run: an AGATHER or a PERMUTE (14 R355). -/
def instancesOf (c : Ctx) (v cia : Nat) : Nat :=
  (c.gathers.filter (fun g => g.v = v && g.cia = cia)).length + (c.permutes.filter (fun x => x.v = v && x.cia = cia)).length

/-- Forgets what a completed entry of the SDM had started. -/
def dropOps (s : State) (k v q cia : Nat) : State :=
  if q ≠ 3 then s
  else modCtx s k (fun c => { c with
    vc := tmod c.vc v (fun x => { x with sends := x.sends.filter (fun y => y.cia ≠ cia) })
    gathers := c.gathers.filter (fun g => g.v ≠ v || g.cia ≠ cia), permutes := c.permutes.filter (fun x => x.v ≠ v || x.cia ≠ cia) })

/-- Whether no MDRAIN of region r follows in the stream of a vcore from word i on before its K-block is gone: before an MMA that opens the region anew, FEND or SEND. -/
def noDrainAfter (s : State) (c : Ctx) (stream r i : Nat) : Bool :=
  let step := fun (a : Option Bool) (j : Nat) =>
    if a.isSome then a
    else
      let w := leNat (devRead s (wordAddr c stream j) 32)
      if wCtrl w then (if wCop w = some 1 || wCop w = some 2 then some true else none)
      else if wQueue w ≠ 0 then none
      else if bits (wOp w) 3 0 = 2 then (if bits (wOp w) 11 11 = r then some false else none)
      else if bits (wOp w) 16 16 = r && bits (wOp w) 20 17 = 0 then some true else none
  ((rangeFrom i (streamWords c stream - i)).foldl step none).getD true

/-- The last MDRAIN of an echoed K-block ends it, and frees its shadow (17 R425). -/
def drainEnds (s : State) (c : Ctx) (vc : Vcore) (v q : Nat) (e : Entry) : State :=
  let o := wOp e.word.toNat
  let pc := pcoreOf c v
  let r := bits o 11 11
  if q = 0 && bits o 3 0 = 2 && thas s.echo (pc * 2 + r) && noDrainAfter s c vc.stream r (e.cia + 1) then echoEnd s pc r else s

/-- ENTRY_COMPLETE: the n-th running entry of queue q, counted from the oldest, has written its last result and adds its signals; what it started has ended. While the gates are closed only transfers of the SDM go on, not the RBG and the waystation slice (09 R228, 10 R248). -/
def execEntryComplete (p : Fin 8) (v : Fin 96) (q : Fin 4) (n : Nat) (s : State) : Res :=
  .next (onVcore s p v (fun k c vc =>
    match (tgetD vc.running q [])[n]? with
      | none => s
      | some e =>
        if (stands s && (q.val ≠ 3 || bits (wOp e.word.toNat) 5 0 = 0x30 || isWs (wOp e.word.toNat))) || entryBusy c vc v q e then s
        else
          let l := entrySigs s p c v e.word.toNat
          let s := if q.val = 3 then (List.range (instancesOf c v e.cia)).foldl (fun s _ => countInst s (dieOf (pcoreOf c v))) s else s
          let s := modVc (dropOps (drainEnds s c vc v q e) k v q e.cia) k v (fun x => { x with running := tput x.running q ((tgetD x.running q []).eraseIdx n) })
          markDone (unstall (modCtx s k (fun c => { c with sigs := c.sigs ++ l })) k) k))

/-- The oldest running entry of a queue whose cover and SLACK have elapsed, with that number of cycles. A chain of the VSE counts from its first word, its words still in the queue included, with the SLACK of that word (DESIGN CHOICE, assumption 49: the manual does not say which word's). -/
def overdue (s : State) (c : Ctx) (vc : Vcore) (v q : Nat) : Option (Entry × Nat) :=
  let run := tgetD vc.running q []
  (List.range run.length).findSome? (fun i =>
    if q = 1 && i ≠ 0 && (match run[i - 1]? with | some e => vChain (wOp e.word.toNat) | none => false) then none
    else match run[i]?, staticCover s c vc v q (run.drop i ++ (if q = 1 then tgetD vc.queues 1 [] else [])) with
      | some e, some n => if e.started + (n + wSlack e.word.toNat) < s.run then some (e, n + wSlack e.word.toNat) else none
      | _, _ => none)

/-- The clock and the cover of what a CRU owes to a sum, all of it static: at SCOPE 0 and 1 the whole sum from the last addend of all its clusters, for the largest LOCAL_N among them; at SCOPE 2 and 3 each stage of the CRU's own and of its die's mesh, not what the bridge and the network bring (05 R136). -/
def sumClock (c : Ctx) (d : TallyDesc) (x : TSum) (cl : Nat) : Option (Nat × Nat) :=
  let n := tLocalN d cl
  if d.scope ≤ 1 then
    let l := (tParties d cl).map (fun y => (sumOf c y d.tag).getD {})
    if l.all (fun y => decide (2 ≤ y.stage)) then some (l.foldl (fun a y => max a y.lastAt) 0, cruCover d ((tParties d cl).foldl (fun a y => max a (tLocalN d y)) 0)) else none
  else
    let own := (sumOf c (tOwnerOf d cl) d.tag).getD {}
    match x.stage with
    | 2 => if own.expFrom.contains cl || tOwnerOf d cl / 6 ≠ cl / 6 then none else some (x.lastAt, 4 + 6 + 22)
    | 3 => if n = 0 then none else some (x.stageAt, 10 + n * tBlocks d - 1)
    | 4 => if n = 0 || own.intFrom.contains cl || tOwnerOf d cl / 6 ≠ cl / 6 then none else some (x.stageAt, 22)
    | 5 => some (x.stageAt, 9)
    | _ => none

/-- COVER_VIOLATION: an entry of static terms, or for q = 4 a sum of cluster v, is not complete when its cover and SLACK have elapsed. The manual does not say which of an operation's terms D0 names: the command gives it (09 R225). -/
def execCoverViolation (p : Fin 8) (v : Fin 96) (q : Fin 5) (term : Fin 256) (tag : BitVec 16) (s : State) : Res :=
  match resident s p with
  | none => .next s
  | some (k, c) =>
    if q.val = 4 then
      match tDesc c tag.toNat, sumOf c v tag.toNat with
      | some d, some x => match sumClock c d x v with
        | some (t, n) =>
          if s.run ≤ t + n then .next s
          else .next (fault1 s k { cause := 0xE, unit := 6, d0 := 6 * 256 + term, d1 := n, d2 := s.run - (t + n) })
        | none => .next s
      | _, _ => .next s
    else match vcoreOf c v with
      | none => .next s
      | some vc => match overdue s c vc v q with
        | some (e, n) =>
          let unit := if q.val = 3 then (if bits (wOp e.word.toNat) 5 0 = 0x30 then 5 else if isWs (wOp e.word.toNat) then 7 else 3) else q.val
          .next (fault1 s k { cause := 0xE, unit := unit, vcore := some v, queue := some q, loc := some (e.cia, wTag e.word.toNat),
                              d0 := unit * 256 + term, d1 := n, d2 := s.run - (e.started + n) })
        | none => .next s

end Sys2Proof.Machine
end

