-- ==== Sys2Proof/Machine/Place.lean ====
section
/-! DEFINITION. Placement: whether a plan fits a partition (09 R219, 08 R187, 05 R131), the vcore table (09 R220), the cover table (09 R224, 11 R271), image areas (16 R411, R412). -/

namespace Sys2Proof.Machine

/-- A refusal by the loader: the stream of the offending word, if one exists, and the cause with its details (09 R236). -/
structure LoadErr where
  strm : Option Nat := none
  pr : Prob
  deriving DecidableEq, Repr

/-- A refusal that no instruction word carries. -/
def loadErr (cause d0 d1 d2 : Nat) : LoadErr := { pr := { cause := cause, unit := 14, d0 := d0, d1 := d1, d2 := d2 } }
/-- *Container invalid* at a byte offset of the binary. -/
def containerErr (off : Nat) : LoadErr := loadErr 1 off 0 0
/-- *Plan does not fit*: plan, failing condition counted from 1 in the order of 09 R219, package cluster. -/
def noFit (pl cond : Nat) (cl : Nat := 2 ^ 32 - 1) : LoadErr := loadErr 4 pl cond cl

/-! ### Placement (09 R219, R220) -/

/-- Clusters of a partition on a die with at least `vpc` enabled cores, ascending. -/
def fitClusters (s : State) (p d vpc : Nat) : List Nat :=
  (ptnClusters s p).filter (fun cl => cl / 6 = d && decide (vpc ≤ (enabledIn s cl).length))

/-- Dies of a partition that hold CPD such clusters, ascending. -/
def fitDies (s : State) (p : Nat) (pl : Plan) : List Nat := [0, 1].filter (fun d => decide (pl.cpd ≤ (fitClusters s p d pl.vpc).length))

/-- The vcore table over given dies (09 R220). -/
def placeOn (s : State) (p : Nat) (pl : Plan) (dies : List Nat) : List Nat :=
  (List.range pl.vcores).map (fun v =>
    let d := dies.getD (v / (pl.cpd * pl.vpc)) 0
    let cl := (fitClusters s p d pl.vpc).getD (v / pl.vpc % pl.cpd) 0
    (enabledIn s cl).getD (v % pl.vpc) 0)

/-- The dies that the loader keeps. -/
def keepDies (s : State) (p : Nat) (pl : Plan) : List Nat := (fitDies s p pl).take pl.dies

/-! ### The conditions of 09 R219 -/

/-- Whether a bell belongs to a partition for the context of key k: its PTN names the partition and it serves no other context (11 R266). -/
def bellOk (s : State) (p k b : Nat) : Bool :=
  fld s (rBelCfg b) 3 1 = p && (match (bell s b).ctx with | some x => x = k | none => true)

/-- Condition 5: tally reservations (05 R131), waystation declarations (08 R187); the cluster that fails, all ones for the spill areas. `size` is the region in bytes behind the code area. -/
def reserveBad (pl : Plan) (tallies : List TallyDesc) (vtab : List Nat) (code size : Nat) : Option Nat :=
  let cls := (vtab.map clusterOf).foldl sput []
  let sumOn := fun (f : WayDecl → Nat) (cl : Nat) =>
    ((List.range vtab.length).filter (fun v => clusterOf (vtab.getD v 0) = cl)).foldl (fun a v => a + f (pl.ways.getD v ⟨0, 0, 0⟩)) 0
  match (List.range 12).find? (fun cl => tallies.any (fun d => decide (tBase d cl + tLines d cl > 16384))),
        cls.find? (fun cl => decide (sumOn (·.nRes) cl > 256) || decide (sumOn (·.nTag) cl > 16384)) with
  | some cl, _ => some cl
  | none, some cl => some cl
  | none, none =>
    let spill := pl.ways.foldl (fun a w => a + w.nSpill * 16384) 0
    if roundUp code 64 + spill > size then some (2 ^ 32 - 1) else none

/-- What a fit is asked about: partition, context key, plan, tallies, code bytes, region in MiB, whether the job size agrees, and the dies to use where the image fixes them (16 R415). -/
structure FitAsk where
  p : Nat
  k : Nat
  pl : Plan
  tallies : List TallyDesc
  code : Nat
  mib : Nat
  sizeOk : Bool
  dies : Option (List Nat) := none

/-- 09 R219 in order: the vcore table, or the refusal. -/
def fitPlan (s : State) (a : FitAsk) : Except LoadErr (List Nat) :=
  let pl := a.pl
  let dies := a.dies.getD (keepDies s a.p pl)
  let vtab := placeOn s a.p pl dies
  if !a.sizeOk then .error (noFit pl.idx 1)
  else if dies.length < pl.dies || !dies.all (fun d => (fitDies s a.p pl).contains d) then .error (noFit pl.idx 2)
  else if !(setBitsOf 64 pl.bells).all (bellOk s a.p a.k) then .error (noFit pl.idx 3)
  else if pl.streams > fld s (rNetSquota 0 a.p) 13 0 + fld s (rNetSquota 1 a.p) 13 0 || (1 < pl.devices && pl.streams < 192)
      || pl.hbmMib > a.mib || a.code > a.mib * 1048576 then .error (noFit pl.idx 4)
  else match reserveBad pl a.tallies vtab a.code (a.mib * 1048576) with
    | some cl => .error (noFit pl.idx 5 cl)
    | none =>
      if bit (rd s (rLdgCtrl a.p)) 0 && decide (32 * (264 + pl.lentries) > ringLen s a.p) then .error (noFit pl.idx 6)
      else .ok vtab

/-! ### The cover table (09 R224, 11 R271) -/

/-- Whether a context of the partition other than k is on the cores. -/
def runsOther (s : State) (p k : Nat) : Bool := s.ctxs.any (fun e => e.1 / 16 = p && e.1 ≠ k && (e.2.st = 2 || e.2.st = 6))

/-- The first condition that keeps a table from being installed, counted from 1: 1 to 3 the cases of 09 R224, 4 another table runs, 5 the tree depth of 11 R271. -/
def coverBad (s : State) (p k id devices : Nat) : Option Nat :=
  match s.fw.covers.find? (fun t => t.id = id) with
  | none => some 1
  | some t =>
    let low := fun (e : CoverEnt) => (bit t.steps 0 && decide (e.cover < e.latA1)) || (bit t.steps 1 && decide (e.cover < e.latB0))
    let depth := (t.ents.filter (fun e => e.unit = 13 && e.term = 6)).map (·.variant)
    if !bit t.steps (if Config.stepB0 then 1 else 0) then some 2
    else if t.ents.any low then some 3
    else if runsOther s p k && tgetD s.coverOf p 0 ≠ id then some 4
    else if 1 < devices && !depth.any (fun d => decide (ceilLog2 devices ≤ d)) then some 5
    else none

def coverErr (id cond : Nat) : LoadErr := loadErr 3 (id % 2 ^ 32) (id / 2 ^ 32) cond

/-- Installs a cover table for a partition (09 R224, GLB_COVERID). -/
def installCover (s : State) (p id : Nat) : State := setReg { s with coverOf := tput s.coverOf p id } rCoverid id

/-! ### Image areas (16 R411, R412) -/

/-- Bytes of the header, context, stream and CTE blocks. -/
def headBytes (c : Ctx) : Nat :=
  let pl := c.prog.plan
  4096 + roundUp (3840 + 32 * (264 + pl.lentries)) 4096 + roundUp (2 * pl.streams) 4096 + (if 1 < pl.devices then 2166784 else 0)

/-- Bytes of the block of vcore v. -/
def vcoreBytes (c : Ctx) (v : Nat) : Nat := roundUp (4096 + 3145728 + 16384 * (wayOf c v).nRes + 16 * (wayOf c v).nTag) 4096

/-- The size of the largest set of reservations, each as first line and end, that do not overlap: the one that ends first is taken, then the next that begins at or after it. -/
def disjointMost : Nat → List (Nat × Nat) → Nat → Nat
  | 0, _, _ => 0
  | n + 1, l, at0 =>
    match l.filter (fun r => decide (at0 ≤ r.1)) with
    | [] => 0
    | x :: rest => disjointMost n l (rest.foldl (fun e r => min e r.2) x.2) + 1

/-- Whether a sum can be live in a cluster with lines of its own: it has addends there, or its owner is there (05 R131, R132). -/
def sumHere (d : TallyDesc) (cl : Nat) : Bool :=
  decide (0 < tLines d cl) && (decide (0 < tLocalN d cl) || (List.range 12).any (fun x => tLocalN d x ≠ 0 && tOwnerOf d x = cl))

/-- S and L of 16 R411 in a cluster: the most sums that can be live at once, whose reservations do not overlap (05 R131), and the tally store lines that reservations cover (DESIGN CHOICE, assumption 36). -/
def liveSums (c : Ctx) (cl : Nat) : Nat × Nat :=
  let rs := (c.prog.tallies.filter (fun d => sumHere d cl)).map (fun d => (tBase d cl, tBase d cl + tLines d cl))
  (disjointMost rs.length rs 0, ((List.range 16384).filter (fun i => rs.any (fun r => decide (r.1 ≤ i) && decide (i < r.2)))).length)

/-- Bytes of the block of a cluster. -/
def clusterBytes (c : Ctx) (cl : Nat) : Nat := let x := liveSums c cl; roundUp (64 * (x.1 + x.2)) 4096

/-- Physical clusters of virtual die vd, ascending in virtual cluster. -/
def dieClusters (c : Ctx) (vd : Nat) : List Nat :=
  (List.range c.prog.plan.cpd).map (fun i => clusterOf (pcoreOf c ((vd * c.prog.plan.cpd + i) * c.prog.plan.vpc)))

/-- The clusters whose blocks the image area of virtual die vd was laid out for. A restore onto others moves contents and no block (16 R412, R415). -/
def imgClusters (c : Ctx) (vd : Nat) : List Nat := dieClusters { c with vtab := c.imgTab } vd

/-- Vcores of virtual die vd. -/
def dieVcores (c : Ctx) (vd : Nat) : List Nat := rangeFrom (vd * c.prog.plan.cpd * c.prog.plan.vpc) (c.prog.plan.cpd * c.prog.plan.vpc)

/-- Bytes of the image part of virtual die vd. -/
def partBytes (c : Ctx) (vd : Nat) : Nat :=
  (if vd = 0 then headBytes c else 0) + (dieVcores c vd).foldl (fun a v => a + vcoreBytes c v) 0 + (imgClusters c vd).foldl (fun a cl => a + clusterBytes c cl) 0

/-- The lowest address at which `n` bytes fit a range beside the areas in use, a multiple of 4 KiB. -/
def firstFit (lo hi n : Nat) (used : List (Nat × Nat)) : Option Nat :=
  let cands := lo :: (used.map (fun r => roundUp r.2 4096)).filter (fun a => decide (lo ≤ a))
  let ok := cands.filter (fun a => decide (a + n ≤ hi) && !used.any (fun r => rangesMeet r (a, a + n)))
  match ok with | [] => none | a :: r => some (r.foldl min a)

/-- Areas in use by the contexts of a device, as first byte and end. -/
def areasUsed (s : State) (k : Nat) : List (Nat × Nat) :=
  s.ctxs.flatMap (fun e => if e.1 = k then [] else e.2.areas.map (fun a => (a.1, a.1 + a.2)))

/-- The image area of a context: each part in the stow area of its die, else the whole in the ledger stow area (16 R412). Areas with their lengths, and whether in ledger memory. -/
def imageArea (s : State) (k : Nat) (c : Ctx) : Option (List (Nat × Nat) × Bool) :=
  let p := k / 16
  let used := areasUsed s k
  let parts := (List.range c.prog.plan.dies).map (fun vd =>
    let d := dieOf (pcoreOf c (vd * c.prog.plan.cpd * c.prog.plan.vpc))
    (firstFit (ptnStow s p d).1 (ptnStow s p d).2 (partBytes c vd) used).map (fun a => (a, partBytes c vd)))
  if parts.all (·.isSome) then some (parts.filterMap id, false)
  else
    let n := (List.range c.prog.plan.dies).foldl (fun a vd => a + partBytes c vd) 0
    match firstFit (ptnLstow s p).1 (ptnLstow s p).2 n used with
    | some a => some ([(a, n)], true)
    | none => none

end Sys2Proof.Machine
end

