-- ==== Sys2Proof/Machine/Loader.lean ====
section
/-! DEFINITION. The loader: reading and checking a binary (09 R212 to R218, R231, R234), the roster (14 R347), and what a load writes (09 R233, 11 R266). -/

namespace Sys2Proof.Machine

/-! ### The container (09 R213, R214) -/

/-- A section table entry: type, count, offset, length. -/
structure Sect where
  typ : Nat
  cnt : Nat
  off : Nat
  len : Nat
  deriving DecidableEq, Repr

/-- The first offset of a list of checks that fails. -/
def firstOff (l : List (Bool × Nat)) : Option Nat := (l.find? (·.1)).map (·.2)

/-- The header's first bad field (09 R213). -/
def headerBad (b : Bytes) : Option Nat :=
  firstOff [
    (fieldB b 0 4 ≠ 0x50374E46, 0), (fieldB b 4 2 ≠ 1, 4), (fieldB b 6 2 ≠ 0x100, 6), (decide (fieldB b 8 4 > 1), 8), (decide (fieldB b 0xC 1 > 7), 0xC),
    (fieldB b 0x16 2 ≠ 0, 0x16), (fieldB b 0x20 8 ≠ b.length || decide (b.length < 256), 0x20),
    (fieldB b 0x28 8 % 64 ≠ 0 || decide (b.length < fieldB b 0x28 8 + 32 * fieldB b 0xE 2), 0x28), (!zeroB b 0x30 0x100, 0x30)]

/-- The sections of a binary, or the first bad field of the section table (09 R214). The entry length is checked where the manual fixes it. -/
def sections (b : Bytes) : Nat → Nat → List Sect → Except Nat (List Sect)
  | 0, _, acc => .ok acc
  | n + 1, e, acc =>
    let x : Sect := ⟨fieldB b e 2, fieldB b (e + 4) 4, fieldB b (e + 8) 8, fieldB b (e + 16) 8⟩
    let el := fieldB b (e + 2) 2
    let want := match x.typ with | 1 => some 64 | 3 => some 32 | 4 => some 16 | _ => none
    match firstOff [
      (x.typ = 0 || decide (9 < x.typ) || acc.any (fun y => y.typ = x.typ), e),
      ((match want with | some w => el != w | none => false) || decide (x.len < el * x.cnt) || (x.typ = 5 && decide (x.len < 64)), e + 2),
      (x.off % 64 ≠ 0 || decide (b.length < x.off + x.len) || acc.any (fun y => decide (x.off < y.off + y.len) && decide (y.off < x.off + x.len)), e + 8),
      (!zeroB b (e + 24) (e + 32), e + 24)] with
    | some o => .error o
    | none => sections b n (e + 32) (acc ++ [x])

/-- A section by its type. -/
def sect (l : List Sect) (t : Nat) : Sect := (l.find? (fun x => x.typ = t)).getD ⟨t, 0, 0, 0⟩

/-- Step 1 of 09 R215: the sections, or *container invalid*. -/
def openBinary (b : Bytes) : Except LoadErr (List Sect) :=
  match headerBad b with
  | some o => .error (containerErr o)
  | none => match sections b (fieldB b 0xE 2) (fieldB b 0x28 8) [] with
    | .error o => .error (containerErr o)
    | .ok l =>
      if !(rangeFrom 1 7).all (fun t => l.any (fun x => x.typ = t)) then .error (containerErr 0xE)
      else if (sect l 1).cnt ≠ fieldB b 0xD 1 + 1 then .error (containerErr 0xD)
      else .ok l

/-! ### Plans, code, tallies (09 R218; layouts of assumption 8) -/

/-- Offset of the entry of a plan in the binary. -/
def planOff (b : Bytes) (l : List Sect) (pl : Nat) : Option Nat :=
  ((List.range (sect l 1).cnt).map (fun i => (sect l 1).off + 64 * i)).find? (fun e => fieldB b e 1 = pl)

/-- The code directory: offset in the section and words of each stream. -/
def codeDir (b : Bytes) (l : List Sect) : List (Nat × Nat) :=
  (List.range (sect l 2).cnt).map (fun j => (fieldB b ((sect l 2).off + 16 * j) 8, fieldB b ((sect l 2).off + 16 * j + 8) 8))

/-- The first directory entry whose stream does not start on a 64-byte boundary behind the directory within the section. -/
def codeBad (b : Bytes) (l : List Sect) : Option Nat :=
  let x := sect l 2
  if x.len < 16 * x.cnt then some x.off
  else ((List.range x.cnt).find? (fun j =>
    let d := (codeDir b l).getD j (0, 0)
    d.1 % 64 ≠ 0 || decide (d.1 < 16 * x.cnt) || decide (x.len < d.1 + 32 * d.2))).map (fun j => x.off + 16 * j)

def readPlan (b : Bytes) (l : List Sect) (e : Nat) : Plan :=
  let n := fieldB b (e + 4) 2
  let po := (sect l 1).off + fieldB b (e + 0x20) 4
  let wo := (sect l 7).off + fieldB b (e + 0x24) 4
  { idx := fieldB b e 1, dies := fieldB b (e + 1) 1, cpd := fieldB b (e + 2) 1, vpc := fieldB b (e + 3) 1, vcores := n, lentries := fieldB b (e + 6) 2
    devices := fieldB b (e + 8) 4, replicas := fieldB b (e + 0xC) 4, bells := fieldB b (e + 0x10) 8, streams := fieldB b (e + 0x18) 4, hbmMib := fieldB b (e + 0x1C) 4
    smap := (List.range n).map (fun v => fieldB b (po + 2 * v) 2)
    ways := (List.range n).map (fun v => ⟨fieldB b (wo + 12 * v) 4, fieldB b (wo + 12 * v + 4) 4, fieldB b (wo + 12 * v + 8) 4⟩) }

/-- Whether the plan's fields of a sum split a tally block's exponent choice: a SCOPE 0 sum in several clusters, a SCOPE 1 sum in both dies, or parties that name several owners (02 R47). -/
def splitSum (d : TallyDesc) : Bool :=
  let l := (List.range 12).filter (fun x => tLocalN d x ≠ 0)
  let few := fun (f : Nat → Nat) => decide (((l.map f).foldl sput []).length ≤ 1)
  match d.scope with
  | 0 => !few id
  | 1 => !few (· / 6) || !few (tOwnerOf d)
  | _ => !few (tOwnerOf d)

/-- The first bad field of a plan entry (09 R218, 02 R53, 11 R266, 14 R369; DEDUCED, assumption 37). -/
def planBad (b : Bytes) (l : List Sect) (e : Nat) (pl : Plan) : Option Nat :=
  let nd := (sect l 6).cnt
  let tp := fieldB b (e + 0x28) 4
  let cnt := fieldB b (e + 0x2C) 4
  let word := fun (i : Nat) => fieldB b ((sect l 6).off + tp + 8 * i) 8
  firstOff [
    (pl.dies = 0 || decide (2 < pl.dies), e + 1), (pl.cpd = 0 || decide (6 < pl.cpd), e + 2), (pl.vpc = 0 || decide (8 < pl.vpc), e + 3),
    (pl.vcores ≠ pl.dies * pl.cpd * pl.vpc, e + 4), (decide (65024 < pl.lentries), e + 6), (pl.devices = 0 || decide (131072 < pl.devices), e + 8),
    (pl.replicas = 0 || pl.devices % pl.replicas ≠ 0, e + 0xC), (decide (1 < pl.devices) && pl.bells = 0, e + 0x10),
    (decide ((sect l 1).len < fieldB b (e + 0x20) 4 + 2 * pl.vcores) || !pl.smap.all (fun x => decide (x < (sect l 2).cnt)), e + 0x20),
    (decide ((sect l 7).len < fieldB b (e + 0x24) 4 + 12 * pl.vcores), e + 0x24),
    (decide ((sect l 6).len < tp + 8 * cnt), e + 0x28), (cnt ≠ 12 * nd, e + 0x2C), (!zeroB b (e + 0x30) (e + 0x40), e + 0x30)]
  |>.orElse (fun _ => ((List.range cnt).find? (fun i => decide (11 < bits (word i) 24 21) || bits (word i) 63 54 ≠ 0)).map (fun i => (sect l 6).off + tp + 8 * i))

/-- The tally descriptors with the plan's words (05 R130, 09 R218). -/
def readTallies (b : Bytes) (l : List Sect) (e : Nat) : List TallyDesc :=
  (List.range (sect l 6).cnt).map (fun i =>
    let o := (sect l 6).off + 32 * i
    let tp := (sect l 6).off + fieldB b (e + 0x28) 4 + 96 * i
    { tag := fieldB b o 2, fmt := fieldB b (o + 2) 1, scope := fieldB b (o + 3) 1, blocks := fieldB b (o + 4) 2, bell := fieldB b (o + 6) 1, dest := fieldB b (o + 7) 1
      nAdd := fieldB b (o + 8) 4, outerTag := fieldB b (o + 12) 2, outerIdx := fieldB b (o + 14) 2, dVcore := fieldB b (o + 16) 2, dOff := fieldB b (o + 18) 2
      chime := fieldB b (o + 20) 1, hasGroup := fieldB b (o + 21) 1 = 1, plan := (List.range 12).map (fun k => fieldB b (tp + 8 * k) 8) })

def readTensors (b : Bytes) (l : List Sect) : List Tensor :=
  (List.range (sect l 3).cnt).map (fun i =>
    let o := (sect l 3).off + 32 * i
    { vt := fieldB b o 6, lotShift := fieldB b (o + 6) 1, fmt := fieldB b (o + 7) 1, elems := fieldB b (o + 8) 8, layer := fieldB b (o + 0x10) 4
      role := fieldB b (o + 0x14) 2, gradOf := fieldB b (o + 0x16) 2 })

def readLayers (b : Bytes) (l : List Sect) : List LayerRow :=
  (List.range (sect l 4).cnt).map (fun i =>
    let o := (sect l 4).off + 16 * i
    ⟨fieldB b o 4, fieldB b (o + 4) 4, fieldB b (o + 8) 4, fieldB b (o + 12) 4⟩)

/-- Initial images: entries of 16 bytes, stream, offset in the scratchpad, offset in the section, bytes. -/
def readInit (b : Bytes) (l : List Sect) : List InitImg :=
  (List.range (sect l 8).cnt).map (fun i =>
    let o := (sect l 8).off + 16 * i
    ⟨fieldB b o 2, fieldB b (o + 4) 4, sliceB b ((sect l 8).off + fieldB b (o + 8) 4) (fieldB b (o + 12) 4)⟩)

def initBad (b : Bytes) (l : List Sect) : Option Nat :=
  let x := sect l 8
  ((List.range x.cnt).map (fun i => x.off + 16 * i)).find? (fun o =>
    decide (x.len < fieldB b (o + 8) 4 + fieldB b (o + 12) 4) || decide (spLimit < fieldB b (o + 4) 4 + fieldB b (o + 12) 4) || decide (x.len < 16 * x.cnt))

/-- The program of a binary under the plan at entry e. -/
def readProg (b : Bytes) (l : List Sect) (e : Nat) : Prog :=
  let so := (sect l 5).off
  { hash := sha384 b, len := b.length, canon := bit (fieldB b 8 4) 0, varGrant := fieldB b 0xC 1, hwSig := fieldB b 0x10 4, ftlMin := fieldB b 0x14 2
    coverId := fieldB b 0x18 8, frames := fieldB b so 4, fb := fieldB b (so + 4) 4, ft := fieldB b (so + 8) 4, kMin := fieldB b (so + 12) 1
    tensors := readTensors b l, layers := readLayers b l, tallies := readTallies b l e, dir := codeDir b l, codeLen := (sect l 2).len
    init := readInit b l, plan := readPlan b l e }

/-! ### Step 5 of 09 R215 -/

/-- *Reserved encoding* of a table entry: D0 the lowest bit of the field within its entry, D1 the TID or tag (DEDUCED, assumption 37). -/
def entryErr (b d1 : Nat) : LoadErr := loadErr 5 b d1 0

/-- The first bad field of tensor table entry `tid` (09 R216, 08 R185). A reserved byte makes the container invalid (DESIGN CHOICE, assumption 58). -/
def tensorBad (g : Prog) (b : Bytes) (o tid : Nat) : Option LoadErr :=
  match g.tensors[tid - 1]? with
  | none => none
  | some t =>
    let act := if t.gradOf = 0 then none else g.tensors[t.gradOf - 1]?
    if !zeroB b (o + 0x18) (o + 0x20) then some (containerErr (o + 0x18))
    else if t.lotShift > 63 then some (entryErr 48 tid)
    else if t.fmt > 7 then some (entryErr 56 tid)
    else if t.role > 7 then some (entryErr 160 tid)
    else if t.role ≠ 2 && t.gradOf ≠ 0 then some (entryErr 176 tid)
    else if t.role = 2 && (match act with | some a => a.role != 1 | none => true) then some (entryErr 176 tid)
    else if g.canon && t.role = 2 && (match act with | some a => a.fmt != t.fmt | none => false) then some (entryErr 56 tid)
    else none

/-- The first bad field of tally descriptor i (05 R130; the nesting rules of 05 R127, R128 in a canonical binary, tested as the model reads them: DESIGN CHOICE, assumption 51). -/
def tallyBad (g : Prog) (b : Bytes) (o i : Nat) : Option LoadErr :=
  match g.tallies[i]? with
  | none => none
  | some d =>
    if (g.tallies.take i).any (fun x => x.tag = d.tag) then some (containerErr o)
    else if fieldB b (o + 21) 1 > 1 then some (containerErr (o + 21))
    else if !zeroB b (o + 22) (o + 32) then some (containerErr (o + 22))
    else if d.fmt > 1 then some (entryErr 16 d.tag)
    else if d.scope > 3 then some (entryErr 24 d.tag)
    else if d.bell > 63 then some (entryErr 48 d.tag)
    else if d.dest > 2 then some (entryErr 56 d.tag)
    else if d.nAdd = 0 || d.nAdd > 2 ^ 20 then some (entryErr 64 d.tag)
    else if d.chime > 47 then some (entryErr 160 d.tag)
    else if g.canon && (splitSum d || (lotSum g d && decide (1 < ((List.range 12).filter (fun x => tLocalN d x ≠ 0)).length))) then some (loadErr 7 d.tag 0 0)
    else if g.canon && (((d.dest = 2) ≠ d.hasGroup) || (d.hasGroup && !g.tallies.any (fun x => x.tag = d.outerTag && x.tag ≠ d.tag && decide (d.outerIdx < x.nAdd))))
      then some (loadErr 7 d.tag 0 0)
    else none

/-- The sections in order: TENSOR, LAYER, STEP, TALLY, INIT; WAYST was checked with the plan. `kp` is the partition's K and `kMan` the manifest's (09 R217, 10 R241). -/
def sectionsBad (g : Prog) (b : Bytes) (l : List Sect) (kp kMan : Nat) : Option LoadErr :=
  let so := (sect l 5).off
  ((rangeFrom 1 g.tensors.length).findSome? (fun t => tensorBad g b ((sect l 3).off + 32 * (t - 1)) t))
  |>.orElse (fun _ => ((List.range g.layers.length).find? (fun i => match g.layers[i]? with
      | some r => [r.tidW, r.tidM, r.tidV].any (fun t => decide (g.tensors.length < t))
      | none => false)).map (fun i => containerErr ((sect l 4).off + 16 * i + 4)))
  |>.orElse (fun _ =>
    if !zeroB b (so + 13) (so + 64) then some (containerErr (so + 13))
    else if g.kMin < 12 || 26 < g.kMin then some (containerErr (so + 12))
    else if !(decide (0 < g.fb) && decide (g.fb < g.ft) && decide (g.ft ≤ g.frames)) then some (loadErr 0xC g.frames g.ft 0)
    else if kMan < g.kMin then some (loadErr 0xC g.kMin kMan 0)
    else if kMan ≠ kp then some (loadErr 0xC kp kMan 0)
    else none)
  |>.orElse (fun _ => (List.range g.tallies.length).findSome? (fun i => tallyBad g b ((sect l 6).off + 32 * i) i))
  |>.orElse (fun _ => (initBad b l).map containerErr)

/-! ### Step 6 of 09 R215: the words -/

/-- The words of a stream. -/
def streamOf (b : Bytes) (l : List Sect) (g : Prog) (j : Nat) : List Nat :=
  let d := g.dir.getD j (0, 0)
  (List.range d.2).map (fun i => fieldB b ((sect l 2).off + d.1 + 32 * i) 32)

/-- A word at fault: its index, the cause and its details. -/
abbrev WordErr := Nat × Nat × Nat × Nat × Nat

/-- The earlier of two words at fault; the first where they are one word. -/
def earlier (a b : Option WordErr) : Option WordErr :=
  match a, b with
  | some x, some y => if y.1 < x.1 then some y else some x
  | some x, none => some x
  | none, y => y

/-- The first word that fails its own checks (09 R227, R230, 02 R48). -/
def fieldWalk (c : Ctx) : List Nat → Nat → Option WordErr
  | [], _ => none
  | w :: r, i => match wordBad c w with
    | some (cause, d0, d1) => some (i, cause, d0, d1, 0)
    | none => fieldWalk c r (i + 1)

/-- The region cursor over the words of a stream (04 R104, R105, 02 R47): the first word that would split or reorder a K-block. -/
def cursorWalk : List Nat → Nat → MxeRegion → MxeRegion → Option WordErr
  | [], _, _, _ => none
  | w :: r, i, g0, g1 =>
    let o := wOp w
    if wCtrl w then (if bits o 7 0 = 1 || bits o 7 0 = 2 then cursorWalk r (i + 1) {} {} else cursorWalk r (i + 1) g0 g1)
    else if wQueue w ≠ 0 then cursorWalk r (i + 1) g0 g1
    else if bits o 3 0 = 1 then
      let n := bits o 16 16
      let g := if n = 0 then g0 else g1
      let cls := (pairOf (bits o 7 4) (bits o 11 8) (bits o 13 12)).getD .e4
      match cursorBad g o cls with
      | some e => some (i, 7, n, e, bits o 20 17)
      | none =>
        let g' : MxeRegion := { st := if bit o 26 then .closed else .opened, nextTile := bits o 20 17 + bits o 25 21, m := bits o 43 35 + 1, n := bits o 50 44 + 1, cls := cls, passes := bits o 13 12 }
        if n = 0 then cursorWalk r (i + 1) g' g1 else cursorWalk r (i + 1) g0 g'
    else
      let n := bits o 11 11
      let g := if n = 0 then g0 else g1
      if g.st ≠ .closed then some (i, 7, n, if g.st = .opened then g.nextTile else 0, 0) else cursorWalk r (i + 1) g0 g1

/-- A K-block that is no whole block although another of its sum is not either (04 R104): an MDRAIN to the reduce unit of a K-block closed before K-tile 15, where an earlier one of the same instance of the sum was closed so (DEDUCED, assumption 50: an instance is as many drains under a tag as the sum has addends, and its last K-block is the one that is short). `z` holds by region the tile its last MMA closed at, `t` by tag the drains of the instance so far and whether one was short. -/
def shortWalk (g : Prog) : List Nat → Nat → Tbl Nat → Tbl (Nat × Bool) → Option WordErr
  | [], _, _, _ => none
  | w :: r, i, z, t =>
    let o := wOp w
    if wCtrl w || wQueue w ≠ 0 then shortWalk g r (i + 1) z t
    else if bits o 3 0 = 1 then shortWalk g r (i + 1) (if bit o 26 then tput z (bits o 16 16) (bits o 20 17 + bits o 25 21) else z) t
    else
      let tag := bits o 111 96
      match g.tallies.find? (fun d => d.tag = tag && d.hasGroup), bit o 14 with
      | some d, true =>
        let e := tgetD t tag (0, false)
        let closed := tgetD z (bits o 11 11) 16
        if closed < 16 && e.2 then some (i, 7, bits o 11 11, 15, closed - 1)
        else shortWalk g r (i + 1) z (if d.nAdd ≤ e.1 + 1 then tdel t tag else tput t tag (e.1 + 1, e.2 || decide (closed < 16)))
      | _, _ => shortWalk g r (i + 1) z t

/-- A drain into a lot's sum that another core feeds too (02 R47): the stream runs on `n` vcores, and `taken` are the tags that streams before it drain into. -/
def lotWalk (g : Prog) (taken : List Nat) (n : Nat) : List Nat → Nat → Option WordErr
  | [], _ => none
  | w :: r, i =>
    let o := wOp w
    let tag := bits o 111 96
    if !wCtrl w && wQueue w = 0 && bits o 3 0 = 2 && bit o 14 && g.tallies.any (fun d => d.tag = tag && lotSum g d) && (decide (1 < n) || taken.contains tag)
    then some (i, 7, tag, 0, 0) else lotWalk g taken n r (i + 1)

/-- The tags that the drains of a stream name. -/
def drainTags (ws : List Nat) : List Nat :=
  (ws.filter (fun w => !wCtrl w && wQueue w = 0 && bits (wOp w) 3 0 = 2 && bit (wOp w) 14)).map (fun w => bits (wOp w) 111 96)

/-- The chains of a stream: VSE operations up to one with CHAIN 0, or up to the end of the frame, each with its word index (06 R143, R146). -/
def chainsOf : List Nat → Nat → List (Nat × Nat) → List (List (Nat × Nat))
  | [], _, acc => if acc.isEmpty then [] else [acc]
  | w :: r, i, acc =>
    let o := wOp w
    if wCtrl w then
      (if (bits o 7 0 = 1 || bits o 7 0 = 2) && !acc.isEmpty then acc :: chainsOf r (i + 1) [] else chainsOf r (i + 1) acc)
    else if wQueue w ≠ 1 then chainsOf r (i + 1) acc
    else if vChain o then chainsOf r (i + 1) (acc ++ [(i, o)])
    else (acc ++ [(i, o)]) :: chainsOf r (i + 1) []

/-- The first word of a chain at fault (06 R145). -/
def chainWalk (ws : List Nat) : Option WordErr :=
  (chainsOf ws 0 []).findSome? (fun ch => (chainBad (ch.map (·.2))).map (fun i => ((ch.getD i (0, 0)).1, 9, i, 0, 0)))

/-- The step form of a stream (09 R231): body with FRAMES − 1 FENDs and one SEND at its end, LOOP to word 0, HALT. `ph` is 0 in the body, 1 behind SEND, 2 behind LOOP, 3 behind HALT. -/
def shapeWalk (frames : Nat) : List Nat → Nat → Nat → Nat → Option WordErr
  | [], i, fends, ph => if ph = 3 then none else some (i, 0xC, frames, fends + 1, 0)
  | w :: r, i, fends, ph =>
    let cop := if wCtrl w then bits (wOp w) 7 0 else 7
    let bad : Option WordErr := some (i, 0xC, frames, fends + 1, 0)
    match ph with
    | 0 => if cop = 1 then (if frames ≤ fends + 1 then bad else shapeWalk frames r (i + 1) (fends + 1) 0)
           else if cop = 2 then (if fends + 1 = frames then shapeWalk frames r (i + 1) fends 1 else bad)
           else if cop = 3 || cop = 4 then bad else shapeWalk frames r (i + 1) fends 0
    | 1 => if cop = 3 && bits (wOp w) 63 32 = 0 then shapeWalk frames r (i + 1) fends 2 else bad
    | 2 => if cop = 4 then shapeWalk frames r (i + 1) fends 3 else bad
    | _ => bad

/-- The first word of a stream that the loader refuses; `taken` and `n` as for lotWalk. -/
def streamBad (c : Ctx) (taken : List Nat) (n : Nat) (ws : List Nat) : Option WordErr :=
  let canon := if c.prog.canon then earlier (earlier (cursorWalk ws 0 {} {}) (shortWalk c.prog ws 0 [] [])) (lotWalk c.prog taken n ws 0) else none
  earlier (earlier (earlier (fieldWalk c ws 0) canon) (chainWalk ws)) (shapeWalk c.prog.frames ws 0 0 0)

/-- The streams of the plan in ascending index. -/
def wordsBad (g : Prog) (b : Bytes) (l : List Sect) : Option LoadErr :=
  let c : Ctx := { prog := g }
  let js := g.plan.smap.foldl sput []
  js.findSome? (fun j =>
    let ws := streamOf b l g j
    let taken := (js.filter (· < j)).flatMap (fun i => drainTags (streamOf b l g i))
    (streamBad c taken (g.plan.smap.filter (· = j)).length ws).map (fun e =>
      { strm := if e.1 < ws.length then some j else none, pr := { cause := e.2.1, unit := 14, loc := if e.1 < ws.length then some (e.1, wTag (ws.getD e.1 0)) else none, d0 := e.2.2.1, d1 := e.2.2.2.1, d2 := e.2.2.2.2 } }))

/-! ### A load (09 R215) -/

/-- The roster of a job (14 R347): the nodes by rank and this device's rank, where it is well formed. -/
def readRoster (s : State) (addr n base mib : Nat) : Option (List Nat × Nat) :=
  if n ≤ 1 then (if addr = 0 then some ([s.prof.node], 0) else none)
  else if addr < base || base + mib * 1048576 < addr + 4 * n then none
  else
    let l := (List.range n).map (fun r => leNat (devRead s (addr + 4 * r) 4))
    if l.any (fun x => decide (131071 < x)) || (l.foldl sput []).length ≠ n || !l.contains s.prof.node then none
    else some (l, l.findIdx (· = s.prof.node))

/-- What a load is asked for: partition, context key, plan index, drumbeat exponent, roster address, region base and MiB. -/
structure LoadAsk where
  p : Nat
  k : Nat
  pl : Nat
  kMan : Nat
  roster : Nat
  base : Nat
  mib : Nat
  deriving DecidableEq, Repr

/-- A checked binary: the program, its vcore table and its ranks. -/
structure Loaded where
  prog : Prog
  vtab : List Nat
  ranks : List Nat
  rank : Nat
  code : Bytes
  deriving DecidableEq, Repr

/-- The checks of 09 R215 in order. -/
def loadCheck (s : State) (a : LoadAsk) (b : Bytes) : Except LoadErr Loaded :=
  match openBinary b with
  | .error e => .error e
  | .ok l =>
    if fieldB b 0x10 4 ≠ fld s rArv 31 0 || fld s rArv 47 32 < fieldB b 0x14 2 then .error (loadErr 2 (fld s rArv 31 0) (fld s rArv 47 32) 0)
    else match planOff b l a.pl with
      | none => (match coverBad s a.p a.k (fieldB b 0x18 8) 1 with
        | some x => .error (coverErr (fieldB b 0x18 8) x)
        | none => .error (noFit a.pl 0))
      | some e =>
        let g := readProg b l e
        match coverBad s a.p a.k g.coverId g.plan.devices, (planBad b l e g.plan).orElse (fun _ => codeBad b l) with
        | some x, _ => .error (coverErr g.coverId x)
        | none, some o => .error (containerErr o)
        | none, none =>
          let ro := readRoster s a.roster g.plan.devices a.base a.mib
          match fitPlan s { p := a.p, k := a.k, pl := g.plan, tallies := g.tallies, code := g.codeLen, mib := a.mib, sizeOk := ro.isSome } with
          | .error x => .error x
          | .ok vtab =>
            match (sectionsBad g b l (ptnK s a.p) a.kMan).orElse (fun _ => wordsBad g b l) with
            | some x => .error x
            | none => .ok { prog := g, vtab := vtab, ranks := (ro.getD ([], 0)).1, rank := (ro.getD ([], 0)).2, code := sliceB b (sect l 2).off g.codeLen }

/-! ### What a load writes -/

/-- Vcores whose streams hold a BELL or a PERMUTE that names bell b (11 R266). -/
def bellParties (code : Bytes) (g : Prog) (b : Nat) : Nat :=
  let names := fun (j : Nat) =>
    let d := g.dir.getD j (0, 0)
    (List.range d.2).any (fun i =>
      let w := fieldB code (d.1 + 32 * i) 32
      let o := wOp w
      if wCtrl w then bits o 7 0 = 5 && bits o 13 8 = b else wQueue w = 3 && bits o 5 0 = 0x22 && bits o 11 6 = b)
  (g.plan.smap.filter names).length

/-- Writes BEL_CFG of a bell of the plan, keeping SCOPE and TIMEOUT, and resets its state (11 R266, R279). -/
def installBell (s : State) (k : Nat) (code : Bytes) (g : Prog) (b : Nat) : State :=
  let s := setFld (setFld s (rBelCfg b) 0 0 1) (rBelCfg b) 12 6 (bellParties code g b - 1)
  let s := if belScope s b = 1 then setFld s (rBelCfg b) 35 16 (g.plan.devices - 1) else s
  modBell s b (fun x => { x with ctx := some k, parity := false, arr0 := 0, arr1 := 0, due := none, dueCount := none, jobRel := false, phases := 0, node0 := [], node1 := [] })

/-- The vcores of a program before their first word. -/
def freshVcores (g : Prog) : Tbl Vcore := (List.range g.plan.vcores).map (fun v => (v, { stream := g.plan.smap.getD v 0 }))

/-- Writes the code area and the bells of a context that has been placed (09 R233, 11 R266). -/
def installProg (s : State) (k : Nat) (c : Ctx) (code : Bytes) : State :=
  let s := hbmUse (devWrite s (c.hbmBase + c.codeOff) code) (k / 16) (c.hbmBase + c.codeOff) code.length
  (setBitsOf 64 c.prog.plan.bells).foldl (fun s b => installBell s k code c.prog b) s

/-- Refuses a load: one FAULT completion with LOAD, then LOAD_REFUSED (09 R236, 15 R380). -/
def refuseLoad (s : State) (q : Nat) (m : Man) (k pl : Nat) (e : LoadErr) : State :=
  let s := complete s q { kind := 2, status := 0, ctx := k % 16, id := fieldB m.slot 8 8, body := refusalBytes s k pl e.strm e.pr }
  finishMan s q m.seq 5

/-! ### START and END (15 R379 to R381) -/

/-- Whether nothing is on a partition's cores or on its way there. -/
def coresFree (s : State) (p : Nat) : Bool :=
  (part s p).resident.isNone && !s.ctxs.any (fun e => e.1 / 16 = p && (e.2.st = 3 || e.2.st = 6))

/-- Chooses a LOADED context for admission: its muster begins, over the collective streams that open with it (11 R273, 14 R349; DESIGN CHOICE, assumption 20). -/
def admitMuster (s : State) (p n : Nat) : State :=
  openColl (modCtx (modPart s p (fun x => { x with letIn := some n })) (ctxKey p n) (fun c => { c with muster := .waiting })) (ctxKey p n) (fun c => liveFans c c.step)

/-- Whether a region lies in a partition's HBM region (15 R380) and meets no stow area: the partition's region holds both, and no engine of a context may reach a stow area (16 R401, R423; DEDUCED, assumption 40). -/
def regionOk (s : State) (p base mib : Nat) : Bool :=
  base % 1048576 = 0 && inPtn s p base (base + mib * 1048576)

/-- The context that a START makes. -/
def startCtx (q : Nat) (m : Man) (x : Loaded) (s : State) (p : Nat) : Ctx :=
  let b := m.slot
  { st := 1, lc := bit (fieldB b 0x66 1) 1, retain := bit (fieldB b 0x66 1) 0, qp := q, startId := fieldB b 8 8, sman := some m.seq, jobkey := fieldB b 0x48 8
    ranks := x.ranks, rank := x.rank, prog := x.prog, vtab := x.vtab, seed := sliceB b 0x20 16, gen := fieldB b 0x30 8, step := fieldB b 0x38 8
    stepsLeft := fieldB b 0x40 8, hbmBase := fieldB b 0x58 8, hbmMib := fieldB b 0x60 4, vc := freshVcores x.prog, loadEnd := s.cycle
    kVote := ptnK s p, kMan := fieldB b 0x65 1, mapCfg := rd s (rCteMapcfg 0), imgTab := x.vtab }

/-- START with the binary that the loader has read, none where the read failed. -/
def startMan (s : State) (q : Nat) (m : Man) (bin : Option Bytes) : State :=
  let b := m.slot
  let p := qpPtn s q
  let k := manCtx s q m
  let base := fieldB b 0x58 8
  let mib := fieldB b 0x60 4
  let kMan := fieldB b 0x65 1
  if fieldB b 0x66 1 > 3 || kMan < 12 || 26 < kMan then finishMan s q m.seq 1
  else if hostBad (fieldB b 0x10 8) then finishMan s q m.seq 2
  else if (ctxOf s k).isSome then finishMan s q m.seq 4
  else if !regionOk s p base mib then finishMan s q m.seq 2
  else
    let s := if bit (fieldB b 0x66 1) 0 then s else devZero s base (mib * 1048576)
    match bin with
    | none => finishMan s q m.seq 3
    | some bin =>
      let bin := if fieldB b 0x18 8 = bin.length then bin else []
      match loadCheck s { p := p, k := k, pl := fieldB b 0x64 1, kMan := kMan, roster := fieldB b 0x50 8, base := base, mib := mib } bin with
      | .error e => refuseLoad s q m k (fieldB b 0x64 1) e
      | .ok x =>
        let c := startCtx q m x s p
        match imageArea s k c with
        | none => finishMan (orReg s (rPtnStat p) 64) q m.seq 4
        | some (areas, led) =>
          let c := { c with areas := areas, inLedger := led }
          let s := modPart (installProg (setCtx s k c) k c x.code) p (fun y => { y with exported := sdel y.exported (k % 16), codes := tdel y.codes (k % 16) })
          let s := if runsOther s p k then s else installCover s p x.prog.coverId
          if coresFree s p && (part s p).letIn.isNone then admitMuster s p (k % 16) else s

/-- START: loads and checks a binary, places its plan and starts a context (15 R380). -/
def execStart (q : Fin 64) (bin : Option Bytes) (s : State) : Res := .next (onMan s q 1 0x67 (fun s m => startMan s q m bin))

/-- END: the context stops at the next taken beat of its partition; with no context it completes with STATE, and so does a second END (15 R381). -/
def execEnd (q : Fin 64) (s : State) : Res := .next (onMan s q 2 0x10 (fun s m =>
  let k := manCtx s q m
  match ctxOf s k with
  | none => finishMan s q m.seq 4
  | some c => if c.ending.isSome then finishMan s q m.seq 4 else modCtx s k (fun c => { c with ending := some (q.val, m.seq) })))

end Sys2Proof.Machine
end

