-- ==== Sys2Proof/Machine/Stow.lean ====
section
/-! DEFINITION. Stow images: their blocks and addresses, their bytes, and reading them (16 R411, R416 to R418). -/

namespace Sys2Proof.Machine

/-! ### Where the blocks lie (16 R411, R412) -/

/-- Address of the part of virtual die vd. -/
def partBase (c : Ctx) (vd : Nat) : Nat :=
  if c.inLedger then (c.areas.getD 0 (0, 0)).1 + (List.range vd).foldl (fun a w => a + partBytes c w) 0 else (c.areas.getD vd (0, 0)).1

/-- Virtual die of a vcore. -/
def virtDie (c : Ctx) (v : Nat) : Nat := v / (c.prog.plan.cpd * c.prog.plan.vpc)

/-- Address of the block of vcore v. -/
def vcoreAddr (c : Ctx) (v : Nat) : Nat :=
  let vd := virtDie c v
  partBase c vd + (if vd = 0 then headBytes c else 0) + ((dieVcores c vd).filter (fun u => decide (u < v))).foldl (fun a u => a + vcoreBytes c u) 0

/-- Address of the block of the i-th cluster of virtual die vd. -/
def clusterAddr (c : Ctx) (vd i : Nat) : Nat :=
  partBase c vd + (if vd = 0 then headBytes c else 0) + (dieVcores c vd).foldl (fun a u => a + vcoreBytes c u) 0
    + ((imgClusters c vd).take i).foldl (fun a cl => a + clusterBytes c cl) 0

/-- Bytes of the whole image: LEN. -/
def imageLen (c : Ctx) : Nat := c.areas.foldl (fun a x => a + x.2) 0

def ctxBlock (c : Ctx) : Nat := partBase c 0 + 4096
def streamBlock (c : Ctx) : Nat := ctxBlock c + roundUp (3840 + 32 * (264 + c.prog.plan.lentries)) 4096
def cteBlock (c : Ctx) : Nat := streamBlock c + roundUp (2 * c.prog.plan.streams) 4096

/-- Whether a context is a gang context (16 R405). -/
def gang (c : Ctx) : Bool := decide (1 < c.prog.plan.devices)

/-- The data ranges of an image, as address and bytes: scratchpads, resident slots and tally store lines keep their poison (16 R416). -/
def dataRanges (c : Ctx) : List (Nat × Nat) :=
  (List.range c.prog.plan.vcores).map (fun v => (vcoreAddr c v + 4096, 3145728 + 16384 * (wayOf c v).nRes))
    ++ (List.range c.prog.plan.dies).flatMap (fun vd => (List.range (imgClusters c vd).length).map (fun i =>
      let x := liveSums c ((imgClusters c vd).getD i 0)
      (clusterAddr c vd i + 64 * x.1, 64 * x.2)))

/-- The lowest poisoned unit of an image outside its data ranges (16 R416). -/
def steering (s : State) (c : Ctx) : Option Nat :=
  s.poison.find? (fun u => c.areas.any (fun a => decide (a.1 ≤ 64 * u) && decide (64 * u < a.1 + a.2))
    && !(dataRanges c).any (fun r => decide (r.1 ≤ 64 * u) && decide (64 * u < r.1 + r.2)))

/-! ### The bytes -/

/-- BEL_STATE_b (11). -/
def belStateOf (s : State) (b : Nat) : Nat :=
  let x := bell s b
  b2n x.parity + at_ (min (arrOf x x.parity) 127) 1 + at_ (b2n x.due.isSome) 8 + at_ x.discards 16 + at_ x.phases 32

/-- The step record of a context as accumulated so far, SHIELD apart. -/
def recordSoFar (s : State) (k : Nat) (c : Ctx) : Bytes :=
  match c.open_ with
  | some r => recordBody (setFld s (rTctl (k / 16)) 0 0 0) k c r false
  | none => []

/-- The control block of a vcore; the tally flags go with vcore 0. -/
def ctlBytes (c : Ctx) (v : Nat) (vc : Vcore) : Bytes :=
  let tf := if v = 0 then c.tflags.foldl (fun a e => a ||| e.2) 0 else 0
  padTo 4096 (
    leBytes 4 vc.cia ++ leBytes 4 (vc.status ||| at_ tf 20) ++ (List.range 8).map (fun i => byte (tgetD vc.accum i 0)) ++ leBytes 8 vc.sense
      ++ leBytes 4 vc.ws.nextSidx ++ leBytes 4 vc.ws.nextDord
      ++ (List.range 48).flatMap (fun i => leBytes 2 (tgetD vc.chime i 0)) ++ (List.range 48).flatMap (fun i => leBytes 2 (tgetD vc.land i 0))
      ++ (List.range 4).flatMap (fun i => let d := tgetD vc.dig i {}; leBytes 8 d.val ++ leBytes 8 d.fed ++ leBytes 8 d.endLen)
      ++ List.replicate 192 0
      ++ (List.range 64).flatMap (fun j => let x := tgetD vc.slots j (0, 0); leBytes 16 x.1.toNat ++ leBytes 16 x.2.toNat)
      ++ (List.range 256).flatMap (fun r => leBytes 3 (tgetD vc.ws.owner r 0)))

/-- The tags of a vcore. -/
def tagBytes (c : Ctx) (v : Nat) (vc : Vcore) : Bytes :=
  (List.range (wayOf c v).nTag).flatMap (fun i => match tget vc.ws.tags i with
    | some t => leBytes 4 t.crc ++ leBytes 4 t.layer ++ leBytes 3 i ++ leBytes 1 t.flags ++ leBytes 4 t.dord
    | none => List.replicate 16 0)

/-- A kept message in the format of 14 R362. -/
def earlyMsg (x : Nat × CteMsg) : Bytes :=
  let m := x.2
  cteHdr x.1 (cteMode m.gmode 0 m.parity m.scatter m.fmt) m.id m.inst m.step m.first m.count m.rank m.addends m.digest m.arg ++ padTo (roundUp m.data.length 64) m.data

/-- The map block: the map in force and a later one, each as ALG with FANIN and S_M, then a held verdict as step, code, stop and equal members (DESIGN CHOICE, assumption 38). -/
def mapBlock (c : Ctx) : Bytes :=
  let one := fun (m : Nat × Nat × Nat) => leBytes 8 (m.2.1 + at_ m.2.2 54) ++ leBytes 8 m.1
  let cur := (c.maps.find? (fun m => m.1 ≤ c.step)).getD (0, 0, 0)
  let later := (c.maps.find? (fun m => c.step < m.1)).getD (0, 0, 0)
  let held := match c.toll with
    | some t => (match t.verdict with | some (code, stop, eq) => leBytes 8 t.step ++ leBytes 1 code ++ leBytes 1 (b2n stop) ++ leBytes 1 1 ++ leBytes 1 0 ++ leBytes 4 eq | none => [])
    | none => []
  padTo 4096 (one cur ++ one later ++ held)

/-- The image header; IMG_CRC as given. -/
def imgHeader (s : State) (k : Nat) (c : Ctx) (crc : Nat) : Bytes :=
  let flags := 1 + 2 * b2n (gang c) + 4 * b2n c.lc + 8 * b2n c.inLedger
  let diemap := (List.range c.prog.plan.dies).foldl (fun a vd => a + at_ (dieOf (pcoreOf c (vd * c.prog.plan.cpd * c.prog.plan.vpc))) vd) 0
  leBytes 4 0x53374E46 ++ leBytes 2 1 ++ leBytes 2 flags ++ leBytes 8 (imageLen c) ++ padTo 48 c.prog.hash ++ leBytes 8 (rd s rArv) ++ leBytes 8 c.prog.coverId
    ++ padTo 16 c.seed ++ leBytes 8 c.gen ++ leBytes 8 c.step ++ leBytes 8 c.stepsLeft ++ leBytes 4 c.frame ++ leBytes 1 c.prog.plan.idx
    ++ leBytes 1 (ptnK s (k / 16)) ++ leBytes 1 diemap ++ leBytes 1 0 ++ leBytes 4 s.prof.node ++ leBytes 4 0 ++ leBytes 8 c.jobkey ++ leBytes 16 (unitMapOf s)
    ++ leBytes 8 c.codeOff ++ leBytes 8 c.hbmBase ++ leBytes 4 c.hbmMib ++ List.replicate 68 0 ++ leBytes 8 crc

/-! ### Moving ranges -/

/-- Moves n bytes with their poison from src to dst; both and n are multiples of 64 and the ranges do not meet. -/
def devMove (s : State) (src dst n : Nat) : State :=
  let cs := memCells s.mem src n
  let us := s.poison.filter (fun u => decide (src ≤ 64 * u) && decide (64 * u < src + n))
  let s := devZero s dst n
  { s with mem := memPutCells s.mem src dst cs, poison := us.foldl (fun t u => sput t (u - src / 64 + dst / 64)) s.poison }

/-- CRC-64 over n bytes of memory from address a, going on from c: the listed cells with the zero bytes between them (16 R411; 13 R331 for the advance). -/
def memCrc (m : List Host.Cell) (c a n : Nat) : Nat :=
  let r := (memCells m a n).foldl (fun (x : Nat × Nat) e => (crc64Byte (crc64Zeros x.1 (e.1 - x.2)) e.2, e.1 + 1)) (c, a)
  crc64Zeros r.1 (a + n - r.2)

/-- CRC-64 of the whole image, IMG_CRC taken as zero. -/
def imageCrc (s : State) (c : Ctx) : Nat :=
  let m := memClear s.mem (partBase c 0 + 0xF8) 8
  c.areas.foldl (fun x a => memCrc m x a.1 a.2) 0

/-! ### Writing an image -/

/-- Resident slots of a vcore in its cluster's slice, and bytes. -/
def wayRange (c : Ctx) (v : Nat) : Nat × Nat := (slotAddr c v 0, 16384 * (wayOf c v).nRes)

/-- Writes the block of vcore v. -/
def writeVcore (c : Ctx) (s : State) (e : Nat × Vcore) : State :=
  let a := vcoreAddr c e.1
  let w := wayRange c e.1
  let s := devWrite s a (ctlBytes c e.1 e.2)
  let s := devMove s (spBase (pcoreOf c e.1)) (a + 4096) 3145728
  let s := devMove s w.1 (a + 4096 + 3145728) w.2
  devWrite s (a + 4096 + 3145728 + w.2) (tagBytes c e.1 e.2)

/-- The virtual clusters of a context, as the package clusters that hold them. -/
def virtClusters (c : Ctx) : List Nat := (List.range c.prog.plan.dies).flatMap (dieClusters c)
/-- A set of clusters as a mask over the virtual clusters, and back. -/
def clusterMask (c : Ctx) (l : List Nat) : Nat := (List.range (virtClusters c).length).foldl (fun m i => if l.contains ((virtClusters c).getD i 0) then m + 2 ^ i else m) 0
def maskClusters (c : Ctx) (m : Nat) : List Nat := (setBitsOf 12 m).filterMap (fun i => (virtClusters c)[i]?)

/-- The tally store lines of a cluster that reservations cover, in their order in the image. -/
def coveredLines (c : Ctx) (cl : Nat) : List Nat :=
  (List.range 16384).filter (fun i => c.prog.tallies.any (fun d => sumHere d cl && decide (tBase d cl ≤ i) && decide (i < tBase d cl + tLines d cl)))

/-- The state record of a live sum: TAG, stage, count of the exponent round, step, the clusters whose bytes and whose integers have come, staged blocks, and run cycles since its last arrival and to its due cycle (DESIGN CHOICE, assumption 38). -/
def sumRecord (s : State) (c : Ctx) (tag : Nat) (x : TSum) : Bytes :=
  padTo 64 (leBytes 2 tag ++ leBytes 1 x.stage ++ leBytes 1 0 ++ leBytes 4 x.cnt ++ leBytes 8 x.inst ++ leBytes 2 (clusterMask c x.expFrom) ++ leBytes 2 (clusterMask c x.intFrom)
    ++ leBytes 4 (stagedOf x) ++ leBytes 8 (s.run - x.lastAt) ++ leBytes 8 (s.run - x.stageAt) ++ leBytes 8 (match x.due with | some u => u - s.run + 1 | none => 0))

/-- A staged addend block in its 17 lines: FP32, then POISON and NZ bits (05 R131, R122). -/
def stagedLines (l : List TElem) : Bytes :=
  let bit8 := fun (f : TElem → Bool) => (List.range 32).map (fun j => byte ((List.range 8).foldl (fun a i => a + 2 ^ i * b2n (f (l.getD (8 * j + i) (0x80000000, false)))) 0))
  (List.range 256).flatMap (fun i => leBytes 4 (l.getD i (0, false)).1) ++ bit8 (·.2) ++ bit8 (fun e => e.1 ≠ 0x80000000)
/-- The block of elements that 17 lines hold. -/
def unstage (b : Bytes) : List TElem := (List.range 256).map (fun i => (fieldB b (4 * i) 4, bit (fieldB b (1024 + i / 8) 1) (i % 8)))

/-- The lines of a sum: its staged addend blocks, block by block in order of arrival, then from stage 4 its accumulator blocks (05 R131), and behind them in the reservation, as far as it goes, what the sum needs beside: the exponent bytes, combined or final, and in stage 1 how many addends each block has staged (DESIGN CHOICE, assumption 38). -/
def sumBytes (d : TallyDesc) (x : TSum) : Bytes :=
  let n := tBlocks d
  x.blks.flatMap (fun e => e.2.staged.flatMap stagedLines)
    ++ (if x.stage ≥ 4 then (List.range n).flatMap (fun j => padTo (64 * accLines d) (intData (tT32 d) (tgetD x.blks j {}))) else [])
    ++ (List.range n).map (fun j => byte (tgetD (if x.stage < 3 then x.comb else x.fexp) j 0))
    ++ (if x.stage = 1 then (List.range n).flatMap (fun j => leBytes 4 (tgetD x.blks j {}).staged.length) else [])

/-- The live sums of a cluster, in TAG order. -/
def liveTags (c : Ctx) (cl : Nat) : Tbl TSum := (c.sums.filter (fun e => e.1 / 65536 = cl)).map (fun e => (e.1 % 65536, e.2))

/-- Where the lines of a sum stand among those of the block laid out for a cluster. -/
def sumLine (c : Ctx) (cl : Nat) (d : TallyDesc) : Nat := (coveredLines c cl).idxOf (tBase d cl)

/-- The bytes of the block laid out for cluster `at_` that takes what cluster cl holds: a record for each live sum, then the lines. -/
def clusterImage (s : State) (c : Ctx) (cl at_ : Nat) : Bytes :=
  let n := liveSums c at_
  let recs := padTo (64 * n.1) (((liveTags c cl).flatMap (fun e => sumRecord s c e.1 e.2)).take (64 * n.1))
  recs ++ (liveTags c cl).foldl (fun b e => match tDesc c e.1 with
    | some d => spliceB b (64 * sumLine c at_ d) ((sumBytes d e.2).take (64 * tLines d at_))
    | none => b) (List.replicate (64 * n.2) 0)

/-- A list of numbers in ascending order as runs: first and length. -/
def runsOf (l : List Nat) : List (Nat × Nat) :=
  (l.foldl (fun (r : List (Nat × Nat)) x => match r with | (a, n) :: t => if a + n = x then (a, n + 1) :: t else (x, 1) :: r | [] => [(x, 1)]) []).reverse

/-- The open-instance records of an instance of a sum across devices: for each set of blocks — whose bytes and whose integers have come from a member, which blocks have gone on, which are final — a kind of 1, the set's number, TAG, the member's rank, and up to seven runs of blocks (14 R355; DESIGN CHOICE, assumption 38). -/
def instRecords (tag : Nat) (x : TSum) : List Bytes :=
  let one := fun (ph rank : Nat) (l : List Nat) => ((List.range (((runsOf l).length + 6) / 7)).map (fun j => ((runsOf l).drop (7 * j)).take 7)).map (fun r =>
    padTo 64 (leBytes 1 1 ++ leBytes 1 ph ++ leBytes 2 tag ++ leBytes 4 rank ++ r.flatMap (fun e => leBytes 4 e.1 ++ leBytes 4 e.2)))
  let byRank := fun (ph : Nat) (l : List Nat) => ((l.map (· / 65536)).foldl sput []).flatMap (fun r =>
    one ph r (((l.filter (fun y => y / 65536 = r)).map (· % 65536)).foldl sput []))
  byRank 0 x.kidsExp ++ byRank 1 x.kidsInt ++ one 2 0 (x.up.foldl sput []) ++ one 3 0 (x.fin.foldl sput [])

/-- The open-instance records of a context: its sums across devices. An AGATHER or PERMUTE is not open at a stow point, since its entry keeps its frame (09 R230, 16 R408). -/
def instBytes (c : Ctx) : Bytes :=
  ((c.sums.flatMap (fun e => match tDesc c (e.1 % 65536) with
    | some d => if d.scope = 3 && e.1 / 65536 = ownerCluster d then instRecords d.tag e.2 else []
    | none => [])).take 1024).flatten

/-- A sum with the sets that open-instance records give. -/
def withRecords (tag : Nat) (b : Bytes) (x : TSum) : TSum :=
  (chunksB 64 1024 b).foldl (fun x r =>
    if fieldB r 0 1 ≠ 1 || fieldB r 2 2 ≠ tag then x
    else
      let l := (List.range 7).flatMap (fun i => rangeFrom (fieldB r (8 + 8 * i) 4) (min 65536 (fieldB r (12 + 8 * i) 4)))
      let m := l.map (fun y => fieldB r 4 4 * 65536 + y)
      match fieldB r 1 1 with
      | 0 => { x with kidsExp := x.kidsExp ++ m }
      | 1 => { x with kidsInt := x.kidsInt ++ m }
      | 2 => { x with up := x.up ++ l }
      | _ => { x with fin := x.fin ++ l }) x

/-- Writes the cluster blocks. -/
def writeClusters (c : Ctx) (s : State) (vd : Nat) : State :=
  (List.range (dieClusters c vd).length).foldl (fun s i => devWrite s (clusterAddr c vd i) (clusterImage s c ((dieClusters c vd).getD i 0) ((imgClusters c vd).getD i 0))) s

/-- Writes the messages of the early-arrival buffer, one behind the other, with their poison; at most 2 MiB. -/
def writeEarly (s : State) (a : Nat) (l : List (Nat × Nat × CteMsg)) : State :=
  (l.foldl (fun (r : State × Nat) e =>
    let m := e.2.2
    let t := landData r.1 r.2 (m.pmask * 2) (earlyMsg e.2)
    (if m.torn then devTaint t (r.2 + 64) m.data.length else t, r.2 + 64 + roundUp m.data.length 64)) (s, a)).1

/-- Writes the whole image of a context, its header last (16 R410, R411). -/
def writeImage (s : State) (k : Nat) (c : Ctx) : State :=
  let s := c.areas.foldl (fun s a => devZero s a.1 a.2) s
  let s := devWrite s (ctxBlock c) ((List.range 64).flatMap (fun b => leBytes 8 (if (planBells c).contains b then belStateOf s b else 0)) ++ recordSoFar s k c)
  let s := devWrite s (streamBlock c) ((List.range c.prog.plan.streams).flatMap (fun n =>
    leBytes 2 (match psnStream s (k / 16) (k % 16) n with | some e => e.1 | none => 0xFFFF)))
  let s := if gang c then writeEarly (devWrite (devWrite s (cteBlock c) (instBytes c)) (cteBlock c + 65536) (mapBlock c)) (cteBlock c + 65536 + 4096) c.early else s
  let s := c.vc.foldl (writeVcore c) s
  let s := (List.range c.prog.plan.dies).foldl (writeClusters c) s
  let s := devWrite s (partBase c 0) (imgHeader s k c 0)
  devWrite s (partBase c 0) (imgHeader s k c (imageCrc s c))

/-! ### Reading an image back -/

/-- A header field of the image of a context in device memory. -/
def imgFld (s : State) (c : Ctx) (off len : Nat) : Nat := leNat (devRead s (partBase c 0 + off) len)

/-- The first bad field of an image header (16 R414 step 1); `crc` is the CRC-64 of the image. -/
def imgBad (h : Bytes) (crc : Nat) : Option Nat :=
  firstOff [(fieldB h 0 4 ≠ 0x53374E46, 0), (fieldB h 4 2 ≠ 1, 4), (!bit (fieldB h 6 2) 0 || decide (fieldB h 6 2 > 15), 6), (fieldB h 0xF8 8 ≠ crc, 0xF8)]

/-- Writes the data of vcore v back into its scratchpad and slots. -/
def readVcore (c : Ctx) (s : State) (v : Nat) : State :=
  let a := vcoreAddr c v
  let w := wayRange c v
  devMove (devMove s (a + 4096) (spBase (pcoreOf c v)) 3145728) (a + 4096 + 3145728) w.1 w.2

/-- A sum with the elements poisoned that the poisoned ones of its lines held; a line of POISON bits or of a code plane poisons every element that it says something of (05 R122, R131, 16 R416). -/
def taintSum (d : TallyDesc) (bad : Nat → Bool) (x : TSum) : TSum :=
  let n := 17 * stagedOf x
  let w := if tT32 d then 4 else 8
  let stage := fun (b : Nat) (l : List TElem) => (List.range l.length).map (fun q => let y := l.getD q (0, false); (y.1, y.2 || bad (b + q / 16) || bad (b + 16)))
  let code := fun (b : Nat) (l : List Nat) => (List.range l.length).map (fun q => l.getD q 0 ||| (if bad (b + q * w / 64) || bad (b + 4 * w + q / 128) then 4 else 0))
  { x with blks := (x.blks.foldl (fun (r : Tbl TBlk × Nat) e =>
      (r.1 ++ [(e.1, { e.2 with staged := (List.range e.2.staged.length).map (fun j => stage (17 * (r.2 + j)) (e.2.staged.getD j [])), codes := code (n + accLines d * e.1) e.2.codes })],
       r.2 + e.2.staged.length)) ([], 0)).1 }

/-- The sums of a context, with the poison that their image lines came back with (16 R416; assumption 38). -/
def taintSums (s : State) (c : Ctx) : Ctx :=
  let place := (List.range c.prog.plan.dies).flatMap (fun vd => (List.range (dieClusters c vd).length).map (fun i =>
    ((dieClusters c vd).getD i 0, (imgClusters c vd).getD i 0, clusterAddr c vd i)))
  { c with sums := tmap c.sums (fun n x => match place.find? (fun e => e.1 = n / 65536), tDesc c (n % 65536) with
      | some (_, at_, a), some d => taintSum d (fun j => devPoison s (a + 64 * (liveSums c at_).1 + 64 * (sumLine c at_ d + j)) 64) x
      | _, _ => x) }

/-! ### Importing an image (16 R417, R418) -/

/-- A vcore from its control block and tags; the resident slots that have been filled have owners (08 R189). -/
def parseVcore (stream nTag nRes : Nat) (b tags : Bytes) : Vcore :=
  let tbl := fun (n off w : Nat) => (List.range n).map (fun i => (i, fieldB b (off + w * i) w))
  { stream := stream, cia := fieldB b 0 4, status := fieldB b 4 4 % 2 ^ 20, accum := tbl 8 8 1, sense := fieldB b 0x10 8
    ws := { nextSidx := fieldB b 0x18 4, nextDord := fieldB b 0x1C 4, owner := (tbl 256 0xA00 3).take (min nRes (fieldB b 0x1C 4))
            tags := ((List.range nTag).filter (fun i => decide (i < fieldB b 0x18 4))).map (fun i =>
              (i, ⟨fieldB tags (16 * i) 4, fieldB tags (16 * i + 4) 4, fieldB tags (16 * i + 11) 1, fieldB tags (16 * i + 12) 4⟩)) }
    chime := tbl 48 0x20 2, land := tbl 48 0x80 2
    dig := (List.range 4).map (fun i => (i, { val := fieldB b (0xE0 + 24 * i) 8, fed := fieldB b (0xE8 + 24 * i) 8, endLen := fieldB b (0xF0 + 24 * i) 8 }))
    slots := (List.range 64).map (fun j => (j, (BitVec.ofNat 128 (fieldB b (0x200 + 32 * j) 16), BitVec.ofNat 128 (fieldB b (0x210 + 32 * j) 16)))) }

/-- The step record of an image. -/
def parseRec (b : Bytes) : Option LRec :=
  if fieldB b 6 2 = 0 then none
  else
    let nl := fieldB b 192 4
    let nv := fieldB b 196 4
    some { step := fieldB b 16 8, genBase := fieldB b 96 8, beatFirst := fieldB b 104 8, k := fieldB b 112 1, stretches := fieldB b 124 4
           holds := (List.range 8).map (fun i => (i, fieldB b (128 + 4 * i) 4)), held := fieldB b 160 8, run := fieldB b 168 8, flags := fieldB b 8 4
           inDig := fieldB b 176 8, lossDig := fieldB b 184 8
           layers := (List.range nl).map (fun i => let o := 256 + 32 * i; ⟨fieldB b o 4, fieldB b (o + 4) 2, fieldB b (o + 6) 2, fieldB b (o + 8) 8, fieldB b (o + 16) 8, fieldB b (o + 24) 8⟩)
           vars := (List.range nv).map (fun i => let o := 256 + 32 * (nl + i); ⟨fieldB b o 1, fieldB b (o + 1) 1, fieldB b (o + 2) 2, fieldB b (o + 4) 4, fieldB b (o + 8) 4, fieldB b (o + 16) 4, fieldB b (o + 24) 8⟩) }

/-- Bytes of data that a kept message has, from its KIND, FMT and COUNT. -/
def earlyLen (kind fmt cnt : Nat) : Nat :=
  match kind with
  | 3 => cnt
  | 5 => cnt * (if fmt = 1 then 1152 else 2176)
  | 7 => cnt * 64
  | _ => 0

/-- Messages of the early-arrival area, one behind the other; a KIND of zero ends them. The image does not hold the port that each came by (assumption 38). -/
def parseEarly (c : Ctx) : Nat → Bytes → List (Nat × Nat × CteMsg)
  | 0, _ => []
  | n + 1, b =>
    let kind := fieldB b 0 1
    if kind = 0 then []
    else
      let m := cteOf { node := 0, dsidx := 0, ssidx := 0, payload := b.take 64 } false
      let len := earlyLen kind m.fmt m.count
      (0, kind, { m with node := c.ranks.getD m.rank 0, data := sliceB b 64 len }) :: parseEarly c n (b.drop (64 + roundUp len 64))

/-- A live sum from its record and its lines. What a reservation has had no room for is free: exponent bytes, and which block a staged addend belongs to while some are missing (assumption 38). -/
def importedSum (s : State) (c : Ctx) (cl : Nat) (d : TallyDesc) (r lines : Bytes) : TSum :=
  let nb := tBlocks d
  let staged := fieldB r 24 4
  let stage := fieldB r 2 1
  let g := fun (i : Nat) => Config.tallyRead (r ++ lines) d.tag i
  let used := 1088 * staged + (if stage ≥ 4 then 64 * accLines d * nb else 0)
  let room := decide (used + (if stage = 1 then 5 else 1) * nb ≤ lines.length)
  let exps := (List.range nb).map (fun j => (j, if room then fieldB lines (used + j) 1 else g j % 256))
  let upTo := fun (j : Nat) => (List.range j).foldl (fun a i => a + fieldB lines (used + nb + 4 * i) 4) 0
  let blockOf := fun (i : Nat) => if stage ≠ 1 then i / tLocalN d cl else if room then ((List.range nb).find? (fun j => decide (i < upTo (j + 1)))).getD 0 else g (nb + i) % nb
  let acc := fun (j : Nat) => intBlock (tT32 d) (sliceB lines (1088 * staged + 64 * accLines d * j) (64 * accLines d))
  { stage := stage, cnt := fieldB r 4 4, inst := fieldB r 8 8, expFrom := maskClusters c (fieldB r 16 2), intFrom := maskClusters c (fieldB r 18 2)
    lastAt := s.run - fieldB r 28 8, stageAt := s.run - fieldB r 36 8, due := if fieldB r 44 8 = 0 then none else some (s.run + fieldB r 44 8 - 1)
    comb := if stage < 3 then exps else [], fexp := if stage < 3 then [] else exps
    blks := (List.range nb).map (fun j =>
      let l := ((List.range staged).filter (fun i => blockOf i = j)).map (fun i => unstage (sliceB lines (1088 * i) 1088))
      (j, { staged := l, got := if stage ≥ 2 then tLocalN d cl else l.length
            codes := if stage ≥ 4 then (acc j).codes else [], acc := if stage ≥ 4 then (acc j).acc else [] })) }

/-- The live sums of a cluster block, by tag. -/
def parseCluster (s : State) (c : Ctx) (cl : Nat) (b : Bytes) : Tbl TSum :=
  let n := liveSums c cl
  (List.range n.1).filterMap (fun i =>
    let r := sliceB b (64 * i) 64
    if fieldB r 2 1 = 0 || fieldB r 2 1 > 6 then none
    else match tDesc c (fieldB r 0 2) with
      | some d => some (sumKey cl d.tag, importedSum s c cl d r (sliceB b (64 * n.1 + 64 * sumLine c cl d) (64 * tLines d cl)))
      | none => none)

/-- The context that an image in device memory describes. `c` has its program, its place, its areas and its manifest. -/
def parseImage (s : State) (c : Ctx) : Ctx :=
  let h := devRead s (partBase c 0) 256
  let mb := devRead s (cteBlock c + 65536) 4096
  let mk := fun (o : Nat) => (fieldB mb (o + 8) 8, fieldB mb o 8 % 2 ^ 54, fieldB mb o 8 / 2 ^ 54)
  { c with
    lc := bit (fieldB h 6 2) 2, seed := sliceB h 0x50 16, gen := fieldB h 0x60 8, step := fieldB h 0x68 8, stepsLeft := fieldB h 0x70 8, frame := fieldB h 0x78 4
    jobkey := fieldB h 0x88 8, kMan := fieldB h 0x7D 1, kVote := fieldB h 0x7D 1
    open_ := parseRec (devRead s (ctxBlock c + 512) (32 * (264 + c.prog.plan.lentries)))
    vc := (List.range c.prog.plan.vcores).map (fun v =>
      let a := vcoreAddr c v
      (v, parseVcore (c.prog.plan.smap.getD v 0) (wayOf c v).nTag (wayOf c v).nRes (devRead s a 4096) (devRead s (a + 4096 + 3145728 + 16384 * (wayOf c v).nRes) (16 * (wayOf c v).nTag))))
    tflags := [(clusterOf (pcoreOf c 0), bits (leNat (devRead s (vcoreAddr c 0 + 4) 4)) 24 20)]
    sums := (List.range c.prog.plan.dies).flatMap (fun vd => (List.range (dieClusters c vd).length).flatMap (fun i =>
      let cl := (dieClusters c vd).getD i 0
      parseCluster s c cl (devRead s (clusterAddr c vd i) (clusterBytes c cl)))) |>.foldl (fun t e => tput t e.1
        (if gang c && (match tDesc c (e.1 % 65536) with | some d => d.scope = 3 && e.1 / 65536 = ownerCluster d | none => false) then withRecords (e.1 % 65536) (devRead s (cteBlock c) 65536) e.2 else e.2)) []
    maps := if gang c then [mk 16, mk 0].filter (fun m => m ≠ (0, 0, 0)) else []
    toll := if gang c && fieldB mb 42 1 = 1 then some { step := fieldB mb 32 8, t := 0, verdict := some (fieldB mb 40 1, fieldB mb 41 1 = 1, fieldB mb 44 4) } else none
    early := if gang c then parseEarly c 32768 (devRead s (cteBlock c + 69632) (2 ^ 21)) else [] }

/-- The bells of an imported context take their state from the image. -/
def importBell (s : State) (c : Ctx) (b : Nat) : State :=
  let x := leNat (devRead s (ctxBlock c + 8 * b) 8)
  modBell s b (fun y =>
    let par := bit x 0
    { y with parity := par, arr0 := if par then 0 else bits x 7 1, arr1 := if par then bits x 7 1 else 0, phases := bits x 63 32 })

end Sys2Proof.Machine
end

