-- ==== Sys2Proof/Machine/Admit.lean ====
section
/-! DEFINITION. Stows, restores, exports and imports: the STOW and RESTORE manifests and what ends each stage (16 R407 to R420, 13 R342, R343, 18 R458). -/

namespace Sys2Proof.Machine

/-! ### Shared parts -/

/-- Puts the streams of a context that are in one state into another. -/
def turnStreams (s : State) (k : Nat) (from_ to_ : StreamSt) : State :=
  (ctxStreams s k).foldl (fun s e => if e.2.st = from_ then modStream s e.1 (fun x => { x with st := to_ }) else s) s

/-- Folds the sticky flags of the pcore of vcore v into its status image and clears them (04 R116, 06 R168, 08 R210). -/
def foldFlags (s : State) (k v pc : Nat) : State :=
  let f := fld s (rMxeStatus pc) 5 0 + at_ (fld s (rVseStatus pc) 6 0) 6 + at_ (fld s (rUpeStatus pc) 6 0) 13
  let s := modVc s k v (fun x => { x with status := x.status ||| f })
  setFld (setFld (setFld s (rMxeStatus pc) 5 0 0) (rVseStatus pc) 6 0 0) (rUpeStatus pc) 6 0 0

/-- A rotation or substitution copy of a partition's context that has not completed (10 R245). -/
def copying (s : State) (k : Nat) : Bool := s.holds.any (fun h => h.unit = 15 && h.term = 1 && h.ctx = some k && h.endAt.isNone)

/-- The context of a partition in a given state. -/
def ctxIn (s : State) (p st : Nat) : Option (Nat × Ctx) := s.ctxs.find? (fun e => e.1 / 16 = p && e.2.st = st)

/-- A stow begins at a beat: flags folded, streams DRAINING, the cores given up (16 R410 steps 1 and 2). -/
def beginStow (s : State) (k : Nat) : State :=
  match ctxOf s k with
  | none => s
  | some c =>
    let s := (tkeys c.vc).foldl (fun s v => foldFlags s k v (pcoreOf c v)) s
    let s := turnStreams s k .opened .draining
    let s := modCtx s k (fun c => { c with st := 3, began := false, draining := true, drainAt := s.cycle, stall := 0 })
    modPart s (k / 16) (fun x => { x with resident := none })

/-! ### A restore begins (16 R414, R415) -/

/-- The dies that a restore must use: those of DIEMAP where the image lies in HBM and was not imported. -/
def restoreDies (s : State) (c : Ctx) : Option (List Nat) :=
  if c.imported || c.inLedger then none
  else some ((List.range c.prog.plan.dies).map (fun vd => b2n (bit (imgFld s c 0x7E 1) vd)))

/-- The checks of 16 R414 in order: the vcore table, or the refusal. -/
def restoreCheck (s : State) (k : Nat) (c : Ctx) : Except LoadErr (List Nat) :=
  let p := k / 16
  match imgBad (devRead s (partBase c 0) 256) (imageCrc s c) with
  | some o => .error (containerErr o)
  | none =>
    if imgFld s c 0x40 8 ≠ rd s rArv then .error (loadErr 2 (imgFld s c 0x40 4) (imgFld s c 0x44 2) 0)
    else match coverBad s p k (imgFld s c 0x48 8) c.prog.plan.devices with
      | some x => .error (coverErr (imgFld s c 0x48 8) x)
      | none => match fitPlan s { p := p, k := k, pl := c.prog.plan, tallies := c.prog.tallies, code := c.prog.codeLen, mib := c.hbmMib, sizeOk := true, dies := restoreDies s c } with
        | .error e => .error e
        | .ok vtab => if ptnK s p < c.prog.kMin then .error (loadErr 0xC c.prog.kMin (ptnK s p) 0) else .ok vtab

/-- The package cluster that a vcore table has where another had cluster cl. -/
def movedCluster (c : Ctx) (vtab : List Nat) (cl : Nat) : Nat :=
  match (List.range c.vtab.length).find? (fun v => clusterOf (c.vtab.getD v 0) = cl) with | some v => clusterOf (vtab.getD v 0) | none => cl

/-- Sums and addends on their way keep their virtual clusters when the vcore table changes. -/
def remapSums (c : Ctx) (vtab : List Nat) : Ctx :=
  let to_ := movedCluster c vtab
  { c with vtab := vtab, flights := c.flights.map (fun f => { f with cluster := to_ f.cluster })
           sums := c.sums.foldl (fun t e => tput t (sumKey (to_ (e.1 / 65536)) (e.1 % 65536)) { e.2 with expFrom := e.2.expFrom.map to_, intFrom := e.2.intFrom.map to_ }) [] }

/-- A refused restore: a FAULT completion with LOAD, then the RESTORE ends with LOAD_REFUSED and the context is HELD; a context that the scheduler selected ends as FAULTED (16 R414). -/
def refuseRestore (s : State) (k : Nat) (c : Ctx) (e : LoadErr) : State :=
  let fault := fun (id : Nat) => ({ kind := 2, status := 0, ctx := k % 16, id := id, body := refusalBytes s k c.prog.plan.idx e.strm e.pr } : Compl)
  match c.rman with
  | some (q, n) =>
    let id := match (qp s q).mans.find? (fun m => m.seq = n) with | some m => fieldB m.slot 8 8 | none => 0
    let s := finishMan (complete s q (fault id)) q n 5
    let s := modCtx s k (fun c => { c with st := 5, rman := none })
    modPart s (k / 16) (fun x => { x with letIn := if x.letIn = some (k % 16) then none else x.letIn })
  | none => endCtx (complete s c.qp (fault c.startId)) k 12

/-- Starts the restore of a context at a beat; an imported one opens its collective streams here anew. -/
def startRestore (s : State) (k : Nat) : State :=
  match ctxOf s k with
  | none => s
  | some c => match restoreCheck s k c with
    | .error e => refuseRestore s k c e
    | .ok vtab =>
      let s := modPart (modCtx s k (fun c => { remapSums c vtab with st := 6 })) (k / 16) (fun x => { x with letIn := some (k % 16) })
      if c.imported then openColl s k (fun c => liveFans c c.step) else s

/-! ### STOW (16 R408) -/

/-- Whether a stow point has been passed: its frame has begun, or lies before the next frame. -/
def pointPassed (c : Ctx) (pt : Nat × Nat) : Bool :=
  decide (pt.1 < c.step) || (pt.1 = c.step && (decide (pt.2 < c.frame) || (pt.2 = c.frame && c.began)))

/-- STOW of a QP's manifest. -/
def stowMan (s : State) (q : Nat) (m : Man) : State :=
  let b := m.slot
  let k := manCtx s q m
  let step := fieldB b 0x10 8
  let frame := fieldB b 0x18 4
  let exp := bit (fieldB b 0x1C 1) 0
  let host := fieldB b 0x20 8
  let hlen := fieldB b 0x28 8
  let next := step = 2 ^ 64 - 1
  if fieldB b 0x1C 1 > 1 || !zeroB b 0x1D 0x20 || (!exp && (host ≠ 0 || hlen ≠ 0)) then finishMan s q m.seq 1
  else if exp && (hostBad host || host % 4096 ≠ 0) then finishMan s q m.seq 2
  else match ctxOf s k with
    | none => finishMan s q m.seq 4
    | some c =>
      if !next && decide (c.prog.frames ≤ frame) then finishMan s q m.seq 1
      else if c.st = 1 || c.st = 5 || c.stow.isSome || (!next && pointPassed c (step, frame)) then finishMan s q m.seq 4
      else if c.st = 4 then
        let s := match c.rman with | some (q, n) => finishMan s q n 4 | none => s
        let s := modCtx s k (fun c => { c with st := 5, rman := none })
        finishMan (modPart s (k / 16) (fun x => { x with letIn := if x.letIn = some (k % 16) then none else x.letIn })) q m.seq 0
      else modCtx s k (fun c => { c with stow := some { point := if next then none else some (step, frame), exp := exp, host := host, hlen := hlen, qp := q, seq := m.seq } })

/-- STOW: 16 R408. -/
def execStow (q : Fin 64) (s : State) : Res := .next (onMan s q 10 0x30 (fun s m => stowMan s q m))

/-! ### RESTORE (16 R409, R417, R418) -/

/-- The context that an import makes, before its image is read. -/
def importCtx (s : State) (q : Nat) (m : Man) (x : Loaded) (codeOff : Nat) : Ctx :=
  let b := m.slot
  { st := 5, qp := q, startId := fieldB b 8 8, ranks := x.ranks, rank := x.rank, prog := x.prog, vtab := x.vtab
    hbmBase := fieldB b 0x30 8, hbmMib := fieldB b 0x40 4, codeOff := codeOff, imported := true, mapCfg := rd s (rCteMapcfg 0), imgTab := x.vtab }

/-- Imports an image into a context of state NONE. -/
def importMan (s : State) (q : Nat) (m : Man) (img bin : Option Bytes) : State :=
  let b := m.slot
  let k := manCtx s q m
  let p := k / 16
  let base := fieldB b 0x30 8
  let mib := fieldB b 0x40 4
  if (ctxOf s k).isSome then finishMan s q m.seq 4
  else if hostBad (fieldB b 0x10 8) || hostBad (fieldB b 0x20 8) || fieldB b 0x10 8 % 4096 ≠ 0 || !regionOk s p base mib then finishMan s q m.seq 2
  else match img, bin with
    | some img, some bin =>
      let pl := fieldB img 0x7C 1
      let len := fieldB img 8 8
      let crc := crc64 (spliceB (padTo len img) 0xF8 (List.replicate 8 0))
      match imgBad img crc with
      | some o => refuseLoad s q m k pl (containerErr o)
      | none =>
        if fieldB b 0x18 8 < len then finishMan s q m.seq 1
        else if fieldB img 0xA8 8 ≠ base || fieldB img 0xB0 4 ≠ mib then finishMan s q m.seq 2
        else if fieldB img 0x40 8 ≠ rd s rArv then refuseLoad s q m k pl (loadErr 2 (fieldB img 0x40 4) (fieldB img 0x44 2) 0)
        else if let some x := coverBad s p k (fieldB img 0x48 8) 1 then refuseLoad s q m k pl (coverErr (fieldB img 0x48 8) x)
        else if fieldB b 0x28 8 ≠ bin.length || sha384 bin ≠ sliceB img 0x10 48 then refuseLoad s q m k pl (containerErr (if fieldB b 0x28 8 ≠ bin.length then 0x20 else 0x10))
        else match loadCheck s { p := p, k := k, pl := pl, kMan := ptnK s p, roster := fieldB b 0x38 8, base := base, mib := mib } bin with
          | .error e => refuseLoad s q m k pl e
          | .ok x =>
            let c := importCtx s q m x (fieldB img 0xA0 8)
            match imageArea s k c with
            | none => finishMan (orReg s (rPtnStat p) 64) q m.seq 4
            | some (areas, led) =>
              let c := { c with areas := areas, inLedger := led }
              if imageLen c ≠ len then refuseLoad s q m k pl (containerErr 8)
              else
                let s := modPart s p (fun x => { x with exported := sdel x.exported (k % 16), codes := tdel x.codes (k % 16) })
                let s := (areas.foldl (fun (r : State × Nat) a => (hbmUse (devWrite r.1 a.1 (sliceB img r.2 a.2)) (k / 16) a.1 a.2, r.2 + a.2)) (s, 0)).1
                let s := installProg (setCtx s k (parseImage s c)) k c x.code
                let s := (planBells c).foldl (fun s b => importBell s c b) s
                finishMan s q m.seq 0
    | _, _ => finishMan s q m.seq 3

/-- RESTORE with the image and the binary that an import reads, none where the read failed. -/
def restoreMan (s : State) (q : Nat) (m : Man) (img bin : Option Bytes) : State :=
  let b := m.slot
  let k := manCtx s q m
  if fieldB b 0x10 8 ≠ 0 then importMan s q m img bin
  else if !zeroB b 0x18 128 then finishMan s q m.seq 1
  else match ctxOf s k with
    | none => finishMan s q m.seq 4
    | some c =>
      if c.st ≠ 5 || c.rman.isSome then finishMan s q m.seq 4
      else modCtx s k (fun c => { c with st := if gang c then 5 else 4, rman := some (q, m.seq) })

/-- RESTORE: 16 R409. -/
def execRestore (q : Fin 64) (img bin : Option Bytes) (s : State) : Res := .next (onMan s q 11 0x44 (fun s m => restoreMan s q m img bin))

/-! ### The end of draining (13 R342, 16 R410) -/

/-- Whether a stream has seen no inbound frame for twice its SRTT, and holds none. -/
def streamQuiet (s : State) (st : Stream) : Bool := decide (st.lastIn * 1000000 + 2 * st.srtt * msCycles s ≤ s.cycle * 1000000) && st.rx.isEmpty

/-- RUNOUT_END: DRAINING ends when every stream has been quiet and holds nothing, or NET_RUNOUT cycles after the beat; not before a rotation copy of the beat has completed. The streams park. -/
def execRunoutEnd (p : Fin 8) (s : State) : Res :=
  match ctxIn s p 3 with
  | none => .next s
  | some (k, c) =>
    let l := ctxStreams s k
    let bound := max (rd s (rNetRunout 0)) (rd s (rNetRunout 1))
    if !c.draining || copying s k then .next s
    else if !l.all (fun e => streamQuiet s e.2) && decide (s.cycle < c.drainAt + bound) then .next s
    else .next (turnStreams (modCtx s k (fun c => { c with draining := false })) k .draining .parked)

/-! ### The end of a stow (16 R410, R417, R421, 18 R458) -/

/-- The first poisoned unit of an image, in the order of its parts. -/
def imagePoison (s : State) (c : Ctx) : Option Nat :=
  c.areas.findSome? (fun a => s.poison.find? (fun u => decide (a.1 ≤ 64 * u) && decide (64 * u < a.1 + a.2)))

/-- EXPORT of a complete image: it goes to host memory and the context leaves the device, or the STOW completes with STATE (16 R417). A poisoned unit on its way to host memory is consumed (12 R289). The CTE frees its own entries, which it opens again at admission (16 R418; DESIGN CHOICE, assumption 20), and a waiting END completes with STATE, since the context that it names has left (15 R381; DEDUCED, assumption 35). -/
def exportImage (s : State) (k : Nat) (c : Ctx) (r : StowReq) : State :=
  let sealed_ := match tget s.seals (k / 16) with | some x => x.ctx = k % 16 | none => false
  if (ctxStreams s k).any (fun e => e.2.coll.isNone) || sealed_ || decide (r.hlen < imageLen c) then finishMan s r.qp r.seq 4
  else match imagePoison s c with
  | some u => fault1 (finishMan s r.qp r.seq 4) k { cause := 0x1C, unit := 14, d0 := 64 * u % 2 ^ 32, d1 := 64 * u / 2 ^ 32 }
  | none =>
    let put := fun (x : List Host.Cell × Nat) (a : Nat × Nat) => (memPutCells (memClear x.1 x.2 a.2) a.1 x.2 (memCells s.mem a.1 a.2), x.2 + a.2)
    let s := { s with hostMem := (c.areas.foldl put (s.hostMem, r.host)).1 }
    let s := modPart s (k / 16) (fun x => { x with exported := sput x.exported (k % 16), codes := tput x.codes (k % 16) (c.hbmBase + c.codeOff, c.prog.codeLen) })
    let s := match c.ending with | some (q, n) => finishMan s q n 4 | none => s
    let s := freeBells { s with ctxs := tdel s.ctxs k, streams := s.streams.filter (fun e => !((ctxStreams s k).any (fun x => x.1 = e.1))) } k
    finishMan s r.qp r.seq 0

/-- The stow of a context completes: image, flags, counts, zeroing; the STOW manifest that asked for it ends. -/
def finishStow (s : State) (k : Nat) (c : Ctx) : State :=
  let p := k / 16
  let s := c.areas.foldl (fun s a => hbmUse s p a.1 a.2) (writeImage s k c)
  let st := if c.stow.isSome || gang c then 5 else 4
  let c := { c with st := st, stow := none, imported := false, tflags := [(clusterOf (pcoreOf c 0), c.tflags.foldl (fun a e => a ||| e.2) 0)] }
  let s := satFld (setCtx s k c) (rPtnAcctb c.qp) 31 0 1
  modPart s p (fun x => { x with stows := satAdd 32 x.stows 1, zeroing := true })

/-- The addend blocks on their way reach their CRUs while a stow runs. -/
def landFlights (s : State) (k : Nat) : State :=
  match ctxOf s k with
  | some c => c.flights.foldl (fun s _ => match ctxOf s k with | some c => doAddend s k c 0 | none => s) s
  | none => s

/-- What the devices of ledger memory report with the reading of an image that lies there (12 R306). -/
def imageReport (s : State) (c : Ctx) (corr : Nat) (bad : List Nat) : State :=
  if c.inLedger then c.areas.foldl (fun s a => gddrReport s a.1 a.2 0 bad) (gddrReport s 0 0 corr []) else s

/-- STOW_DONE: the image of the stowing context is complete (16 R410); `corr` and `bad` are what reading it for an EXPORT brings up in ledger memory. -/
def execStowDone (p : Fin 8) (corr : Nat) (bad : List Nat) (s : State) : Res :=
  match ctxIn s p 3 with
  | none => .next s
  | some (k, c) =>
    if c.draining then .next s
    else
      let s := landFlights s k
      let s := match ctxOf s k with | some c => finishStow s k c | none => s
      .next (match c.stow with
        | none => s
        | some r => if r.exp then (match ctxOf s k with | some c' => exportImage (imageReport s c' corr bad) k c' r | none => s) else finishMan s r.qp r.seq 0)

/-- ZEROING_DONE: scratchpads, stash areas, tags and tally lines of the partition are zero, and its engines' status flags (18 R457, R458). -/
def execZeroingDone (p : Fin 8) (s : State) : Res :=
  if !(part s p).zeroing then .next s
  else
    let s := (ptnPcores s p).foldl (fun s pc => devZero s (spBase pc) spLimit) s
    let s := (ptnPcores s p).foldl (fun s pc => setFld (setFld (setFld s (rMxeStatus pc) 5 0 0) (rVseStatus pc) 6 0 0) (rUpeStatus pc) 6 0 0) s
    let s := (ptnClusters s p).foldl (fun s cl => syncTstore (devZero s (wayBase cl) 0x400000) cl) s
    .next (modPart s p (fun x => { x with zeroing := false }))

/-! ### The end of a restore (16 R415, R416, R420, 17 R443) -/

/-- A verdict that came while the context was away is acted on (17 R443). -/
def heldVerdict (s : State) (k : Nat) : State :=
  match (ctxOf s k).bind (·.toll) with
  | some t => (match t.verdict with | some (code, stop, eq) => takeVerdict s k t.step code stop eq | none => s)
  | none => s

/-- A context has become resident. The partition's k_w starts at its committed K with the first context to run there, while no other has run (`fresh`: this one has come from an image); otherwise k_w stands, and the device votes it where it differs from what it last voted in this context (12 R296). -/
def firstVote (s : State) (k : Nat) (fresh : Bool) : State :=
  let p := k / 16
  let first := fresh && !s.ctxs.any (fun e => e.1 / 16 = p && e.1 ≠ k && e.2.st ≠ 1 && !e.2.imported)
  cadenceVote (if first then modPart s p (fun x => { x with kWant := ptnK s p, kRaised := some 0, kLowered := 0 }) else s) k

/-- The restored context is resident: streams OPEN with an ACK each, its record PREEMPTED, TIME_LOST where UNIT_MAP differs, the RESTORE done. -/
def finishRestore (s : State) (k : Nat) (c : Ctx) : State :=
  let p := k / 16
  let lost := imgFld s c 0x90 16 ≠ unitMapOf s
  let s := (List.range c.prog.plan.vcores).foldl (readVcore c) s
  let c' := taintSums s c
  let s := setCtx s k { c' with st := 2, began := false, frameDone := none, rman := none, slice := 0, stall := 0, imported := false }
  let s := modPart s p (fun x => { x with resident := some (k % 16), letIn := none })
  let s := c.areas.foldl (fun s a => hbmUse s p a.1 a.2) (installCover s p c.prog.coverId)
  let s := recFlag (if lost then recFlag s k 1 else s) k 6
  let s := unpark s k
  let s := match c.rman with | some (q, n) => finishMan s q n 0 | none => s
  firstVote (heldVerdict s k) k c.imported

/-- RESTORE_DONE: the image has been read back; a poisoned unit outside the data is consumed (16 R415, R416). It waits for the zeroing of the SRAMs (18 R458). `corr` and `bad` are what the reading brings up in ledger memory (12 R306). -/
def execRestoreDone (p : Fin 8) (corr : Nat) (bad : List Nat) (s : State) : Res :=
  match ctxIn s p 6 with
  | none => .next s
  | some (k, c) =>
    if (part s p).zeroing then .next s
    else
      let s := imageReport s c corr bad
      match steering s c with
      | some u => .next (fault1 s k { cause := 0x1C, unit := 14, d0 := 64 * u % 2 ^ 32, d1 := 64 * u / 2 ^ 32 })
      | none => .next (finishRestore s k c)

end Sys2Proof.Machine
end

