-- ==== Sys2Proof/Machine/Drum.lean ====
section
/-! DEFINITION. Grid points and taken beats: commits, rotation and substitution, selection, frames, overrun, muster anchor, deadlock (10 R241 to R255, 09 R232, 11 R273 to R277, 16 R406, 17 R431 to R433). -/

namespace Sys2Proof.Machine

/-! ### The shadow (10 R254, R255) -/

/-- The CW registers of a partition. -/
def cwOffs (p : Nat) : List Nat := [rDbtPeriod p, rMemReg 0 p, rMemReg 1 p, rBelDeadlock p, rPtnSlice p, rPtnEcho p, rPtnToll p]

/-- Whether a regulator value breaks 12 R294: the MINs of the die would sum above 64, or MIN would exceed MAX. -/
def regulatorBad (s : State) (d p v : Nat) : Bool :=
  let others := ((List.range 8).filter (· ≠ p)).foldl (fun a q => a + fld s (rMemReg d q) 6 0) 0
  decide (64 < others + bits v 6 0) || decide (bits v 14 8 < bits v 6 0)

/-- Takes a shadowed value into its register: of DBT_PERIOD only K. A new K moves the anchor to this cycle while the grid runs (10 R255), and a raise of the wanted exponent that it reaches takes effect (12 R296). A regulator value that breaks 12 R294 leaves its register unchanged. -/
def commitReg (s : State) (p off v : Nat) : State :=
  if off = rDbtPeriod p then modPart (setFld s off 8 4 (bits v 8 4)) p (fun x => { x with anchor := x.anchor.map (fun _ => s.cycle), kRaised := if x.kRaised = none && decide (x.kWant ≤ bits v 8 4) then some s.cycle else x.kRaised })
  else if (off = rMemReg 0 p && regulatorBad s 0 p v) || (off = rMemReg 1 p && regulatorBad s 1 p v) then rejectOff s off
  else setReg s off v

/-- The cadence pair (k, N_C) of the resident context is committed at the first taken beat at or after N_C (12 R296): the state, and the FLAGS bits CADENCE and TIME_LOST where K changed. -/
def commitPair (s : State) (p : Nat) : State × Nat :=
  match resident s p with
  | none => (s, 0)
  | some (k, c) => match c.kPair with
    | none => (s, 0)
    | some (kk, n) =>
      if (part s p).count < n then (s, 0)
      else (commitReg (modCtx s k (fun c => { c with kPair := none })) p (rDbtPeriod p) (at_ kk 4), if kk = ptnK s p then 0 else 2 ^ 7 + 2)

/-- Commits every written shadow of a partition; a running context whose DBT_K_MIN exceeds K faults with *step shape*. Writes that completed in this very cycle wait for the following beat (00 R7). -/
def commitShadow (s : State) (p : Nat) : State × Nat :=
  let s := (cwOffs p).foldl (fun s off => match tget s.shadow off with
    | some v => commitReg { s with shadow := tdel s.shadow off } p off v.toNat
    | none => s) s
  let (s, fl) := commitPair s p
  match resident s p with
  | some (k, c) => if ptnK s p < c.prog.kMin then (fault1 s k { cause := 0xC, unit := 4, d0 := c.prog.kMin, d1 := ptnK s p }, fl) else (s, fl)
  | none => (s, fl)

/-! ### Rotation and substitution (17 R431 to R433, 09 R221) -/

/-- The next frame of a context: its step and frame index. -/
def nextPoint (c : Ctx) : Nat × Nat :=
  if !c.began then (c.step, c.frame) else if c.stepMarked then (c.step + 1, 0) else (c.step, c.frame + 1)

/-- The sentinel of a cluster that became one first. -/
def firstSentinel (s : State) (cl : Nat) : Option Nat := s.sentinels.find? (fun x => clusterOf x = cl)

/-- Contexts of a partition that are placed. -/
def placedIn (s : State) (p : Nat) : List Nat := (s.ctxs.filter (fun e => e.1 / 16 = p && placed e.2)).map (·.1)

/-- The pcore `l` leaves active service and `e` enters: the vcore of the resident context moves with its flags folded and its scratchpad copied; every placed context's vcore table follows. Whether a copy was made. -/
def moveCore (s : State) (p l e : Nat) : State × Bool :=
  let (s, copied) := match resident s p with
    | some (k, c) => match (List.range c.vtab.length).find? (fun v => c.vtab.getD v 0 = l) with
      | some v => (devMove (foldFlags s k v l) (spBase l) (spBase e) spLimit, true)
      | none => (s, false)
    | none => (s, false)
  ((placedIn s p).foldl (fun s k => modCtx s k (fun c => { c with vtab := c.vtab.map (fun x => if x = l then e else x) })) s, copied)

/-- Third executions on a pcore that enters service, or from its echo copy, are abandoned: undecided, so P goes under probe (17 R428, R443). -/
def abandonThirds (s : State) (e : Nat) : State :=
  (tkeys s.thirds).foldl (fun s pc =>
    let l := tgetD s.thirds pc []
    match l.find? (fun t => t.runner = e || t.shadow = e) with
    | none => s
    | some t =>
      let rest := l.filter (fun t => t.runner ≠ e && t.shadow ≠ e)
      underProbe { s with thirds := if rest.isEmpty then tdel s.thirds pc else tput s.thirds pc rest } t.part pc) s

/-- A sentinel becomes an enabled core, its scratchpad overwritten first where it holds an earlier context's data (18 R458). -/
def enterService (s : State) (e : Nat) : State := setFld { marchOver (abandonThirds s e) e with sentinels := sdel s.sentinels e } (rCoreEcho e) 55 54 0

/-- A sentinel enters service in place of `l`. -/
def enterCore (s : State) (p l e : Nat) : State × Bool :=
  moveCore (enterService s e) p l e

/-- Retired pcores of a partition that carry a vcore of a placed context. -/
def toReplace (s : State) (p : Nat) : List Nat :=
  (ptnPcores s p).filter (fun pc => s.retired.contains pc && s.ctxs.any (fun e => e.1 / 16 = p && placed e.2 && e.2.vtab.contains pc))

/-- Replaces one retired pcore where its cluster has a sentinel (17 R433). The step's FLAGS have SUBSTITUTED and TIME_LOST, whichever context's vcore moved (02 R41). -/
def substitute (p : Nat) (r : State × Nat × Bool) (pc : Nat) : State × Nat × Bool :=
  match firstSentinel r.1 (clusterOf pc) with
  | none => r
  | some e =>
    let (s, copied) := enterCore r.1 p pc e
    (s, r.2.1 ||| (2 ^ 5 + 2), r.2.2 || copied)

/-- The enabled pcores that a cluster lacks to its grade (01 R17). -/
def lacking (s : State) (cl : Nat) : Nat := gradeCores s - (enabledIn s cl).length

/-- A sentinel takes the place of a retired pcore that carried no vcore: it becomes an enabled core, without a copy and with its scratchpad overwritten (01 R17, 17 R433, R443, 18 R458). FLAGS then has SUBSTITUTED and TIME_LOST (02 R41). -/
def fillOne (r : State × Nat × Bool) (cl : Nat) : State × Nat × Bool :=
  if lacking r.1 cl = 0 then r
  else match firstSentinel r.1 cl with
    | none => r
    | some e => (enterService r.1 e, r.2.1 ||| (2 ^ 5 + 2), r.2.2)

/-- So does one for each pcore that the cluster lacks. -/
def fillIdle (r : State × Nat × Bool) (cl : Nat) : State × Nat × Bool := (List.range (lacking r.1 cl)).foldl (fun r _ => fillOne r cl) r

/-- A cluster that lacks a core and has no sentinel left turns SHORT at the beat, and its contexts fault (01 R17, R18). -/
def turnShort (s : State) (cl : Nat) : State :=
  if lacking s cl = 0 || !(sentinelsIn s cl).isEmpty || s.short.contains cl then s else shortCluster { s with short := sput s.short cl } cl

/-- The pcore whose place a sentinel takes: the next slot above its own, cyclic, that is neither retired nor a sentinel (17 R431). -/
def leavingCore (s : State) (e : Nat) : Option Nat :=
  ((List.range 8).map (fun i => e / 9 * 9 + (e % 9 + 1 + i) % 9)).find? (fun x => !s.retired.contains x && !s.sentinels.contains x)

/-- Rotates one cluster. -/
def rotate (p : Nat) (r : State × Nat × Bool) (cl : Nat) : State × Nat × Bool :=
  match firstSentinel r.1 cl with
  | none => r
  | some e => match leavingCore r.1 e with
    | none => r
    | some l =>
      let (s, copied) := enterCore r.1 p l e
      (setFld { s with sentinels := s.sentinels ++ [l], dirty := sput s.dirty l, passAt := tput s.passAt l s.cycle } (rCoreEcho l) 55 54 2, r.2.1 ||| 2 ^ 4, r.2.2 || copied)

/-- Whether a rotation takes effect at the beat that begins a context's next frame (17 R431). -/
def rotationDue (s : State) (c : Ctx) : Bool :=
  let r := rd s rRotcfg
  let pt := nextPoint c
  let f := if bits r 17 6 ≥ c.prog.frames then 0 else bits r 17 6
  bit r 0 && pt.1 % 2 ^ bits r 5 1 = 0 && pt.2 = f

/-- Every change of the vcore table at a beat, with the hold of its copies (10 R245, 17 R432). FLAGS bits of the events. -/
def moveCores (s : State) (p : Nat) : State × Nat :=
  let sub := toReplace s p
  let idle := (ptnClusters s p).filter (fun cl => lacking s cl ≠ 0 && (firstSentinel s cl).isSome)
  let rot := match resident s p with
    | some (_, c) => if rotationDue s c then (ptnClusters s p).filter (fun cl => !sub.any (fun x => clusterOf x = cl) && !idle.contains cl) else []
    | none => []
  let r := rot.foldl (rotate p) (idle.foldl fillIdle (sub.foldl (substitute p) (s, 0, false)))
  let s := (ptnClusters s p).foldl turnShort r.1
  if r.2.2 then (raiseHold s 15 1 7 s.cycle ((resident s p).map (·.1)) (s.run + 32) 0, r.2.1) else (s, r.2.1)

/-- ROTATION_COPY_DONE: the copy ends 6,344 cycles after its beat, and with it the beat extension (17 R432). -/
def execRotationCopyDone (s : State) : Res :=
  .next (gateEval { s with holds := s.holds.map (fun h =>
    if h.unit = 15 && h.term = 1 && h.endAt.isNone && decide (h.obj + 6344 ≤ s.cycle) then { h with endAt := some s.cycle } else h) })

/-! ### The parts of a taken beat (10 R244) -/

/-- The K-blocks of a frame end with it (04 R105, 17 R443). -/
def endEchoes (s : State) (p : Nat) : State := (ptnPcores s p).foldl (fun s pc => echoEnd (echoEnd s pc 0) pc 1) s

/-- Empties both MXE regions of every pcore of a partition (04 R105). -/
def emptyMxe (s : State) (p : Nat) : State :=
  { s with mxe := (ptnPcores s p).foldl (fun t pc => tdel (tdel t (pc * 2)) (pc * 2 + 1)) s.mxe }

/-- ENDs take effect: the contexts of the partition that one waits for end (15 R381, 16 R419). -/
def endings (s : State) (p : Nat) : State :=
  (tkeys s.ctxs).foldl (fun s k => match ctxOf s k with
    | some c =>
      if k / 16 = p && c.ending.isSome then
        let s := if (part s p).resident = some (k % 16) && c.began then bookFrame s k c false else s
        endCtx s k 13
      else s
    | none => s) s

/-- The resident context passes to its next frame: the frame index advances, or returns to 0 in the next step, whose record opens. -/
def advance (s : State) (p : Nat) : State :=
  match resident s p with
  | none => s
  | some (k, c) =>
    if !c.began then s
    else
      let pt := nextPoint c
      let s := modCtx (bookFrame s k c true) k (fun x => { x with
        step := pt.1, frame := pt.2, began := false, frameDone := none, stretched := false, stepMarked := false, vc := tmap x.vc (fun _ v => { v with chain := [] }) })
      if c.stepMarked && !c.stepsDone then openRec s k else s

/-! ### Selection (16 R406, R407, R409) -/

/-- The first ready context of a class from number `c0` on, ascending and wrapping. -/
def classReady (s : State) (p c0 : Nat) (lc : Bool) : Option Nat :=
  ((List.range 16).map (fun i => (c0 + i) % 16)).find? (fun n => match ctxOf s (ctxKey p n) with
    | some x => (x.st = 1 || x.st = 4) && x.lc = lc
    | none => false)

/-- A HELD gang context that a RESTORE admits. -/
def gangWaiting (s : State) (p : Nat) : Option Nat :=
  (List.range 16).find? (fun n => match ctxOf s (ctxKey p n) with | some x => x.st = 5 && gang x && x.rman.isSome | none => false)

/-- The context that runs next: the resident one or another (16 R406). -/
def chooseNext (s : State) (p n : Nat) (c : Ctx) : Nat :=
  let slice := fld s (rPtnSlice p) 15 0
  let beSlice := fld s (rPtnSlice p) 31 16
  match classReady s p (n + 1) true, classReady s p (n + 1) c.lc with
  | some l, own =>
    if !c.lc then l
    else (match own with | some x => if c.slice ≥ slice then x else n | none => n)
  | none, own => (match own with | some x => if c.slice ≥ (if c.lc then slice else beSlice) then x else n | none => n)

/-- Whether the stow point of a context is this beat (16 R408). -/
def atStowPoint (c : Ctx) : Bool := match c.stow with | some r => r.point.isNone || r.point = some (c.step, c.frame) | none => false

/-- Admits a chosen context: by muster where it has never been resident, else by restore (16 R406). -/
def letIn (s : State) (p n : Nat) : State :=
  match ctxOf s (ctxKey p n) with
  | none => s
  | some c => if c.st = 1 then (if c.muster = .none then admitMuster s p n else s) else startRestore s (ctxKey p n)

/-- Selection at a taken beat. Nothing is chosen while a context is on its way out or in, nor where the device leaves Run (19 R470, R471). -/
def select (s : State) (p : Nat) : State :=
  match resident s p with
  | some (k, c) =>
    let n := k % 16
    if atStowPoint c then beginStow s k
    else if gang c then s
    else match gangWaiting s p, c.lc with
      | some g, false => modPart (beginStow s k) p (fun x => { x with letIn := some g })
      | _, _ =>
        let m := chooseNext s p n c
        if m = n then s else modPart (beginStow s k) p (fun x => { x with letIn := some m })
  | none =>
    if !coresFree s p || ptnMaint s p || !clocked s || s.power.entering then s
    else match (part s p).letIn with
      | some n => letIn s p n
      | none => match gangWaiting s p with
        | some g => letIn s p g
        | none => match classReady s p 0 true, classReady s p 0 false with
          | some n, _ => letIn s p n
          | none, some n => letIn s p n
          | none, none => s

/-! ### A frame begins (10 R244, 17 R436) -/

/-- The frame of the resident context begins: run cycle 0 is the first cycle at or after the beat with open gates. -/
def beginFrame (s : State) (p : Nat) : State :=
  match resident s p with
  | none => s
  | some (k, c) =>
    let s := modCtx s k (fun c => { c with
      began := true, frame0 := s.run, frameDone := none, stretched := false, slice := satAdd 32 c.slice 1, stall := 0
      vc := tmap c.vc (fun _ v => { v with cond := if v.cond = .atFend || v.cond = .atSend then .issuing else v.cond }) })
    let s := if c.frame = 0 then modRec s k (fun r => { r with beatFirst := (part s p).count, k := ptnK s p }) else s
    match c.toll with
    | some t =>
      if c.step = t.step + 1 && c.frame = c.prog.fb && t.verdict.isNone && t.dueCount.isNone then
        gateEval (raiseHold (modCtx s k (fun c => { c with toll := some { t with dueCount := some (part s p).points } })) 11 takeVerdict.tollTerm 4 0 (some k) s.run 0)
      else s
    | none => s

/-- What a taken beat counts: SEC_TRUN, SEC_THELD and SEC_TBEATS (18 R465). -/
def beatCounts (s : State) (p : Nat) : State :=
  let x := part s p
  let s := setReg (setReg s (rTrun p) (x.trun / 1024)) (rTheld p) (x.theld / 1024)
  let s := satFld (satFld s (rTbeats p) 31 0 1) (rTbeats p) 63 32 x.skipNow
  modPart s p (fun x => { x with taken0 := s.run, held0 := rd s rDbtHeld, skipNow := 0 })

/-- A taken beat, in the order of 10 R244, once the faults of its cycle are settled (09 R239); `sel` is false at a muster anchor, whose context has just been admitted. -/
def takeBeat (s : State) (p : Nat) (sel : Bool) : State :=
  let s := endings (settleFaults (endEchoes s p)) p
  let (s, f1) := commitShadow s p
  let (s, f2) := moveCores (settleFaults s) p
  let s := advance (emptyMxe (settleFaults s) p) p
  let s := match resident s p with | some (k, _) => modRec s k (fun r => { r with flags := r.flags ||| f1 ||| f2 }) | none => s
  let s := if sel then select s p else s
  beatCounts (beginFrame s p) p

/-! ### Stalls (11 R276, R277) -/

/-- Whether a conductor does not hinder a stall: it has ended its frame, has stopped at a BELL, or waits (assumption 34). -/
def condStalled (vc : Vcore) : Bool :=
  match vc.cond with
  | .issuing => match tget vc.buf vc.cia with
    | none => false
    | some b =>
      let w := b.toNat
      if wCtrl w then !waitsMet vc w || ((wCop w = some 2 || wCop w = some 4) && !queuesEmpty vc)
      else decide (32 ≤ (tgetD vc.queues (wQueue w) []).length)
  | _ => true

/-- A release of scope JOB that is due and has not come. -/
def jobDue (s : State) (k : Nat) : Bool :=
  s.bells.any (fun e => e.2.ctx = some k && belScope s e.1 = 1 && (match e.2.due with | some u => decide (u ≤ s.run) | none => false))

/-- Whether a context is stalled in this cycle. -/
def stalledNow (s : State) (k : Nat) (c : Ctx) : Bool :=
  c.began && !frameComplete c && !jobDue s k && !s.holds.any (fun h => h.ctx = some k && h.endAt.isNone)
    && c.vc.all (fun e => condStalled e.2 && (List.range 4).all (fun q => (tgetD e.2.running q []).isEmpty
      && ((tgetD e.2.queues q []).isEmpty || !startable e.2 q)))

def stallThresh (s : State) (p : Nat) : Nat := fld s (rBelDeadlock p) 3 0

/-- A report entry (11 R277). -/
def waitEntry (v q kind id need value land cia : Nat) : Bytes :=
  leBytes 2 v ++ leBytes 1 q ++ leBytes 1 kind ++ leBytes 1 id ++ leBytes 1 0 ++ leBytes 2 need ++ leBytes 2 value ++ leBytes 2 land ++ leBytes 4 cia

/-- Entries of a word that waits: W0 before W1, then the bell that blocks its queue. -/
def wordWaits (vc : Vcore) (v q w cia : Nat) : List Bytes :=
  (wWaits w).map (fun x => waitEntry v q 0 x.1 x.2 (tgetD vc.chime x.1 0) (tgetD vc.land x.1 0) cia)

def bellEntry (s : State) (v q kind b cia : Nat) : Bytes :=
  let x := bell s b
  waitEntry v q kind b (belLocal s b - arrOf x x.parity) (arrOf x x.parity) 0 cia

/-- The waits of a vcore: its queue heads in ascending queue, then its conductor as queue 4. -/
def vcoreWaits (s : State) (v : Nat) (vc : Vcore) : List Bytes :=
  (List.range 4).flatMap (fun q => match tgetD vc.queues q [] with
    | [] => []
    | e :: _ => wordWaits vc v q e.word.toNat e.cia ++ (vc.blocked.filter (fun b => b.1 = q)).map (fun b => bellEntry s v q 1 b.2 e.cia))
  ++ (match vc.cond with
    | .bellStop => [bellEntry s v 4 2 (stopBell vc) vc.cia]
    | .issuing => (match tget vc.buf vc.cia with
      | some w => if wCtrl w.toNat && !waitsMet vc w.toNat then wordWaits vc v 4 w.toNat vc.cia else []
      | none => [])
    | _ => [])

/-- Chimes and bells that a vcore waits for, as masks. -/
def waitMasks (vc : Vcore) : Nat × Nat :=
  let ws := (List.range 4).flatMap (fun q => match tgetD vc.queues q [] with | e :: _ => wWaits e.word.toNat | [] => [])
    ++ (match vc.cond, tget vc.buf vc.cia with | .issuing, some w => if wCtrl w.toNat then wWaits w.toNat else [] | _, _ => [])
  let ch := (ws.filter (fun x => decide (tgetD vc.chime x.1 0 < x.2))).foldl (fun m x => m ||| 2 ^ x.1) 0
  let bl := (vc.blocked.filter (fun b => !(tgetD vc.queues b.1 []).isEmpty)).foldl (fun m b => m ||| 2 ^ b.2) 0
  (ch, bl ||| (if vc.cond = .bellStop then 2 ^ stopBell vc else 0))

/-- Where the first waiting vcore waits: its lowest blocked queue head, or its conductor. -/
def waitPlace (v : Nat) (vc : Vcore) : Prob :=
  match (List.range 4).find? (fun q => !(tgetD vc.queues q []).isEmpty) with
  | some q => { cause := 0x1D, unit := 13, vcore := some v, queue := some q
                loc := (tgetD vc.queues q []).head?.map (fun e => (e.cia, wTag e.word.toNat)) }
  | none => { cause := 0x1D, unit := 13, vcore := some v, queue := some 4, loc := some (vc.cia, (tget vc.buf vc.cia).elim 0 (fun w => wTag w.toNat)) }

/-- Whether a vcore has a wait to report. -/
def waits (s : State) (e : Nat × Vcore) : Bool := !(vcoreWaits s e.1 e.2).isEmpty

/-- The deadlock fault of a context with its report (11 R277). -/
def deadlock (s : State) (p k : Nat) (c : Ctx) : State :=
  let ents := c.vc.flatMap (fun e => vcoreWaits s e.1 e.2)
  let m := c.vc.foldl (fun (a : Nat × Nat) e => let x := waitMasks e.2; (a.1 ||| x.1, a.2 ||| x.2)) (0, 0)
  let pr := match c.vc.find? (waits s) with | some e => waitPlace e.1 e.2 | none => { cause := 0x1D, unit := 13 }
  let n := min ents.length 1024
  let report := leBytes 2 n ++ leBytes 1 p ++ leBytes 1 (b2n (decide (1024 < ents.length))) ++ leBytes 4 0 ++ leBytes 8 (part s p).count ++ (ents.take 1024).flatten
  faultCtx s k [{ pr with d0 := m.1 % 2 ^ 32, d1 := m.1 / 2 ^ 32, d2 := m.2 % 2 ^ 32, d3 := m.2 / 2 ^ 32 }]
    [{ kind := 3, status := 0, ctx := k % 16, id := c.startId, body := report }]

/-- Whether the detector fires at a grid point: the context is stalled, and has been through THRESH of them (11 R276). -/
def deadlocked (s : State) (p k : Nat) (c : Ctx) : Bool := decide (0 < stallThresh s p) && decide (stallThresh s p ≤ c.stall) && stalledNow s k c

/-- DEADLOCK_DETECT: at a grid point a context has been stalled through THRESH of them; it faults, and the partition takes the beat as the cycle ends (11 R276, R277). -/
def execDeadlockDetect (p : Fin 8) (s : State) : Res :=
  match resident s p with
  | none => .next s
  | some (k, c) =>
    .next (if (part s p).point = some true && deadlocked s p k c && c.probs.isEmpty then deadlock s p k c else s)

/-! ### Grid points (10 R242, R243, R252, 09 R232) -/

/-- Whether this cycle is a grid point of a partition that has not been handled: the grid runs while EN is 1 (10 R254). -/
def atGrid (s : State) (p : Nat) : Bool :=
  let x := part s p
  match x.anchor with
  | none => false
  | some a => bit (rd s (rDbtPeriod p)) 0 && decide (a ≤ s.cycle) && (s.cycle - a) % 2 ^ ptnK s p = 0 && x.lastPoint ≠ some s.cycle

/-- One problem for each incomplete vcore of a frame that has overrun (09 R232). -/
def overrunProbs (s : State) (c : Ctx) : List Prob :=
  (c.vc.filter (fun e => !vcoreDone e.2)).map (fun e =>
    let cond := !(e.2.cond = .atFend || e.2.cond = .atSend || e.2.cond = .halted)
    { cause := 0xD, unit := 4, vcore := some e.1, d0 := frameRun s c
      d1 := ((List.range 4).filter (fun q => decide (0 < queueLen e.2 q))).foldl (fun a q => a + 2 ^ q) (if cond then 16 else 0) })

/-- One problem for each vcore whose frame ends with a chain that no operation has ended (06 R145, R146). -/
def openChainProbs (c : Ctx) : List Prob :=
  (c.vc.filter (fun e => !e.2.chain.isEmpty)).map (fun e => vProb e.2 e.1 9 (e.2.chain.length - 1))

/-- A skipped grid point (10 R252). -/
def skipPoint (s : State) (p k : Nat) (c : Ctx) : State :=
  let s := modPart s p (fun x => { x with skipped := satAdd 32 x.skipped 1, skipNow := x.skipNow + 1 })
  if c.stretched then s
  else modCtx (modRec s k (fun r => { r with stretches := satAdd 32 r.stretches 1 })) k (fun c => { c with stretched := true })

/-- GRID_POINT: the partition counts the point, which it takes or skips as the cycle ends. -/
def execGridPoint (p : Fin 8) (s : State) : Res :=
  if !atGrid s p then .next s
  else
    let s := modPart s p (fun x => { x with
      count := if x.anchor = some s.cycle then x.count else x.count + 1, points := x.points + 1, lastPoint := some s.cycle, point := some true })
    match resident s p with
    | none => .next s
    | some (k, c) => .next (modCtx s k (fun x => { x with stall := if stalledNow s k c then x.stall + 1 else 0 }))

/-- A partition's grid point as its cycle ends, when every fault of the cycle has been raised: the beat is taken where the frame has completed, where the context has faulted, or where no context runs; a frame that has overrun faults; any other point is skipped. A context that is still stalled with the detector at its threshold faults with *deadlock* in place of an overrun, where no DEADLOCK_DETECT has raised that (11 R276). -/
def decidePoint (s : State) (p : Nat) : State :=
  match (part s p).point with
  | none => s
  | some sel =>
    let s := modPart s p (fun x => { x with point := none })
    match resident s p with
    | none => takeBeat s p sel
    | some (k, c) =>
      if sel && c.began && c.probs.isEmpty && frameComplete c && !(openChainProbs c).isEmpty then takeBeat (faultCtx s k (openChainProbs c)) p sel
      else if !sel || !c.began || frameComplete c || !c.probs.isEmpty then takeBeat s p sel
      else if deadlocked s p k c then takeBeat (deadlock s p k c) p sel
      else if 2 ^ ptnK s p ≤ frameRun s c then takeBeat (faultCtx s k (overrunProbs s c)) p sel
      else skipPoint s p k c

/-- The grid points of a cycle as it ends. -/
def decidePoints (s : State) : State := (List.range 8).foldl decidePoint s

/-! ### The muster anchor (11 R273) -/

/-- The bell of a muster has passed phase 0: arrivals of the program start at phase 1. -/
def passMuster (s : State) (k : Nat) (c : Ctx) : State :=
  match musterBell c with
  | none => s
  | some b =>
    let s := modBell s b (fun x => { x with parity := true, node0 := [], arr0 := 0, phases := 1 })
    modCtx s k (fun c => { c with vc := tmap c.vc (fun _ v => { v with sense := v.sense ||| 2 ^ b }) })

/-- Writes the initial scratchpad images of a program (09 R214). -/
def writeInit (s : State) (c : Ctx) : State :=
  c.vc.foldl (fun s e => (c.prog.init.filter (fun i => i.stream = e.2.stream)).foldl (fun s i => devWrite s (spBase (pcoreOf c e.1) + i.off) i.data) s) s

/-- MUSTER_ANCHOR: in the first cycle with REFCNT ≥ R_M the anchor is set, and a beat is taken as the cycle ends; frame 0 of the first step begins there, and the START completes. -/
def execMusterAnchor (p : Fin 8) (s : State) : Res :=
  match (part s p).letIn.bind (fun n => (ctxOf s (ctxKey p n)).map (fun c => (n, c))) with
  | none => .next s
  | some (n, c) =>
    let k := ctxKey p n
    match c.muster with
    | .released rm =>
      if s.refcnt < rm then .next s
      else
        let s := modPart s p (fun x => { x with anchor := some s.cycle, count := 0, points := x.points + 1, lastPoint := some s.cycle, point := some false, resident := some n, letIn := none })
        let s := writeInit (passMuster s k c) c
        let s := match c.sman with | some m => finishMan s c.qp m 0 (leBytes 1 c.prog.plan.idx ++ leBytes 1 0 ++ leBytes 2 c.prog.plan.vcores) | none => s
        let s := modCtx s k (fun c => { c with st := 2, muster := .none, sman := none, slice := 0, began := false, frame := 0 })
        .next (firstVote (openRec (installCover (unpark s k) p c.prog.coverId) k) k true)
    | _ => .next s

end Sys2Proof.Machine
end

