-- ==== Sys2Proof/Machine/LedgerRows.lean ====
section
/-! DEFINITION. The ledger rows: records into the ring, to the host, backpressure and overrun; enabling and disabling the rings; the ledger region (02 R56 to R59, 08 R211, 12 R303 to R305, 15 R395). -/

namespace Sys2Proof.Machine

/-! ### Backpressure (02 R58) -/

/-- The ledger-backpressure hold of a partition that is still owed. -/
def bpHold (s : State) (p : Nat) : Bool := s.holds.any (fun h => h.cause = 5 && h.unit = 9 && h.term = p && h.endAt.isNone)

/-- The running contexts whose own records wait. -/
def waitingCtxs (s : State) (p : Nat) : List Nat := ((part s p).ring.waiting.filterMap (·.ctx)).foldl sput []

/-- SPTR has advanced enough: the hold's result enters its return path. -/
def freeBackpressure (s : State) (p : Nat) : State :=
  let s := returnHolds s (fun h => h.cause = 5 && h.unit = 9 && h.term = p)
  gateEval (modPart (setFld s (rLdgStatus p) 30 30 0) p (fun x => { x with ring := { x.ring with blockedAt := none } }))

/-- A *ledger overrun* with the ring's pointers. -/
def overrunProb (s : State) (p : Nat) : Prob := { cause := 0x19, unit := 9, d0 := fld s (rLdgStatus p) 29 0, d1 := fld s (rLdgStatus p) 61 32 }

/-- LEDGER_RECORD_WRITE: the oldest finished record of a partition goes into the ring; without room, a running context whose record waits holds (02 R56 to R58). -/
def execLedgerRecordWrite (p : Fin 8) (s : State) : Res :=
  if !bit (rd s (rLdgCtrl p)) 0 || (part s p).ring.waiting.isEmpty then .next s
  else if ringRoom s p then .next (let s := ringPut s p; if bpHold s p then freeBackpressure s p else s)
  else match waitingCtxs s p with
    | [] => .next s
    | k :: _ =>
      if bpHold s p then .next s
      else
        let s := raiseHold s 9 p 5 0 (some k) s.run 0
        .next (gateEval (modPart (setFld s (rLdgStatus p) 30 30 1) p (fun x => { x with ring := { x.ring with blockedAt := some x.points } })))

/-- SPTR passes the oldest record that has not been streamed; a hold that waited for its room ends. -/
def passRecord (s : State) (p : Nat) (rest : List (Nat × Nat × Bool)) : State :=
  let s := syncPtr (modPart s p (fun x => { x with ring := { x.ring with written := dropPads rest } })) p
  if bpHold s p && ringRoom s p then freeBackpressure s p else s

/-- LEDGER_STREAM: the oldest record not yet streamed goes out as one LEDGER completion where its QP has room. A record too large for its QP faults the context that it is of, where that context lives, and is passed over (15 R395). `corr` and `bad` are what the GDDR devices report of the read (12 R306). -/
def execLedgerStream (p : Fin 8) (corr : Nat) (bad : List Nat) (s : State) : Res :=
  if !bit (rd s (rLdgCtrl p)) 1 then .next s
  else match dropPads (part s p).ring.written, ledgerQp s p with
    | (off, n, _) :: rest, some q =>
      let a := ringBase s p + off
      let slots := 1 + (n + 63) / 64
      if qpSlots s q < slots then
        let k := ctxKey p (bits (leNat (devRead s (a + 12) 4)) 23 20)
        .next (fault1 (passRecord s p rest) k (overrunProb s p))
      else if cqRoom s q slots then
        let s := gddrReport s a n corr bad
        .next (passRecord (writeCompl s q { kind := 4, status := 0, ctx := 0, id := 0, body := streamBytes s a n }) p rest)
      else .next s
    | _, _ => .next s

/-- LEDGER_OVERRUN: a backpressure hold has lasted TIMEOUT grid points (02 R58). -/
def execLedgerOverrun (p : Fin 8) (s : State) : Res :=
  match (part s p).ring.blockedAt with
  | some n =>
    if bpHold s p && decide ((part s p).points ≥ n + fld s (rLdgCtrl p) 31 16) then
      let pr := overrunProb s p
      let t := modPart (setFld s (rLdgStatus p) 30 30 0) p (fun x => { x with ring := { x.ring with blockedAt := none } })
      .next (gateEval ((waitingCtxs s p).foldl (fun s k => fault1 s k pr) t))
    else .next s
  | none => .next s

/-! ### Enabling and disabling (02 R59, 08 R211) -/

/-- Whether [base, base + len) lies in the ledger region of a partition. -/
def inRegion (s : State) (p base len : Nat) : Bool :=
  let lo := fld s (rLdgRegion p) 47 20 * 1048576
  let hi := lo + fld s (rLdgRegion p) 63 48 * 1048576
  decide (lo ≤ base) && decide (base + len ≤ hi)

/-- Whether the ledger ring of a partition may be enabled. -/
def ledgerOk (s : State) (p : Nat) : Bool :=
  let u := fld s (rLdgSize p) 18 0
  decide (16 ≤ u) && decide (u ≤ 262144) && inRegion s p (ringBase s p) (ringLen s p)
    && s.ctxs.all (fun e => e.1 / 16 ≠ p || decide (32 * (264 + e.2.prog.plan.lentries) ≤ ringLen s p))

/-- What a write leaves in LDG_CTRL. -/
def ldgCtrlVal (v : Nat) : Nat := bits v 1 0 + at_ (bits v 31 16) 16

/-- LEDGER_ENABLE: a write that sets EN of LDG_CTRL. -/
def execLedgerEnable (p : Fin 8) (v : BitVec 32) (w : Writer) (s : State) : Res := gate s w fun s =>
  if bit (rd s (rLdgCtrl p)) 0 || !v.getLsbD 0 then .next s
  else if bits v.toNat 31 16 = 0 || !ledgerOk s p then .next (reject s 9 (rLdgCtrl p))
  else .next (modPart (setReg (setReg s (rLdgCtrl p) (ldgCtrlVal v.toNat)) (rLdgStatus p) 0) p (fun x => { x with ring := {} }))

/-- LEDGER_DISABLE: a write that clears EN: records that wait or are not streamed are discarded, and a backpressure hold ends in this cycle. -/
def execLedgerDisable (p : Fin 8) (v : BitVec 32) (w : Writer) (s : State) : Res := gate s w fun s =>
  if !bit (rd s (rLdgCtrl p)) 0 || v.getLsbD 0 then .next s
  else if bits v.toNat 31 16 = 0 then .next (reject s 9 (rLdgCtrl p))
  else
    let s := endBackpressure (setReg s (rLdgCtrl p) (ldgCtrlVal v.toNat)) p
    .next (gateEval (syncPtr (modPart s p (fun x => { x with ring := { x.ring with waiting := [], written := [] } })) p))

/-- Whether the snapshot ring of a partition may be enabled. -/
def snapOk (s : State) (p : Nat) : Bool := decide (16 ≤ fld s (rSnapSize p) 17 0) && inRegion s p (snapBase s p) (snapLen s p)

/-- SNAP_RING_ENABLE: a write that sets EN of LDG_SNAPCTRL. -/
def execSnapRingEnable (p : Fin 8) (v : BitVec 32) (w : Writer) (s : State) : Res := gate s w fun s =>
  if bit (rd s (rSnapCtrl p)) 0 || !v.getLsbD 0 then .next s
  else if !snapOk s p then .next (reject s 9 (rSnapCtrl p))
  else .next (modPart (setReg (setReg s (rSnapCtrl p) 1) (rSnapPtr p) 0) p (fun x => { x with snap := {} }))

/-- The records from the one at offset o on. -/
def fromRecord (o : Nat) : List (Nat × Nat × Bool) → Option (List (Nat × Nat × Bool))
  | [] => none
  | e :: r => if e.1 = o then some (e :: r) else fromRecord o r

/-- SNAP_RPTR_WRITE: RPTR takes the current WPTR, which consumes every record, or the offset of a record start, which consumes those before it. -/
def execSnapRptrWrite (p : Fin 8) (v : BitVec 64) (w : Writer) (s : State) : Res := gate s w fun s =>
  let r := bits v.toNat 60 32
  let take := fun (l : List (Nat × Nat × Bool)) => modPart (setFld s (rSnapPtr p) 60 32 r) p (fun x => { x with snap := { x.snap with written := l } })
  if r = fld s (rSnapPtr p) 28 0 then .next (take [])
  else match fromRecord (r * 64) (part s p).snap.written with
    | some l => .next (take l)
    | none => .next (reject s 9 (rSnapPtr p))

/-! ### The ledger region (12 R303, R305) -/

/-- Bytes of populated ledger memory. -/
def ledgerCap (s : State) : Nat := fld s rLdgMemcfg 3 0 * (if bit (rd s rLdgMemcfg) 4 then 3 else 2) * 2 ^ 30

/-- Whether a value may be written to LDG_REGION of a partition. -/
def ldgRegionOk (s : State) (p v : Nat) : Bool :=
  let r := regionOf v
  decide (0 < bits v 63 48) && decide (ledgerBase ≤ r.1) && decide (r.2 ≤ ledgerBase + ledgerCap s)
    && (List.range 8).all (fun q => q = p || !rangesMeet r (regionOf (rd s (rLdgRegion q))))
    && s.sec.entQ.all (fun e => e.1 = p || !rangesMeet r (regionOf e.2))

/-- LEDGER_REGION_WRITE: the region is set under new keys; the write waits while no entropy can be drawn (18 R449). -/
def execLedgerRegionWrite (p : Fin 8) (v : BitVec 64) (w : Writer) (s : State) : Res := gate s w fun s =>
  let x := at_ (bits v.toNat 47 20) 20 + at_ (bits v.toNat 63 48) 48
  if !ldgRegionOk s p x then .next (reject s 9 (rLdgRegion p))
  else if s.sec.entWait then .next { s with sec := { s.sec with entQ := s.sec.entQ ++ [(p.val, x)] } }
  else .next (setRegion s p x)

end Sys2Proof.Machine
end

