-- ==== Sys2Proof/Machine/Owed.lean ====
section
/-! DEFINITION. Results that units owe under variable terms: when each is due, whether it is in, and the test that raises a hold request (10 R246, R247, R250, covers of 11 R278, 12 R300, 13 R328, R344, 14 R367). -/

namespace Sys2Proof.Machine

/-! ### Retransmissions (10 R250) -/

/-- Whether a stream has a retransmission in progress: its reorder store holds a frame, or a port of its die waits for a link replay that may cover its data (13 R322, R313, 10 R250). -/
def retransmits (s : State) (x : Nat) : Bool :=
  match tget s.streams x with
  | some e => !e.rx.isEmpty || s.ports.any (fun p => p.1 / 16 = dieOfSidx x && p.2.nak)
  | none => false
/-- Whether any stream of a context has. -/
def ctxRetransmits (s : State) (k : Nat) : Bool := s.streams.any (fun e => e.2.part = k / 16 && e.2.ctx = k % 16 && retransmits s e.1)

/-- The late-data cause of the network: 3 under a retransmission, else 4. -/
def lateCause (b : Bool) : Nat := if b then 3 else 4

/-! ### What a request is about

A result of an SDM entry has for its object (vcore + 1) × 2^32 + CIA; a sum its key; a signal or CEXP vcore × 64 + chime; a bell its number; a MAP message that has not arrived, under term 2, the step S_M from which its map is used (14 R366). -/

/-- The vcore and the running SDM entry that an object names. -/
def sdmEntry (c : Ctx) (obj : Nat) : Option (Nat × Vcore × Entry) :=
  if obj < 2 ^ 32 then none
  else (vcoreOf c (obj / 2 ^ 32 - 1)).bind (fun vc =>
    ((tgetD vc.running 3 []).find? (fun e => e.cia = obj % 2 ^ 32)).map (fun e => (obj / 2 ^ 32 - 1, vc, e)))

/-- A CEXP of a chime that is due at u, with what the chime must have landed for it: CEXPs take their counts in queue order, so those before it are counted in (11 R265; DEDUCED, assumption 49). -/
def cexpNeed (vc : Vcore) (ch u : Nat) : Option Nat :=
  let l := vc.cexps.filter (fun e => e.chime = ch)
  ((List.range l.length).find? (fun i => (l[i]?).any (fun e => e.due = u))).map (fun i => (l.take (i + 1)).foldl (fun a e => a + e.count) 0)

/-- The owner's sum of a key. -/
def ownerSum (c : Ctx) (key : Nat) : Option (TallyDesc × TSum) :=
  (tDesc c (key % 65536)).bind (fun d => (sumOf c (tOwnerOf d (key / 65536)) d.tag).map (fun x => (d, x)))

/-! ### Covers -/

/-- Whether an address lies in the half of the die that does not hold the pcore. -/
def farHalf (c : Ctx) (v a : Nat) : Bool := decide (hbmHalf ≤ a) != decide (dieOf (pcoreOf c v) = 1)

/-- What a leg of n bytes at device address a adds to the cover of an SDM transfer, read (term 0) or written (term 1): the HBM covers where it lies in HBM (12 R300, 13 R344). -/
def legCover (s : State) (k : Nat) (c : Ctx) (v term a n : Nat) : Nat := if hbmEnd ≤ a then 0 else transferCover s (k / 16) 8 term n (farHalf c v a)

/-- The cover of an SDM entry that memory makes variable: COPY, GATHACC.UNORD, a spilling waystation operation, SNAP (12 R300, 13 R328, R344, 08 R195). -/
def memCover (s : State) (k : Nat) (c : Ctx) (vc : Vcore) (v o : Nat) : Option Nat :=
  let sq := coverOr s (k / 16) 3 0 0
  match bits o 5 0 with
  | 0x01 =>
    let n := 64 * (bits o 28 9 + 1)
    match mapRange s k c (64 * bits o 70 29) n, mapRange s k c (64 * bits o 112 71) n with
    | .ok a, .ok d => if hbmEnd ≤ a && hbmEnd ≤ d then none else some (sq + legCover s k c v 0 a n + legCover s k c v 1 d n)
    | _, _ => none
  | 0x05 =>
    match mapRange s k c (64 * bits o 95 54) 1024 with
    | .ok a => some (sq + coverOr s (k / 16) 8 0 0 + (if farHalf c v a then coverOr s (k / 16) 8 2 0 else 0) + 16 * (bits o 37 22 + 1) - 1)
    | .error _ => none
  | 0x34 =>
    let d := devRead s (spBase (pcoreOf c v) + 64 * bits o 21 6) 64
    let n := fieldB d 8 8
    match mapRange s k c (fieldB d 0 8) n with
    | .ok a => some (sq + legCover s k c v 0 a n + transferCover s (k / 16) 9 1 (128 + roundUp n 64) false)
    | .error _ => none
  | _ => if isWs o then (tget vc.ws.spilt o).map (fun n => wsCover o + n) else none

/-- The landing cover of a SEND over a path of h links, 130 wire bytes of overhead a frame with link retry, 122 without (13 R344). -/
def landCover (s : State) (k : Nat) (c : Ctx) (v h o : Nat) : Option Nat :=
  let n := 64 * (bits o 41 22 + 1)
  let t := coverOr s (k / 16) 10
  (psnStream s (k / 16) (k % 16) (bits o 21 8)).map (fun x =>
    let port := (streamPort s x.1 x.2).getD (16 * dieOfSidx x.1)
    let w := n + 8 * b2n (bit o 6) + (n + maxPay s (dieOfSidx x.1) - 1) / maxPay s (dieOfSidx x.1) * (if llrOn s port then 130 else 122)
    let leg := match mapRange s k c (64 * bits o 83 42) n with | .ok a => legCover s k c v 0 a n | .error _ => 0
    leg + t 0 0 + h * t 1 0 + (h - 1) * t 2 0 + t 3 0 + (w + portRate s port - 1) / portRate s port - 1)

/-- The cover of an AGATHER, or of a PERMUTE with its bell and its phase 3 copies (14 R367). -/
def collCover (s : State) (k : Nat) (c : Ctx) (v cia : Nat) : Option Nat :=
  let t := fun i => coverOr s (k / 16) 11 i 0
  match c.gathers.find? (fun g => g.v = v && g.cia = cia), c.permutes.find? (fun x => x.v = v && x.cia = cia) with
  | some g, _ => some (t 0 + t 1 + ceilLog2 g.g * t 2 + ((g.g - 1) * g.len + 51) / 52)
  | none, some x =>
    let inB := x.copies.foldl (fun a e => a + e.2.2) 0
    some (t 0 + (max x.outB inB + 51) / 52 + bellCover s (k / 16) x.bell c.prog.plan.devices
      + x.copies.foldl (fun a e => a + legCover s k c v 0 e.1 e.2.2 + legCover s k c v 1 e.2.1 e.2.2) 0)
  | none, none => none

/-- The run cycle at which a sum that crosses the bridge is due: the CRU's cover, and the 96 cycles of each of its three crossings: bytes, final bytes, integers (05 R132, R136, 01 R23; DEDUCED, assumption 49). -/
def bridgeDue (c : Ctx) (d : TallyDesc) (cl : Nat) : Nat :=
  let l := tParties d cl
  l.foldl (fun a y => max a ((sumOf c y d.tag).getD {}).lastAt) 0 + cruCover d (l.foldl (fun a y => max a (tLocalN d y)) 0) + 3 * 96

/-! ### Due cycles and results -/

/-- The cause and the due run cycle of a result that a unit owes to a context under a variable term: start of its entry, cover and SLACK (10 R246). Static terms never hold (09 R225). `cause` tells a refresh from the other delays of HBM, and `u` is the due cycle of a CEXP, or the number of links of a SEND's path: the state holds neither. -/
def owedResult (s : State) (k : Nat) (c : Ctx) (unit term cause obj u : Nat) : Option (Nat × Nat) :=
  let entry := fun (cs : Nat) (f : Nat → Vcore → Nat → Nat → Option Nat) =>
    (sdmEntry c obj).bind (fun e => (f e.1 e.2.1 (wOp e.2.2.word.toNat) e.2.2.cia).map (fun n => (cs, e.2.2.started + n + wSlack e.2.2.word.toNat)))
  match unit with
  | 8 => entry (if cause = 0 then 0 else 1) (fun v vc o _ => memCover s k c vc v o)
  | 9 => entry 1 (fun v vc o _ => if bits o 5 0 = 0x34 then memCover s k c vc v o else none)
  | 10 => entry (lateCause (ctxRetransmits s k)) (fun v _ o _ => if bits o 5 0 = 2 then landCover s k c v u o else none)
  | 11 =>
    if term = 0 then entry (lateCause (ctxRetransmits s k)) (fun v _ _ cia => collCover s k c v cia)
    else if term = 1 then (ownerSum c obj).bind (fun x => x.2.due.map (fun d => (lateCause (ctxRetransmits s k), d)))
    else if term = 2 && obj ≤ c.step && c.rank ≠ 0 then some (4, s.run)
    else none
  | 12 => (ownerSum c obj).bind (fun x => if (tParties x.1 (obj / 65536)).any (fun y => decide (y / 6 ≠ obj / 65536 / 6)) then some (2, bridgeDue c x.1 (obj / 65536)) else none)
  | 13 =>
    if term = 3 then (c.sigs.find? (fun g => g.vcore * 64 + g.chime = obj)).map (fun g => (2, s.run + (g.due - s.cycle)))
    else if term = 4 then (vcoreOf c (obj / 64)).bind (fun vc => (cexpNeed vc (obj % 64) u).map (fun _ => (lateCause (ctxRetransmits s k), u)))
    else if term = 6 && (bell s obj).ctx = some k && belScope s obj = 1 then (bell s obj).due.map (fun d => (4, d))
    else none
  | _ => none

/-- Whether a result under a request of HOLD_TEST is in, none where only the unit's own timing says so. A result whose entry, sum, signal or phase is gone is in; requests of other kinds end by what they wait for. -/
def resultIn (s : State) (k : Nat) (c : Ctx) (unit term obj u : Nat) : Option Bool :=
  let entry := fun (f : Nat × Vcore × Entry → Option Bool) => if obj < 2 ^ 32 then some false else match sdmEntry c obj with | some e => f e | none => some true
  let busy := entry (fun e => some (!entryBusy c e.2.1 e.1 3 e.2.2))
  let sum := match ownerSum c obj with | some x => some (decide (5 ≤ x.2.stage)) | none => some true
  match unit with
  | 8 | 9 => entry (fun _ => if unit = 8 && (hbmHeld s 0 (k / 16) || hbmHeld s 1 (k / 16)) then some false else none)
  | 10 => busy
  | 11 => if term = 0 then busy else if term = 1 then sum else some (c.maps.any (fun m => m.1 = obj))
  | 12 => sum
  | 13 =>
    if term = 3 then some (!c.sigs.any (fun g => g.vcore * 64 + g.chime = obj))
    else if term = 4 then some (match vcoreOf c (obj / 64) with
      | some vc => (match cexpNeed vc (obj % 64) u with | some n => decide (n ≤ tgetD vc.land (obj % 64) 0) | none => true)
      | none => true)
    else if term = 6 then some ((bell s obj).jobRel || (bell s obj).ctx ≠ some k || (bell s obj).due.isNone)
    else some false
  | _ => some false

/-- The same for a request. -/
def holdIn (s : State) (h : Hold) : Option Bool :=
  match h.ctx.bind (fun k => (ctxOf s k).map (fun c => (k, c))) with
  | some (k, c) => resultIn s k c h.unit h.term h.obj h.u
  | none => some false

/-- RESULT_RETURN: the result owed under request id enters its return path, where the state does not say that it is absent (10 R247). -/
def execResultReturn (id : Nat) (s : State) : Res :=
  .next (gateEval (returnHolds s (fun h => h.id = id && (holdIn s h).getD true)))

/-- The owed results that the cycle which ends has brought enter their return paths (10 R247). -/
def returnReady (s : State) : State := returnHolds s (fun h => holdIn s h = some true)

/-- VARIANT of a term: a JOB bell's depth (11 R278). -/
def holdVariant (c : Ctx) (unit term : Nat) : Nat := if unit = 13 && term = 6 then ceilLog2 c.prog.plan.devices else 0

/-- HOLD_TEST: at u − 96 or later a unit tests a result that it owes to the resident context of p, and raises a request where it is absent, once (10 R246). `ready` says what the state does not hold. -/
def execHoldTest (p : Fin 8) (unit term cause obj u : Nat) (ready : Bool) (s : State) : Res :=
  .next (match resident s p with
    | none => s
    | some (k, c) => match owedResult s k c unit term cause obj u with
      | none => s
      | some (cs, d) =>
        if s.run + 96 < d || (resultIn s k c unit term obj u).getD ready || s.holds.any (fun h => h.unit = unit && h.term = term && h.obj = obj && h.ctx = some k && h.u = d) then s
        else raiseHold s unit term cs obj (some k) d (tolOr s p unit term (holdVariant c unit term)))

end Sys2Proof.Machine
end

