-- ==== Sys2Proof/Machine/RegWrite.lean ====
section
/-! DEFINITION. Register writes: the general write, the shadow, and the enables with rows of their own (00 R7, R8, 01 R37, 10 R241, R242, R254, 11 R279, 16 R402, R422, 18 R468, 19 R484). -/

namespace Sys2Proof.Machine

/-! ### The shadow (10 R254) -/

/-- A write to a CW register of partition p: to the shadow while the partition's grid is on; else at once. A write that clears EN of DBT_PERIOD turns the grid off. -/
def shadowWrite (s : State) (p off v : Nat) : State :=
  let off? := off = rDbtPeriod p && !bit v 0
  if bit (rd s (rDbtPeriod p)) 0 && !off? then { s with shadowLate := tput s.shadowLate off (BitVec.ofNat 64 v) }
  else
    let s := { s with shadow := tdel s.shadow off, shadowLate := tdel s.shadowLate off }
    let s := if off? then modPart (setFld s off 0 0 0) p (fun x => { x with anchor := none }) else s
    commitReg s p off v

/-- The partition of a CW register. -/
def cwPart (off : Nat) : Option Nat := (List.range 8).find? (fun p => (cwOffs p).contains off)

/-- SHADOW_WRITE: a write to a CW register. One that sets EN of DBT_PERIOD is DRUM_ENABLE. -/
def execShadowWrite (off : BitVec 32) (v : BitVec 64) (w : Writer) (s : State) : Res := gate s w fun s =>
  match cwPart off.toNat, regFind off.toNat with
  | some p, some d =>
    let x := v.toNat % 2 ^ d.width
    if off.toNat = rDbtPeriod p && !bit (rd s (rDbtPeriod p)) 0 && bit x 0 then .next s
    else if !fldsOk d x then .next (rejectOff s off.toNat)
    else .next (shadowWrite s p off.toNat (d.flds.foldl (fldWrite x 0) 0))
  | _, _ => .next s

/-- DRUM_ENABLE: a write that sets EN of DBT_PERIOD: K takes effect at once, and the anchor is the next cycle (10 R242, R254). -/
def execDrumEnable (p : Fin 8) (v : BitVec 32) (w : Writer) (s : State) : Res := gate s w fun s =>
  let off := rDbtPeriod p
  if bit (rd s off) 0 || !v.getLsbD 0 then .next s
  else if bits v.toNat 8 4 < 12 || 26 < bits v.toNat 8 4 then .next (reject s 2 off)
  else
    let s := setReg { s with shadow := tdel s.shadow off, shadowLate := tdel s.shadowLate off } off (1 + at_ (bits v.toNat 8 4) 4)
    .next (modPart s p (fun x => { x with anchor := some (s.cycle + 1), count := 0, lastPoint := none }))

/-! ### Bells (11 R279) -/

/-- Whether SCOPE, LOCAL, DEVICES and TIMEOUT of a value are in range. -/
def belCfgOk (v : Nat) : Bool :=
  decide (bits v 5 4 ≤ 1) && decide (bits v 12 6 ≤ 95) && decide (bits v 35 16 ≤ 131071) && decide (1 ≤ bits v 51 36)

/-- Defined bits of BEL_CFG. -/
def belCfgVal (v : Nat) : Nat := bits v 12 0 + at_ (bits v 51 16) 16

/-- BELL_ENABLE: a write that sets EN: PARITY, ARRIVED, DUE and PHASES are zero. -/
def execBellEnable (b : Fin 64) (v : BitVec 64) (w : Writer) (s : State) : Res := gate s w fun s =>
  if bit (rd s (rBelCfg b)) 0 || !v.getLsbD 0 then .next s
  else if !belCfgOk v.toNat then .next (reject s 4 (rBelCfg b))
  else .next (modBell (setReg s (rBelCfg b) (belCfgVal v.toNat)) b (fun x => { ctx := x.ctx, discards := x.discards }))

/-- Whether the context that a bell serves is running. -/
def bellRuns (s : State) (b : Nat) : Bool :=
  match (bell s b).ctx.bind (ctxOf s) with | some c => ctxRuns c | none => false

/-- BELL_DISABLE: a write that clears EN, unless the bell's context runs; EN alone changes. -/
def execBellDisable (b : Fin 64) (v : BitVec 64) (w : Writer) (s : State) : Res := gate s w fun s =>
  if !bit (rd s (rBelCfg b)) 0 || v.getLsbD 0 then .next s
  else if bellRuns s b then .next (reject s 4 (rBelCfg b))
  else .next (setFld s (rBelCfg b) 0 0 0)

/-! ### Other rows -/

/-- CFGERR_CLEAR: writes of one clear bits of GLB_CFGERR; LAST_OFF stands (01 R37). -/
def execCfgerrClear (mask : BitVec 17) (w : Writer) (s : State) : Res := gate s w fun s =>
  .next (setFld s rCfgerr 16 0 (clearBits (fld s rCfgerr 16 0) mask.toNat (stuck s rCfgerr)))

/-- TSTORE_PEAK_CLEAR: PEAK becomes the current occupancy (05 R138). -/
def execTstorePeakClear (k : Fin 12) (w : Writer) (s : State) : Res := gate s w fun s =>
  .next (setFld s (rCteTstore k) 30 16 (fld s (rCteTstore k) 14 0))

/-! ### Partitions (16 R402) -/

/-- A partition's resources as PTN_CFG gives them: clusters and ports as masks. -/
def cfgClusters (v : Nat) : Nat := bits v 12 1
def cfgPorts (v : Nat) : Nat := bits v 47 16

/-- Whether partition q is enabled and shares a cluster, a port or HBM with partition p under a PTN_CFG value. -/
def ptnOverlap (s : State) (p v q : Nat) : Bool :=
  q ≠ p && bit (rd s (rPtnCfg q)) 0
    && (cfgClusters v &&& cfgClusters (rd s (rPtnCfg q)) ≠ 0 || cfgPorts v &&& cfgPorts (rd s (rPtnCfg q)) ≠ 0 || rangesMeet (ptnHbm s p) (ptnHbm s q))

/-- Whether the stow area of a die lies in the partition's HBM region and in the die's half. -/
def stowOk (s : State) (p d : Nat) : Bool := within (ptnStow s p d) (ptnHbm s p) && within (ptnStow s p d) (halfBase d, halfBase d + hbmHalf)

/-- Whether the ledger stow area lies in the ledger region beyond the end of both rings. A ring of size zero ends nowhere. -/
def lstowOk (s : State) (p : Nat) : Bool :=
  let a := ptnLstow s p
  decide (a.2 ≤ a.1) || (within a (regionOf (rd s (rLdgRegion p)))
    && (ringLen s p = 0 || decide (ringBase s p + ringLen s p ≤ a.1)) && (snapLen s p = 0 || decide (snapBase s p + snapLen s p ≤ a.1)))

/-- Whether EN of PTN_CFG may be set. -/
def ptnOk (s : State) (p v : Nat) : Bool :=
  !bit (rd s rPwrStat) 10 && cfgClusters v ≠ 0 && !(List.range 8).any (ptnOverlap s p v) && stowOk s p 0 && stowOk s p 1 && lstowOk s p

/-- Defined bits of PTN_CFG. -/
def ptnCfgVal (v : Nat) : Nat := bits v 12 0 + at_ (cfgPorts v) 16

/-- PARTITION_ENABLE: a write that sets EN of PTN_CFG; the tenant counts begin anew (18 R465). -/
def execPartitionEnable (p : Fin 8) (v : BitVec 64) (w : Writer) (s : State) : Res := gate s w fun s =>
  if bit (rd s (rPtnCfg p)) 0 || !v.getLsbD 0 then .next s
  else if !ptnOk s p v.toNat then .next (reject s 14 (rPtnCfg p))
  else
    let s := setReg s (rPtnCfg p) (ptnCfgVal v.toNat)
    .next (modPart s p (fun x => { x with trun := 0, theld := 0, held0 := rd s rDbtHeld }))

/-! ### The general write (00 R8) -/

/-- Whether a host address of a register is legal: aligned, and no bit above 51 (15 R375). -/
def addrOk (v align : Nat) : Bool := v % align = 0 && decide (v < 2 ^ 52)

/-- Whether a write belongs to another row: it carries that row's enable transition, kick or command, or the register has a row of its own. -/
def ownRow (s : State) (d : RegDesc) (off v : Nat) : Bool :=
  let en := bit (rd s off) 0
  let toggles := bit v 0 ≠ en
  let l : List (Nat × Bool) := [
    (rCfgerr, true), (rDbtPeriod 0, true), (rBelDeadlock 0, true), (rMemReg 0 0, true), (rPtnSlice 0, true), (rPtnEcho 0, true), (rPtnToll 0, true),
    (rBelCfg 0, toggles), (rLdgCtrl 0, toggles), (rSnapCtrl 0, bit v 0 && !en), (rSnapPtr 0, true), (rLdgRegion 0, true), (rPtnCfg 0, bit v 0 && !en),
    (rCteTstore 0, bit v 31), (rNetPortcfg 0, toggles), (rHifQpcfg 0, toggles), (rHifFwctl, true), (rHifPeerctl, true), (rPwrCtl, true),
    (rMboxCtl 0, true), (rMboxCmd 0, decide (1 ≤ bits v 7 0) && decide (bits v 7 0 ≤ 6)), (rMemPoisonlog 0, bit v 63), (rCvuFeed 0 0, true), (rCvuRun 0, true),
    (rCvuCfg 0, bits v 8 5 ≠ 0 || toggles), (rWdog 0, bit v 16), (rSealctl 0, bits v 1 0 ≠ 0)]
  l.any (fun e => e.1 = d.base && e.2)

/-- Whether a write clears EN of a BEL_CFG or HIF_QPCFG register: such a write changes EN alone and is not checked further (11 R279, 15 R377). -/
def clearsEn (s : State) (d : RegDesc) (off v : Nat) : Bool :=
  (d.base = rBelCfg 0 || d.base = rHifQpcfg 0) && bit (rd s off) 0 && !bit v 0

/-- Whether a seal window may be written: no key is installed, and its owner's region holds it. -/
def sealWinOk (s : State) (p v : Nat) : Bool := !bit (rd s (rSealctl p)) 6 && winFits s p (fld s (rSealctl p) 5 2) v

/-- Whether a rule of the manual rejects a write of `v` to register (i, j) of a family. -/
def ruleBad (s : State) (d : RegDesc) (i j off v : Nat) : Bool :=
  let n := 16 * i + j
  let f := d.base
  if f = rBelCfg 0 then bit v 0
  else if f = rLdgBase 0 || f = rLdgSize 0 then bit (rd s (rLdgCtrl i)) 0
  else if f = rSnapBase 0 || f = rSnapSize 0 then bit (rd s (rSnapCtrl i)) 0
  else if f = rHifQpcfg 0 then qpEn s i || !bit (rd s rHifStatus) 0
  else if f = rHifSqbase 0 || f = rHifCqbase 0 then qpEn s i || !addrOk v 4096
  else if f = rHifFwaddr then !addrOk v 4096
  else if f = rNetPortcfg 0 then !portCfgOk s n v || (portEn s n && bits v 4 1 ≠ fld s off 4 1)
  else if f = rNetSquota 0 0 then
    let q := bits v 13 0
    decide (q < quotaUsed s i j) || (decide (fld s off 13 0 < q)
      && decide (8192 < q + ((List.range 8).filter (· ≠ j)).foldl (fun a p => a + fld s (rNetSquota i p) 13 0) 0))
  else if f = rSealaddr 0 then !addrOk v 64
  else if f = rSealwin 0 then !sealWinOk s i v
  else if f = rTctl 0 then s.ctxs.any (fun e => e.1 / 16 = i)
  else if f = rPwrWake then fld s rRole 1 0 = 2 && (match s.prof.paths.find? (fun e => e.1 = s.prof.vfIndex) with
    | some e => !e.2.2.contains (bits v 4 0) | none => false)
  else false

/-- A change of DOMAIN: REFCNT takes the source of its new mode, and REF_VALID says whether that source is there (11 R272, 20 R495; DEDUCED, assumption 39). -/
def setDomain (s : State) (one : Bool) : State :=
  match s.refs.time with
  | none => setRefValid s false
  | some t => if one then setRefValid { s with refcnt := refTime s t % 2 ^ 64, refAcc := 0 } true else setRefValid s (decide (1 ≤ s.refs.good))

/-- What follows a write that was taken: STREAM off lets SPTR follow WPTR; a new DOMAIN changes the source of REFCNT; EN of MEM_CADENCE decides whether a cadence step throttles. -/
def afterWrite (s0 s : State) (d : RegDesc) (i : Nat) : State :=
  if d.base = rLdgCtrl 0 && !bit (rd s (rLdgCtrl i)) 1 && !(part s i).ring.written.isEmpty then passRecord s i []
  else if d.base = rBelMuster && bit (rd s0 rBelMuster) 16 ≠ bit (rd s rBelMuster) 16 then setDomain s (bit (rd s rBelMuster) 16)
  else if d.base = rMemCadence then syncThrottle (thrOn s0) s
  else s

/-- What a write of one half of a 64-bit register makes of its other half: the fields that hold what was written keep it, and nothing is cleared or started there (DESIGN CHOICE, assumption 57). -/
def otherHalf (s : State) (d : RegDesc) (off : Nat) (hi : Bool) : Nat :=
  let m := d.flds.foldl (fun a f => if f.acc = .rw || f.acc = .cw then setBits a f.hi f.lo (fld s off f.hi f.lo) else a) 0
  if hi then m / 2 ^ 32 * 2 ^ 32 else m % 2 ^ 32

/-- The register and the value that a write of `width` bytes means: 32 bits of a 64-bit register are one half of it. -/
def wideWrite (s : State) (off width v : Nat) : Nat × Nat :=
  let half := fun (o : Nat) => match regFind o with | some d => decide (d.width = 64) | none => false
  if width ≠ 4 then (off, v)
  else if half off then (off, match regFind off with | some d => v % 2 ^ 32 + otherHalf s d off true | none => v)
  else if half (off - 4) then (off - 4, match regFind (off - 4) with | some d => v % 2 ^ 32 * 2 ^ 32 + otherHalf s d (off - 4) false | none => v)
  else (off, v % 2 ^ 32)

/-- A write to a register that belongs to no other row. -/
def plainWrite (off v : Nat) (s : State) : State :=
  match regFind off with
  | none => s
  | some d => match regIdx d off with
    | none => s
    | some (i, j) =>
      let x := v % 2 ^ d.width
      if clearsEn s d off x then s
      else if !fldsOk d x then rejectOff s off
      else if ownRow s d off x then s
      else if ruleBad s d i j off x then rejectOff s off
      else afterWrite s (regApply s off d x) d i

/-- Whether a write to the configuration BAR is naturally aligned and of 32 or 64 bits; any other is answered with Completer Abort (15 R374). -/
def barShape (off width : Nat) : Bool := (width = 4 || width = 8) && off % width = 0

/-- REG_WRITE: a write of 32 or 64 bits to a register. Offsets with no register, and writes that have rows of their own, change nothing here; a value that is reserved, out of range or rejected by a rule changes no field and reports itself (00 R8, 01 R37). A gateway sends a write through a peer's function into the tunnel (01 R34). -/
def execRegWrite (vf : Fin 64) (off : BitVec 32) (width : Fin 9) (v : BitVec 64) (w : Writer) (s : State) : Res := gate s (if vf = 0 then w else .host none) fun s =>
  if !barShape off.toNat width then .next (match w with | .host _ => { s with out := s.out ++ [.abort vf] } | .mgc _ => s)
  else if vf.val ≠ 0 then .next (match w with | .host t => toVf s vf off.toNat t (fun s => toTunnel s vf 2 off.toNat (leBytes width v.toNat)) | .mgc _ => s)
  else
    let x := wideWrite s off.toNat width v.toNat
    .next (plainWrite x.1 x.2 s)

end Sys2Proof.Machine
end

