-- ==== Sys2Proof/Machine/Roce.lean ====
section
/-! DEFINITION. RoCEv2 queue pairs, work requests and packets (13 R340, R341, 15 R386). A message is cut at the path MTU; packets leave in the encoding of Annex A17 with the engine's own ICRC (PRESUMED, assumption 33). -/

namespace Sys2Proof.Machine

def roceMtu (x : RoceQp) : Nat := 1024 * 2 ^ x.mtu
/-- Packets, and so PSNs, of a message. -/
def rocePkts (x : RoceQp) (n : Nat) : Nat := max 1 ((n + roceMtu x - 1) / roceMtu x)
def psnAdd (a n : Nat) : Nat := (a + n) % 2 ^ 24
def modRoce (s : State) (n : Nat) (f : RoceQp → RoceQp) : State := { s with roce := tmod s.roce n f }

/-- OpCode of a reliable-connected packet: kind and place in its message (Annex A17). -/
def roceOp (t : RoceTx) : Nat :=
  let at4 := fun (only first mid last : Nat) => match t.pos with | 0 => only | 1 => first | 2 => mid | _ => last
  match t.kind with
  | 0 => at4 0x04 0x00 0x01 0x02
  | 1 => at4 0x0A 0x06 0x07 0x08
  | 2 => at4 0x0B 0x06 0x07 0x09
  | 3 => 0x0C
  | 5 => at4 0x10 0x0D 0x0E 0x0F
  | 6 => 0x81
  | _ => 0x11

/-- The transport headers behind the base header: RDMA, acknowledge, immediate, and the zeros of a notification. -/
def roceExt (t : RoceTx) : Bytes :=
  let reth := beBytes 8 t.addr ++ beBytes 4 t.rkey ++ beBytes 4 t.len
  let first := decide (t.pos ≤ 1)
  let imm := if t.kind = 2 && (t.pos = 0 || t.pos = 3) then beBytes 4 t.imm else []
  match t.kind with
  | 1 | 2 => (if first then reth else []) ++ imm
  | 3 => reth
  | 4 => beBytes 4 0x1F000000
  | 5 => if t.pos = 2 then [] else beBytes 4 0x1F000000
  | 6 => List.replicate 16 0
  | 7 => beBytes 4 0x60000000
  | _ => []

/-- Base and further transport headers and the data, filled to four bytes. -/
def roceBody (x : RoceQp) (t : RoceTx) : Bytes :=
  let pad := (4 - t.data.length % 4) % 4
  let ask := b2n (t.kind ≤ 3 && (t.pos = 0 || t.pos = 3))
  beBytes 1 (roceOp t) ++ beBytes 1 (0x40 + pad * 16) ++ beBytes 2 0xFFFF ++ beBytes 1 0 ++ beBytes 3 x.rqpn ++ beBytes 1 (ask * 128) ++ beBytes 3 t.psn
    ++ roceExt t ++ t.data ++ List.replicate pad 0

/-- The ICRC: CRC-32 over the packet with the fields that may change on the way taken as ones. -/
def roceIcrc (hdr body : Bytes) : Bytes :=
  let h := spliceB (spliceB (spliceB hdr 0 [0x6F, 0xFF, 0xFF, 0xFF]) 7 [0xFF]) 46 [0xFF, 0xFF]
  leBytes 4 (fcs (List.replicate 8 0xFF ++ h ++ spliceB body 4 [0xFF]))

/-- A packet to the queue pair's remote GID: IPv6, UDP destination port 4791 without checksum, headers, data, ICRC. -/
def rocePacket (s : State) (x : RoceQp) (t : RoceTx) : Bytes :=
  let d := x.port / 16
  let b := roceBody x t
  let n := b.length + 12
  let h := beBytes 4 (6 * 2 ^ 28 + 2 * 2 ^ 20) ++ beBytes 2 n ++ beBytes 1 17 ++ beBytes 1 (fld s (rNetCvtcfg d) 25 18)
    ++ ip6 s d s.prof.node x.port ++ padTo 16 x.rgid ++ beBytes 2 (49152 + x.rqpn % 16384) ++ beBytes 2 4791 ++ beBytes 2 n ++ beBytes 2 0
  h ++ b ++ roceIcrc h b

/-- A packet joins what its port sends. -/
def emitRoce (s : State) (x : RoceQp) (t : RoceTx) : State := queueLocal s x.port (rocePacket s x t)
/-- A packet without data: an acknowledgement, a notification, a negative acknowledgement. -/
def roceCtl (kind psn : Nat) : RoceTx := { kind := kind, pos := 0, psn := psn, addr := 0, len := 0, data := [] }

/-- The packets of a message of n bytes: its PSNs rise by one, and each holds at most the path MTU (13 R340). -/
def roceCut (x : RoceQp) (kind first addr n : Nat) (b : Bytes) (rkey imm : Nat := 0) : List RoceTx :=
  let k := rocePkts x n
  (List.range k).map (fun i =>
    { kind := kind, pos := if k = 1 then 0 else if i = 0 then 1 else if i + 1 = k then 3 else 2, psn := psnAdd first i,
      addr := addr, len := n, rkey := rkey, imm := imm, data := sliceB b (i * roceMtu x) (min (roceMtu x) (b.length - i * roceMtu x)) })

/-- Puts packets behind those that wait to leave. -/
def roceQueue (s : State) (n : Nat) (l : List RoceTx) : State := modRoce s n (fun x => { x with wait := x.wait ++ l })

/-- One cycle of a queue pair: the next packet leaves where its port is up and its rate allows it (13 R340). -/
def roceSend (s : State) (n : Nat) : State :=
  match tget s.roce n with
  | none => s
  | some x => match x.wait with
    | [] => s
    | t :: r => if !portUp s x.port || s.cycle < x.nextAt then s else emitRoce (modRoce s n (fun y => { y with wait := r, nextAt := s.cycle + 1 + y.gap })) x t

/-- One cycle of every queue pair. -/
def roceCycle (s : State) : State := (tkeys s.roce).foldl roceSend s

/-- Starts the next manifest of a QP if it is a ROCE manifest that `f` picks by OP and VERB. -/
def onRoce (s : State) (q : Nat) (f : Nat → Nat → Bool) (k : State → Man → State) : State :=
  match nextMan s q with
  | none => s
  | some m => if fieldB m.slot 0 1 = 9 && f (fieldB m.slot 0x10 1) (fieldB m.slot 0x13 1) then onMan s q 9 0x50 k else s

/-- The queue pair that a manifest names, if it belongs to the manifest's partition. -/
def manRoce (s : State) (q : Nat) (m : Man) : Option (Nat × RoceQp) :=
  let n := fieldB m.slot 0x14 4
  match tget s.roce n with
  | some x => if x.part = qpPtn s q then some (n, x) else none
  | none => none

/-- Whether a range overlaps the seal window of a keyed partition. -/
def inSeal (s : State) (p a n : Nat) : Bool :=
  thas s.seals p && (let lo := fld s (rSealwin p) 47 20 * 1048576
    let hi := lo + fld s (rSealwin p) 63 48 * 1048576
    decide (lo < hi) && decide (a < hi) && decide (lo < a + n))

def roceResult (n key : Nat) : Bytes := leBytes 4 n ++ leBytes 4 key

/-- ROCE_CREATE: the lowest free queue pair of the port's die, a region inside the partition's HBM region, a drawn RKEY (13 R340, R341, 18 R463); it waits while no draw is served (18 R449). An OP above 3 completes here with BAD_MANIFEST. -/
def execRoceCreate (q : Fin 64) (s : State) : Res := if s.sec.entWait then .next s else .next (onRoce s q (fun op _ => op = 0 || op > 3) (fun s m =>
  let b := m.slot
  let p := qpPtn s q
  let port := fieldB b 0x11 1
  let a := fieldB b 0x18 8
  let n := fieldB b 0x20 8
  let d := port / 16
  if fieldB b 0x10 1 ≠ 0 || fieldB b 0x12 1 > 2 || fieldB b 0x13 1 ≠ 0 || fieldB b 0x14 4 ≠ 0 || !zeroB b 0x28 0x50
    || !(port < 4 || (16 ≤ port && port < 20)) || !bit (rd s (rNetPortcfg port)) 4 then finishMan s q m.seq 1
  else if n = 0 || !inPtn s p a (a + n) || inSeal s p a n then finishMan s q m.seq 2
  else match (rangeFrom (256 * d) 256).find? (fun i => !thas s.roce i) with
    | none => finishMan s q m.seq 11
    | some i =>
      let key := Config.entropy s.draws % 2 ^ 32
      finishMan { drawn s 1 with roce := tput s.roce i { qp := q, part := p, port := port, mtu := fieldB b 0x12 1, base := a, len := n, rkey := key } }
        q m.seq 0 (roceResult i key)))

/-- ROCE_CONNECT. -/
def execRoceConnect (q : Fin 64) (s : State) : Res := .next (onRoce s q (fun op _ => op = 1) (fun s m =>
  let b := m.slot
  if !zeroB b 0x11 0x14 || !zeroB b 0x18 0x28 || !zeroB b 0x40 0x50 || fieldB b 0x38 4 ≥ 2 ^ 24 || fieldB b 0x3C 4 ≥ 2 ^ 24 then finishMan s q m.seq 1
  else match manRoce s q m with
    | some (n, x) =>
      if x.conn then finishMan s q m.seq 4
      else finishMan (modRoce s n (fun y => { y with conn := true, rgid := sliceB b 0x28 16, rqpn := fieldB b 0x38 4, sndPsn := fieldB b 0x3C 4 })) q m.seq 0 (roceResult n x.rkey)
    | none => finishMan s q m.seq 4))

/-- ROCE_DESTROY: posts that are not acknowledged complete with STATE. -/
def execRoceDestroy (q : Fin 64) (s : State) : Res := .next (onRoce s q (fun op _ => op = 2) (fun s m =>
  if !zeroB m.slot 0x11 0x14 || !zeroB m.slot 0x18 0x50 then finishMan s q m.seq 1
  else match manRoce s q m with
    | some (n, x) => finishMan (x.posts.foldl (fun s e => finishMan s e.q e.seq 4) { s with roce := tdel s.roce n }) q m.seq 0 (roceResult n x.rkey)
    | none => finishMan s q m.seq 4))

/-- Sends a post's message: a READ is one request, whose PSNs are those of its response. -/
def sendPost (s : State) (i : Nat) (x : RoceQp) (e : RocePost) : State :=
  let n := fieldB e.slot 0x20 8
  if e.verb = 3 then roceQueue s i [{ kind := 3, pos := 0, psn := e.first, addr := fieldB e.slot 0x40 8, len := n, data := [], rkey := fieldB e.slot 0x48 4 }]
  else roceQueue (hbmUse s x.part (fieldB e.slot 0x18 8) n) i
    (roceCut x e.verb e.first (if e.verb = 0 then 0 else fieldB e.slot 0x40 8) n (devRead s (fieldB e.slot 0x18 8) n) (fieldB e.slot 0x48 4) (fieldB e.slot 0x4C 4))

/-- A post: it needs a connected queue pair and a local range in the partition's HBM region; a poisoned unit is not sent. It stays in progress until the responder acknowledges it. -/
def rocePost (s : State) (q verb : Nat) (m : Man) : State :=
  let b := m.slot
  let a := fieldB b 0x18 8
  let n := fieldB b 0x20 8
  let p := qpPtn s q
  if fieldB b 0x13 1 ≠ verb || !zeroB b 0x11 0x13 || !zeroB b 0x28 0x40 || (verb = 0 && !zeroB b 0x40 0x4C) || (verb ≠ 2 && !zeroB b 0x4C 0x50) then finishMan s q m.seq 1
  else match manRoce s q m with
    | none => finishMan s q m.seq 4
    | some (i, x) =>
      if !x.conn then finishMan s q m.seq 4
      else if !inPtn s p a (a + n) then finishMan s q m.seq 2
      else if verb ≠ 3 && devPoison s a n then finishMan s q m.seq 10
      else
        let last := psnAdd x.sndPsn (rocePkts x n - 1)
        let e : RocePost := ⟨q, m.seq, verb, x.sndPsn, last, b⟩
        sendPost (modRoce s i (fun y => { y with sndPsn := psnAdd last 1, posts := y.posts ++ [e] })) i x e

/-- ROCE_POST_SEND; a VERB above 3 completes here with BAD_MANIFEST. -/
def execRocePostSend (q : Fin 64) (s : State) : Res := .next (onRoce s q (fun op v => op = 3 && (v = 0 || v > 3)) (fun s m => rocePost s q 0 m))
/-- ROCE_POST_RDMA_WRITE. -/
def execRocePostRdmaWrite (q : Fin 64) (s : State) : Res := .next (onRoce s q (fun op v => op = 3 && v = 1) (fun s m => rocePost s q 1 m))
/-- ROCE_POST_RDMA_WRITE_IMM. -/
def execRocePostRdmaWriteImm (q : Fin 64) (s : State) : Res := .next (onRoce s q (fun op v => op = 3 && v = 2) (fun s m => rocePost s q 2 m))
/-- ROCE_POST_RDMA_READ. -/
def execRocePostRdmaRead (q : Fin 64) (s : State) : Res := .next (onRoce s q (fun op v => op = 3 && v = 3) (fun s m => rocePost s q 3 m))

/-- Whether a PSN lies at or before another in the 24-bit order. -/
def psnLe (a b : Nat) : Bool := decide ((b + 2 ^ 24 - a) % 2 ^ 24 < 2 ^ 23)

/-- An acknowledgement completes every post whose last PSN it covers, but a READ, which its response completes. -/
def roceAck (s : State) (n psn : Nat) (x : RoceQp) : State :=
  let done := x.posts.filter (fun e => e.verb ≠ 3 && psnLe e.last psn)
  done.foldl (fun s e => finishMan s e.q e.seq 0 (roceResult n x.rkey))
    (modRoce s n (fun y => { y with posts := y.posts.filter (fun e => e.verb = 3 || !psnLe e.last psn) }))

/-- A packet of a READ response, which may come while its half is not in MAINT (12 R298), lands where its PSN says in the local range of the READ that it answers; the last one completes it. -/
def roceResponse (s : State) (n : Nat) (k : RocePkt) (x : RoceQp) : State :=
  match x.posts.find? (fun e => e.verb = 3 && psnLe e.first k.psn && psnLe k.psn e.last) with
  | none => s
  | some e =>
    if ptnMaint s x.part then s else
    let b := e.slot
    let off := (k.psn + 2 ^ 24 - e.first) % 2 ^ 24 * roceMtu x
    let m := min (roceMtu x) (fieldB b 0x20 8 - off)
    let s := hbmUse (devWrite s (fieldB b 0x18 8 + off) (padTo m (k.data.take m))) x.part (fieldB b 0x18 8 + off) m
    if k.psn ≠ e.last then s
    else finishMan (modRoce s n (fun y => { y with posts := y.posts.filter (fun z => z ≠ e) })) e.q e.seq 0 (roceResult n x.rkey)

/-- The message that a request packet begins or continues: a SEND begins at a free place of the region. -/
def roceInto (s : State) (k : RocePkt) (x : RoceQp) : Option RoceMsg :=
  if k.pos ≤ 1 then some { kind := k.kind, addr := if k.kind = 0 then x.base + 64 * (Config.recvPlace s.draws % (x.len / 64 + 1)) else k.addr, len := k.len, imm := k.imm }
  else x.into

/-- Bytes of a message that a packet brings. -/
def roceBytes (x : RoceQp) (m : RoceMsg) : Nat := min (roceMtu x) (m.len - m.done)

/-- A packet of a SEND or WRITE lands; with the last one the message is acknowledged and completes on the creating QP. -/
def roceLand (s : State) (n : Nat) (k : RocePkt) (x : RoceQp) (m : RoceMsg) : State :=
  let b := roceBytes x m
  let s := hbmUse (devWrite s (m.addr + m.done) (padTo b (k.data.take b))) x.part (m.addr + m.done) b
  if k.pos = 1 || k.pos = 2 then modRoce s n (fun y => { y with into := some { m with done := m.done + b } })
  else
    let s := roceQueue (modRoce s n (fun y => { y with into := none })) n [roceCtl 4 k.psn]
    complete s x.qp { kind := 1, status := 0, ctx := 0, id := 0, type := 9, body := padTo 40 (roceResult n x.rkey ++ leBytes 8 m.len ++ leBytes 4 (if m.kind = 2 then (if k.pos = 3 then k.imm else m.imm) else 0)) }

/-- A request at the responder: in PSN order; SEND and WRITE land, READ is answered; an access outside the region, a wrong RKEY, a poisoned source or a half in MAINT is refused (12 R298; DESIGN CHOICE, assumption 54). -/
def roceRequest (s : State) (n : Nat) (k : RocePkt) (x : RoceQp) : State :=
  let nak := fun (s : State) => roceQueue s n [roceCtl 7 (x.rcvPsn.getD k.psn)]
  if x.rcvPsn.isSome && x.rcvPsn ≠ some k.psn then nak s
  else match roceInto s k x with
    | none => nak s
    | some m =>
      let first := k.pos ≤ 1
      let ok := decide (x.base ≤ m.addr) && decide (m.addr + m.len ≤ x.base + x.len) && (m.kind = 0 || !first || k.rkey = x.rkey)
      let read := decide (m.kind = 3)
      if !ok || ptnMaint s x.part || m.kind ≠ k.kind || (read && devPoison s m.addr m.len) then nak s
      else
        let s := modRoce { s with draws := s.draws + 1 } n (fun y => { y with rcvPsn := some (psnAdd k.psn (if read then rocePkts x m.len else 1)) })
        if read then roceQueue (hbmUse s x.part m.addr m.len) n (roceCut x 5 k.psn 0 m.len (devRead s m.addr m.len)) else roceLand s n k x m

/-- The checks of a received packet: FCS, shim, IPv6 and UDP, the engine's own ICRC (13 R313, R315, R340). A packet that fails one is discarded and counted. -/
def roceChecked (s : State) (port : Nat) (k : RocePkt) (r : State → State) : State :=
  rxChecked s port { fcsOk := k.fcsOk, ipOk := k.ipOk, icrcOk := k.icrcOk, node := 0, dsidx := 0, ssidx := 0 } r

/-- What a packet that has passed them does at its queue pair. A CE mark is answered with a congestion notification; one received reduces the rate; a negative acknowledgement sends again what is not acknowledged. -/
def roceTake (port : Nat) (k : RocePkt) (s : State) : State :=
  match tget s.roce k.qpn with
  | none => s
  | some x =>
    if x.port / 16 ≠ port / 16 || !x.conn then s
    else
      let s := if k.ce then emitRoce s x (roceCtl 6 0) else s
      match k.kind with
      | 4 => roceAck s k.qpn k.psn x
      | 5 => roceResponse s k.qpn k x
      | 6 => modRoce { s with draws := s.draws + 1 } k.qpn (fun y => { y with cnps := y.cnps + 1, gap := y.gap + 1 + Config.roceGap s.draws })
      | 7 => x.posts.foldl (fun s e => sendPost s k.qpn x e) (modRoce s k.qpn (fun y => { y with wait := [] }))
      | n => if n ≤ 3 then roceRequest s k.qpn k x else s

/-- ROCE_PACKET: a packet on a port with ROCE set, told from CVT by its UDP destination port. -/
def execRocePacket (port : Fin 32) (k : RocePkt) (s : State) : Res :=
  if !bit (rd s (rNetPortcfg port)) 4 || k.udp ≠ 4791 then .next s else .next (roceChecked s port k (roceTake port k))

end Sys2Proof.Machine
end

