-- ==== Sys2Proof/Machine/Dispatch.lean ====
section
/-! DEFINITION. The dispatch of every command to its meaning. -/

namespace Sys2Proof.Machine

def exec (i : Instr) (s : State) : Host.Outcome State Fault Refusal :=
  match i with
  | .mma p v op => Sys2Proof.Machine.execMma p v op s
  | .mdrain p v op shadow => Sys2Proof.Machine.execMdrain p v op shadow s
  | .vsdA p v op => Sys2Proof.Machine.execVsdA p v op s
  | .vsdB p v op => Sys2Proof.Machine.execVsdB p v op s
  | .vstat p v op => Sys2Proof.Machine.execVstat p v op s
  | .vadd p v op => Sys2Proof.Machine.execVadd p v op s
  | .vsub p v op => Sys2Proof.Machine.execVsub p v op s
  | .vmul p v op => Sys2Proof.Machine.execVmul p v op s
  | .vfma p v op => Sys2Proof.Machine.execVfma p v op s
  | .vmax p v op => Sys2Proof.Machine.execVmax p v op s
  | .vmin p v op => Sys2Proof.Machine.execVmin p v op s
  | .vabs p v op => Sys2Proof.Machine.execVabs p v op s
  | .vneg p v op => Sys2Proof.Machine.execVneg p v op s
  | .vcvt p v op => Sys2Proof.Machine.execVcvt p v op s
  | .vcmp p v op => Sys2Proof.Machine.execVcmp p v op s
  | .vexp2 p v op => Sys2Proof.Machine.execVexp2 p v op s
  | .vlog2 p v op => Sys2Proof.Machine.execVlog2 p v op s
  | .vrcp p v op => Sys2Proof.Machine.execVrcp p v op s
  | .vrsq p v op => Sys2Proof.Machine.execVrsq p v op s
  | .vtanh p v op => Sys2Proof.Machine.execVtanh p v op s
  | .verf p v op => Sys2Proof.Machine.execVerf p v op s
  | .vrsum p v op => Sys2Proof.Machine.execVrsum p v op s
  | .vrmax p v op => Sys2Proof.Machine.execVrmax p v op s
  | .vrmin p v op => Sys2Proof.Machine.execVrmin p v op s
  | .vgath p v op => Sys2Proof.Machine.execVgath p v op s
  | .scatadd p v op => Sys2Proof.Machine.execScatadd p v op s
  | .scataddFast p v op => Sys2Proof.Machine.execScataddFast p v op s
  | .vmask p v op => Sys2Proof.Machine.execVmask p v op s
  | .rfill p v op => Sys2Proof.Machine.execRfill p v op s
  | .wsput p v op => Sys2Proof.Machine.execWsput p v op s
  | .wsget p v op => Sys2Proof.Machine.execWsget p v op s
  | .wscheck p v op => Sys2Proof.Machine.execWscheck p v op s
  | .wsSpillDone p v => Sys2Proof.Machine.execWsSpillDone p v s
  | .usgd p v op => Sys2Proof.Machine.execUsgd p v op s
  | .uadam p v op => Sys2Proof.Machine.execUadam p v op s
  | .ulion p v op => Sys2Proof.Machine.execUlion p v op s
  | .snap p v op => Sys2Proof.Machine.execSnap p v op s
  | .copy p v op => Sys2Proof.Machine.execCopy p v op s
  | .send p v op => Sys2Proof.Machine.execSend p v op s
  | .chime p v op => Sys2Proof.Machine.execChime p v op s
  | .cdigStart p v op => Sys2Proof.Machine.execCdigStart p v op s
  | .cdigFold p v op => Sys2Proof.Machine.execCdigFold p v op s
  | .gathaccUnord p v op => Sys2Proof.Machine.execGathaccUnord p v op s
  | .cexp p v op => Sys2Proof.Machine.execCexp p v op s
  | .cexpDue p v => Sys2Proof.Machine.execCexpDue p v s
  | .tgroup p v op => Sys2Proof.Machine.execTgroup p v op s
  | .agather p v op => Sys2Proof.Machine.execAgather p v op s
  | .agatherPartTimeout p v => Sys2Proof.Machine.execAgatherPartTimeout p v s
  | .permute p v op => Sys2Proof.Machine.execPermute p v op s
  | .nop p v => Sys2Proof.Machine.execNop p v s
  | .fend p v => Sys2Proof.Machine.execFend p v s
  | .condSend p v => Sys2Proof.Machine.execCondSend p v s
  | .loop p v => Sys2Proof.Machine.execLoop p v s
  | .halt p v => Sys2Proof.Machine.execHalt p v s
  | .bell p v => Sys2Proof.Machine.execBell p v s
  | .dsamp p v => Sys2Proof.Machine.execDsamp p v s
  | .instrFetch p v => Sys2Proof.Machine.execInstrFetch p v s
  | .entryStart p v q => Sys2Proof.Machine.execEntryStart p v q s
  | .entryComplete p v q n => Sys2Proof.Machine.execEntryComplete p v q n s
  | .chimeSignal p v ch n => Sys2Proof.Machine.execChimeSignal p v ch n s
  | .coverViolation p v q term tag => Sys2Proof.Machine.execCoverViolation p v q term tag s
  | .gridPoint p => Sys2Proof.Machine.execGridPoint p s
  | .rotationCopyDone => Sys2Proof.Machine.execRotationCopyDone s
  | .holdTest p unit term cause obj u ready => Sys2Proof.Machine.execHoldTest p unit term cause obj u ready s
  | .resultReturn id => Sys2Proof.Machine.execResultReturn id s
  | .holdGateClose => Sys2Proof.Machine.execHoldGateClose s
  | .holdGateOpen => Sys2Proof.Machine.execHoldGateOpen s
  | .holdTolFault id => Sys2Proof.Machine.execHoldTolFault id s
  | .bellRelease b => Sys2Proof.Machine.execBellRelease b s
  | .bellTimeout b => Sys2Proof.Machine.execBellTimeout b s
  | .musterArrive p => Sys2Proof.Machine.execMusterArrive p s
  | .musterAnchor p => Sys2Proof.Machine.execMusterAnchor p s
  | .musterTimeout p => Sys2Proof.Machine.execMusterTimeout p s
  | .deadlockDetect p => Sys2Proof.Machine.execDeadlockDetect p s
  | .tallyAddend p n => Sys2Proof.Machine.execTallyAddend p n s
  | .tallyExponentRound p cl tag => Sys2Proof.Machine.execTallyExponentRound p cl tag s
  | .tallyQuantise p cl tag => Sys2Proof.Machine.execTallyQuantise p cl tag s
  | .tallyIntegerRound p cl tag => Sys2Proof.Machine.execTallyIntegerRound p cl tag s
  | .tallyConvert p cl tag => Sys2Proof.Machine.execTallyConvert p cl tag s
  | .cteArrive port f => Sys2Proof.Machine.execCteArrive port f s
  | .cteRelease port f => Sys2Proof.Machine.execCteRelease port f s
  | .cteExpUp port f => Sys2Proof.Machine.execCteExpUp port f s
  | .cteExpDown port f => Sys2Proof.Machine.execCteExpDown port f s
  | .cteIntUp port f => Sys2Proof.Machine.execCteIntUp port f s
  | .cteIntDown port f => Sys2Proof.Machine.execCteIntDown port f s
  | .ctePart port f => Sys2Proof.Machine.execCtePart port f s
  | .cteCadence port f => Sys2Proof.Machine.execCteCadence port f s
  | .cteMap port f => Sys2Proof.Machine.execCteMap port f s
  | .cteSummary port f => Sys2Proof.Machine.execCteSummary port f s
  | .ledgerRecordWrite p => Sys2Proof.Machine.execLedgerRecordWrite p s
  | .ledgerStream p corr bad => Sys2Proof.Machine.execLedgerStream p corr bad s
  | .ledgerOverrun p => Sys2Proof.Machine.execLedgerOverrun p s
  | .cvtData port f => Sys2Proof.Machine.execCvtData port f s
  | .cvtChime port f => Sys2Proof.Machine.execCvtChime port f s
  | .cvtAck port f rtt => Sys2Proof.Machine.execCvtAck port f rtt s
  | .cvtSack port f => Sys2Proof.Machine.execCvtSack port f s
  | .cvtOpen port f => Sys2Proof.Machine.execCvtOpen port f s
  | .cvtAccept port f => Sys2Proof.Machine.execCvtAccept port f s
  | .cvtRefuse port f => Sys2Proof.Machine.execCvtRefuse port f s
  | .cvtClose port f => Sys2Proof.Machine.execCvtClose port f s
  | .cvtProbe port f => Sys2Proof.Machine.execCvtProbe port f s
  | .cvtProbeReply port f => Sys2Proof.Machine.execCvtProbeReply port f s
  | .probeTimer n dest => Sys2Proof.Machine.execProbeTimer n dest s
  | .transitFrame port pkt fcsOk => Sys2Proof.Machine.execTransitFrame port pkt fcsOk s
  | .ackDelayTimer x => Sys2Proof.Machine.execAckDelayTimer x s
  | .rtoExpiry x seq => Sys2Proof.Machine.execRtoExpiry x seq s
  | .openResend x => Sys2Proof.Machine.execOpenResend x s
  | .streamOpenTimeout x => Sys2Proof.Machine.execStreamOpenTimeout x s
  | .runoutEnd p => Sys2Proof.Machine.execRunoutEnd p s
  | .llrHello n node peer fcsOk => Sys2Proof.Machine.execLlrHello n node peer fcsOk s
  | .llrHelloTimer n => Sys2Proof.Machine.execLlrHelloTimer n s
  | .llrFrame n lseq lack flags fcsOk => Sys2Proof.Machine.execLlrFrame n lseq lack flags fcsOk s
  | .llrNak n lack => Sys2Proof.Machine.execLlrNak n lack s
  | .llrCtrlTimer n => Sys2Proof.Machine.execLlrCtrlTimer n s
  | .llrAckTimeout n => Sys2Proof.Machine.execLlrAckTimeout n s
  | .portLinkUp n => Sys2Proof.Machine.execPortLinkUp n s
  | .portLinkDown n => Sys2Proof.Machine.execPortLinkDown n s
  | .neighborDiscovery n ra mac src target => Sys2Proof.Machine.execNeighborDiscovery n ra mac src target s
  | .rocePacket port k => Sys2Proof.Machine.execRocePacket port k s
  | .wardToll port w => Sys2Proof.Machine.execWardToll port w s
  | .tollResend p => Sys2Proof.Machine.execTollResend p s
  | .wardVerdict port w => Sys2Proof.Machine.execWardVerdict port w s
  | .tollVerdictTimeout p => Sys2Proof.Machine.execTollVerdictTimeout p s
  | .wardReset port w => Sys2Proof.Machine.execWardReset port w s
  | .wardTunnel port w => Sys2Proof.Machine.execWardTunnel port w s
  | .bridgeReplay dir again miss => Sys2Proof.Machine.execBridgeReplay dir again miss s
  | .hbmSectorRead a err pw later => Sys2Proof.Machine.execHbmSectorRead a err pw later s
  | .scrubRead h errs pw later => Sys2Proof.Machine.execScrubRead h errs pw later s
  | .innerEccPoll h n => Sys2Proof.Machine.execInnerEccPoll h n s
  | .hbmStackFail h => Sys2Proof.Machine.execHbmStackFail h s
  | .sensorPoll m => Sys2Proof.Machine.execSensorPoll m s
  | .cadenceRaise p => Sys2Proof.Machine.execCadenceRaise p s
  | .cadenceLower p => Sys2Proof.Machine.execCadenceLower p s
  | .throttleDutyStep => Sys2Proof.Machine.execThrottleDutyStep s
  | .thermalTrip => Sys2Proof.Machine.execThermalTrip s
  | .echoThirdRun pc r3 => Sys2Proof.Machine.execEchoThirdRun pc r3 s
  | .sentinelPassDone pc ok kat => Sys2Proof.Machine.execSentinelPassDone pc ok kat s
  | .stowDone p corr bad => Sys2Proof.Machine.execStowDone p corr bad s
  | .restoreDone p corr bad => Sys2Proof.Machine.execRestoreDone p corr bad s
  | .zeroingDone p => Sys2Proof.Machine.execZeroingDone p s
  | .doorbell vf q off width v t => Sys2Proof.Machine.execDoorbell vf q off width v t s
  | .manifestFetch q slot => Sys2Proof.Machine.execManifestFetch q slot s
  | .completionWrite q ok => Sys2Proof.Machine.execCompletionWrite q ok s
  | .msixCoalTimer q => Sys2Proof.Machine.execMsixCoalTimer q s
  | .manifestNop q => Sys2Proof.Machine.execManifestNop q s
  | .start q bin => Sys2Proof.Machine.execStart q bin s
  | .endCmd q => Sys2Proof.Machine.execEnd q s
  | .streamOpen q => Sys2Proof.Machine.execStreamOpen q s
  | .streamClose q => Sys2Proof.Machine.execStreamClose q s
  | .streamFree q => Sys2Proof.Machine.execStreamFree q s
  | .copyIn q data => Sys2Proof.Machine.execCopyIn q data s
  | .copyInLand q => Sys2Proof.Machine.execCopyInLand q s
  | .copyOut q => Sys2Proof.Machine.execCopyOut q s
  | .snapRead q corr bad => Sys2Proof.Machine.execSnapRead q corr bad s
  | .roceCreate q => Sys2Proof.Machine.execRoceCreate q s
  | .roceConnect q => Sys2Proof.Machine.execRoceConnect q s
  | .roceDestroy q => Sys2Proof.Machine.execRoceDestroy q s
  | .rocePostSend q => Sys2Proof.Machine.execRocePostSend q s
  | .rocePostRdmaWrite q => Sys2Proof.Machine.execRocePostRdmaWrite q s
  | .rocePostRdmaWriteImm q => Sys2Proof.Machine.execRocePostRdmaWriteImm q s
  | .rocePostRdmaRead q => Sys2Proof.Machine.execRocePostRdmaRead q s
  | .stow q => Sys2Proof.Machine.execStow q s
  | .restore q img bin => Sys2Proof.Machine.execRestore q img bin s
  | .peerReadTimeout n off wide => Sys2Proof.Machine.execPeerReadTimeout n off wide s
  | .vfFlr n t => Sys2Proof.Machine.execVfFlr n t s
  | .regWrite vf off width v w => Sys2Proof.Machine.execRegWrite vf off width v w s
  | .shadowWrite off v w => Sys2Proof.Machine.execShadowWrite off v w s
  | .cfgerrClear mask w => Sys2Proof.Machine.execCfgerrClear mask w s
  | .ledgerEnable p v w => Sys2Proof.Machine.execLedgerEnable p v w s
  | .ledgerDisable p v w => Sys2Proof.Machine.execLedgerDisable p v w s
  | .snapRingEnable p v w => Sys2Proof.Machine.execSnapRingEnable p v w s
  | .snapRptrWrite p v w => Sys2Proof.Machine.execSnapRptrWrite p v w s
  | .ledgerRegionWrite p v w => Sys2Proof.Machine.execLedgerRegionWrite p v w s
  | .drumEnable p v w => Sys2Proof.Machine.execDrumEnable p v w s
  | .bellEnable b v w => Sys2Proof.Machine.execBellEnable b v w s
  | .bellDisable b v w => Sys2Proof.Machine.execBellDisable b v w s
  | .tstorePeakClear k w => Sys2Proof.Machine.execTstorePeakClear k w s
  | .poisonlogClear d w => Sys2Proof.Machine.execPoisonlogClear d w s
  | .mboxTake d w => Sys2Proof.Machine.execMboxTake d w s
  | .mboxRelease d w => Sys2Proof.Machine.execMboxRelease d w s
  | .eccLog d v w => Sys2Proof.Machine.execEccLog d v w s
  | .sppr d v w => Sys2Proof.Machine.execSppr d v w s
  | .hppr d v w => Sys2Proof.Machine.execHppr d v w s
  | .pcSpare d v w => Sys2Proof.Machine.execPcSpare d v w s
  | .mbist d v w => Sys2Proof.Machine.execMbist d v w s
  | .readMr d v w => Sys2Proof.Machine.execReadMr d v w s
  | .mboxCmdDone d data fail => Sys2Proof.Machine.execMboxCmdDone d data fail s
  | .portEnable n v w => Sys2Proof.Machine.execPortEnable n v w s
  | .portDisable n v w => Sys2Proof.Machine.execPortDisable n v w s
  | .cvuFeed d c data w => Sys2Proof.Machine.execCvuFeed d c data w s
  | .cvuInit d v w => Sys2Proof.Machine.execCvuInit d v w s
  | .cvuModeChange d v w => Sys2Proof.Machine.execCvuModeChange d v w s
  | .cvuRunLoad d v w => Sys2Proof.Machine.execCvuRunLoad d v w s
  | .qpEnable q v w => Sys2Proof.Machine.execQpEnable q v w s
  | .qpDisable q v w => Sys2Proof.Machine.execQpDisable q v w s
  | .fwPushGo w => Sys2Proof.Machine.execFwPushGo w s
  | .fwPushDone x => Sys2Proof.Machine.execFwPushDone x s
  | .peerReset n w => Sys2Proof.Machine.execPeerReset n w s
  | .partitionEnable p v w => Sys2Proof.Machine.execPartitionEnable p v w s
  | .sealInstall p v w => Sys2Proof.Machine.execSealInstall p v w s
  | .sealClear p v w => Sys2Proof.Machine.execSealClear p v w s
  | .watchdogKick d v w => Sys2Proof.Machine.execWatchdogKick d v w s
  | .watchdogExpire d => Sys2Proof.Machine.execWatchdogExpire d s
  | .die1Heartbeat => Sys2Proof.Machine.execDie1Heartbeat s
  | .die1HeartbeatLoss => Sys2Proof.Machine.execDie1HeartbeatLoss s
  | .powerTarget v w => Sys2Proof.Machine.execPowerTarget v w s
  | .powerStepDone lpi pme => Sys2Proof.Machine.execPowerStepDone lpi pme s
  | .powerWake kind => Sys2Proof.Machine.execPowerWake kind s
  | .autoRestTimer => Sys2Proof.Machine.execAutoRestTimer s
  | .porN low straps tj => Sys2Proof.Machine.execPorN low straps tj s
  | .rstN low straps tj => Sys2Proof.Machine.execRstN low straps tj s
  | .perstN hot low => Sys2Proof.Machine.execPerstN hot low s
  | .supplyFault hbmRail isOut => Sys2Proof.Machine.execSupplyFault hbmRail isOut s
  | .bootStepDone ok bad => Sys2Proof.Machine.execBootStepDone ok bad s
  | .drumRefLoss => Sys2Proof.Machine.execDrumRefLoss s
  | .drumRefReturn => Sys2Proof.Machine.execDrumRefReturn s
  | .drumSyncPulse => Sys2Proof.Machine.execDrumSyncPulse s
  | .drumSyncSilence => Sys2Proof.Machine.execDrumSyncSilence s
  | .serdesRefLoss d => Sys2Proof.Machine.execSerdesRefLoss d s
  | .refclkLoss => Sys2Proof.Machine.execRefclkLoss s
  | .entropyFail => Sys2Proof.Machine.execEntropyFail s
  | .entropyReseed => Sys2Proof.Machine.execEntropyReseed s
  | .spdmGetCertificate f off len => Sys2Proof.Machine.execSpdmGetCertificate f off len s
  | .spdmChallenge f nonce => Sys2Proof.Machine.execSpdmChallenge f nonce s
  | .spdmGetMeasurements f n nonce => Sys2Proof.Machine.execSpdmGetMeasurements f n nonce s
  | .spdmKeyExchange f req => Sys2Proof.Machine.execSpdmKeyExchange f req s
  | .spdmHeartbeat f n expired => Sys2Proof.Machine.execSpdmHeartbeat f n expired s
  | .ideKmKeySetGo f st keySet key => Sys2Proof.Machine.execIdeKmKeySetGo f st keySet key s
  | .ideTlpFail st => Sys2Proof.Machine.execIdeTlpFail st s
  | .tdispLockInterface f st => Sys2Proof.Machine.execTdispLockInterface f st s
  | .tdispStartInterface f => Sys2Proof.Machine.execTdispStartInterface f s
  | .tdispStopInterface f => Sys2Proof.Machine.execTdispStopInterface f s
  | .tdiScrubDone f => Sys2Proof.Machine.execTdiScrubDone f s
  | .ieee1588TimeUpdate ns => Sys2Proof.Machine.execIeee1588TimeUpdate ns s
  | .throttleWindow => Sys2Proof.Machine.execThrottleWindow s
  | .die1ReportTimeout => Sys2Proof.Machine.execDie1ReportTimeout s
  | .sealInstallDone p blob => Sys2Proof.Machine.execSealInstallDone p blob s
  | .hbmRewriteDone => Sys2Proof.Machine.execHbmRewriteDone s
  | .configurationRequest f n v => Sys2Proof.Machine.execConfigurationRequest f n v s
  | .jtagInstruction n => Sys2Proof.Machine.execJtagInstruction n s

end Sys2Proof.Machine
end

