-- ==== Sys2Proof/Machine/View.lean ====
section
/-! DEFINITION. Reading registers: what every offset reads as, from what the state holds (00 R7, R8, 01 R32, 09 R240, 10 R242, R254, 11, 15, 16 R404, 17). -/

namespace Sys2Proof.Machine

/-! ### A pcore and its occupant (09 R240) -/

/-- The vcore that runs on a pcore, with its context. -/
def occupant (s : State) (pc : Nat) : Option (Ctx × Vcore) :=
  (List.range 8).findSome? (fun p => match resident s p with
    | some (_, c) => (match (List.range c.vtab.length).find? (fun v => c.vtab.getD v 0 = pc) with
      | some v => (vcoreOf c v).map (fun vc => (c, vc))
      | none => none)
    | none => none)

/-- STATE of CORE_COND. A context that has faulted in this cycle is stopped by it; with the cycle it leaves its pcores, which then read 0 (09 R239, R240). -/
def condState (c : Ctx) (vc : Vcore) : Nat :=
  if !c.probs.isEmpty then 6 else match vc.cond with
  | .halted => 5
  | .atFend | .atSend => 2
  | .bellStop => 4
  | .issuing => match tget vc.buf vc.cia with
    | none => 1
    | some w =>
      if wCtrl w.toNat then (if waitsMet vc w.toNat then 1 else 4)
      else if 32 ≤ (tgetD vc.queues (wQueue w.toNat) []).length then 3 else 1

def coreCond (s : State) (pc : Nat) : Nat :=
  match occupant s pc with
  | some (c, vc) => vc.stream + at_ (condState c vc) 16 + at_ (b2n s.gate) 19 + at_ vc.cia 32
  | none => at_ (b2n s.gate) 19

/-- Four chime values or landing counts. -/
def four (t : Tbl Nat) (i : Nat) : Nat := (List.range 4).foldl (fun a j => a + at_ (tgetD t (4 * i + j) 0) (16 * j)) 0

/-! ### Waystation state (08 MEM_WSTAT) -/

/-- RESIDENT and TAGS of a cluster: slots whose block is not freed (DESIGN CHOICE, assumption 58), and tags in use. -/
def wayCounts (s : State) (cl : Nat) : Nat × Nat :=
  (rangeFrom (9 * cl) 9).foldl (fun a pc => match occupant s pc with
    | some (_, vc) =>
      (a.1 + (vc.ws.owner.filter (fun e => match tget vc.ws.tags e.2 with | some t => !bit t.flags 2 | none => false)).length, a.2 + vc.ws.tags.length)
    | none => a) (0, 0)

/-! ### Partitions and contexts (10, 16) -/

def dbtFrame (s : State) (p : Nat) : Nat :=
  (s.run - (part s p).taken0) % 2 ^ 32 + at_ (match resident s p with | some (_, c) => b2n (c.began && !frameComplete c) | none => 0) 32

/-- LC_BLOCKED: an LC context is ready and the resident context is a gang BE context (16 R407). -/
def lcBlocked (s : State) (p : Nat) : Bool :=
  match resident s p with
  | some (_, c) => gang c && !c.lc && (classReady s p 0 true).isSome
  | none => false

def ptnStat (s : State) (p : Nat) : Nat :=
  let x := part s p
  x.resident.getD 0 + at_ (b2n x.resident.isSome) 4 + at_ (b2n (lcBlocked s p)) 5 + at_ (fld s (rPtnStat p) 6 6) 6 + at_ (min x.stows (2 ^ 32 - 1)) 32

def ctxStat (s : State) (k : Nat) : Nat :=
  match ctxOf s k with
  | some c => c.st + at_ (b2n c.lc) 3 + at_ (b2n (gang c)) 4 + at_ (b2n c.inLedger) 5 + at_ c.qp 6 + at_ (min c.slice (2 ^ 32 - 1)) 32
  | none => if (part s (k / 16)).exported.contains (k % 16) then 7 else 0

/-- CORE_ECHO, whose STRIKES counts the strikes within the window only (17 R429). -/
def echoWord (s : State) (pc off : Nat) : Nat :=
  match (List.range 8).find? (fun p => (ptnPcores s p).contains pc), tget s.strikes pc with
  | some p, some (_, l) => if l.getD p 0 + fld s (rPtnEcho p) 31 16 * 1024 < (part s p).points then setBits (rd s off) 53 52 0 else rd s off
  | _, _ => rd s off

/-! ### Host queues (15 HIF_QPSTAT) -/

def qpStat (s : State) (q : Nat) : Nat :=
  let x := qp s q
  let n := (x.mans.filter manActive).length
  let c := (s.ctxs.filter (fun e => e.2.qp = q && qpPtn s q = e.1 / 16 && ctxRuns e.2)).length
  x.sqHead + at_ x.st 32 + at_ x.err 36 + at_ (n % 65536) 40 + at_ (c % 256) 56

/-! ### Holds (10 DBT_HOLDSTAT) -/

/-- Causes whose requests keep the gates closed or will. -/
def holdReq (s : State) : Nat := (s.holds.filter (fun h => !holdDone s h)).foldl (fun m h => m ||| 2 ^ h.cause) 0

/-! ### Reading -/

/-- What a CW register reads as: its last written value (00 R7). EN of DBT_PERIOD is no shadowed field. -/
def readCw (s : State) (off : Nat) : Nat :=
  match tget s.shadowLate off, tget s.shadow off with
  | some v, _ => v.toNat
  | none, some v => v.toNat
  | none, none => rd s off

/-- MEM_HSTAT of stack h: in MAINT every stack of the half reads STATE 2 (12 R298). -/
def hstatWord (s : State) (h : Nat) : Nat := if inMaint s (h / 4) then setBits (rd s (rMemHstat h)) 13 11 2 else rd s (rMemHstat h)

/-- Whether entry j of the link-distance table of die d is in use: a collective stream has it (CTE_DIST). -/
def distUsed (s : State) (d j : Nat) : Bool :=
  s.streams.any (fun e => dieOfSidx e.1 = d && e.2.coll.isSome && (match ctxOf s (e.2.part * 16 + e.2.ctx) with | some c => collIdx c e.2.psn = j | none => false))

/-- The job map in force, with the step from which it applies: of the resident context of several devices in the lowest partition, the default map where there is none (14 R363, R366; DESIGN CHOICE, assumption 30). -/
def mapNow (s : State) : Nat × Nat × Nat :=
  match (List.range 8).findSome? (fun p => (resident s p).filter (fun e => decide (1 < e.2.prog.plan.devices))) with
  | some (_, c) => (c.maps.find? (fun m => m.1 ≤ c.step)).getD (0, 0, 0)
  | none => (0, 0, 0)

/-- Register (i, j) of a family. -/
def readFam (s : State) (d : RegDesc) (i j off : Nat) : Nat :=
  let f := d.base
  let cl := 6 * i + j
  if f = rIdent then identWord s
  else if f = rClustat then clustatWord s
  else if f = rRetired 0 then bits (retiredWord s) (64 * i + 63) (64 * i)
  else if f = rDbtCount 0 then (part s i).count
  else if f = rDbtStretch 0 then (part s i).skipped
  else if f = rDbtFrame 0 then dbtFrame s i
  else if f = rDbtHoldstat then holdReq s + at_ (b2n (s.holds.any (holdActs s))) 8
  else if f = rDbtCycle then s.cycle
  else if f = rBelState 0 then belStateOf s i
  else if f = rBelRefcnt then s.refcnt
  else if f = rCoreCond 0 then coreCond s i
  else if f = rCoreEcho 0 then echoWord s i off
  else if f = rChmValue 0 0 then (match occupant s i with | some (_, vc) => four vc.chime j | none => 0)
  else if f = rChmLand 0 0 then (match occupant s i with | some (_, vc) => four vc.land j | none => 0)
  else if f = rChmWait 0 then (match occupant s i with | some (_, vc) => (waitMasks vc).1 | none => 0)
  else if f = rMemHstat 0 then hstatWord s (4 * i + j)
  else if f = rMemWstat 0 then let x := wayCounts s cl; x.1 + at_ x.2 9 + at_ (fld s off 63 32) 32
  else if f = rPtnStat 0 then ptnStat s i
  else if f = rPtnCtxstat 0 0 then ctxStat s (ctxKey i j)
  else if f = rCteMap 0 then (mapNow s).2.1 + at_ (mapNow s).2.2 54
  else if f = rCteMapstep 0 then (mapNow s).1
  else if f = rCteDist 0 0 then (if distUsed s i j then rd s off else 0)
  else if f = rNetSquota 0 0 then fld s off 13 0 + at_ (quotaUsed s i j) 16
  else if f = rCvuResult 0 0 then cvuResult s i j
  else if f = rCvuRun 0 then (if bit (rd s (rCvuCfg i)) 0 then cvuRaw s i 0 else 0)
  else if f = rHifQpstat 0 then qpStat s i
  else if f = rSealuse 0 then (match tget s.seals i with | some k => setBits (rd s off) 31 0 (k.chunks % 2 ^ 32) | none => rd s off)
  else if (cwPart off).isSome then readCw s off
  else rd s off

/-- Bits of the fields that a read shows: neither reserved nor write-only (00 R7, R8). -/
def readMask (d : RegDesc) : Nat := d.flds.foldl (fun m f => if f.acc = .wo then m else m + at_ (2 ^ (f.hi + 1 - f.lo) - 1) f.lo) 0

/-- A read of a register; an offset with no register reads as zero (DESIGN CHOICE, assumption 39). -/
def readReg (s : State) (off : Nat) : Nat :=
  match regFind off with
  | none => 0
  | some d => match regIdx d off with
    | some (i, j) => readFam s d i j off &&& readMask d
    | none => 0

end Sys2Proof.Machine
end

