-- ==== Sys2Proof/Machine/Tunnel.lean ====
section
/-! DEFINITION. What a tunnel brings: a peer carries out its gateway's accesses, a gateway its peers' requests; and reads of the BARs (15 R373, R374, R397, 18 R453, R455, R456). -/

namespace Sys2Proof.Machine

/-! ### Writes at a peer -/

/-- The state after a meaning that answers one. -/
def after (r : State → Res) (s : State) : State := match r s with | .next t => t | _ => s

/-- Number i as an index below n. -/
def idx (n : Nat) [NeZero n] (i : Nat) : Fin n := Fin.ofNat n i

/-- The meanings of a write to a register of a family that is not a plain one, in their order; `en` is its bit 0 before the write. Of two that are listed for one write one alone acts, but for HIF_PEERCTL and the mailbox. -/
def rowsOf (en : Bool) (f i j off width v : Nat) (w : Writer) : List (State → Res) :=
  let v32 := BitVec.ofNat 32 v
  let v64 := BitVec.ofNat 64 v
  if f = rCfgerr then [execCfgerrClear (BitVec.ofNat 17 v) w]
  else if f = rDbtPeriod 0 then (if bit v 0 && !en then [execDrumEnable (idx 8 i) v32 w] else [execShadowWrite (BitVec.ofNat 32 off) v64 w])
  else if f = rBelDeadlock 0 || f = rMemReg 0 0 || f = rPtnSlice 0 || f = rPtnEcho 0 || f = rPtnToll 0 then [execShadowWrite (BitVec.ofNat 32 off) v64 w]
  else if f = rBelCfg 0 then (if bit v 0 then [execBellEnable (idx 64 i) v64 w] else [execBellDisable (idx 64 i) v64 w])
  else if f = rLdgCtrl 0 then (if bit v 0 then [execLedgerEnable (idx 8 i) v32 w] else [execLedgerDisable (idx 8 i) v32 w])
  else if f = rSnapCtrl 0 then [execSnapRingEnable (idx 8 i) v32 w]
  else if f = rSnapPtr 0 then [execSnapRptrWrite (idx 8 i) v64 w]
  else if f = rLdgRegion 0 then [execLedgerRegionWrite (idx 8 i) v64 w]
  else if f = rPtnCfg 0 then [execPartitionEnable (idx 8 i) v64 w]
  else if f = rCteTstore 0 then [execTstorePeakClear (idx 12 (6 * i + j)) w]
  else if f = rNetPortcfg 0 then (if bit v 0 then [execPortEnable (idx 32 (16 * i + j)) v32 w] else [execPortDisable (idx 32 (16 * i + j)) v32 w])
  else if f = rHifQpcfg 0 then (if bit v 0 then [execQpEnable (idx 64 i) v64 w] else [execQpDisable (idx 64 i) v64 w])
  else if f = rHifFwctl then (if bit v 0 then [execFwPushGo w] else [])
  else if f = rHifPeerctl then (setBitsOf 64 v).map (fun n => execPeerReset (idx 64 n) w)
  else if f = rPwrCtl then [execPowerTarget v32 w]
  else if f = rMboxCtl 0 then (if bit v 0 then [execMboxTake (idx 2 i) w] else []) ++ (if bit v 1 then [execMboxRelease (idx 2 i) w] else [])
  else if f = rMboxCmd 0 then [execEccLog (idx 2 i) v64 w, execSppr (idx 2 i) v64 w, execHppr (idx 2 i) v64 w, execPcSpare (idx 2 i) v64 w, execMbist (idx 2 i) v64 w, execReadMr (idx 2 i) v64 w]
  else if f = rMemPoisonlog 0 then [execPoisonlogClear (idx 2 i) w]
  else if f = rCvuFeed 0 0 then [execCvuFeed (idx 2 i) (idx 4 j) (leBytes (min width 4) v) w]
  else if f = rCvuRun 0 then [execCvuRunLoad (idx 2 i) v64 w]
  else if f = rCvuCfg 0 then [execCvuInit (idx 2 i) v32 w, execCvuModeChange (idx 2 i) v32 w]
  else if f = rWdog 0 then [execWatchdogKick (idx 2 i) v32 w]
  else if f = rSealctl 0 then [execSealInstall (idx 8 i) v32 w, execSealClear (idx 8 i) v32 w]
  else []

/-- A write to the configuration BAR, as whichever command it is. -/
def barWrite (s : State) (off width v : Nat) (w : Writer) : State :=
  let x := wideWrite s off width v
  match regFind x.1 with
  | none => s
  | some d => match regIdx d x.1 with
    | none => s
    | some (i, j) =>
      if ownRow s d x.1 (x.2 % 2 ^ d.width) then (rowsOf (bit (rd s x.1) 0) d.base i j x.1 width x.2 w).foldl (fun s r => after r s) s
      else after (execRegWrite 0 (BitVec.ofNat 32 x.1) (if d.width = 64 then 8 else 4) (BitVec.ofNat 64 x.2) w) s

/-! ### Operations (15 R397) -/

/-- A gateway's request, carried out by the peer (15 R397, 18 R453, R456). -/
def peerOp (s : State) (o : TunOp) : State :=
  match o.op with
  | 2 => barWrite s o.addr o.data.length (leNat o.data) (.host none)
  | 3 => toTunnel s 0 4 o.addr (leBytes (fieldB o.data 0 1) (readReg s o.addr))
  | 5 => after (execDoorbell 0 (idx 64 (o.addr / 4096)) (idx 4096 o.addr) (idx 9 o.data.length) (BitVec.ofNat 64 (leNat o.data)) none) s
  | 6 => spdmMessage s o.data
  | 7 => scrubMemory (scrubEnables (scrubContexts s o.addr))
  | _ => s

/-- A peer's request, which the gateway issues on PCIe as VF n: host writes, MSI-X messages from the VF's table, the answers to reads and SPDM messages (15 R394, R397, 18 R453). -/
def gatewayOp (s : State) (n : Nat) (o : TunOp) : State :=
  if !vfOn s n then s
  else match o.op with
    | 0 => hostWriteAs s n o.addr o.data
    | 1 => sendMsixOf s n (o.addr % 128)
    | 4 => { s with out := s.out ++ [.pcie n o.data] }
    | 6 => spdmFrom s n o.data
    | _ => s

/-- What has come by a tunnel is carried out in its order. -/
def tunnelsIn (s : State) : State :=
  s.tunIn.foldl (fun s e => if e.1 = 0 then (if s.prof.role = 1 then s else peerOp s e.2) else gatewayOp s e.1 e.2) { s with tunIn := [] }

/-! ### Reads of the BARs (15 R373, R374, 18 R455) -/

/-- How a read is answered: with data, Completer Abort or Unsupported Request, or by the peer behind a VF. -/
inductive ReadAns where
  | data (v : Nat) | abort | unsupported | forward
  deriving DecidableEq, Repr

/-- A read of `width` bytes of the configuration BAR of a function. -/
def readBar (s : State) (f off width : Nat) (t : Option (Fin 8)) : ReadAns :=
  if !tdiTakes s f t then .unsupported
  else if !barShape off width then .abort
  else if f ≠ 0 then .forward
  else match regFind off with
    | some _ => .data (readReg s off % 2 ^ (8 * width))
    | none => .data (if width = 4 then readReg s (off - 4) / 2 ^ 32 else 0)

/-- A read of a dword of the MSI-X BAR of a function: the table of 128 entries at 0, the pending bits at 0x2000. -/
def readMsix (s : State) (f off : Nat) : Nat :=
  if off < 0x800 then
    let e := msixEnt s f (off / 16)
    match off / 4 % 4 with | 0 => bits e.addr 31 0 | 1 => bits e.addr 63 32 | 2 => e.data | _ => b2n e.mask
  else if 0x2000 ≤ off && off < 0x2010 then
    (List.range 32).foldl (fun a i => a + at_ (b2n (msixEnt s f ((off - 0x2000) / 4 * 32 + i)).pend) i) 0
  else 0

end Sys2Proof.Machine
end

