-- ==== Sys2Proof/Machine/Tick.lean ====
section
/-! DEFINITION. One CCLK cycle: what happens in it whatever is commanded (10 R242, R247, R251, 11 R272, 19 R476). A tick is what a step does when no command waits (DESIGN CHOICE, assumption 10). -/

namespace Sys2Proof.Machine

/-- CCLK = DRUM_REF × N / 125, so a CCLK cycle is 125 / N of a DRUM_REF cycle (19 R476); the monitor of the HBM rails waits in DRUM_REF cycles (20 R487). -/
def refTick (s : State) : State :=
  let n := fld s rPwrCclk 26 16
  let a := s.refAcc + 125
  if a < n then { s with refAcc := a }
  else { s with refAcc := a - n, refcnt := (s.refcnt + 1) % 2 ^ 64, refs := { s.refs with drum := s.refs.drum + 1 }, pins := { s.pins with railWait := if s.pins.pwrEn then s.pins.railWait - 1 else s.pins.railWait } }

/-- What the cycle that ends did. In a run cycle each conductor may issue a word (09 R229). The K-blocks that opened find their shadows (17 R425). What reached chimes and landing counts is counted (11 R260), and the owed results that are in return (10 R247); grid points are taken or skipped, and contexts that faulted in the cycle end: a fault belongs to the frame that a beat of the cycle ends (09 R239, 10 R244). With closed gates the cycle was held, else it was a run cycle (10 R247, R251). -/
def endCycle (s : State) : State :=
  let s := serveEchoes (if s.gate then s else issueAll s)
  let s := bellsDue (settleFaults (decidePoints (overLimits (returnReady (countAll s)))))
  if s.gate then { heldCycle s with heldLast := true } else { s with run := s.run + 1, heldLast := false }

/-- The shadow writes of the cycle that ends join the shadow, and no bit counts as set in the next one (00 R7). -/
def joinShadow (s : State) : State :=
  { s with shadow := s.shadowLate.foldl (fun t e => tput t e.1 e.2) s.shadow, shadowLate := [], stickNow := [] }

/-- One CCLK cycle. A device held in reset has none; in Dormant DBT_CYCLE is frozen and DRUM_REF alone counts, and in Deep nothing does (19 R471, R474). -/
def tick (s : State) : Res :=
  if s.boot.held ≠ 0 then .next s
  else if 8 ≤ s.power.steps then .next (joinShadow s)
  else if 6 ≤ s.power.steps then .next (railCheck (refTick (joinShadow s)))
  else if 2 ^ 64 ≤ s.cycle + 1 then .fault .cycleRange
  else
    let s := tunnelsOut (tunnelsIn s)
    let s := roceCycle (portsCycle (hbmCycle (hbmCycle (joinShadow (refTick (endCycle s))) 0) 1))
    let idle := if idleRow s then some (s.power.idleAt.getD s.cycle) else none
    .next (railCheck (gateEval { s with cycle := s.cycle + 1, power := { s.power with idleAt := idle } }))

end Sys2Proof.Machine
end

