-- ==== Sys2Proof/Safety.lean ====
section
/-! DEFINITION. What claims are stated in: the invariant of the state, safe runs, and what a command leaves alone. -/

namespace Sys2Proof.Machine

/-- The memories of the state in their canonical form, and its poisoned units in rising order. -/
def Inv (s : State) : Prop := Memory.wf s.mem = true ∧ Memory.wf s.hostMem = true ∧ rising s.poison = true

/-- A run of `n` steps from a state that meets no fault. -/
def safeFor : Nat → State → Bool
  | 0, _ => true
  | n + 1, s => match step s with
    | .next t => safeFor n t
    | .fault _ => false
    | .refused _ => false

/-! ### What statements speak of -/

/-- Vcore v of the resident context k of partition p, which has not halted: an engine or its conductor can work for it. -/
def atWork (s : State) (p v k : Nat) (c : Ctx) (vc : Vcore) : Prop := resident s p = some (k, c) ∧ vcoreOf c v = some vc ∧ vc.cond ≠ .halted

/-- The same with open hold gates and a running clock, where the entry of queue q that carries operation o has started: the engine takes it, and sees the vcore as `vc`, with the slots of that entry (10 R248, 09 R228, 06 R140). -/
def atEngine (s : State) (p v k q o : Nat) (c : Ctx) (vc : Vcore) : Prop :=
  stands s = false ∧ ∃ y ∈ vcoreOf c v, atWork s p v k c y ∧ opTakes y q o = true ∧ vc = opVc y q o

/-- Vcore v may issue, and the word at its conductor is the conductor operation `cop`, passes its checks, has its waits met, and no queue head that could start goes before it. -/
def atWord (s : State) (p v k : Nat) (c : Ctx) (vc : Vcore) (w cop : Nat) : Prop :=
  atWork s p v k c vc ∧ mayIssue s c = true ∧ vc.cond = .issuing ∧ vc.issueAt ≤ s.run ∧ (tget vc.buf vc.cia).map (·.toNat) = some w
    ∧ wCop w = some cop ∧ issueBad c vc w = none ∧ waitsMet vc w = true
    ∧ givesWay s vc 4 w = false

/-- Queue pair q may start manifest m, of a type whose reserved bytes are those from `lo` on; its reserved bits are zero; u is s with it started. -/
def manUp (s : State) (q type lo : Nat) (m : Man) (u : State) : Prop :=
  nextMan s q = some m ∧ fieldB m.slot 0 1 = type ∧ manHeadBad m.slot = false ∧ zeroB m.slot lo 128 = true ∧ u = setMan s q m.seq (fun x => { x with stage := 1 })

/-- A frame gets to its CVT or ward logic: the port is up, and FCS, shim, IPv6, UDP, VER, TYPE and ICRC are right (13 R315). -/
def frameIn (s : State) (port : Nat) (fcsOk ipOk icrcOk : Bool) (ver type : Nat) : Prop :=
  portUp s port = true ∧ fcsOk = true ∧ shimOk s port = true ∧ ipOk = true ∧ icrcOk = true ∧ ver = 1 ∧ type < 12

/-- The state that the logic behind the port sees of such a frame: its link shim is taken, and it wakes a device in Rest (13 R313, 19 R472). -/
def arrived (s : State) (port : Nat) : State := frameWake (shimTaken s port)

/-- Every register but those listed reads as before. -/
def regsBut (l : List Nat) (s t : State) : Prop := ∀ a, a ∉ l → rd t a = rd s a

/-- Every byte of device memory outside `[a, a + n)` reads as before. -/
def memBut (a n : Nat) (s t : State) : Prop := ∀ x, x < a ∨ a + n ≤ x → memGet t.mem x = memGet s.mem x

/-- Every byte of device memory reads as before, and the same units are poisoned. -/
def memAs (s t : State) : Prop := (∀ x, memGet t.mem x = memGet s.mem x) ∧ t.poison = s.poison

/-- A row that carries a VSE, MXE, UPE, SDM or waystation operation. -/
abbrev OpRow := Fin 8 → Fin 96 → BitVec 128 → Instr

/-- The element-wise rows of the VSE but VCMP, with their operation codes (06 R148). -/
def elementRows : List (OpRow × Nat) :=
  [(.vadd, 0x08), (.vsub, 0x09), (.vmul, 0x0A), (.vfma, 0x0B), (.vmax, 0x0C), (.vmin, 0x0D), (.vabs, 0x0E), (.vneg, 0x0F), (.vcvt, 0x10),
   (.vexp2, 0x18), (.vlog2, 0x19), (.vrcp, 0x1A), (.vrsq, 0x1B), (.vtanh, 0x1C), (.verf, 0x1D)]

/-- Every row of the VSE that may stand in a chain with others (06 R143). -/
def chainRows : List (OpRow × Nat) := elementRows ++ [(.vcmp, 0x11), (.vrsum, 0x20), (.vrmax, 0x21), (.vrmin, 0x22), (.vmask, 0x30)]

/-- Every row that carries an operation of an engine, with its queue and its operation word; `sh` is what an MDRAIN's shadow gives (09 R228). -/
def engineRows (sh : Option (List Bytes)) : List (OpRow × Nat × (BitVec 128 → Nat)) :=
  chainRows.map (fun r => (r.1, 1, fun op => (withOpc op r.2).toNat))
    ++ [((.vsdA : OpRow), 1), (.vsdB, 2), (.vstat, 3), (.vgath, 0x28), (.scatadd, 0x29), (.scataddFast, 0x2A)].map (fun r => (r.1, 1, fun op => (withOpc op r.2).toNat))
    ++ [(.mma, 0, fun op => setBits op.toNat 3 0 1), (fun p v op => .mdrain p v op sh, 0, fun op => setBits op.toNat 3 0 2)]
    ++ [((.usgd : OpRow), 1), (.uadam, 2), (.ulion, 3)].map (fun r => (r.1, 2, fun op => setBits op.toNat 5 0 r.2))
    ++ [((.copy : OpRow), 0x01), (.send, 0x02), (.chime, 0x03), (.gathaccUnord, 0x05), (.agather, 0x21), (.permute, 0x22), (.rfill, 0x30), (.wsput, 0x31), (.wsget, 0x32),
        (.wscheck, 0x33), (.cexp, 0x35)].map (fun r => (r.1, 3, fun op => sdmWord op r.2))
    ++ [(.cdigStart, 3, fun op => setBits (sdmWord op 0x04) 6 6 0), (.cdigFold, 3, fun op => setBits (sdmWord op 0x04) 6 6 1), (.tgroup, 3, fun op => setBits op.toNat 5 0 0x20)]

/-- The rows of the CTE's messages with their kinds (14 R362). -/
def cteRows : List ((Fin 32 → CvtFrame → Instr) × Nat) :=
  [(.cteArrive, 1), (.cteRelease, 2), (.cteExpUp, 3), (.cteExpDown, 4), (.cteIntUp, 5), (.cteIntDown, 6), (.ctePart, 7), (.cteCadence, 8), (.cteMap, 9), (.cteSummary, 10)]

/-- A frame meets its stream: it gets in, and its stream lives on the port's die with the frame's node and index as its peer (13 R315, R316). -/
def meetsStream (s : State) (port : Nat) (f : CvtFrame) (st : Stream) : Prop :=
  frameIn s port f.fcsOk f.ipOk f.icrcOk f.ver f.type ∧ stream s f.dsidx = some st ∧ dieOfSidx f.dsidx = port / 16 ∧ st.peer = f.node
    ∧ (st.st = .opened ∨ st.st = .draining ∨ st.st = .parked ∨ st.st = .closing) ∧ st.peerIdx = f.ssidx

/-- The state that the logic behind the port sees of such a frame: the stream has heard from its peer. -/
def heard (s : State) (port x : Nat) : State := modStream (arrived s port) x (fun y => { y with lastIn := s.cycle })

end Sys2Proof.Machine
end

