-- ==== Sys2Proof/Certificates/Slice0/Obligations.lean ====
section
/-! DEFINITION. The statements for the provers: one definition each. -/

open Sys2Proof Sys2Proof.Machine

/-- A step runs the command at the front of the queue on the state with the queue's rest. That commands wait in one queue is the model's (log entry 10), no rule of the spec. -/
def Obligations.StepTakesTheFrontCommand : Prop :=
  ∀ (c : Instr) (rest : List Instr) (s : State), step { s with pending := c :: rest } = exec c { s with pending := rest }

/-- The state after reset meets the invariant. -/
def Obligations.ResetMeetsInv : Prop := Machine.Inv State.reset

/-- Every row of the table, on every state: exec answers a next state and leaves the queue alone. The spec stops the block nowhere; what it detects it records (09 R236, R239). -/
def Obligations.EveryCommandRuns : Prop :=
  ∀ (c : Instr) (s : State), ∃ t, exec c s = .next t ∧ t.pending = s.pending

/-- Every step, whatever the command or the tick, keeps the canonical form of device memory, of host memory and of the set of poisoned units (12 R287 to R290 for what poison is kept per unit). -/
def Obligations.StepKeepsInv : Prop :=
  ∀ (s t : State), Machine.Inv s → step s = .next t → Machine.Inv t

/-- VSD.A, VSD.B and VSTAT (06 R140, R148). -/
def Obligations.VseSlotRows : Prop :=
  ∀ (p : Fin 8) (v : Fin 96) (op : BitVec 128) (s : State) (k : Nat) (c : Ctx) (vc : Vcore), vc.chain = [] →
    (atEngine s p v k 1 (withOpc op 1).toNat c vc → vseBad c.prog.tensors.length (withOpc op 1).toNat = none →
      exec (.vsdA p v op) s = .next (modVc s k v (fun x => { x with slots := tput x.slots (bits op.toNat 11 6) (withOpc op 1, 0) })))
    ∧ (atEngine s p v k 1 (withOpc op 2).toNat c vc → vseBad c.prog.tensors.length (withOpc op 2).toNat = none →
      exec (.vsdB p v op) s = .next (modVc s k v (fun x => { x with slots := tput x.slots (bits op.toNat 11 6) ((tgetD x.slots (bits op.toNat 11 6) (0, 0)).1, withOpc op 2) })))
    ∧ (atEngine s p v k 1 (withOpc op 3).toNat c vc → vseBad c.prog.tensors.length (withOpc op 3).toNat = none → bits op.toNat 22 7 * 64 + 8 ≤ spLimit →
      ∃ t, exec (.vstat p v op) s = .next t
        ∧ t.mem = memWrite s.mem (spBase (pcoreOf c v) + bits op.toNat 22 7 * 64) ((List.range 8).map (fun a => byte (tgetD vc.accum a 0)))
        ∧ t.ctxs = (if bit op.toNat 6 then modVc s k v (fun x => { x with accum := [] }) else s).ctxs
        ∧ { t with mem := s.mem, poison := s.poison, pword := s.pword, ctxs := s.ctxs } = s)

/-- Chains (06 R143 to R147). -/
def Obligations.VseChainRows : Prop :=
  ∀ r ∈ chainRows, ∀ (p : Fin 8) (v : Fin 96) (op : BitVec 128) (s : State) (k : Nat) (c : Ctx) (vc : Vcore), atEngine s p v k 1 (withOpc op r.2).toNat c vc →
    (vChain (withOpc op r.2).toNat = true → vc.chain.length < 15 →
      exec (r.1 p v op) s = .next (modVc s k v (fun x => { x with chain := vc.chain ++ [withOpc op r.2] })))
    ∧ (∀ inner outer, vChain (withOpc op r.2).toNat = false →
        vChainProb c vc v ((vc.chain ++ [withOpc op r.2]).map (·.toNat)) = none →
        chainGeom vc ((vc.chain ++ [withOpc op r.2]).map (·.toNat)) = some (inner, outer) →
        ∀ u, u = modVc s k v (fun x => { x with chain := [] }) →
        ∀ t w, t = vRun u c (pcoreOf c v) v vc ((vc.chain ++ [withOpc op r.2]).map (·.toNat)) inner outer →
        w = vFlagsInto t.s k v (pcoreOf c v) t.flags →
        (t.prob = none → exec (r.1 p v op) s = .next w)
        ∧ (∀ pr, t.prob = some pr → exec (r.1 p v op) s = .next (fault1 w k (vLocate vc pr))))

/-- One element of each element-wise row: result, exceptions, frame (06 R148 to R160, 03 R71 to R83). -/
def Obligations.VseElementRows : Prop :=
  ∀ r ∈ elementRows, ∀ (p : Fin 8) (v : Fin 96) (op : BitVec 128) (s : State) (k : Nat) (c : Ctx) (vc : Vcore) (d : Nat) (x y z : FVal × Bool) (o adr w code flags : Nat),
    o = (withOpc op r.2).toNat → atEngine s p v k 1 o c vc → Machine.Inv s → vc.chain = [] →
    vChain o = false → vChainProb c vc v [o] = none → chainGeom vc [o] = some (1, 1) → bits o 13 12 = 0 → bits o 7 6 ≠ 1 → vD o = .slot d →
    x = vRead s (pcoreOf c v) vc [] o 0 0 (vA o) → y = vRead s (pcoreOf c v) vc [] o 0 0 (vB o) → z = vRead s (pcoreOf c v) vc [] o 0 0 (vC o) →
    adr = spBase (pcoreOf c v) + slotOff (slotA vc d) 0 0 → w = fmtBytes (vDstFmt vc o) →
    (∀ e f1 fl, (e, f1) = vExact r.2 x.1 (if (vUses r.2).2.1 then y.1 else fzero false) (if (vUses r.2).2.2 then z.1 else fzero false) →
      (code, fl) = convertCvc (vDstFmt vc o) (bits o 8 6) 0 e →
      flags = (if x.2 || ((vUses r.2).2.1 && y.2) || ((vUses r.2).2.2 && z.2) then 64
        else f1 ||| cfBits fl ||| (if x.1 = .nan || ((vUses r.2).2.1 && y.1 = .nan) || ((vUses r.2).2.2 && z.1 = .nan) then 32 else 0)) →
      ∃ t, exec (r.1 p v op) s = .next t ∧ devRead t adr w = leBytes w code ∧ memBut adr w s t
        ∧ rd t (rVseStatus (pcoreOf c v)) = rd s (rVseStatus (pcoreOf c v)) ||| flags ∧ regsBut [rVseStatus (pcoreOf c v)] s t
        ∧ { t with mem := s.mem, poison := s.poison, pword := s.pword, regs := s.regs, stickNow := s.stickNow, ctxs := s.ctxs } = s)

/-- VGATH, SCATADD and SCATADD.FAST (06 R148, R152, 02 R48, R49). The arrival order and the lag of groups are free values (log entries 2, 27). -/
def Obligations.VseIndexRows : Prop :=
  ∀ (p : Fin 8) (v : Fin 96) (op : BitVec 128) (s : State) (k : Nat) (c : Ctx) (vc : Vcore) (l : List (Nat × Nat × Bool × Nat)), vc.chain = [] →
    (∀ o, o = (withOpc op 0x28).toNat → atEngine s p v k 1 o c vc → gathOverlap vc o = false → vseBad c.prog.tensors.length o = none → vChain o = false → gathProb vc v o = none →
      gathElems s c vc v o (slotNum (vB o)) = (l, none) → (gathAcc s c vc v o l).prob = none →
      exec (.vgath p v op) s = .next (vCommit s k v (pcoreOf c v) vc (gathAcc s c vc v o l)))
    ∧ (∀ o r, o = (withOpc op 0x28).toNat → atEngine s p v k 1 o c vc → gathOverlap vc o = true → vseBad c.prog.tensors.length o = none → vChain o = false → gathProb vc v o = none →
      r = lagGroups { s with draws := s.draws + 1 } (Config.groupLag s.draws) (groupCells vc o) (fun src now x =>
        (vCommit now k v (pcoreOf c v) vc (gathAcc src c vc v o (gathElemsOf src c vc v o (slotNum (vB o)) x).1),
          (gathAcc src c vc v o (gathElemsOf src c vc v o (slotNum (vB o)) x).1).prob.or (gathElemsOf src c vc v o (slotNum (vB o)) x).2)) →
      exec (.vgath p v op) s = .next (faultIf r.1 k r.2))
    ∧ (∀ o, o = (withOpc op 0x29).toNat → atEngine s p v k 1 o c vc → gathOverlap vc o = false → vseBad c.prog.tensors.length o = none → vChain o = false → gathProb vc v o = none →
      gathElems s c vc v o (slotNum (vD o)) = (l, none) →
      exec (.scatadd p v op) s = .next (l.foldl (fun t e => scatOne t k (pcoreOf c v) v vc o s e) s))
    ∧ (∀ o r, o = (withOpc op 0x29).toNat → atEngine s p v k 1 o c vc → gathOverlap vc o = true → vseBad c.prog.tensors.length o = none → vChain o = false → gathProb vc v o = none →
      r = lagGroups { s with draws := s.draws + 1 } (Config.groupLag s.draws) (groupCells vc o) (fun src now x =>
        ((gathElemsOf src c vc v o (slotNum (vD o)) x).1.foldl (fun t y => scatOne t k (pcoreOf c v) v vc o src y) now, (gathElemsOf src c vc v o (slotNum (vD o)) x).2)) →
      exec (.scatadd p v op) s = .next (faultIf r.1 k r.2))
    ∧ (∀ o u t, o = (withOpc op 0x2A).toNat → atEngine s p v k 1 o c vc → gathOverlap vc o = false → vseBad c.prog.tensors.length o = none → vChain o = false → gathProb vc v o = none →
      (c.prog.canon = true → bit c.prog.varGrant 0 = true) → u = { s with draws := s.draws + 1 } →
      gathElems u c vc v o (slotNum (vD o)) = (l, none) →
      t = (arrivalOrder s.draws l).foldl (fun t e => scatOne t k (pcoreOf c v) v vc o u e) u →
      (∀ i, i < sgInner (slotA vc (slotNum (vD o))) →
        devPoison t (spBase (pcoreOf c v) + sgBase (slotA vc (slotNum (vD o))) + i * fmtBytes (vDstFmt vc o)) (fmtBytes (vDstFmt vc o)) = false) →
      exec (.scataddFast p v op) s = .next (recVar t k 1 1 v
        (match tensorOf c (slotTid vc (slotNum (vD o))) with | some x => x.layer | none => 0xFFFFFFFF) c.frame
        (crc64 (devRead t (spBase (pcoreOf c v) + sgBase (slotA vc (slotNum (vD o)))) (sgInner (slotA vc (slotNum (vD o))) * fmtBytes (vDstFmt vc o))))))

/-- MMA (04 R93 to R104, R109, 17 R426). -/
def Obligations.MmaAccumulates : Prop :=
  ∀ (p : Fin 8) (v : Fin 96) (op : BitVec 128) (s : State) (k : Nat) (c : Ctx) (vc : Vcore) (o pc r : Nat) (cls : PairClass), o = setBits op.toNat 3 0 1 → atEngine s p v k 0 o c vc →
    pc = pcoreOf c v → r = bits o 16 16 → mmaBad o = none → pairOf (bits o 7 4) (bits o 11 8) (bits o 13 12) = some cls →
    cursorBad (region s pc r) o cls = none → (∀ x ∈ mmaReach o cls, x.2 ≤ spLimit) → badScale s pc o = none →
    ∃ t, exec (.mma p v op) s = .next t
      ∧ region t pc r = { st := if bit o 26 then .closed else .opened, nextTile := bits o 20 17 + bits o 25 21, m := bits o 43 35 + 1, n := bits o 50 44 + 1,
                          cls := cls, passes := bits o 13 12, acc := (addTiles s pc o cls (List.range (bits o 25 21)) (region s pc r).acc 0).1 }
      ∧ (∀ q i, q * 2 + i ≠ pc * 2 + r → region t q i = region s q i)
      ∧ rd t (rMxeStatus pc) = (rd s (rMxeStatus pc) ||| (addTiles s pc o cls (List.range (bits o 25 21)) (region s pc r).acc 0).2) % 2 ^ 64
      ∧ regsBut [rMxeStatus pc, rCoreEcho pc] s t
      ∧ (bits o 20 17 = 0 ∨ tget s.echo (pc * 2 + r) = none → t.mem = s.mem ∧ t.poison = s.poison)
      ∧ (∀ e, bits o 20 17 ≠ 0 → tget s.echo (pc * 2 + r) = some e → memBut (spBase e.shadow + e.bytes) (spLimit - e.bytes) s t)

/-- MDRAIN (04 R106 to R108, R110). -/
def Obligations.MdrainWrites : Prop :=
  ∀ (p : Fin 8) (v : Fin 96) (op : BitVec 128) (sh : Option (List Bytes)) (s : State) (k : Nat) (c : Ctx) (vc : Vcore) (o pc r : Nat) (g : MxeRegion) (es : List (List (Bytes × Bool × Nat))),
    o = setBits op.toNat 3 0 2 → atEngine s p v k 0 o c vc → pc = pcoreOf c v → r = bits o 11 11 → g = region s pc r → mdrainBad o = none → g.st = .closed → lotSplit c v o = false →
    tget s.echo (pc * 2 + r) = none → drainRows s c vc pc o g = es.map (·.map some) →
    (bit o 12 = true → bits o 47 32 * 64 + 4 * g.n ≤ spLimit) →
    (∀ u, u = orReg s (rMxeStatus pc) (es.foldl (fun a row => row.foldl (fun a e => a ||| e.2.2 ||| 32 * b2n e.2.1) a) 0) →
      (∀ w, bit o 14 = false → w = g.n * fmtBytes ((fmtOf (bits o 7 4)).getD .fp32) → (bits o 9 8 = 1 → slotTid vc 63 ≠ 0) →
        w ≤ bits o 95 80 * 64 → (∀ m < g.m, bits o 31 16 * 64 + m * (bits o 95 80 * 64) + w ≤ spLimit) →
        exec (.mdrain p v op sh) s = .next ((List.range g.m).foldl (fun s m =>
          devSeg s (spBase pc + bits o 31 16 * 64 + m * (bits o 95 80 * 64), (es.getD m []).flatMap (fun e => e.1.map (fun b => (b, e.2.1))))) u))
      ∧ (∀ bl, bit o 14 = true → bl = drainBlocks c (bits o 111 96) ((List.range g.m).flatMap (fun m => (es.getD m []).map (fun e => (leNat e.1, e.2.1)))) →
        exec (.mdrain p v op sh) s = .next (modCtx u k (fun c => { c with flights := c.flights ++ (List.range bl.length).map (fun j => (⟨clusterOf pc, bits o 111 96, j, bl.getD j [], v⟩ : Flight)), lotCore := lotCoreOf c v o }))))

/-- USGD, UADAM and ULION (08 R197 to R202). -/
def Obligations.UpeRows : Prop :=
  ∀ r' ∈ [((Instr.usgd : OpRow), 1), (.uadam, 2), (.ulion, 3)],
  ∀ (p : Fin 8) (v : Fin 96) (op : BitVec 128) (s : State) (k : Nat) (c : Ctx) (vc : Vcore) (o pc : Nat), o = setBits op.toNat 5 0 r'.2 → atEngine s p v k 2 o c vc →
    pc = pcoreOf c v → upeBad o = none →
    (segmentOf c = 0 → exec (r'.1 p v op) s = .next (fault1 s k (engProb vc v 4 2 0xB 0)))
    ∧ (∀ (t : Tensor) (l : List UElem) (u : State), segmentOf c ≠ 0 → sgBits (slotA vc (bits o 26 21)) = false → tensorOf c (slotTid vc (bits o 26 21)) = some t →
        slotPos vc (bits o 26 21) 0 0 + upeCount o ≤ t.elems → (∀ x ∈ upeArrays o, x.1 + x.2 ≤ spLimit) →
        devPoison s (spBase pc + bits o 127 112 * 64) 64 = false →
        upeElems s c pc o (slotTid vc (bits o 26 21)) (slotPos vc (bits o 26 21) 0 0)
          (fun i => let x := f32 (fieldB (devRead s (spBase pc + bits o 127 112 * 64) 64) (4 * i) 4); (x, if x = .nan then 32 else 0)) (List.range (upeCount o)) = some l →
        (t.layer ≠ 0xFFFFFFFF → upePoisonAt s pc o = none) → upeOverlap o = false →
        u = upeArr (upeArr s pc (bits o 63 48) 4 0 l (·.w)) pc (bits o 79 64) 4 0 l (·.m) →
        ∃ x y, x = (if r'.2 = 2 then upeArr u pc (bits o 95 80) 4 0 l (·.v) else u) ∧ y = (if bits o 12 9 ≠ 0 then upeArr x pc (bits o 111 96) (upeWb o) 0 l (·.ws) else x) ∧
          exec (r'.1 p v op) s = .next (if t.layer ≠ 0xFFFFFFFF
            then recLayer (orReg y (rUpeStatus pc) (l.foldl (fun a e => a ||| e.flags) 0)) k t.layer (shardAt c t.layer (slotPos vc (bits o 26 21) 0 0))
              (upeDigests o t.elems (slotPos vc (bits o 26 21) 0 0) l).2.1 (upeDigests o t.elems (slotPos vc (bits o 26 21) 0 0) l).1
              (upeDigests o t.elems (slotPos vc (bits o 26 21) 0 0) l).2.2
            else orReg y (rUpeStatus pc) (l.foldl (fun a e => a ||| e.flags) 0)))
    ∧ (∀ (t : Tensor) (l : List UElem) (r : List UElem × State), segmentOf c ≠ 0 → sgBits (slotA vc (bits o 26 21)) = false → tensorOf c (slotTid vc (bits o 26 21)) = some t →
        slotPos vc (bits o 26 21) 0 0 + upeCount o ≤ t.elems → (∀ x ∈ upeArrays o, x.1 + x.2 ≤ spLimit) →
        devPoison s (spBase pc + bits o 127 112 * 64) 64 = false →
        upeElems s c pc o (slotTid vc (bits o 26 21)) (slotPos vc (bits o 26 21) 0 0)
          (fun i => let x := f32 (fieldB (devRead s (spBase pc + bits o 127 112 * 64) 64) (4 * i) 4); (x, if x = .nan then 32 else 0)) (List.range (upeCount o)) = some l →
        t.layer = 0xFFFFFFFF → upeOverlap o = true →
        r = upeLag { s with draws := s.draws + 1 } c pc o (slotTid vc (bits o 26 21)) (slotPos vc (bits o 26 21) 0 0)
          (fun i => let x := f32 (fieldB (devRead s (spBase pc + bits o 127 112 * 64) 64) (4 * i) 4); (x, if x = .nan then 32 else 0)) (Config.groupLag s.draws) →
        exec (r'.1 p v op) s = .next (orReg r.2 (rUpeStatus pc) (r.1.foldl (fun a e => a ||| e.flags) 0)))

/-- Waystation rows (08 R187 to R195). -/
def Obligations.WaystationRows : Prop :=
  ∀ (p : Fin 8) (v : Fin 96) (op : BitVec 128) (s : State) (k : Nat) (c : Ctx) (vc : Vcore),
    (∀ o t, o = sdmWord op 0x31 → atEngine s p v k 3 o c vc → wsBad o = none → segmentOf c = 0 → wsReach o = none →
      wsRun (fun s b => wsPutOne s k c v o b) (List.range (bits o 31 24 + 1)) (modWay s k v (fun w => { w with spilt := tdel w.spilt o })) = (t, none) → exec (.wsput p v op) s = .next t)
    ∧ (∀ o t, o = sdmWord op 0x32 → atEngine s p v k 3 o c vc → wsBad o = none → segmentOf c = 1 → wsReach o = none →
      wsRun (fun s b => wsGetOne s k c v o b) (List.range (bits o 31 24 + 1)) (modWay s k v (fun w => { w with spilt := tdel w.spilt o })) = (t, none) → exec (.wsget p v op) s = .next t)
    ∧ (∀ o t, o = sdmWord op 0x33 → atEngine s p v k 3 o c vc → wsBad o = none → segmentOf c = 1 → wsReach o = none →
      wsRun (fun s b => wsCheckOne s k c v o b) (List.range (bits o 31 24 + 1)) (modWay s k v (fun w => { w with spilt := tdel w.spilt o })) = (t, none) → exec (.wscheck p v op) s = .next t)
    ∧ (∀ o, o = sdmWord op 0x31 → atEngine s p v k 3 o c vc → wsBad o = none → segmentOf c ≠ 0 → exec (.wsput p v op) s = .next (fault1 s k (engProb vc v 4 3 0xB (segmentOf c))))
    ∧ (atWork s p v k c vc → exec (.wsSpillDone p v) s = .next (modVc s k v (fun x => { x with ws := { x.ws with spillQ := x.ws.spillQ.drop 1 } })))

/-- One block of WSGET (08 R190). -/
def Obligations.WaystationBlockReadBack : Prop :=
  ∀ (s : State) (k : Nat) (c x : Ctx) (vc : Vcore) (v o b : Nat) (t : WayTag) (a : Nat × Bool), Machine.Inv s → ctxOf s k = some x → vcoreOf x v = some vc →
    readableTag vc.ws (bits o 55 32 + b) (bits o 95 64) true = some t → a = blockAddr c v t →
    bit t.flags 3 = false → devPoison s a.1 16384 = false →
    (crc32c (devRead s a.1 16384) ≠ t.crc → wsGetOne s k c v o b = .error (engProb vc v 7 3 0x17 (bits o 95 64) (bits o 55 32 + b) (b2n a.2)))
    ∧ (crc32c (devRead s a.1 16384) = t.crc → ∃ u, wsGetOne s k c v o b = .ok u
        ∧ devRead u (spBase (pcoreOf c v) + wsOff o b) 16384 = devRead s a.1 16384
        ∧ memBut (spBase (pcoreOf c v) + wsOff o b) 16384 s u ∧ u.regs = s.regs)

/-- TALLY_ADDEND (05 R126, R132, R133). -/
def Obligations.TallyAddendStages : Prop :=
  ∀ (p : Fin 8) (i : Nat) (s : State) (k : Nat) (c : Ctx) (f : Flight) (d : TallyDesc) (x : TSum) (full : Bool) (u : State), resident s p = some (k, c) →
    c.flights[i]? = some f → tDesc c f.tag = some d → stands s = false →
    (∀ pr, addendBad c f = some pr → exec (.tallyAddend p i) s = .next (fault1 (modCtx s k (fun c => { c with flights := c.flights.eraseIdx i })) k pr))
    ∧ (addendBad c f = none →
        x = { (sumOf c f.cluster f.tag).getD {} with
          blks := tput ((sumOf c f.cluster f.tag).getD {}).blks f.block
            { tgetD ((sumOf c f.cluster f.tag).getD {}).blks f.block {} with staged := (tgetD ((sumOf c f.cluster f.tag).getD {}).blks f.block {}).staged ++ [f.elems] },
          lastAt := s.run } →
        full = (List.range (tBlocks d)).all (fun j => decide ((tgetD x.blks j {}).staged.length = tLocalN d f.cluster)) →
        u = syncTstore (tallyFlags (putSum (modCtx s k (fun c => { c with flights := c.flights.eraseIdx i })) k f.cluster f.tag
          (if full then { x with stage := 2, stageAt := s.run } else x)) k f.cluster (addendFlags f.elems)) f.cluster →
        exec (.tallyAddend p i) s = .next (if full ∧ d.scope = 0 then finalBytes u k d f.cluster (localBytes d (if full then { x with stage := 2, stageAt := s.run } else x)) (tLocalN d f.cluster) else u))

/-- Stages of a sum (05 R119 to R124, R132, 14 R352 to R354). -/
def Obligations.TallyStages : Prop :=
  ∀ (p : Fin 8) (cl : Fin 12) (tag : BitVec 16) (s : State) (k : Nat) (c : Ctx) (d : TallyDesc) (x : TSum), resident s p = some (k, c) → stands s = false →
    tDesc c tag.toNat = some d → sumOf c cl tag.toNat = some x →
    (∀ r, x.stage = 3 → tLocalN d cl ≠ 0 → accOver d x cl = none →
      r = (List.range (tBlocks d)).map (fun j => (j, quantBlock (tT32 d) (tgetD x.fexp j 0) (tgetD x.blks j {}).staged)) →
      exec (.tallyQuantise p cl tag) s = .next (syncTstore (tallyFlags (putSum (peakTstore s cl (accLines d * tBlocks d)) k cl tag.toNat
        { x with stage := 4, stageAt := s.run, blks := r.map (fun e => (e.1, ({ acc := e.2.1, codes := e.2.2.1 } : TBlk))) }) k cl (r.foldl (fun a e => a ||| e.2.2.2) 0)) cl))
    ∧ (∀ b, x.stage = 3 → tLocalN d cl ≠ 0 → accOver d x cl = some b → exec (.tallyQuantise p cl tag) s = .next (fault1 s k (cruProb 0x14 tag.toNat b 0)))
    ∧ (∀ r u, x.stage = 5 → r = x.blks.map (fun e => (e.1, convBlock (tT32 d) (tgetD x.fexp e.1 0) e.2)) →
      u = freeSum (tallyFlags s k cl (r.foldl (fun a e => a ||| (if e.2.any (·.2.2) then 4 else 0) ||| (if e.2.any (·.2.1) then 16 else 0)) 0)) k d cl →
      exec (.tallyConvert p cl tag) s = .next (deliver (if d.scope = 3 then satFld u (rCteCount (cl / 6)) 31 0 1 else u) k c d cl (r.map (fun e => (e.1, e.2.map (fun y => (y.1, y.2.1)))))))
    ∧ (∀ own o, own = tOwnerOf d cl → o = (sumOf c own tag.toNat).getD {} → x.stage = 2 → d.scope ≠ 0 → o.expFrom.contains cl.val = false →
      (sumOf c own tag.toNat = none → overlapLive c d own = true → exec (.tallyExponentRound p cl tag) s = .next (fault1 s k (cruProb 0x14 tag.toNat 0 0)))
      ∧ (∀ u n all, ¬ (sumOf c own tag.toNat = none ∧ overlapLive c d own = true) → all = allIn (o.expFrom ++ [cl.val]) (ownParties d own) →
        n = { o with expFrom := o.expFrom ++ [cl.val], comb := maxBytes o.comb (localBytes d x), cnt := o.cnt + tLocalN d cl, inst := c.step
                     due := if d.scope = 3 ∧ all = true then some (jobDueAt s k c d own) else o.due } →
        u = putSum s k own tag.toNat n →
        exec (.tallyExponentRound p cl tag) s = .next (if all = false then u
          else if d.scope = 3 then drainEarly (tryExp u k d own) k 3 tag.toNat else finalBytes u k d own n.comb n.cnt)))
    ∧ (∀ own o, own = tOwnerOf d cl → sumOf c own tag.toNat = some o → x.stage = 4 → tLocalN d cl ≠ 0 → o.intFrom.contains cl.val = false → 3 ≤ o.stage →
      (∀ b, tLocalN d own = 0 → accOver d {} own = some b → exec (.tallyIntegerRound p cl tag) s = .next (fault1 s k (cruProb 0x14 tag.toNat b 0)))
      ∧ (∀ blks u, (tLocalN d own = 0 → accOver d {} own = none) → (tLocalN d own ≠ 0 → cl.val ≠ own → o.stage = 4) →
        blks = (if cl.val = own then o.blks else x.blks.foldl (fun t e => tput t e.1 (addBlk (tgetD t e.1 {}) e.2)) o.blks) →
        u = putSum s k own tag.toNat { o with intFrom := o.intFrom ++ [cl.val], blks := blks, stage := 4 } →
        exec (.tallyIntegerRound p cl tag) s = .next (if allIn (o.intFrom ++ [cl.val]) (ownParties d own) = false then u
          else if d.scope = 3 then drainEarly (tryInt u k d own (List.range (tBlocks d))) k 5 tag.toNat else finalInts u k c d own blks)))

/-- The ten CTE rows as frames (13 R316, R320, 14 R349), and what the four tally messages do (14 R352 to R355, R362). The layout of their data and who hands which block to whom under each algorithm are the model's (log entries 51, 60). -/
def Obligations.CteTallyMessages : Prop :=
  (∀ (port : Fin 32) (f : CvtFrame) (s : State) (st : Stream), meetsStream s port f st → ∀ r ∈ cteRows,
    exec (r.1 port f) s = .next (rxSeq (takeAck (heard s port f.dsidx) f.dsidx { f with type := 10, kind := r.2 } none) port f.dsidx { f with type := 10, kind := r.2 }))
  ∧ (∀ (m : CteMsg) (s : State) (k port own gm : Nat) (c : Ctx) (d : TallyDesc) (x : TSum) (b : Bytes), ctxOf s k = some c → tDesc c m.id = some d →
    own = ownerCluster d → sumOf c own d.tag = some x → b = m.data.take m.count → gm = (sumGroup c d.tag).1 →
    (∀ kind ∈ [3, 5], cteEarly c kind m = true → applyCte s k port kind m = keepEarly s k port kind m)
    ∧ (∀ kind ∈ [3, 4, 5, 6], cteEarly c kind m = false → (cteAlien c m = true ∨ cteBad c d m = true) → applyCte s k port kind m = fault1 s k (cteProb m.id m.first m.node))
    ∧ (cteEarly c 3 m = false → cteAlien c m = false → cteBad c d m = false → expBegun c d own m.step = true →
      ∀ u, u = modSum s k own d.tag (fun x =>
          { x with comb := maxBytes x.comb ((List.range b.length).map (fun i => (m.first + i, (b.getD i 0).toNat))),
                   cnt := if x.kidsExp.any (fun y => y / 65536 = m.rank) then x.cnt else x.cnt + m.addends,
                   kidsExp := x.kidsExp ++ (List.range b.length).map (fun i => m.rank * 65536 + m.first + i) }) →
        applyCte s k port 3 m = if b.contains (byte 0xFF) then fault1 u k (cteProb m.id (m.first + b.idxOf (byte 0xFF)) m.node) else tryExp u k d own)
    ∧ (∀ fe u, cteAlien c m = false → cteBad c d m = false → expBegun c d own m.step = true → b.contains (byte 0xFF) = false →
      fe = ((List.range b.length).map (fun i => (m.first + i, (b.getD i 0).toNat))).foldl (fun t e => tput t e.1 e.2) x.fexp →
      u = modSum s k own d.tag (fun x => { x with fexp := fe }) →
      applyCte s k port 4 m = if fe.length < tBlocks d then u
        else finalDown (sendMsgs u k own gm (treeKids c x.inst gm) (expMsgs (cteRoom u (own / 6)) c d 4 x.inst m.addends fe)) k d own (treeKids c x.inst gm) fe m.addends)
    ∧ (∀ bs, cteEarly c 5 m = false → cteAlien c m = false → cteBad c d m = false → intBegun c d own m.step = true → m.addends = x.cnt → bs = intBlocks d m →
      (∀ e ∈ bs, x.kidsInt.contains (m.rank * 65536 + e.1) = false
        ∧ (upFrom (sumAlg c x.inst d) (faninOf c x.inst gm) (tBlocks d) (groupSize c gm) (groupIdx c gm c.rank) e.1).any (fun i => memberRank c gm i = m.rank) = true) →
      applyCte s k port 5 m = tryInt (modSum s k own d.tag (fun x =>
        { x with blks := bs.foldl (fun t e => tput t e.1 (addBlk (tgetD t e.1 {}) e.2)) x.blks, kidsInt := x.kidsInt ++ bs.map (fun e => m.rank * 65536 + e.1) })) k d own (bs.map (·.1)))
    ∧ (∀ e ∈ intBlocks d m, cteEarly c 5 m = false → (x.kidsInt.contains (m.rank * 65536 + e.1) = true
        ∨ (upFrom (sumAlg c x.inst d) (faninOf c x.inst gm) (tBlocks d) (groupSize c gm) (groupIdx c gm c.rank) e.1).any (fun i => memberRank c gm i = m.rank) = false) →
      applyCte s k port 5 m = fault1 s k (cteProb m.id m.first m.node))
    ∧ (∀ kind ∈ [5, 6], cteEarly c kind m = false → m.addends ≠ x.cnt → applyCte s k port kind m = fault1 s k (cteProb m.id m.first m.node))
    ∧ (∀ bs u, cteAlien c m = false → cteBad c d m = false → intBegun c d own m.step = true → m.addends = x.cnt →
      bs = intBlocks d m → (∀ e ∈ bs, x.fin.contains e.1 = false ∧ x.up.contains e.1 = true) →
      u = modSum s k own d.tag (fun x => { x with blks := bs.foldl (fun t e => tput t e.1 e.2) x.blks, fin := x.fin ++ bs.map (·.1) }) →
      applyCte s k port 6 m = intDone (bs.foldl (fun s e => sendMsgs s k own gm
        ((downTo (sumAlg c x.inst d) (faninOf c x.inst gm) (tBlocks d) (groupSize c gm) (groupIdx c gm c.rank) e.1).map (memberRank c gm))
        (intMsgs (cteRoom s (own / 6)) c d 6 x.inst x.cnt [e])) u) k d own)
    ∧ (∀ e ∈ intBlocks d m, x.fin.contains e.1 = true ∨ x.up.contains e.1 = false → applyCte s k port 6 m = fault1 s k (cteProb m.id m.first m.node)))

/-- TGROUP (14 R351, R352). -/
def Obligations.TgroupSets : Prop :=
  ∀ (p : Fin 8) (v : Fin 96) (op : BitVec 128) (s : State) (k : Nat) (c : Ctx) (vc : Vcore) (o : Nat) (d : TallyDesc) (g : Nat × Nat × Nat), o = setBits op.toNat 5 0 0x20 → atEngine s p v k 3 o c vc →
    tgroupBad c o = none → tDesc c (bits o 23 8) = some d → g = (c.step, bits o 7 6, bits o 24 24) →
    ((∃ cl, cl < 12 ∧ tLocalN d cl ≠ 0 ∧ (∀ x, sumOf c cl d.tag = some x → x.stage < 2)) → (∀ h, tget c.tgroups d.tag = some h → h.1 = c.step → h = g) → c.finals.contains d.tag = false →
      exec (.tgroup p v op) s = .next (modVc (modCtx s k (fun c => { c with tgroups := tput c.tgroups d.tag g })) k v
        (fun x => { x with ords := tput x.ords 0 (tgetD x.ords 0 0 + 1) })))
    ∧ ((∃ h, tget c.tgroups d.tag = some h ∧ h.1 = c.step ∧ h ≠ g) ∨ c.finals.contains d.tag = true → exec (.tgroup p v op) s = .next (fault1 s k (engProb vc v 11 3 0x12 d.tag 0 v)))

/-- ECHO_THIRD_RUN and SENTINEL_PASS_DONE (17 R428 to R430, R433). -/
def Obligations.EchoAndSentinelRows : Prop :=
  (∀ (pc : Fin 108) (s : State) (x : Third) (rest : List Third) (y u : State), tgetD s.thirds pc [] = x :: rest →
    y = resumePass { s with thirds := if rest.isEmpty then tdel s.thirds pc else tput s.thirds pc rest } x.runner x.since →
    u = (if x.shadow = x.runner then y else resumePass y x.shadow x.since) →
    (∀ r : BitVec 64, r.toNat = x.r1 → x.r1 ≠ x.r2 → exec (.echoThirdRun pc (some r)) s = .next (strike u x.part x.shadow))
    ∧ (∀ r : BitVec 64, r.toNat = x.r2 → x.r1 ≠ x.r2 → exec (.echoThirdRun pc (some r)) s = .next (strike u x.part pc))
    ∧ (∀ r, (∀ w : BitVec 64, r = some w → (w.toNat = x.r1 ↔ w.toNat = x.r2)) →
        exec (.echoThirdRun pc r) s = .next (setFld u (rCoreEcho pc) 63 56 (fld u (rPtnEcho x.part) 15 8))))
  ∧ (∀ (pc : Fin 108) (s : State) (u : State) (kat : Bool), s.sentinels.contains pc.val = true → spareFree s pc = true → (54 ≤ pc.val → s.chain.die1Bad = false) →
    u = setReg { marchOver s pc with passAt := tput s.passAt pc.val s.cycle } (rCoreRbg pc) (if kat then 1 else 2) →
    (kat = true → tgetD s.passAt pc.val 0 + 4194304 ≤ s.cycle → exec (.sentinelPassDone pc true kat) s = .next (setFld u (rCoreEcho pc) 55 54 1))
    ∧ (∃ t, exec (.sentinelPassDone pc false kat) s = .next t ∧ pc.val ∈ t.retired ∧ t.sentinels = sdel s.sentinels pc ∧ t.unitMap = s.unitMap ||| 2 ^ pc.val))

/-- HOLD_TEST, RESULT_RETURN, HOLD_GATE_CLOSE, HOLD_GATE_OPEN, HOLD_TOL_FAULT (10 R246 to R250). -/
def Obligations.HoldRows : Prop :=
  (∀ (p : Fin 8) (unit term cause obj u cs d : Nat) (ready : Bool) (s : State) (k : Nat) (c : Ctx), resident s p = some (k, c) →
    owedResult s k c unit term cause obj u = some (cs, d) → d ≤ s.run + 96 →
    s.holds.any (fun h => h.unit = unit && h.term = term && h.obj = obj && h.ctx = some k && h.u = d) = false →
    ((resultIn s k c unit term obj u).getD ready = true → exec (.holdTest p unit term cause obj u ready) s = .next s)
    ∧ ((resultIn s k c unit term obj u).getD ready = false →
    ∀ w, w = modCtx s k (fun c => { c with stall := 0 }) →
    exec (.holdTest p unit term cause obj u ready) s = .next { w with
      holds := w.holds ++ [⟨w.nextHold, unit, term, cs, obj, some k, d, none, 0, tolOr s p unit term (holdVariant c unit term)⟩], nextHold := w.nextHold + 1 }))
  ∧ (∀ (p : Fin 8) (unit term cause obj u : Nat) (ready : Bool) (s : State), unit ≤ 7 → exec (.holdTest p unit term cause obj u ready) s = .next s)
  ∧ (∀ (id : Nat) (s : State) (h : Hold), h ∈ s.holds → h.id = id → h.endAt = none → (holdIn s h).getD true = true →
    ∃ t, exec (.resultReturn id) s = .next t ∧ { h with endAt := some (s.cycle + 96) } ∈ t.holds)
  ∧ (∀ (id : Nat) (s : State), (∀ h ∈ s.holds, h.id = id → (holdIn s h).getD true = false) → exec (.resultReturn id) s = .next (gateEval s))
  ∧ (∀ sh, ∀ r ∈ engineRows sh, ∀ (p : Fin 8) (v : Fin 96) (op : BitVec 128) (s : State) (k : Nat) (c : Ctx) (vc : Vcore),
    stands s = true ∨ atWork s p v k c vc ∧ opTakes vc r.2.1 (r.2.2 op) = false → exec (r.1 p v op) s = .next s)
  ∧ (∀ (s : State), (s.holds.any (holdActs s)) = true → ∃ t, exec .holdGateClose s = .next t ∧ t.gate = true)
  ∧ (∀ (s : State), (s.holds.any (holdActs s)) = false → ∃ t, exec .holdGateOpen s = .next t ∧ t.gate = false
      ∧ t.holds = s.holds.filter (fun h => !holdDone s h) ∧ { t with gate := s.gate, holds := s.holds } = s)
  ∧ (∀ (id : Nat) (s : State) (h : Hold) (k : Nat), s.holds.find? (fun h => h.id = id) = some h → h.ctx = some k → h.endAt = none → 0 < h.tol → h.tol < h.held →
    exec (.holdTolFault id) s = .next (fault1 s k { cause := 0xE, unit := h.unit, d0 := h.unit * 256 + h.term, d1 := h.tol, d2 := h.held }))

/-- CHIME_SIGNAL, CEXP, CEXP_DUE and BELL_TIMEOUT (11 R259 to R265, R270, 14 R353). That the sums of a cycle are compared with the range after its subtractions is the model's (log entry 12). -/
def Obligations.ChimesAndTimeouts : Prop :=
  (∀ (p : Fin 8) (v : Fin 96) (ch : Fin 48) (n : Nat) (s : State) (k : Nat) (c : Ctx) (l rest : List Sig), resident s p = some (k, c) →
    takeSigs v ch s.cycle n c.sigs = (l, rest) →
    exec (.chimeSignal p v ch n) s = .next (modCtx s k (fun c => { c with sigs := rest, counted := c.counted ++ l })))
  ∧ (∀ (s : State) (k v ch : Nat) (c : Ctx) (vc : Vcore) (l : List Sig), ctxOf s k = some c → vcoreOf c v = some vc → l ≠ [] → (∀ g ∈ l, (g.vcore, g.chime) = (v, ch)) →
    c.counted = l → c.landed = [] →
    ∀ u total, u = modCtx s k (fun c => { c with counted := [], landed := [] }) → total = tgetD vc.chime ch 0 + l.foldl (fun a g => a + g.count) 0 →
    countCtx s k = if 65535 < total then fault1 u k { cause := 0xF, unit := 13, vcore := some v, d0 := ch, d1 := minSrc l }
      else modVc u k v (fun x => { x with chime := tput x.chime ch total }))
  ∧ (∀ (b : Fin 64) (s : State) (k : Nat), (bell s b).ctx = some k → belScope s b = 1 → (bell s b).jobRel = false → bellOver s k b (bell s b).dueCount = true →
    exec (.bellTimeout b) s = .next (fault1 s k { cause := 0x1E, unit := 13, d0 := b }))
  ∧ (∀ (b : Fin 64) (s : State) (k : Nat) (c : Ctx), (bell s b).ctx = some k → belScope s b ≠ 1 → ctxOf s k = some c → sumOver s k c b = true →
    exec (.bellTimeout b) s = .next (fault1 s k { cause := 0x1E, unit := 11, d0 := b }))
  ∧ (∀ (p : Fin 8) (v : Fin 96) (op : BitVec 128) (s : State) (k : Nat) (c : Ctx) (vc : Vcore),
    (∀ o, o = sdmWord op 0x35 → atEngine s p v k 3 o c vc → cexpBad o = none → exec (.cexp p v op) s = .next (modVc s k v (fun x =>
      { x with cexps := x.cexps ++ [⟨bits o 11 6, bits o 19 12, s.run + bits o 63 32, runCia x⟩] })))
    ∧ (∀ i e, stands s = false → atWork s p v k c vc → cexpReady s vc = some i → vc.cexps[i]? = some e →
      exec (.cexpDue p v) s = .next (modCtx (modVc s k v (fun x =>
          { x with cexps := x.cexps.eraseIdx i, land := tput x.land e.chime (tgetD x.land e.chime 0 - e.count) })) k
        (fun c => { c with counted := c.counted ++ [{ vcore := v.val, chime := e.chime, count := e.count, src := v.val }] }))))

/-- COPY (13 R326, R327, R329) where the ranges do not overlap. -/
def Obligations.CopyMoves : Prop :=
  ∀ (p : Fin 8) (v : Fin 96) (op : BitVec 128) (s : State) (k : Nat) (c : Ctx) (vc : Vcore) (o n a d : Nat), o = sdmWord op 0x01 → atEngine s p v k 3 o c vc → Machine.Inv s →
    copyBad o = none → n = 64 * (bits o 28 9 + 1) →
    mapRange s k c (64 * bits o 70 29) n = .ok a → mapRange s k c (64 * bits o 112 71) n = .ok d → (d + n ≤ a ∨ a + n ≤ d) →
    (copyCh o ≠ none → ∀ i < n / 64, devPoison s (a + 64 * i) 64 = false) →
    ∃ t, exec (.copy p v op) s = .next (match copyCh o with | none => t | some ch => feedDig t k v ch (devRead s a n))
      ∧ devRead t d n = devRead s a n ∧ memBut d n s t ∧ { t with mem := s.mem, poison := s.poison, pword := s.pword } = hbmMove s (k / 16) a d n

/-- SEND and CHIME (13 R319, R325, R326). -/
def Obligations.StreamSends : Prop :=
  ∀ (p : Fin 8) (v : Fin 96) (op : BitVec 128) (s : State) (k : Nat) (c : Ctx) (vc : Vcore) (o x : Nat) (st : Stream), atEngine s p v k 3 o c vc →
    psnStream s (k / 16) (k % 16) (bits o 21 8) = some (x, st) → st.st = .opened → mayStart st = true →
    (∀ n a fs, o = sdmWord op 0x02 → sendBad c o = none → n = 64 * (bits o 41 22 + 1) → mapRange s k c (64 * bits o 83 42) n = .ok a →
      fs = sendFrames s (maxPay s (dieOfSidx x)) a (64 * bits o 125 84) n (bit o 6) →
      exec (.send p v op) s = .next (queueFrames (modVc s k v (fun vc => { vc with sends := vc.sends ++ [{ cia := runCia vc, sidx := x, seq := seqAdd st.sndNxt (fs.length - 1) }] })) x fs))
    ∧ (o = sdmWord op 0x03 → chimeBad c o = none →
      exec (.chime p v op) s = .next (queueFrames s x [{ seq := 0, type := 1, daddr := bits o 28 22 * 2 ^ 32 + bits o 34 29 * 2 ^ 24 + bits o 42 35 * 2 ^ 16 }]))

/-- CDIG_START and CDIG_FOLD (13 R329). -/
def Obligations.DigestChannels : Prop :=
  ∀ (p : Fin 8) (v : Fin 96) (op : BitVec 128) (s : State) (k : Nat) (c : Ctx) (vc : Vcore) (o ch : Nat), atEngine s p v k 3 o c vc → ch = bits o 8 7 →
    (o = setBits (sdmWord op 0x04) 6 6 0 → cdigBad o = none →
      exec (.cdigStart p v op) s = .next (modVc s k v (fun vc => { vc with dig := tput vc.dig ch { val := 0, fed := 0, endLen := bits o 127 64 } })))
    ∧ (∀ d x u a, o = setBits (sdmWord op 0x04) 6 6 1 → cdigBad o = none → d = tgetD vc.dig ch {} → d.fed ≤ d.endLen → x = crc64Zeros d.val (d.endLen - d.fed) →
      u = modVc s k v (fun vc => { vc with dig := tput vc.dig ch { d with val := x, fed := d.endLen } }) → a = spBase (pcoreOf c v) + 64 * bits o 26 11 →
      (bits o 10 9 = 0 → exec (.cdigFold p v op) s = .next (modRec u k (fun r => { r with inDig := r.inDig ^^^ x })))
      ∧ (bits o 10 9 = 1 → exec (.cdigFold p v op) s = .next (modRec u k (fun r => { r with lossDig := r.lossDig ^^^ x })))
      ∧ (bits o 10 9 = 2 → 64 * bits o 26 11 < spLimit → devPoison s a 8 = false →
        exec (.cdigFold p v op) s = .next (devWrite u a (leBytes 8 (leNat (devRead s a 8) ^^^ x)))))

/-- GATHACC.UNORD (13 R328, 02 R48, R49). The arrival order is a free value (log entry 2). -/
def Obligations.GathaccAddsBlocks : Prop :=
  ∀ (p : Fin 8) (v : Fin 96) (op : BitVec 128) (s : State) (k : Nat) (c : Ctx) (vc : Vcore) (o n io d : Nat) (src : Nat → Nat) (u : State), o = sdmWord op 0x05 → atEngine s p v k 3 o c vc →
    bits o 127 96 = 0 → (c.prog.canon = true → bit c.prog.varGrant 1 = true) →
    n = bits o 37 22 + 1 → io = 64 * bits o 21 6 → io + 4 * n ≤ spLimit → d = spBase (pcoreOf c v) + 64 * bits o 53 38 → 64 * bits o 53 38 + 1024 ≤ spLimit →
    (∀ i < n, devPoison s (spBase (pcoreOf c v) + io + 4 * i) 4 = false) →
    (∀ i < n, mapRange s k c (64 * bits o 95 54 + 1024 * leNat (devRead s (spBase (pcoreOf c v) + io + 4 * i) 4)) 1024 = .ok (src i)) →
    u = (arrivalOrder s.draws ((List.range n).map src)).foldl (fun t a => addBlock (hbmUse t (k / 16) a 1024) d a) { s with draws := s.draws + 1 } →
    (∀ i < 16, devPoison u (d + 64 * i) 64 = false) →
    exec (.gathaccUnord p v op) s = .next (recVar u k 2 3 v 0xFFFFFFFF c.frame (crc64 (devRead u d 1024)))

/-- RFILL (07 R169 to R172, R177). -/
def Obligations.RfillDraws : Prop :=
  ∀ (p : Fin 8) (v : Fin 96) (op : BitVec 128) (s : State) (k : Nat) (c : Ctx) (vc : Vcore) (o n w : Nat) (g : Nat) (t : Tensor) (x : Nat → Nat → Nat), o = sdmWord op 0x30 → atEngine s p v k 3 o c vc →
    rfillBad o = none → rfillSlotBad vc o = false → n = bits o 11 6 → g = setBits (slotA vc n) 86 86 0 → slotReach g (sgOuter g) = none →
    tensorOf c (slotTid vc n) = some t → w = (if bits o 14 12 = 0 || bits o 14 12 = 3 then 0 else 1) →
    (∀ r < sgOuter g, ∀ i < sgInner g, drawAt c.seed c.gen t (bits o 39 24) w (bits o 23 16) (slotPos vc n r i) = some (x r i)) →
    (sgBits g = false → exec (.rfill p v op) s = .next (devSegs s ((List.range (sgOuter g)).flatMap (fun r => (List.range (sgInner g)).map (fun i =>
      (spBase (pcoreOf c v) + slotOff g r i, (leBytes (fmtBytes ((fmtOf (sgFmt g)).getD .fp32)) (rfillVal (bits o 14 12) (bits o 71 40) (x r i))).map (fun b => (b, false))))))))
    ∧ (sgBits g = true → exec (.rfill p v op) s = .next (devSegs s ((List.range (sgOuter g)).flatMap (fun r =>
      maskSeg s (pcoreOf c v) g (sgInner g) r ((List.range (sgInner g)).map (fun i => (i, decide (rfillVal (bits o 14 12) (bits o 71 40) (x r i) = 1), false)))))))

/-- SNAP (08 R201 to R208, 18 R463). -/
def Obligations.SnapRecords : Prop :=
  ∀ (p : Fin 8) (v : Fin 96) (op : BitVec 128) (s : State) (k : Nat) (c : Ctx) (vc : Vcore) (o da src n a io pages body : Nat) (d : Bytes) (full : Bool), o = sdmWord op 0x34 → atEngine s p v k 3 o c vc →
    bits o 127 22 = 0 → (segmentOf c = 0 ∨ segmentOf c = 2) → 64 * bits o 21 6 < spLimit → (s.sec.entWait = false ∨ tget s.seals p = none) →
    da = spBase (pcoreOf c v) + 64 * bits o 21 6 → devPoison s da 64 = false → d = devRead s da 64 → src = fieldB d 0 8 → n = fieldB d 8 8 → io = fieldB d 0x10 8 →
    mapRange s k c src n = .ok a → (vspBase 0 ≤ src → c.hbmBase ≤ src ∧ src < c.hbmBase + c.hbmMib * 1048576) → pages = (n + 4095) / 4096 →
    body = (match tget s.seals (k / 16) with | some _ => pages * 4160 | none => roundUp n 64) → full = (match tget s.seals (k / 16) with | some q => decide (2 ^ 32 < q.chunks + pages) | none => false) →
    ((bit (rd s (rSnapCtrl (k / 16))) 0 = false ∨ full = true ∨ snapFits s (k / 16) (128 + body) = false) →
      exec (.snap p v op) s = .next (satFld s (rSnapCtrl (k / 16)) 31 16 1))
    ∧ (bit (rd s (rSnapCtrl (k / 16))) 0 = true → full = false → snapFits s (k / 16) (128 + body) = true → (∀ i < (n + 63) / 64, devPoison s (a + 64 * i) 64 = false) →
      ∀ u w data, u = { drawn (hbmUse s (k / 16) a n) (1 + pages) with seals := tmod s.seals (k / 16) (fun q => { q with chunks := q.chunks + pages }) } →
      w = (if fieldB d 0x18 8 < io + n then Config.openDigest s.draws else posDigest io (devRead s a n) (fieldB d 0x18 8)) →
      data = (match tget s.seals (k / 16) with | some q => sealChunks q (s.draws + 1) 0 (devRead s a n) | none => padTo (roundUp n 64) (devRead s a n)) →
      exec (.snap p v op) s = .next (snapPlace u k c (k / 16) (128 + body) (fun sq ep => snapHdr u k c sq ep 0 n (if segmentOf c = 2 then c.step else c.step - 1) (w % 2 ^ 64) d ++ data)))

/-- NOP, FEND, SEND, LOOP, HALT, BELL and DSAMP of the conductor (09 R230, R231, 11 R260, R267, 02 R48). -/
def Obligations.ConductorRows : Prop :=
  ∀ (p : Fin 8) (v : Fin 96) (s : State) (k : Nat) (c : Ctx) (vc : Vcore) (w : Nat) (x : Vcore), x = stepCia s vc w →
    (atWord s p v k c vc w 0 → exec (.nop p v) s = .next (putVc s k v x))
    ∧ (atWord s p v k c vc w 1 → exec (.fend p v) s = .next (markDone (putVc s k v { x with cond := .atFend }) k))
    ∧ (∀ u y, atWord s p v k c vc w 2 → queuesEmpty vc = true → c.frame + 1 = c.prog.frames → u = markDone (putVc s k v { x with cond := .atSend }) k → ctxOf u k = some y →
      exec (.condSend p v) s = .next (if y.vc.all (fun e => e.2.cond = .atSend || e.2.cond = .halted) && !y.stepMarked then stepBoundary u k else u))
    ∧ (atWord s p v k c vc w 2 → queuesEmpty vc = true → c.frame + 1 ≠ c.prog.frames → exec (.condSend p v) s = .next (fault1 s k (condProb vc v w 0xC c.prog.frames (c.frame + 1))))
    ∧ (atWord s p v k c vc w 3 → exec (.loop p v) s = .next (putVc s k v (if c.stepsDone then x else { x with cia := bits w 191 160 })))
    ∧ (∀ u y, atWord s p v k c vc w 4 → queuesEmpty vc = true → u = markDone (putVc s k v { x with cond := .halted }) k → ctxOf u k = some y →
      exec (.halt p v) s = .next (if y.vc.all (fun e => e.2.cond = .halted) then endCtx (bookFrame u k y false) k 0 else u))
    ∧ (atWord s p v k c vc w 5 → vc.bellOut.contains (bits w 141 136) = false → exec (.bell p v) s = .next (arriveBell (putVc s k v
        { x with blocked := x.blocked ++ (setBitsOf 4 (bits w 145 142)).map (fun q => (q, bits w 141 136)) }) k c v (bits w 141 136)))
    ∧ (atWord s p v k c vc w 5 → vc.bellOut.contains (bits w 141 136) = true → exec (.bell p v) s = .next (modVc s k v (fun y => { y with cond := .bellStop })))
    ∧ (∀ u, atWord s p v k c vc w 6 → bits w 207 192 * 64 + (bits w 223 208 + 1) * 64 ≤ spLimit → u = recVar (putVc s k v x) k 3 4 v 0xFFFFFFFF c.frame 0 →
      exec (.dsamp p v) s = .next { u with out := u.out ++ [.sample p (k % 16) v (bits w 207 192 * 64) (devRead u (spBase (pcoreOf c v) + bits w 207 192 * 64) ((bits w 223 208 + 1) * 64))] })

/-- What a conductor word does to the chimes it waits for (09 R228, R230, 11 R260). -/
def Obligations.WaitsAreConsumed : Prop :=
  ∀ (p : Fin 8) (v : Fin 96) (s t : State) (k : Nat) (c : Ctx) (vc : Vcore) (w ch n : Nat), atWord s p v k c vc w 0 → (ch, n) ∈ wWaits w →
    ((wWaits w).map (·.1)).Nodup → exec (.nop p v) s = .next t →
    ∃ d y, ctxOf t k = some d ∧ vcoreOf d v = some y ∧ tgetD y.chime ch 0 + n = tgetD vc.chime ch 0 ∧ y.cia = vc.cia + 1
      ∧ (∀ j, j ∉ (wWaits w).map (·.1) → tgetD y.chime j 0 = tgetD vc.chime j 0)

/-- INSTR_FETCH, ENTRY_START, ENTRY_COMPLETE (09 R225 to R233, 12 R289). -/
def Obligations.QueueRows : Prop :=
  ∀ (p : Fin 8) (v : Fin 96) (s : State) (k : Nat) (c : Ctx) (vc : Vcore), atWork s p v k c vc →
    (∀ i, nextFetch c vc = some i → devPoison s (wordAddr c vc.stream i) 32 = false →
      ∀ u, u = modVc (hbmUse s p (wordAddr c vc.stream i) 32) k v (fun x => { x with buf := tput x.buf i (BitVec.ofNat 256 (leNat (devRead s (wordAddr c vc.stream i) 32))) }) →
      exec (.instrFetch p v) s = .next (if i = vc.cia then gateEval (returnHolds u (fetchHold k v)) else u))
    ∧ (∀ i a, nextFetch c vc = some i → a = wordAddr c vc.stream i → devPoison s a 32 = true →
      exec (.instrFetch p v) s = .next (fault1 s k
        { cause := 0x1C, unit := 4, vcore := some v, queue := some 4, loc := some (i, wTag (leNat (devRead s a 32))), d0 := a % 2 ^ 32, d1 := a / 2 ^ 32 }))
    ∧ (∀ (q : Fin 4) e rest x, stands s = false → c.began = true → c.st = 2 → startable vc q = true → startedNow s vc q = false → tgetD vc.queues q [] = e :: rest →
      givesWay s vc q e.word.toNat = false → x = consume vc e.word.toNat →
      exec (.entryStart p v q) s = .next (putVc s k v
        { x with queues := tput vc.queues q rest, running := tput vc.running q (tgetD vc.running q [] ++ [startEntry s c vc v q e]) }))
    ∧ (∀ (q : Fin 4) n e u, (stands s = true → q.val = 3 ∧ bits (wOp e.word.toNat) 5 0 ≠ 0x30 ∧ isWs (wOp e.word.toNat) = false) → (tgetD vc.running q [])[n]? = some e → entryBusy c vc v q e = false →
      u = (if q.val = 3 then (List.range (instancesOf c v e.cia)).foldl (fun s _ => countInst s (dieOf (pcoreOf c v))) s else s) →
      exec (.entryComplete p v q n) s = .next (markDone (unstall (modCtx (modVc (dropOps (drainEnds u c vc v q e) k v q e.cia) k v (fun x =>
        { x with running := tput x.running q ((tgetD x.running q []).eraseIdx n) })) k (fun y => { y with sigs := y.sigs ++ entrySigs s p c v e.word.toNat })) k) k))

/-- COVER_VIOLATION (09 R225, R226, 05 R133). -/
def Obligations.CoverViolations : Prop :=
  ∀ (p : Fin 8) (v : Fin 96) (term : Fin 256) (tag : BitVec 16) (s : State) (k : Nat) (c : Ctx), resident s p = some (k, c) →
    (∀ vc (q : Fin 5) e n, q.val < 4 → vcoreOf c v = some vc → overdue s c vc v q = some (e, n) →
      ∃ u, u = (if q.val = 3 then (if bits (wOp e.word.toNat) 5 0 = 0x30 then 5 else if isWs (wOp e.word.toNat) then 7 else 3) else q.val)
        ∧ exec (.coverViolation p v q term tag) s = .next (fault1 s k { cause := 0xE, unit := u, vcore := some v, queue := some q, loc := some (e.cia, wTag e.word.toNat), d0 := u * 256 + term, d1 := n, d2 := s.run - (e.started + n) }))
    ∧ (∀ d x a n, tDesc c tag.toNat = some d → sumOf c v tag.toNat = some x → sumClock c d x v = some (a, n) → a + n < s.run →
      exec (.coverViolation p v 4 term tag) s = .next (fault1 s k { cause := 0xE, unit := 6, d0 := 6 * 256 + term, d1 := n, d2 := s.run - (a + n) }))

/-- GRID_POINT, DEADLOCK_DETECT, ROTATION_COPY_DONE (10 R241 to R244, 09 R232, 11 R276, R277, 17 R432). That a point is decided at the end of its cycle is DEDUCED (log entry 16). -/
def Obligations.GridPoints : Prop :=
  (∀ (p : Fin 8) (s u : State), atGrid s p = true →
    u = modPart s p (fun x => { x with count := if x.anchor = some s.cycle then x.count else x.count + 1, points := x.points + 1, lastPoint := some s.cycle, point := some true }) →
    (resident u p = none → exec (.gridPoint p) s = .next u)
    ∧ (∀ k c, resident u p = some (k, c) → exec (.gridPoint p) s = .next (modCtx u k (fun x => { x with stall := if stalledNow u k c then x.stall + 1 else 0 }))))
  ∧ (∀ (s w : State) (p : Nat) (sel : Bool), (part s p).point = some sel → w = modPart s p (fun x => { x with point := none }) →
    (resident w p = none → decidePoint s p = takeBeat w p sel)
    ∧ (∀ k c, resident w p = some (k, c) →
      ((sel = false ∨ c.began = false ∨ c.probs ≠ [] ∨ (frameComplete c = true ∧ openChainProbs c = [])) → decidePoint s p = takeBeat w p sel)
      ∧ (sel = true → c.began = true → c.probs = [] → frameComplete c = true → openChainProbs c ≠ [] → decidePoint s p = takeBeat (faultCtx w k (openChainProbs c)) p true)
      ∧ (sel = true → c.began = true → c.probs = [] → frameComplete c = false → decidePoint s p = if deadlocked w p k c then takeBeat (deadlock w p k c) p true
        else if 2 ^ ptnK w p ≤ frameRun w c then takeBeat (faultCtx w k (overrunProbs w c)) p true else skipPoint w p k c)))
  ∧ (∀ (p : Fin 8) (s : State) (k : Nat) (c : Ctx), resident s p = some (k, c) → (part s p).point = some true → 0 < stallThresh s p → stallThresh s p ≤ c.stall →
    stalledNow s k c = true → c.probs = [] → exec (.deadlockDetect p) s = .next (deadlock s p k c))
  ∧ (∀ (s : State) (h : Hold), h ∈ s.holds → h.unit = 15 → h.term = 1 → h.endAt = none → h.obj + 6344 ≤ s.cycle →
    exec .rotationCopyDone s = .next (gateEval { s with holds := s.holds.map (fun h =>
      if h.unit = 15 && h.term = 1 && h.endAt.isNone && decide (h.obj + 6344 ≤ s.cycle) then { h with endAt := some s.cycle } else h) }))

/-- BELL_RELEASE, MUSTER_ARRIVE, MUSTER_TIMEOUT, MUSTER_ANCHOR, and what the messages ARRIVE and RELEASE do (11 R267 to R274, 14 R363). -/
def Obligations.BellAndMusterRows : Prop :=
  (∀ (b : Fin 64) (s : State) (k u : Nat), (bell s b).ctx = some k → (bell s b).due = some u → u ≤ s.run → (belScope s b = 0 ∨ (bell s b).jobRel = true) →
    exec (.bellRelease b) s = .next (permuteFinish (releaseBell s b) k b))
  ∧ (∀ (p : Fin 8) (s : State) (n : Nat) (c : Ctx), (part s p).letIn = some n → ctxOf s (ctxKey p n) = some c →
    (c.muster = .waiting → (part s p).zeroing = false → (part s p).resident = none → (∀ e ∈ s.ctxs, e.1 / 16 = p.val → e.2.st ≠ 3 ∧ e.2.st ≠ 6) → bit (rd s rBelMuster) 17 = true →
      ((musterBell c = none ∨ c.prog.plan.devices ≤ 1) → exec (.musterArrive p) s = .next (musterRelease s (ctxKey p n) c (s.refcnt + 64 * fld s rBelMuster 15 0)))
      ∧ (∀ b, musterBell c = some b → 1 < c.prog.plan.devices →
        exec (.musterArrive p) s = .next (musterStep (modBell (modCtx s (ctxKey p n) (fun c => { c with muster := .arrived })) b (fun y => { y with node0 := y.node0 ++ [c.rank] })) (ctxKey p n) b)))
    ∧ (∀ rm a, c.muster = .released rm → rm ≤ s.refcnt →
      a = modPart s p (fun x => { x with anchor := some s.cycle, count := 0, points := x.points + 1, lastPoint := some s.cycle, point := some false, resident := some n, letIn := none }) →
      ∀ u, u = writeInit (passMuster a (ctxKey p n) c) c →
      ∀ w, w = (match c.sman with | some m => finishMan u c.qp m 0 (leBytes 1 c.prog.plan.idx ++ leBytes 1 0 ++ leBytes 2 c.prog.plan.vcores) | none => u) →
      exec (.musterAnchor p) s = .next (firstVote (openRec (installCover (unpark (modCtx w (ctxKey p n)
        (fun c => { c with st := 2, muster := .none, sman := none, slice := 0, began := false, frame := 0 })) (ctxKey p n)) p c.prog.coverId) (ctxKey p n)) (ctxKey p n) true)))
  ∧ (∀ (p : Fin 8) (s : State) (k : Nat) (c : Ctx), s.ctxs.filter (fun e => e.1 / 16 = p.val && musterLate s e.1 e.2) = [(k, c)] →
    exec (.musterTimeout p) s = .next (fault1 s k { cause := 0x1E, unit := 13, d0 := musterD0 c }))
  ∧ (∀ (port k b : Nat) (m : CteMsg) (s : State) (c : Ctx), ctxOf s k = some c → b = m.id → b < 64 → (bell s b).ctx = some k →
    (((treeKids c m.step 0).contains m.rank = false ∨ nodeOfRank c m.rank ≠ m.node ∨ (nodeOf (bell s b) m.parity).contains m.rank = true) → applyCte s k port 1 m = discardArrival s b)
    ∧ ((treeKids c m.step 0).contains m.rank = true → nodeOfRank c m.rank = m.node → (nodeOf (bell s b) m.parity).contains m.rank = false →
      (c.muster ≠ .waiting → c.muster ≠ .arrived →
        applyCte s k port 1 m = nodeStep (modBell s b (fun y => setNode y m.parity (nodeOf y m.parity ++ [m.rank]))) k b m.parity [])
      ∧ (∀ bad u, (c.muster = .waiting ∨ c.muster = .arrived) → musterBell c = some b → m.parity = false →
        bad = (if beNat (sliceB m.arg 0 8) ≠ rd s rArv then some m.node else if fieldB m.arg 17 1 ≠ 0 then some (beNat (sliceB m.arg 18 4)) else none) →
        u = modCtx s k (fun c => { c with musterBad := match c.musterBad with | some n => some n | none => bad }) →
        applyCte s k port 1 m = musterStep (modBell u b (fun y => { y with node0 := y.node0 ++ [m.rank] })) k b))
    ∧ (∀ u, treeParent c m.step 0 = some m.rank →
      u = cteSendAll s k (treeKids c m.step 0) 2 (cteHdr 2 (cteMode 0 0 m.parity false 0) b 0 m.step 0 0 c.rank 0 0 m.arg) →
      (c.muster ≠ .arrived → m.parity = (bell s b).parity → (bell s b).jobRel = false → (nodeOf (bell s b) (bell s b).parity).contains c.rank = true →
        applyCte s k port 2 m = modBell u b (fun y => { y with jobRel := true }))
      ∧ (c.muster = .arrived → musterBell c = some b → m.parity = false →
        applyCte s k port 2 m = if fieldB m.arg 17 1 ≠ 0 then fault1 u k (arvProb s (beNat (sliceB m.arg 18 4))) else musterRelease u k c (beNat (sliceB m.arg 0 8))))
    ∧ ((treeParent c m.step 0 ≠ some m.rank
        ∨ (c.muster = .arrived ∧ (musterBell c ≠ some b ∨ m.parity = true))
        ∨ (c.muster ≠ .arrived ∧ (m.parity ≠ (bell s b).parity ∨ (bell s b).jobRel = true ∨ (nodeOf (bell s b) (bell s b).parity).contains c.rank = false))) →
      applyCte s k port 2 m = fault1 s k (cteProb m.id m.first m.node)))

/-- AGATHER, AGATHER_PART_TIMEOUT, and what the message PART does (14 R356 to R359). How a part is cut into pieces is the model's (log entry 51). -/
def Obligations.GatherRows : Prop :=
  (∀ (p : Fin 8) (v : Fin 96) (op : BitVec 128) (s : State) (k : Nat) (c : Ctx) vc o d n gm g src dst dig ord own x t, o = sdmWord op 0x21 → atEngine s p v k 3 o c vc → agatherBad o = none →
      64 * bits o 23 8 < spLimit → devPoison s (spBase (pcoreOf c v) + 64 * bits o 23 8) 64 = false → d = devRead s (spBase (pcoreOf c v) + 64 * bits o 23 8) 64 → gatherDescBad d = false →
      n = fieldB d 0x10 8 → gm = bits o 7 6 → g = max 1 (groupSize c gm) → (fieldB d 0x20 1 = 0 ∨ fieldB d 0x1C 4 + g ≤ 65536) →
      mapRange s k c (fieldB d 0 8) n = .ok src → mapRange s k c (fieldB d 8 8) (g * n) = .ok dst → (∀ i < n / 64, devPoison s (src + 64 * i) 64 = false) →
      dig = crc64 (devRead s src n) → ord = tgetD vc.ords 0 0 → own = groupIdx c gm c.rank →
      x = ({ v := v, ord := ord, gmode := gm, own := own, g := g, dst := dst, len := n, layer := fieldB d 0x18 4, vidx := fieldB d 0x1C 4, vmode := fieldB d 0x20 1, got := [own],
             count := (part s (k / 16)).points, cia := runCia vc, step := c.step } : Gather) →
      t = takeOrd (modCtx s k (fun c => { c with gathers := c.gathers ++ [x] })) k v →
      exec (.agather p v op) s = .next (drainParts (versionStep (partSend (if src = dst + own * n then t else moveBytes t (k / 16) src (dst + own * n) n)
        k c x own dig (partTargets c x own c.rank)) k x own dig) k v ord))
  ∧ (∀ (p : Fin 8) (v : Fin 96) (s : State) (k : Nat) (c : Ctx) vc x, atWork s p v k c vc →
      c.gathers.find? (fun x => x.v = v.val && decide (x.got.length < x.g) && decide ((part s p).points ≥ x.count + musterTimeout s c)) = some x →
      exec (.agatherPartTimeout p v) s = .next (fault1 s k { cause := 0x1E, unit := 11, vcore := some v, d0 := musterD0 c }))
  ∧ (∀ (m : CteMsg) (s : State) (k port : Nat) (c : Ctx) x n a old, ctxOf s k = some c → c.gathers.find? (fun x => x.v = m.id && x.ord = m.inst) = some x →
      n = m.data.length → old = tgetD x.fill m.first (0, 0) → a = x.dst + m.first * x.len + old.1 →
      ((m.gmode ≠ x.gmode ∨ x.g ≤ m.first ∨ x.got.contains m.first = true ∨ m.count * 64 ≠ n ∨ x.len < old.1 + n ∨ n = 0) →
        applyCte s k port 7 m = fault1 s k (cteProb m.id m.first m.node))
      ∧ (∀ u crc, m.gmode = x.gmode → m.first < x.g → x.got.contains m.first = false → m.count * 64 = n → old.1 + n ≤ x.len → 0 < n → crc = crc64From old.2 m.data →
        u = modGather (hbmUse (landData s a m.pmask m.data) (k / 16) a n) k x.v x.ord (fun y => { y with fill := tput y.fill m.first (old.1 + n, crc) }) →
        (old.1 + n < x.len → applyCte s k port 7 m = u)
        ∧ (∀ w z y, old.1 + n = x.len → w = (if m.torn then devTaint u (x.dst + m.first * x.len) x.len else u) →
          z = (if crc ≠ m.digest then satFld (devTaint w (x.dst + m.first * x.len) x.len) (rNetPorterr port) 47 32 1 else w) →
          y = versionStep (modGather z k x.v x.ord (fun y => { y with got := y.got ++ [m.first] })) k x m.first m.digest →
          ∀ e, ctxOf y k = some e → applyCte s k port 7 m = partSend y k e x m.first m.digest (partTargets e x m.first m.rank)))
      ∧ (∀ y, c.gathers.find? (fun x => x.v = y.id && x.ord = y.inst) = none → cteEarly c 7 y = true → applyCte s k port 7 y = keepEarly s k port 7 y))

/-- PERMUTE (14 R360, R361). -/
def Obligations.PermuteRow : Prop :=
  ∀ (p : Fin 8) (v : Fin 96) (op : BitVec 128) (s : State) (k : Nat) (c : Ctx) (vc : Vcore) (o da n nout : Nat) (hd : Bytes), o = sdmWord op 0x22 → atEngine s p v k 3 o c vc →
    permuteBad c o = none → da = spBase (pcoreOf c v) + 64 * bits o 27 12 → hd = devRead s da 64 → n = 64 + 32 * (fieldB hd 0 4 + fieldB hd 4 4) →
    64 * bits o 27 12 + n ≤ spLimit → devPoison s da 64 = false → (∀ i < (n + 63) / 64, devPoison s (da + 64 * i) 64 = false) → nout = fieldB hd 0 4 →
    ∀ outB inB outs ins probs, outB = (List.range nout).map (fun i => devRead s (da + 64 + 32 * i) 32) → inB = (List.range (fieldB hd 4 4)).map (fun i => devRead s (da + 64 + 32 * (nout + i)) 32) →
    outs = outB.map (outEntry s k c vc v) → ins = inB.map (inEntry s k c vc v (fieldB hd 8 8) (fieldB hd 0x10 8)) →
    probs = oneEach (permuteDesc c vc v hd outB inB ++ errs outs ++ errs ins) →
    (probs ≠ [] → exec (.permute p v op) s = .next (faultCtx s k probs))
    ∧ (probs = [] → exec (.permute p v op) s = .next (permuteArrive ((oks outs).foldl (fun s e =>
        match e with
        | (some (x, a, dst, len), _) =>
          match stream s x with
          | none => s
          | some st =>
            if (sendFrames s (maxPay s (dieOfSidx x)) a dst len true).isEmpty then s else queueFrames (modCtx s k (fun c => { c with permutes := c.permutes.map (fun q => if q.v = v.val && q.phase = 1
              then { q with sends := q.sends ++ [{ cia := runCia vc, sidx := x, seq := seqAdd st.sndNxt ((sendFrames s (maxPay s (dieOfSidx x)) a dst len true).length - 1) }] } else q) })) x
              (sendFrames s (maxPay s (dieOfSidx x)) a dst len true)
        | (none, some (a, b, len)) => moveBytes s (k / 16) a b len
        | (none, none) => s) (takeOrd (modCtx s k (fun c => { c with permutes := c.permutes ++ [{ v := v, bell := bits o 11 6, cia := runCia vc, copies := oks ins, outB := outB.foldl (fun a e => a + fieldB e 8 8) 0 }] })) k v)) k))

/-- What the messages CADENCE, MAP and SUMMARY do (12 R296, 14 R362 to R366). -/
def Obligations.TreeMessageRows : Prop :=
  ∀ (port : Nat) (m : CteMsg) (s : State) (k : Nat) (c : Ctx), ctxOf s k = some c →
    (treeParent c c.step 0 = some m.rank →
      (votesAlone c = false → applyCte s k port 8 m = cadencePair s k c (beNat (sliceB m.arg 0 8)) (beNat (sliceB m.arg 8 8)))
      ∧ applyCte s k port 9 m = installMap s k c (beNat (sliceB m.arg 8 8)) (bits (beNat (sliceB m.arg 0 8)) 53 0) (bits (beNat (sliceB m.arg 0 8)) 59 54))
    ∧ (treeParent c c.step 0 ≠ some m.rank → votesAlone c = false → (treeKids c c.step 0).contains m.rank = true →
      applyCte s k port 8 m = cadenceVote (modCtx s k (fun c => { c with kKids := tput c.kKids m.rank (beNat (sliceB m.arg 0 8)) })) k)
    ∧ ((treeKids c c.step 0).contains m.rank = true → applyCte s k port 10 m = summaryStep (modCtx s k (fun c =>
        { c with summ := tput c.summ m.rank ((List.range 3).map (fun i => (beNat (sliceB m.arg (8 * i) 4), beNat (sliceB m.arg (8 * i + 4) 4)))) })) k)
    ∧ (treeParent c c.step 0 ≠ some m.rank → (treeKids c c.step 0).contains m.rank = false →
      ∀ kind ∈ [8, 9, 10], applyCte s k port kind m = fault1 s k (cteProb m.id m.first m.node))
    ∧ (votesAlone c = true → applyCte s k port 8 m = fault1 s k (cteProb m.id m.first m.node))
    ∧ (∀ kind, kind = 0 ∨ 10 < kind → applyCte s k port kind m = fault1 s k (cteProb m.id m.first m.node))

/-- START, END, STOW, RESTORE (15 R380, R381, 16 R408, R409). -/
def Obligations.ContextManifests : Prop :=
  ∀ (q : Fin 64) (bin img : Option Bytes) (s u : State) (m : Man) (k : Nat), k = manCtx u q m →
    (∀ bytes a x c areas led w y, manUp s q 1 0x67 m u → bin = some bytes → fieldB m.slot 0x18 8 = bytes.length → fieldB m.slot 0x66 1 ≤ 3 → 12 ≤ fieldB m.slot 0x65 1 → fieldB m.slot 0x65 1 ≤ 26 →
      hostBad (fieldB m.slot 0x10 8) = false → ctxOf u k = none → regionOk u (qpPtn u q) (fieldB m.slot 0x58 8) (fieldB m.slot 0x60 4) = true →
      a = (if bit (fieldB m.slot 0x66 1) 0 then u else devZero u (fieldB m.slot 0x58 8) (fieldB m.slot 0x60 4 * 1048576)) →
      loadCheck a { p := qpPtn u q, k := k, pl := fieldB m.slot 0x64 1, kMan := fieldB m.slot 0x65 1, roster := fieldB m.slot 0x50 8, base := fieldB m.slot 0x58 8, mib := fieldB m.slot 0x60 4 } bytes = .ok x →
      c = startCtx q m x a (qpPtn u q) → imageArea a k c = some (areas, led) →
      w = modPart (installProg (setCtx a k { c with areas := areas, inLedger := led }) k { c with areas := areas, inLedger := led } x.code) (qpPtn u q)
        (fun y => { y with exported := sdel y.exported (k % 16), codes := tdel y.codes (k % 16) }) →
      y = (if runsOther w (qpPtn u q) k then w else installCover w (qpPtn u q) x.prog.coverId) →
      exec (.start q bin) s = .next (if coresFree y (qpPtn u q) && (part y (qpPtn u q)).letIn.isNone then admitMuster y (qpPtn u q) (k % 16) else y))
    ∧ (∀ c, manUp s q 2 0x10 m u → ctxOf u k = some c → c.ending = none → exec (.endCmd q) s = .next (modCtx u k (fun c => { c with ending := some (q.val, m.seq) })))
    ∧ (∀ c, manUp s q 2 0x10 m u → (ctxOf u k = none ∨ (ctxOf u k = some c ∧ c.ending.isSome = true)) → exec (.endCmd q) s = .next (finishMan u q m.seq 4))
    ∧ (∀ c next, manUp s q 10 0x30 m u → next = decide (fieldB m.slot 0x10 8 = 2 ^ 64 - 1) → fieldB m.slot 0x1C 1 ≤ 1 → zeroB m.slot 0x1D 0x20 = true →
      (bit (fieldB m.slot 0x1C 1) 0 = false → fieldB m.slot 0x20 8 = 0 ∧ fieldB m.slot 0x28 8 = 0) →
      (bit (fieldB m.slot 0x1C 1) 0 = true → hostBad (fieldB m.slot 0x20 8) = false ∧ fieldB m.slot 0x20 8 % 4096 = 0) →
      ctxOf u k = some c → c.st ≠ 1 → c.st ≠ 4 → c.st ≠ 5 → c.stow = none →
      (next = false → fieldB m.slot 0x18 4 < c.prog.frames ∧ pointPassed c (fieldB m.slot 0x10 8, fieldB m.slot 0x18 4) = false) →
      exec (.stow q) s = .next (modCtx u k (fun c => { c with stow := some { point := if next then none else some (fieldB m.slot 0x10 8, fieldB m.slot 0x18 4), exp := bit (fieldB m.slot 0x1C 1) 0, host := fieldB m.slot 0x20 8, hlen := fieldB m.slot 0x28 8, qp := q, seq := m.seq } })))
    ∧ (∀ c, manUp s q 11 0x44 m u → fieldB m.slot 0x10 8 = 0 → zeroB m.slot 0x18 128 = true → ctxOf u k = some c → c.st = 5 → c.rman = none →
      exec (.restore q img bin) s = .next (modCtx u k (fun c => { c with st := if gang c then 5 else 4, rman := some (q, m.seq) })))
    ∧ (manUp s q 11 0x44 m u → fieldB m.slot 0x10 8 ≠ 0 → exec (.restore q img bin) s = .next (importMan u q m img bin))

/-- START, END, STOW and RESTORE run (15 R380, R381, 16 R408, R409). -/
def Obligations.ContextCommandsRun : Prop :=
  ∀ (q : Fin 64) (bin img : Option Bytes) (s u : State) (m : Man) (k : Nat), k = manCtx u q m →
    (∀ bytes x ask, manUp s q 1 0x67 m u → bin = some bytes → fieldB m.slot 0x18 8 = bytes.length → fieldB m.slot 0x66 1 ≤ 3 → 12 ≤ fieldB m.slot 0x65 1 → fieldB m.slot 0x65 1 ≤ 26 →
      hostBad (fieldB m.slot 0x10 8) = false → ctxOf u k = none → regionOk u (qpPtn u q) (fieldB m.slot 0x58 8) (fieldB m.slot 0x60 4) = true → bit (fieldB m.slot 0x66 1) 0 = true →
      ask = { p := qpPtn u q, k := k, pl := fieldB m.slot 0x64 1, kMan := fieldB m.slot 0x65 1, roster := fieldB m.slot 0x50 8, base := fieldB m.slot 0x58 8, mib := fieldB m.slot 0x60 4 } →
      loadCheck u ask bytes = .ok x → (imageArea u k (startCtx q m x u (qpPtn u q))).isSome = true →
      ∃ t d, exec (.start q bin) s = .next t ∧ ctxOf t k = some d ∧ d.st = 1 ∧ d.prog = x.prog ∧ d.vtab = x.vtab ∧ d.startId = fieldB m.slot 8 8 ∧ d.step = fieldB m.slot 0x38 8 ∧ d.sman = some m.seq)
    ∧ (∀ c, manUp s q 2 0x10 m u → ctxOf u k = some c → c.ending = none →
      ∃ t, exec (.endCmd q) s = .next t ∧ ctxOf t k = some { c with ending := some (q.val, m.seq) })
    ∧ (∀ c r, manUp s q 10 0x30 m u → ctxOf u k = some c → fieldB m.slot 0x10 8 = 2 ^ 64 - 1 → fieldB m.slot 0x1C 1 = 0 → zeroB m.slot 0x1D 0x20 = true → fieldB m.slot 0x20 8 = 0 → fieldB m.slot 0x28 8 = 0 → c.stow = none →
      (c.st = 2 ∨ c.st = 3 ∨ c.st = 6 → r = ({ point := none, exp := false, host := 0, hlen := 0, qp := q, seq := m.seq } : StowReq) →
        ∃ t, exec (.stow q) s = .next t ∧ ctxOf t k = some { c with stow := some r })
      ∧ (c.st = 4 → ∃ t, exec (.stow q) s = .next t ∧ ctxOf t k = some { c with st := 5, rman := none } ∧ (part t (k / 16)).letIn ≠ some (k % 16)))
    ∧ (∀ c, manUp s q 11 0x44 m u → fieldB m.slot 0x10 8 = 0 → zeroB m.slot 0x18 128 = true → ctxOf u k = some c → c.st = 5 → c.rman = none →
      ∃ t, exec (.restore q img bin) s = .next t ∧ ctxOf t k = some { c with st := if gang c then 5 else 4, rman := some (q.val, m.seq) })

/-- RUNOUT_END, STOW_DONE, RESTORE_DONE, ZEROING_DONE (13 R342, 16 R410 to R417, 18 R458). -/
def Obligations.StowAndRestoreEnds : Prop :=
  ∀ (p : Fin 8) (s : State),
    (∀ k c, ctxIn s p 3 = some (k, c) → c.draining = true → copying s k = false →
      ((∀ e ∈ ctxStreams s k, streamQuiet s e.2 = true) ∨ c.drainAt + max (rd s (rNetRunout 0)) (rd s (rNetRunout 1)) ≤ s.cycle) →
      exec (.runoutEnd p) s = .next (turnStreams (modCtx s k (fun c => { c with draining := false })) k .draining .parked))
    ∧ (∀ k c d corr bad w, ctxIn s p 3 = some (k, c) → c.draining = false → ctxOf (landFlights s k) k = some d → w = finishStow (landFlights s k) k d →
      (c.stow = none → exec (.stowDone p corr bad) s = .next w)
      ∧ (∀ r, c.stow = some r → r.exp = false → exec (.stowDone p corr bad) s = .next (finishMan w r.qp r.seq 0))
      ∧ (∀ r e, c.stow = some r → r.exp = true → ctxOf w k = some e → exec (.stowDone p corr bad) s = .next (exportImage (imageReport w e corr bad) k e r)))
    ∧ (∀ k c corr bad w, ctxIn s p 6 = some (k, c) → (part s p).zeroing = false → w = imageReport s c corr bad →
      (steering w c = none → exec (.restoreDone p corr bad) s = .next (finishRestore w k c))
      ∧ (∀ x, steering w c = some x → exec (.restoreDone p corr bad) s = .next (fault1 w k { cause := 0x1C, unit := 14, d0 := 64 * x % 2 ^ 32, d1 := 64 * x / 2 ^ 32 })))
    ∧ ((part s p).zeroing = true → ∃ t, exec (.zeroingDone p) s = .next t ∧ (part t p).zeroing = false
      ∧ ∀ u w, u = (ptnPcores s p).foldl (fun s pc => devZero s (spBase pc) spLimit) s →
        w = (ptnPcores u p).foldl (fun s pc => setFld (setFld (setFld s (rMxeStatus pc) 5 0 0) (rVseStatus pc) 6 0 0) (rUpeStatus pc) 6 0 0) u →
        t = modPart ((ptnClusters w p).foldl (fun s cl => syncTstore (devZero s (wayBase cl) 0x400000) cl) w) p (fun x => { x with zeroing := false }))

/-- QP_ENABLE, DOORBELL, MANIFEST_FETCH, COMPLETION_WRITE, MSIX_COAL_TIMER, QP_DISABLE (15 R376, R377, R388 to R394). -/
def Obligations.QueuePairRows : Prop :=
  ∀ (q : Fin 64) (s : State),
    (∀ (v : BitVec 64) tbit u, accepts s (.host tbit) = true → u = barWake s (.host tbit) → qpEn u q = true → (qp u q).st ≠ 2 →
      ((bits v.toNat 63 32 + 2 ^ 32 - (qp u q).cqHead) % 2 ^ 32 ≤ ((qp u q).cqTail + 2 ^ 32 - (qp u q).cqHead) % 2 ^ 32) →
      (qpKind u q = 1 → exec (.doorbell 0 q 0 8 v tbit) s = .next (modQp u q (fun y => { y with cqHead := bits v.toNat 63 32 })))
      ∧ (qpKind u q ≠ 1 → (bits v.toNat 31 0 + 2 ^ 32 - (qp u q).sqHead) % 2 ^ 32 ≤ 2 ^ fld u (rHifQpcfg q) 10 6 →
        exec (.doorbell 0 q 0 8 v tbit) s = .next (modQp u q (fun y => { y with sqTail := bits v.toNat 31 0, cqHead := bits v.toNat 63 32 })))
      ∧ (qpKind u q ≠ 1 → 2 ^ fld u (rHifQpcfg q) 10 6 < (bits v.toNat 31 0 + 2 ^ 32 - (qp u q).sqHead) % 2 ^ 32 → exec (.doorbell 0 q 0 8 v tbit) s = .next (qpError u q 1)))
    ∧ (∀ (off : Fin 4096) (width : Fin 9) (v : BitVec 64) tbit u, accepts s (.host tbit) = true → u = barWake s (.host tbit) → (off ≠ 0 ∨ width ≠ 8 ∨ qpEn u q = false) →
      exec (.doorbell 0 q off width v tbit) s = .next (setEvent u 4))
    ∧ (∀ (vf : Fin 64) (off : Fin 4096) (width : Fin 9) (v : BitVec 64) tbit u, accepts s (.host none) = true → u = barWake s (.host none) → vf ≠ 0 →
      (vfOn u vf = true → tdiTakes u vf tbit = true → u.chain.cut.contains vf.val = false →
        exec (.doorbell vf q off width v tbit) s = .next (toTunnel u vf 5 (q * 4096 + off) (leBytes width v.toNat)))
      ∧ (vfOn u vf = true → tdiTakes u vf tbit = false → exec (.doorbell vf q off width v tbit) s = .next { u with out := u.out ++ [.unsupported vf] }))
    ∧ (∀ v tbit, accepts s (.host tbit) = false → exec (.doorbell 0 q 0 8 v tbit) s = .next (if s.boot.held = 0 then { s with out := s.out ++ [.unsupported 0] } else s))
    ∧ (∀ b u, qpEn s q = true → qpKind s q = 0 → (qp s q).st = 1 → (qp s q).sqHead ≠ (qp s q).sqTail → u = (if fieldB b 0 1 = 1 then satFld s (rPtnAccta q) 31 0 1 else s) →
      exec (.manifestFetch q (some b)) s = .next (modQp u q (fun y =>
        { y with mans := y.mans ++ [{ seq := y.nextSeq, slot := padTo 128 b }], nextSeq := y.nextSeq + 1, sqHead := (y.sqHead + 1) % 2 ^ 32 }))
      ∧ exec (.manifestFetch q none) s = .next (qpError s q 3))
    ∧ exec (.completionWrite q true) s = .next (writeNext s q)
    ∧ (qpEn s q = true → (qp s q).st = 1 → (qp s q).waiting ≠ [] → exec (.completionWrite q false) s = .next (qpError s q 4))
    ∧ (∀ t, t = fld s (rHifQpcfg q) 47 32 → qpEn s q = true → (qp s q).unann ≠ 0 → t ≠ 0 → (qp s q).unannAt * 1000 + t * msCycles s ≤ s.cycle * 1000 →
      exec (.msixCoalTimer q) s = .next (sendMsix (modQp s q (fun y => { y with unann := 0 })) (fld s (rHifQpcfg q) 22 16)))
    ∧ (∀ (v : BitVec 64) w x u, accepts s w = true → u = barWake s w → x = v.toNat &&& qpcfgMask → qpEn u q = false → bit x 0 = true → bit (rd u rHifStatus) 0 = true →
      4 ≤ bits x 10 6 → bits x 10 6 ≤ 16 → 9 ≤ bits x 15 11 → bits x 15 11 ≤ 20 → (bit x 1 = true → ledgerQpTaken u q (bits x 4 2) = false) →
      exec (.qpEnable q v w) s = .next { setReg u (rHifQpcfg q) x with qps := tput u.qps q { st := 1 } })
    ∧ (∀ (v : BitVec 64) w u, accepts s w = true → u = barWake s w → qpEn u q = true → v.getLsbD 0 = false →
      (bit (rd u rHifStatus) 0 = true → (∀ m ∈ (qp u q).mans, m.stage = 0) → (∀ e ∈ (qp u q).waiting, e.1.kind = 4) → (∀ e ∈ u.ctxs, e.2.qp = q.val → qpPtn u q ≠ e.1 / 16) →
        exec (.qpDisable q v w) s = .next { setFld u (rHifQpcfg q) 0 0 0 with qps := tput u.qps q { sqHead := (qp u q).sqHead, sqTail := (qp u q).sqTail, cqHead := (qp u q).cqHead, cqTail := (qp u q).cqTail } })
      ∧ ((bit (rd u rHifStatus) 0 = false ∨ (∃ m ∈ (qp u q).mans, m.stage = 1) ∨ ∃ e ∈ u.ctxs, e.2.qp = q.val ∧ qpPtn u q = e.1 / 16) →
        exec (.qpDisable q v w) s = .next (reject u 13 (rHifQpcfg q))))

/-- MANIFEST_NOP, STREAM_OPEN, STREAM_CLOSE, STREAM_FREE, COPY_IN, COPY_IN_LAND, COPY_OUT, SNAP_READ (15 R378 to R387, 18 R463). -/
def Obligations.StreamAndCopyManifests : Prop :=
  ∀ (q : Fin 64) (s u : State) (m : Man) (k : Nat), k = manCtx u q m →
    (nextMan s q = some m → (fieldB m.slot 0 1 = 0 ∨ 11 < fieldB m.slot 0 1) →
      exec (.manifestNop q) s = .next (finishMan (setMan s q m.seq (fun x => { x with stage := 1 })) q m.seq
        (if fieldB m.slot 0 1 = 0 ∧ manHeadBad m.slot = false ∧ zeroB m.slot 16 128 = true then 0 else 1)))
    ∧ (manUp s q 3 0x24 m u → exec (.streamOpen q) s = .next (openMan u q m))
    ∧ (∀ x st, manUp s q 4 0x12 m u → psnStream u (k / 16) (k % 16) (fieldB m.slot 0x10 2) = some (x, st) → st.st = .opened →
      exec (.streamClose q) s = .next (closeStream (modStream u x (fun y => { y with man := some (q.val, m.seq) })) x))
    ∧ (∀ x st, manUp s q 5 0x12 m u → psnStream u (k / 16) (k % 16) (fieldB m.slot 0x10 2) = some (x, st) → st.st = .failed →
      exec (.streamFree q) s = .next (finishMan { u with streams := tdel u.streams x } q m.seq 0))
    ∧ (∀ d, manUp s q 6 0x2C m u → copyCheck u q m true = 0 → (∀ z f, copyWay u (qpPtn u q) (fieldB m.slot 0x18 8) (fieldB m.slot 0x20 8) ≠ .sealed z f) →
      exec (.copyIn q (some d)) s = .next (hbmUse (devWrite u (fieldB m.slot 0x18 8) (padTo (fieldB m.slot 0x20 8) d)) (qpPtn u q) (fieldB m.slot 0x18 8) (fieldB m.slot 0x20 8)))
    ∧ (∀ n w, (qp s q).mans.find? (fun m => m.stage = 1 && fieldB m.slot 0 1 = 6) = some m → n = fieldB m.slot 0x2B 1 → w = finishMan s q m.seq 0 (copyResult (fieldB m.slot 0x20 8) 0) →
      exec (.copyInLand q) s = .next (if n = 0 then w else landSig w (manCtx w q m) (fieldB m.slot 0x28 2) (fieldB m.slot 0x2A 1) n (0xC0000000 + q.val)))
    ∧ (manUp s q 7 0x2C m u → (∀ y ∈ (qp s q).mans, y.stage = 1 → fieldB y.slot 0 1 ≠ 7) → copyCheck u q m false = 0 → (∀ z f, copyWay u (qpPtn u q) (fieldB m.slot 0x18 8) (fieldB m.slot 0x20 8) ≠ .sealed z f) →
      (∀ i < fieldB m.slot 0x20 8 / 64, u.poison.contains (fieldB m.slot 0x18 8 / 64 + i) = false) →
      exec (.copyOut q) s = .next (finishMan (hostWrite (hbmUse u (qpPtn u q) (fieldB m.slot 0x18 8) (fieldB m.slot 0x20 8)) (fieldB m.slot 0x10 8) (outBytes u (qpPtn u q) (fieldB m.slot 0x18 8) (fieldB m.slot 0x20 8))) q m.seq 0
        (copyResult (fieldB m.slot 0x20 8) 0)))
    ∧ (∀ corr bad l w b, manUp s q 8 0x20 m u → hostBad (fieldB m.slot 0x10 8) = false → l = snapFit (fieldB m.slot 0x18 8) (part u (qpPtn u q)).snap.written →
      w = l.foldl (fun t e => gddrReport t (snapBase t (qpPtn u q) + e.1) e.2 0 bad) (gddrReport u 0 0 corr []) →
      b = l.flatMap (fun e => streamBytes w (snapBase w (qpPtn u q) + e.1) e.2) →
      exec (.snapRead q corr bad) s = .next (finishMan (hostWrite w (fieldB m.slot 0x10 8) b) q m.seq 0 (leBytes 8 b.length ++ leBytes 4 l.length ++ leBytes 4 0 ++ leBytes 8
        (match l.getLast? with | some e => if e.1 + e.2 ≥ snapLen w (qpPtn u q) then 0 else (e.1 + e.2) / 64 | none => fld w (rSnapPtr (qpPtn u q)) 60 32))))

/-- RoCE manifests and packets (13 R340, R341, 18 R463). The keys and the reduced rate are the model's (log entries 5, 33). -/
def Obligations.RoceRows : Prop :=
  (∀ (q : Fin 64) (s u : State) (m : Man), manUp s q 9 0x50 m u →
    (∀ i key port, s.sec.entWait = false → fieldB m.slot 0x10 1 = 0 → port = fieldB m.slot 0x11 1 → fieldB m.slot 0x12 1 ≤ 2 → fieldB m.slot 0x13 1 = 0 → fieldB m.slot 0x14 4 = 0 → zeroB m.slot 0x28 0x50 = true →
      (port < 4 ∨ (16 ≤ port ∧ port < 20)) → bit (rd u (rNetPortcfg port)) 4 = true → fieldB m.slot 0x20 8 ≠ 0 →
      inPtn u (qpPtn u q) (fieldB m.slot 0x18 8) (fieldB m.slot 0x18 8 + fieldB m.slot 0x20 8) = true → inSeal u (qpPtn u q) (fieldB m.slot 0x18 8) (fieldB m.slot 0x20 8) = false →
      (rangeFrom (256 * (port / 16)) 256).find? (fun i => !thas u.roce i) = some i → key = Config.entropy u.draws % 2 ^ 32 →
      exec (.roceCreate q) s = .next (finishMan { drawn u 1 with roce := tput u.roce i { qp := q, part := qpPtn u q, port := port, mtu := fieldB m.slot 0x12 1, base := fieldB m.slot 0x18 8, len := fieldB m.slot 0x20 8, rkey := key } } q m.seq 0 (roceResult i key)))
    ∧ (∀ n x, fieldB m.slot 0x10 1 = 1 → zeroB m.slot 0x11 0x14 = true → zeroB m.slot 0x18 0x28 = true → zeroB m.slot 0x40 0x50 = true → fieldB m.slot 0x38 4 < 2 ^ 24 → fieldB m.slot 0x3C 4 < 2 ^ 24 →
      manRoce u q m = some (n, x) → x.conn = false →
      exec (.roceConnect q) s = .next (finishMan (modRoce u n (fun y =>
        { y with conn := true, rgid := sliceB m.slot 0x28 16, rqpn := fieldB m.slot 0x38 4, sndPsn := fieldB m.slot 0x3C 4 })) q m.seq 0 (roceResult n x.rkey)))
    ∧ (∀ n x, fieldB m.slot 0x10 1 = 2 → zeroB m.slot 0x11 0x14 = true → zeroB m.slot 0x18 0x50 = true → manRoce u q m = some (n, x) →
      exec (.roceDestroy q) s = .next (finishMan (x.posts.foldl (fun s e => finishMan s e.q e.seq 4) { u with roce := tdel u.roce n }) q m.seq 0 (roceResult n x.rkey)))
    ∧ (∀ r ∈ [((Instr.rocePostSend : Fin 64 → Instr), 0), (.rocePostRdmaWrite, 1), (.rocePostRdmaWriteImm, 2), (.rocePostRdmaRead, 3)], ∀ i x last a n,
      fieldB m.slot 0x10 1 = 3 → fieldB m.slot 0x13 1 = r.2 → zeroB m.slot 0x11 0x13 = true → zeroB m.slot 0x28 0x40 = true → (r.2 = 0 → zeroB m.slot 0x40 0x4C = true) → (r.2 ≠ 2 → zeroB m.slot 0x4C 0x50 = true) →
      manRoce u q m = some (i, x) → x.conn = true → a = fieldB m.slot 0x18 8 → n = fieldB m.slot 0x20 8 → inPtn u (qpPtn u q) a (a + n) = true →
      (r.2 ≠ 3 → devPoison u a n = false) → last = psnAdd x.sndPsn (rocePkts x n - 1) →
      exec (r.1 q) s = .next (sendPost (modRoce u i (fun y => { y with sndPsn := psnAdd last 1, posts := y.posts ++ [⟨q, m.seq, r.2, x.sndPsn, last, m.slot⟩] })) i x ⟨q, m.seq, r.2, x.sndPsn, last, m.slot⟩)))
  ∧ (∀ (port : Fin 32) (k : RocePkt) (s w u : State) (x : RoceQp), bit (rd s (rNetPortcfg port)) 4 = true → k.udp = 4791 → frameIn s port k.fcsOk k.ipOk k.icrcOk 1 0 → w = arrived s port →
    tget w.roce k.qpn = some x → x.port / 16 = port.val / 16 → x.conn = true → u = (if k.ce then emitRoce w x (roceCtl 6 0) else w) →
    exec (.rocePacket port k) s = .next (if k.kind = 4 then roceAck u k.qpn k.psn x else if k.kind = 5 then roceResponse u k.qpn k x
      else if k.kind = 6 then modRoce { u with draws := u.draws + 1 } k.qpn (fun y => { y with cnps := y.cnps + 1, gap := y.gap + 1 + Config.roceGap u.draws })
      else if k.kind = 7 then x.posts.foldl (fun s e => sendPost s k.qpn x e) (modRoce u k.qpn (fun y => { y with wait := [] }))
      else if k.kind ≤ 3 then roceRequest u k.qpn k x else u))

/-- WARD_TOLL, WARD_VERDICT, WARD_RESET, WARD_TUNNEL, TOLL_RESEND, TOLL_VERDICT_TIMEOUT (17 R433 to R439, 15 R398). -/
def Obligations.WardRows : Prop :=
  (∀ (port : Fin 32) (w : WardFrame) (t a s : State), frameIn t port w.fcsOk w.ipOk w.icrcOk 1 11 → 1 ≤ w.op ∧ w.op ≤ 4 → a = arrived t port → s = wardWake a port → keyed a = true → w.path.length ≤ w.pidx → w.target = a.prof.node →
    (∀ k c, tagFits a w 1 = true → s.ctxs.find? (fun e => tollRuns e.2 && e.2.rank = 0 && e.2.ranks.contains w.source && tollStep s e.1 e.2 w.step && (w.step = e.2.step || thas e.2.tollIn w.step)) = some (k, c) →
      exec (.wardToll port w) t = .next (rootToll s k w.step (c.ranks.findIdx (· = w.source)) w.t))
    ∧ (∀ k c, tagFits a w 2 = true → s.ctxs.find? (fun e => tollRuns e.2 && e.2.ranks.getD 0 0 = w.source && (match e.2.toll with | some t => t.step = w.step && t.verdict.isNone | none => false)) = some (k, c) →
      exec (.wardVerdict port w) t = .next (if c.st = 2 then takeVerdict s k w.step w.code w.stop w.equal
        else modCtx s k (fun c => { c with toll := c.toll.map (fun t => { t with verdict := some (w.code, w.stop, w.equal) }) })))
    ∧ (tagFits a w 3 = true → rd s rWard < w.counter → exec (.wardReset port w) t = .next (tryBoot (setReg (resetNow s false) rWard w.counter)))
    ∧ (tagFits a w 3 = true → w.counter ≤ rd s rWard → exec (.wardReset port w) t = .next (rejectWard s))
    ∧ (∀ n, tagFits a w 4 = true → s.prof.role = 1 → peerOfNode s w.source = some n →
      exec (.wardTunnel port w) t = .next (fromTunnel s n (tunOf (beNat (w.tunnel.take 6)) (w.tunnel.drop 6))))
    ∧ (tagFits a w 4 = true → s.prof.role ≠ 1 →
      exec (.wardTunnel port w) t = .next (fromTunnel { s with chain := { s.chain with gate := some (port.val, w.source, w.target) } } 0 (tunOf (beNat (w.tunnel.take 6)) (w.tunnel.drop 6))))
    ∧ (tagFits a w 1 = false → exec (.wardToll port w) t = .next (rejectWard a)) ∧ (tagFits a w 2 = false → exec (.wardVerdict port w) t = .next (rejectWard a))
    ∧ (tagFits a w 3 = false → exec (.wardReset port w) t = .next (rejectWard a)) ∧ (tagFits a w 4 = false → exec (.wardTunnel port w) t = .next (rejectWard a)))
  ∧ (∀ (p : Fin 8) (s : State) (k : Nat) (c : Ctx) (t : Toll), tollDue s p = some (k, c, t) → exec (.tollResend p) s = .next (sendToll s k c t))
  ∧ (∀ (p : Fin 8) (s : State) (k : Nat) (c : Ctx) (t : Toll), resident s p = some (k, c) → c.toll = some t →
    (∀ n, t.dueCount = some n → n + musterTimeout s c ≤ (part s p).points → exec (.tollVerdictTimeout p) s = .next (fault1 s k { cause := 0x1E, unit := 13, d0 := musterD0 c })))

/-- PEER_RESET, VF_FLR, PEER_READ_TIMEOUT (15 R372, R374, R398, R399). -/
def Obligations.PeerRows : Prop :=
  ∀ (n : Fin 64) (s : State),
    (∀ w u, accepts s w = true → u = barWake s w → u.prof.role = 1 → n.val ≠ 0 → bit (rd u rHifStatus) 0 = true → exec (.peerReset n w) s = .next (resetPeer u n))
    ∧ (∀ t, vfOn s n = true → exec (.vfFlr n t) s = .next (resetPeer (if tdiTakes s n t then s else tdiError s n) n))
    ∧ (∀ off wide u, vfOn s n = true → u = toTunnel s n 3 off.toNat [byte (if wide then 8 else 4)] → exec (.peerReadTimeout n off wide) s = .next (setEvent (setFld
      { u with out := u.out ++ [.pcie n (List.replicate (if wide then 8 else 4) 0xFF)], chain := { u.chain with cut := sput u.chain.cut n.val } } rHifPeerstat n n 0) 2))

/-- CVT_DATA, CVT_CHIME, CVT_CLOSE, CVT_ACK, CVT_SACK and the checks of a port (13 R315 to R321, R343). -/
def Obligations.CvtStreamFrames : Prop :=
  ∀ (port : Fin 32) (f : CvtFrame) (s : State),
    (∀ st u, meetsStream s port f st → u = heard s port f.dsidx →
      (∀ r ∈ [((Instr.cvtData : Fin 32 → CvtFrame → Instr), 0), (.cvtChime, 1), (.cvtClose, 7)],
        exec (r.1 port f) s = .next (rxSeq (takeAck u f.dsidx { f with type := r.2 } none) port f.dsidx { f with type := r.2 }))
      ∧ exec (.cvtAck port f none) s = .next (takeAck u f.dsidx f (some (bit f.flags 2)))
      ∧ (∀ rtt, exec (.cvtAck port f (some rtt)) s = .next (takeAck (takeDist (takeRtt u f.dsidx rtt) f.dsidx f.hop) f.dsidx f (some (bit f.flags 2))))
      ∧ (∀ got w, got = (List.range 256).filter (fun i => bit (fieldB f.payload (i / 8) 1) (i % 8)) → w = takeAck u f.dsidx f none →
        (got = [] → exec (.cvtSack port f) s = .next w)
        ∧ (∀ last, got.getLast? = some last → exec (.cvtSack port f) s = .next (resend w f.dsidx (fun g =>
            decide (seqDiff f.ack g.seq < last + 1) && !(decide (seqDiff f.ack g.seq ≥ 1) && got.contains (seqDiff f.ack g.seq - 1)))))))
    ∧ (frameIn s port f.fcsOk f.ipOk f.icrcOk f.ver f.type →
      (stream s f.dsidx = none ∨ ∃ st, stream s f.dsidx = some st ∧ (dieOfSidx f.dsidx ≠ port / 16 ∨ st.peer ≠ f.node ∨ st.peerIdx ≠ f.ssidx)) →
      ∀ r ∈ [(Instr.cvtData : Fin 32 → CvtFrame → Instr), .cvtChime, .cvtClose, .cvtSack], exec (r port f) s = .next (satFld (arrived s port) (rNetPorterr port) 63 48 1))
    ∧ (portUp s port = true → f.fcsOk = true → shimOk s port = true → (f.ipOk = false ∨ f.ver = 1 ∧ f.type < 12 ∧ f.icrcOk = false) →
      ∀ r ∈ [(Instr.cvtData : Fin 32 → CvtFrame → Instr), .cvtChime, .cvtClose, .cvtSack, .cvtOpen, .cvtAccept, .cvtRefuse, .cvtProbe],
        exec (r port f) s = .next (satFld (shimTaken s port) (rNetPorterr port) 47 32 1))
    ∧ (portUp s port = true → f.fcsOk = true → shimOk s port = true → f.ipOk = true → (f.ver ≠ 1 ∨ 12 ≤ f.type) →
      ∀ r ∈ [(Instr.cvtData : Fin 32 → CvtFrame → Instr), .cvtChime, .cvtClose, .cvtSack, .cvtOpen, .cvtAccept, .cvtRefuse, .cvtProbe],
        exec (r port f) s = .next (satFld (shimTaken s port) (rNetPorterr port) 63 48 1))
    ∧ (∀ st x, stream s x = some st → st.st = .opened → f.type ≠ 7 → f.seq = st.rcvNxt → rxReady s st = true → f.ce = false → cteStops s st f = false → ∀ u, u = applyHeld 256 (applyFrame s port x f) port x →
      heldClose u x = false → ∀ y, stream u x = some y → y.st ≠ .failed → rxSeq s port x f = if 8 ≤ y.unacked then sendAck u x 0 else u)

/-- CVT_OPEN, CVT_ACCEPT, CVT_REFUSE and the timers of a stream (13 R317 to R323, 15 R382). Drawn numbers are free values (log entry 5). -/
def Obligations.StreamOpening : Prop :=
  (∀ (port : Fin 32) (f : CvtFrame) (s t : State), frameIn s port f.fcsOk f.ipOk f.icrcOk f.ver f.type → t = arrived s port →
    (∀ x st u, u = tunReset t (port / 16) f → u.streams.find? (fun e => (dieOfSidx e.1 = port / 16 && e.2.jobkey = beNat (sliceB f.payload 0 8) && e.2.psn = beNat (sliceB f.payload 8 2) && e.2.peer = f.node) && e.2.st = .listen) = some (x, st) →
      u.sec.entWait = false → exec (.cvtOpen port f) s = .next (sendAccept (openedStream (modStream (drawn u 1) x
        (fun st => { st with sndUna := Config.entropy u.draws % 2 ^ 32 })) x f.ssidx (beNat (sliceB f.payload 10 4)) f.credit) x))
    ∧ (∀ st, stream t f.dsidx = some st → dieOfSidx f.dsidx = port / 16 → st.peer = f.node → st.st = .opening →
      (st.jobkey = beNat (sliceB f.payload 0 8) → st.psn = beNat (sliceB f.payload 8 2) → exec (.cvtAccept port f) s = .next (openedStream t f.dsidx f.ssidx (beNat (sliceB f.payload 10 4)) f.credit))
      ∧ (1 ≤ fieldB f.payload 0 1 → fieldB f.payload 0 1 ≤ 3 →
        exec (.cvtRefuse port f) s = .next (dropOpening t f.dsidx (if fieldB f.payload 0 1 = 1 then 6 else if fieldB f.payload 0 1 = 2 then 8 else 7)))))
  ∧ (∀ (x : Fin 16384) (s : State) (st : Stream), stream s x = some st →
    (0 < st.unacked → st.st ≠ .failed → exec (.ackDelayTimer x) s = .next (sendAck s x 0))
    ∧ (st.st = .opening → s.sec.entWait = false → exec (.openResend x) s = .next (sendOpen s x))
    ∧ ((st.st = .opening ∨ st.st = .listen) → st.coll = none → exec (.streamOpenTimeout x) s = .next (dropOpening s x 9))
    ∧ (∀ (seq : BitVec 32) f, st.tx.find? (fun f => f.seq = seq.toNat && f.sent) = some f → st.peerPark = false → st.st ≠ .failed →
      (f.tries + 1 < fld s (rNetCvtcfg (dieOfSidx x)) 55 48 → exec (.rtoExpiry x seq) s = .next (modStream s x (fun y =>
        { y with rto := if y.rto ≥ 4000000 then y.rto else min (2 * y.rto) 4000000, tx := y.tx.map (fun g => if g.seq = f.seq then { g with tries := g.tries + 1, again := true } else g) })))
      ∧ (fld s (rNetCvtcfg (dieOfSidx x)) 55 48 ≤ f.tries + 1 → exec (.rtoExpiry x seq) s = .next (failStream s x))))

/-- Rows of a port (13 R309 to R313, R324, R336 to R338). -/
def Obligations.PortRows : Prop :=
  ∀ (n : Fin 32) (s : State),
    (portEn s n = true → (portSt s n).link = false → portPowered s n = true →
      (bit (rd s (rNetPortcfg n)) 3 = false → exec (.portLinkUp n) s = .next (setFld (modPort s n (fun p => { p with link := true })) (rNetPortstat n) 0 0 1))
      ∧ (bit (rd s (rNetPortcfg n)) 3 = true → exec (.portLinkUp n) s = .next (sendHello (modPort s n (fun p => { p with link := true })) n)))
    ∧ (((portSt s n).link = true ∨ portUp s n = true) → exec (.portLinkDown n) s = .next (portDown s n))
    ∧ ((portSt s n).link = true → bit (rd s (rNetPortcfg n)) 3 = true → llrOn s n = false →
      (∀ (node : Fin 1048576) (peer : Fin 32), exec (.llrHello n node peer true) s = .next (sendHello (setFld (setFld (setFld
        (modPort s n (fun p => { p with lseq := 0, expect := 0, replay := [], shimIn := 0, nak := false })) (rNetPortstat n) 21 2 node) (rNetPortstat n) 26 22 peer) (rNetPortstat n) 1 0 3) n))
      ∧ exec (.llrHelloTimer n) s = .next (sendHello (setFld s (rNetPortstat n) 0 0 1) n))
    ∧ (llrOn s n = true → ∀ (lseq lack : BitVec 16) (flags : BitVec 8),
      (bit flags.toNat 6 = true → exec (.llrFrame n lseq lack flags true) s = .next (if bit flags.toNat 7 then linkReplay (takeLack s n lack.toNat) n else takeLack s n lack.toNat))
      ∧ (bit flags.toNat 6 = false → lseq.toNat = (portSt s n).expect →
        ∀ t, t = takeLack (modPort s n (fun p => { p with expect := (p.expect + 1) % 65536, shimIn := p.shimIn + 1, nak := false })) n lack.toNat →
        exec (.llrFrame n lseq lack flags true) s = .next (if bit flags.toNat 7 then linkReplay t n else t))
      ∧ (bit flags.toNat 6 = false → lseq.toNat ≠ (portSt s n).expect → exec (.llrFrame n lseq lack flags true) s = .next (nakPort (satFld s (rNetPorterr n) 63 48 1) n))
      ∧ exec (.llrFrame n lseq lack flags false) s = .next (nakPort (satFld s (rNetPorterr n) 15 0 1) n)
      ∧ exec (.llrNak n lack) s = .next (linkReplay (takeLack s n lack.toNat) n)
      ∧ exec (.llrCtrlTimer n) s = .next (queueCtl s n 0x40 [])
      ∧ exec (.llrAckTimeout n) s = .next (linkReplay s n))
    ∧ (portUp s n = true →
      (∀ dest, exec (.probeTimer n dest) s = .next (sendProbe s n (if llrOn s n then fld s (rNetPortstat n) 21 2 else dest) 8 (padTo 64 (beBytes 8 s.cycle))))
      ∧ (∀ (f : CvtFrame) t, frameIn s n f.fcsOk f.ipOk f.icrcOk f.ver f.type → t = arrived s n → exec (.cvtProbe n f) s = .next (sendProbe t n f.node 9 f.payload)
        ∧ exec (.cvtProbeReply n f) s = .next (setFld t (rNetPortstat n) 47 32 (min 65535 (t.cycle - beNat (sliceB f.payload 0 8)))))
      ∧ (∀ pkt out t, shimOk s n = true → fld s rPwrStat 2 0 < 2 → t = shimTaken s n → beNat (sliceB pkt 32 8) / 32 ≠ s.prof.node → beNat (sliceB pkt 24 8) = rd t (rNetPrefix (n / 16)) → 1 < fieldB pkt 7 1 →
        pickPort (sliceB pkt 8 16) (sliceB pkt 24 16) (beNat (sliceB pkt 0 4) % 2 ^ 20) (n / 16) (routeMask t (n / 16) (beNat (sliceB pkt 32 8) / 32)) = some out →
        (transitBytes t out < transitShare out → transitHeld t (out / 16) + pkt.length ≤ 2 ^ 22 →
          exec (.transitFrame n pkt true) s = .next (modPort (satFld t (rNetTransit (out / 16)) 31 0 1) out
            (fun p => { p with transit := p.transit ++ [transitPacket pkt (decide (transitBytes t out * 2 > transitShare out))] })))
        ∧ ((transitShare out ≤ transitBytes t out ∨ 2 ^ 22 < transitHeld t (out / 16) + pkt.length) →
          exec (.transitFrame n pkt true) s = .next (satFld t (rNetTransit (out / 16)) 47 32 1)))
      ∧ (llrOn s n = false → ∀ mac src target, exec (.neighborDiscovery n true mac src target) s = .next (modPort s n (fun p => { p with router := some mac.toNat }))))
    ∧ (∀ (v : BitVec 32) w u, accepts s w = true → u = barWake s w →
      (portEn u n = false → v.getLsbD 0 = true → portCfgOk u n v.toNat = true → exec (.portEnable n v w) s = .next (setReg u (rNetPortcfg n) (v.toNat % 32)))
      ∧ (portEn u n = true → v.getLsbD 0 = false → bits v.toNat 4 1 = fld u (rNetPortcfg n) 4 1 → exec (.portDisable n v w) s = .next (setFld (portDown u n) (rNetPortcfg n) 0 0 0)))

/-- CVU_FEED, CVU_INIT, CVU_MODE_CHANGE, CVU_RUN_LOAD (13 R330, R333). -/
def Obligations.CvuRows : Prop :=
  ∀ (d : Fin 2) (w : Writer) (o s : State), accepts o w = true → s = barWake o w →
    (∀ (c : Fin 4) data, (bit (rd s (rCvuCfg d)) 0 = true → c = 0) →
      (cvuPoly s d c = true → exec (.cvuFeed d c data w) o = .next (setCvu s d c (crc64From (cvuRaw s d c) data)))
      ∧ (cvuPoly s d c = false → exec (.cvuFeed d c data w) o = .next (setCvu s d c (data.foldl crc32cByte (cvuRaw s d c % 2 ^ 32)))))
    ∧ (∀ v : BitVec 32, (bit (rd s (rCvuCfg d)) 0 = bit v.toNat 0 →
        exec (.cvuInit d v w) o = .next (writeThen s (rCvuCfg d) v.toNat (fun s => (setBitsOf 4 (bits v.toNat 8 5)).foldl (fun s c => cvuInit s d c) s)))
      ∧ (bit (rd s (rCvuCfg d)) 0 ≠ bit v.toNat 0 →
        exec (.cvuModeChange d v w) o = .next (writeThen s (rCvuCfg d) v.toNat (fun s => (List.range 4).foldl (fun s c => cvuInit s d c) s))))
    ∧ (∀ c < 4, cvuRaw (cvuInit s d c) d c = if cvuPoly s d c then 0 else 0xFFFFFFFF)
    ∧ (∀ v : BitVec 64, (bit (rd s (rCvuCfg d)) 0 = true → exec (.cvuRunLoad d v w) o = .next (setCvu s d 0 v.toNat)) ∧ (bit (rd s (rCvuCfg d)) 0 = false → exec (.cvuRunLoad d v w) o = .next s))

/-- HBM rows (12 R281 to R292, R298, R299, 17 R442). -/
def Obligations.HbmRows : Prop :=
  (∀ (a : BitVec 48) err pw later (s : State), a.toNat < hbmEnd → stackOn s (hbmStack a.toNat) = true →
    exec (.hbmSectorRead a err pw later) s = .next (sectorRead (wordFlip s (rawBlockOf a.toNat) pw) a.toNat err later))
  ∧ (∀ (h : Fin 8) errs pw later (s u w : State) n b t, bit (rd s (rMemScrub (h / 4))) 0 = true → stackOn s h = true → fld s rPwrStat 2 0 < 2 → patrolReady s h = true →
    n = tgetD s.scrubPos h 0 → b = h.val * stackBlocks + n % stackBlocks →
    u = (List.range 15).foldl (fun t i => sectorRead t ((blockSectors b).getD i 0) (errs.getD i []) (later.getD i false)) (wordFlip s b pw) →
    t = (match tget s.scrubAt h with | none => s.cycle | some (t, _) => if n % stackBlocks = 0 then t + patrolCycles s (h / 4) else t) →
    w = { u with
      scrubPos := tput u.scrubPos h (n + 1)
      scrubAt := tput u.scrubAt h (t, u.cycle)
      scrubLate := patrolBehind u h t (n % stackBlocks + 1) } →
    exec (.scrubRead h errs pw later) s = .next (setFld w (rMemScrub (h / 4)) 31 16 ((rangeFrom (4 * (h / 4)) 4).foldl (fun a i => min a (tgetD w.scrubPos i 0 / stackBlocks)) 0xFFFF)))
  ∧ (∀ (h : Fin 8) n (s : State), stackState s h ≠ 0 → exec (.innerEccPoll h n) s = .next (satFld s (rMemEcc h) 63 48 n))
  ∧ (∀ (h : Fin 8) (s : State), stackState s h ≠ 0 → stackState s h ≠ 3 → exec (.hbmStackFail h) s = .next
    ((ctxsInHalf s (h.val / 4)).foldl (fun s k => fault1 s k { cause := 0x1C, unit := 8, d0 := 2 ^ 32 - 1, d1 := 2 ^ 32 - 1 }) (setStack s h 3)))
  ∧ (∀ (d : Fin 2) w (o s : State), accepts o w = true → s = barWake o w →
    exec (.poisonlogClear d w) o = .next (setFld s (rMemPoisonlog d) 62 48 0)
    ∧ ((d = 1 → s.chain.die1Bad = false) →
      ((∀ p < 8, ptnRuns s p = false ∨ halfBase d + hbmHalf ≤ (ptnHbm s p).1 ∨ (ptnHbm s p).2 ≤ halfBase d) →
        exec (.mboxTake d w) o = .next (setErr (setFld s (rMboxCtl d) 2 2 1) d 0))
      ∧ exec (.mboxRelease d w) o = .next (setErr (setFld s (rMboxCtl d) 2 2 0) d 0))
    ∧ (∀ v : BitVec 64, exec (.eccLog d v w) o = .next (mboxStart s d 1 v.toNat) ∧ exec (.sppr d v w) o = .next (mboxStart s d 2 v.toNat)
      ∧ exec (.hppr d v w) o = .next (mboxStart s d 3 v.toNat) ∧ exec (.pcSpare d v w) o = .next (mboxStart s d 4 v.toNat)
      ∧ exec (.mbist d v w) o = .next (mboxStart s d 5 v.toNat) ∧ exec (.readMr d v w) o = .next (mboxStart s d 6 v.toNat)))
  ∧ (∀ (d : Fin 2) cmd v (s : State), bits v 7 0 = cmd → bit (rd s (rMboxCtl d)) 3 = false → (d = 1 → s.chain.die1Bad = false) →
    mboxStart s d cmd v = writeThen s (rMboxCmd d) v (fun s =>
      if cmd ≠ 6 && !bit (rd s (rMboxCtl d)) 2 then setErr s d 5
      else setErr (setFld { s with mbox := tput s.mbox d (mboxOf v) } (rMboxCtl d) 3 3 1) d 0))
  ∧ (∀ (d : Fin 2) data fail (s u : State) c h, h = 4 * d.val + c.stack → tget s.mbox d = some c → u = setFld { s with mbox := tdel s.mbox d } (rMboxCtl d) 3 3 0 →
    ((c.cmd = 1 ∨ c.cmd = 5 ∨ c.cmd = 6) → exec (.mboxCmdDone d data fail) s = .next (setErr (setReg u (rMboxData d) data.toNat) d 0))
    ∧ ((c.cmd = 2 ∨ c.cmd = 3) → exec (.mboxCmdDone d data fail) s = .next (setErr (poisonPc u h c.pc) d (if fail then 4 else 0)))
    ∧ (c.cmd = 4 → fld u (rMemHstat h) 15 14 < 2 ∨ u.spared.contains (h, c.pc) = true → exec (.mboxCmdDone d data false) s = .next (setErr (sparePc (poisonPc u h c.pc) h c.pc) d 0))
    ∧ (c.cmd = 4 → 2 ≤ fld u (rMemHstat h) 15 14 → u.spared.contains (h, c.pc) = false → exec (.mboxCmdDone d data fail) s = .next (setErr u d 3)))

/-- Power rows (12 R295 to R297, 19 R469 to R474, R482 to R484). -/
def Obligations.PowerRows : Prop :=
  ∀ (s : State),
    (∀ (v : BitVec 32) w, accepts s w = true → bits v.toNat 2 0 ≤ 4 → bits v.toNat 31 16 ≠ 0 →
      exec (.powerTarget v w) s = .next (requestState (setReg s rPwrCtl (bits v.toNat 3 0 + at_ (bits v.toNat 31 16) 16)) (bits v.toNat 2 0)))
    ∧ (∀ (v : BitVec 32) w, accepts s w = true → (4 < bits v.toNat 2 0 ∨ bits v.toNat 31 16 = 0) → exec (.powerTarget v w) s = .next (reject s 16 rPwrCtl))
    ∧ (∀ (lpi : BitVec 32) pme, (∀ u, s.power.entering = true → u = entryStep s (s.power.steps + 1) lpi pme →
        (s.power.leaving = false → exec (.powerStepDone lpi pme) s = .next (syncPower { u with power := { s.power with steps := s.power.steps + 1, entering := decide (s.power.steps + 1 < s.power.goal) } }))
        ∧ (s.power.leaving = true → exec (.powerStepDone lpi pme) s = .next (syncPower { u with power := { s.power with steps := s.power.steps + 1, entering := false, leaving := decide (s.power.goal < s.power.steps + 1) } })))
      ∧ (s.power.entering = false → s.power.leaving = true → s.power.steps = 8 → s.pins.drumLost = true → exec (.powerStepDone lpi pme) s = .next (drumLoss s))
      ∧ (∀ u, s.power.entering = false → s.power.leaving = true → (s.power.steps = 8 → s.pins.drumLost = false) → u = exitStep s s.power.steps →
        (s.power.goal < s.power.steps - 1 → exec (.powerStepDone lpi pme) s = .next (syncPower { u with power := { s.power with steps := s.power.steps - 1 } }))
        ∧ (s.power.steps - 1 ≤ s.power.goal → ∀ y, y = syncPower { u with power := { s.power with steps := s.power.steps - 1, leaving := false, queued := none } } →
          exec (.powerStepDone lpi pme) s = .next (match s.power.queued with | some t => requestState y t | none => y))))
    ∧ (begunState s.power ≠ 0 → exec (.powerWake 1) s = .next (wake s 1 0) ∧ (begunState s.power = 1 → exec (.powerWake 3) s = .next (wake s 3 0))
      ∧ (begunState s.power = 3 → exec (.powerWake 4) s = .next (wake s 4 0))
      ∧ (1 < s.power.steps ∨ s.power.entering = true ∧ 1 < s.power.goal → exec (.powerWake 5) s = .next (wake s 5 1)))
    ∧ (∀ t, s.power.idleAt = some t → t * 1000 + fld s rPwrCtl 31 16 * msCycles s ≤ s.cycle * 1000 → bit (rd s rPwrCtl) 3 = true → moving s = false → s.power.steps = 0 → idleRow s = true →
      exec .autoRestTimer s = .next (syncPower { s with power := { s.power with entering := true, goal := 1 } }))
    ∧ (bit (rd s rPwrStat) 10 = true → exec .hbmRewriteDone s = .next (setFld (devZero s 0 hbmEnd) rPwrStat 10 10 0))
    ∧ (∀ m x u w, x = sensorRegs m s → u = (if cadOn s && !cadOn x then { x with thermal := { x.thermal with cadEnd := x.cycle } } else x) → w = (if cadOn u && !cadOn s then (List.range 8).foldl raiseCadence u else u) →
      exec (.sensorPoll m) s = .next (if stepStarts s.thermal u.thermal then thermalWake w else w))
    ∧ (∀ m u h, u = sensorRegs m s → h = pollThermal s.thermal (maxOf ((List.range 8).map (stackTemp s m))) (max (maxOf (m.dies.take 8)) (maxOf ((m.dies.drop 8).take 8))) m.power (fld s rPwrLimit 11 0) →
      u.thermal.hbmCad = h.hbmCad ∧ u.thermal.hbmThr = h.hbmThr ∧ u.thermal.pkgCad = h.pkgCad ∧ u.thermal.pkgThr = h.pkgThr)
    ∧ (∀ (p : Fin 8) k c, cadOn s = true → resident s p = some (k, c) → raiseDue s (part s p) = true → exec (.cadenceRaise p) s = .next (raiseCadence s p))
    ∧ (∀ (p : Fin 8) k c, cadOn s = false → resident s p = some (k, c) → lowerDue s (part s p) = true → c.kMan < (part s p).kWant →
      exec (.cadenceLower p) s = .next (cadenceVote (modPart s p (fun x => { x with kWant := x.kWant - 1, kLowered := s.cycle })) k))
    ∧ (∀ (p : Fin 8) k c, resident s p = some (k, c) → (part s p).kWant < 26 → raiseCadence s p = cadenceVote (modPart s p (fun x =>
      { x with kWant := x.kWant + 1, kRaised := if x.kWant + 1 ≤ ptnK s p then some s.cycle else none })) k)
    ∧ (thrOn s = true → fld s rMemCadence 26 24 < 7 → s.thermal.dutyAt + 10 * msCycles s ≤ s.cycle →
      exec .throttleDutyStep s = .next { setFld s rMemCadence 26 24 (fld s rMemCadence 26 24 + 1) with thermal := { s.thermal with dutyAt := s.cycle } })
    ∧ (∀ u, thrOn s = true → fld s rMemCadence 26 24 ≠ 0 → s.thermal.thrNext ≤ s.cycle →
      u = raiseHold { s with thermal := { s.thermal with thrNext := s.cycle + 8192 } } 15 0 6 0 none s.run 0 (some (s.cycle + fld s rMemCadence 26 24 * 1024)) →
      exec .throttleWindow s = .next (gateEval (u.parts.foldl (fun s e => match resident s e.1 with | some (k, _) => recFlag s k 1 | none => s) u)))

/-- Clock and supervision rows (17 R440 to R443, 19 R475 to R477, 20 R492 to R495). -/
def Obligations.ClockRows : Prop :=
  ∀ (s : State),
    (s.power.steps ≠ 8 → ∃ t, exec .drumRefLoss s = .next t ∧ t.boot.held = max 2 s.boot.held ∧ bit (rd t rPwrStat) 14 = true)
    ∧ (s.power.steps = 8 → exec .drumRefLoss s = .next { s with pins := { s.pins with drumLost := true } })
    ∧ (∀ u, u = { s with pins := { s.pins with drumLost := false } } → exec .drumRefReturn s = .next (if s.boot.held = 2 then tryBoot { u with boot := { s.boot with held := 1 } } else u))
    ∧ (s.boot.held ≠ 2 → (∀ l, s.refs.lastPulse = some l → s.refs.drum - l ≠ 2 ^ 20 → domain1 s = false →
        exec .drumSyncPulse s = .next (setRefValid { s with refs := { s.refs with good := 0, lastPulse := some s.refs.drum } } false))
      ∧ (∀ l t, s.refs.lastPulse = some l → s.refs.drum - l = 2 ^ 20 → domain1 s = false → s.refs.time = some t → ∀ u,
        u = { s with refs := { s.refs with good := s.refs.good + 1, lastPulse := some s.refs.drum } } →
        exec .drumSyncPulse s = .next (setRefValid { u with refcnt := refTime u t / 2 ^ 20 * 2 ^ 20 % 2 ^ 64, refAcc := 0 } true))
      ∧ (s.refs.lastPulse = none → exec .drumSyncPulse s = .next (samplePulse { s with refs := { s.refs with lastPulse := some s.refs.drum, good := 0 } })))
    ∧ (∀ l, s.refs.lastPulse = some l → l + 2 ^ 21 ≤ s.refs.drum → domain1 s = false →
      exec .drumSyncSilence s = .next (setRefValid { s with refs := { s.refs with good := 0, lastPulse := none } } false))
    ∧ (∀ (ns : BitVec 64) u, u = { s with refs := { s.refs with time := some (ns.toNat, s.refs.drum) } } → exec (.ieee1588TimeUpdate ns) s = .next
      (if domain1 u then setRefValid { u with refcnt := ns.toNat * 10 / 64 % 2 ^ 64, refAcc := 0 } true else if s.refs.good ≥ 1 then setRefValid u true else u))
    ∧ (∀ d : Fin 2, exec (.serdesRefLoss d) s = .next ((rangeFrom (16 * d) 16).foldl (fun s n => if (portSt s n).link || portUp s n then portDown s n else s) s))
    ∧ exec .refclkLoss s = .next { s with pins := { s.pins with pcieUp := false } }
    ∧ (∀ (d : Fin 2) (v : BitVec 32) w u, accepts s w = true → u = barWake s w → bit v.toNat 16 = true →
      exec (.watchdogKick d v w) s = .next (writeThen u (rWdog d) v.toNat (fun s => if w = .mgc d then { s with chain := { s.chain with kicks := tput s.chain.kicks d s.cycle } } else s)))
    ∧ (∀ (d : Fin 2) u, s.boot.held = 0 → (6 ≤ s.power.steps ∨ tgetD s.chain.kicks d 0 + fld s (rWdog d) 15 0 * msCycles s ≤ s.cycle) → (d = 1 → die1Runs s = true) →
      u = orReg { s with chain := { s.chain with kicks := tput s.chain.kicks d s.cycle } } (rWdog d) (2 ^ 17) →
      exec (.watchdogExpire d) s = .next (if d = 0 then romRecovery u else restartDie1 u))
    ∧ (∀ u, die1Runs s = true → u = (if s.chain.die1Bad then resumePasses s else s) →
      exec .die1Heartbeat s = .next { u with chain := { u.chain with die1Bad := false, beat := u.cycle } })
    ∧ (s.boot.held = 0 → die1Runs s = true → s.chain.beat + 10 * msCycles s ≤ s.cycle → exec .die1HeartbeatLoss s = .next (restartDie1 s))
    ∧ (s.chain.die1Bad = true → s.chain.badAt + 100 * msCycles s ≤ s.cycle → exec .die1ReportTimeout s = .next (romRecovery s))
    ∧ (∀ (dir : Fin 2) again n u, s.chain.bridgeDown = false → n = (if again then tgetD s.chain.bridge dir 0 + 1 else 1) →
      u = { s with chain := { s.chain with bridge := tput s.chain.bridge dir n } } →
      (4 ≤ n → ∀ miss, exec (.bridgeReplay dir again miss) s = .next (faultRunning { u with chain := { u.chain with bridgeDown := true } } { cause := 0x1F, unit := 12, d0 := dir }))
      ∧ (n < 4 → exec (.bridgeReplay dir again none) s = .next u
        ∧ ∀ (p : Fin 8) due k c, resident u p = some (k, c) → exec (.bridgeReplay dir again (some (p, due))) s = .next (gateEval (raiseHold u 12 0 2 dir (some k) due (tolOr u p 12 0 0)))))
    ∧ (exec (.jtagInstruction 1) s = .next { s with sec := { s.sec with jtag := 1 } })
    ∧ (exec (.jtagInstruction 2) s = .next { s with sec := { s.sec with jtag := if bit (rd s rBootstat) 8 then 2 else 0 } })

/-- Reset and boot rows (15 R396, 18 R445 to R448, 19 R478 to R481, R483, 20 R487, R490). -/
def Obligations.ResetAndBootRows : Prop :=
  ∀ (s : State),
    (∀ straps tj, exec (.porN true straps tj) s = .next (resetNow { s with pins := { s.pins with por := true, thermTrip := false } } true)
      ∧ (s.pins.por = true → exec (.porN false straps tj) s = .next (releaseInput { s with pins := { s.pins with por := false } } straps tj))
      ∧ exec (.rstN true straps tj) s = .next (resetNow { s with pins := { s.pins with rst := true, thermTrip := false } } false)
      ∧ (s.pins.rst = true → exec (.rstN false straps tj) s = .next (releaseInput { s with pins := { s.pins with rst := false } } straps tj)))
    ∧ (hostStrap s = true → (∀ low, exec (.perstN true low) s = .next (tryBoot (resetNow s false)))
      ∧ exec (.perstN false true) s = .next (resetNow { s with pins := { s.pins with perst := true } } false)
      ∧ (s.pins.perst = true → exec (.perstN false false) s = .next (tryBoot { s with pins := { s.pins with perst := false } })))
    ∧ (∀ rail, (rail = true → s.pins.pwrEn = true ∧ s.pins.railWait = 0) →
      exec (.supplyFault rail true) s = .next (resetNow { s with pins := { s.pins with hbmOut := rail || s.pins.hbmOut, supply := true } } true)
      ∧ (s.pins.supply = true → exec (.supplyFault rail false) s = .next (tryBoot { s with pins := { s.pins with hbmOut := false, supply := false } })))
    ∧ ((s.pins.pwrEn = false ∨ 0 < s.pins.railWait) → ∀ out, exec (.supplyFault true out) s = .next { s with pins := { s.pins with hbmOut := out } })
    ∧ (∀ t, t = orReg (fullReset s false) rPwrStat (2 ^ 15) →
      bit (rd t rPwrStat) 15 = true ∧ exec .thermalTrip s = .next { t with boot := { t.boot with held := 3 }, pins := { t.pins with thermTrip := true } })
    ∧ (∀ w u, accepts s w = true → u = barWake s w → bit (rd u rHifFwctl) 1 = false →
      (fld u rPwrStat 13 11 = 0 → u.boot.step = 3 → exec (.fwPushGo w) s = .next
        (setStage (setReg { u with boot := { u.boot with step := 4, fwAddr := rd u rHifFwaddr, fwLen := rd u rHifFwlen } } rHifFwctl 2) 2))
      ∧ (fld u rPwrStat 13 11 ≠ 0 → exec (.fwPushGo w) s = .next (tryBoot (resetNow u false))))
    ∧ (∀ x : FwPush, bit (rd s rHifFwctl) 1 = true → (x.pkg = none → exec (.fwPushDone x) s = .next (pushFailed s 2 0))
      ∧ (∀ b, x.pkg = some b → (pkgOk b s.boot.fwLen = false → exec (.fwPushDone x) s = .next (pushFailed s 3 1))
        ∧ (pkgOk b s.boot.fwLen = true → pkgSec b 1 = imageBytes x.fw → (x.chainOk = false → exec (.fwPushDone x) s = .next (pushFailed s 3 2))
        ∧ (x.chainOk = true → (ecdsaOk x.signKey (sha384 (pkgSec b 1)) (pkgSec b 2) = false → exec (.fwPushDone x) s = .next (pushFailed s 3 3))
        ∧ (ecdsaOk x.signKey (sha384 (pkgSec b 1)) (pkgSec b 2) = true → (x.recordOk = false ∨ x.devKey ≠ devIdKey x.helper → exec (.fwPushDone x) s = .next (pushFailed s 3 4))
        ∧ (x.recordOk = true → x.devKey = devIdKey x.helper → (ecdsaOk ((pkgSec b 6).take 97) (sha384 (pkgSec b 5)) ((pkgSec b 6).drop 97) = false → exec (.fwPushDone x) s = .next (pushFailed s 3 5))
        ∧ (ecdsaOk ((pkgSec b 6).take 97) (sha384 (pkgSec b 5)) ((pkgSec b 6).drop 97) = true → (x.fw.svn < x.prof.svnMin → exec (.fwPushDone x) s = .next (pushFailed s 3 6))
        ∧ (x.prof.svnMin ≤ x.fw.svn → pkgSec b 5 = profileBytes x.prof → (profileOk s x.prof = false → exec (.fwPushDone x) s = .next (pushFailed s 3 7))
        ∧ (profileOk s x.prof = true → bit (rd s rBootstat) 6 = true → exec (.fwPushDone x) s = .next (takePush s x) ∧ (takePush s x).fw = installFw x ∧ (takePush s x).prof = x.prof ∧ (takePush s x).boot.step = 5)))))))))
    ∧ (s.boot.held = 0 → fld s rPwrStat 13 11 = 0 → ∀ ok bad,
      (s.boot.step = 1 → exec (.bootStepDone ok bad) s = .next (setStage { s with boot := { s.boot with step := 2 } } 1))
      ∧ (s.boot.step = 2 → hostStrap s = true → exec (.bootStepDone ok bad) s = .next { s with boot := { s.boot with step := 3 }, pins := { s.pins with pcieUp := true } })
      ∧ (s.boot.step = 5 → exec (.bootStepDone true bad) s = .next { s with boot := { s.boot with step := 6 }, chain := { s.chain with die1Bad := false, beat := s.cycle, kicks := tput s.chain.kicks 1 s.cycle } } ∧ exec (.bootStepDone false bad) s = .next (setFld s rPwrStat 13 11 5))
      ∧ (s.boot.step = 6 → ∃ t, exec (.bootStepDone ok bad) s = .next t ∧ t.boot.step = if s.boot.warm then 8 else 7)
      ∧ (s.boot.step = 7 → s.sec.entWait = false → ∃ t, exec (.bootStepDone true []) s = .next t ∧ t.boot.step = 8 ∧ ∀ a < hbmEnd, memGet t.mem a = 0)
      ∧ (s.boot.step = 8 → exec (.bootStepDone ok bad) s = .next (bootReady s)))

/-- Security rows (18 R449 to R462). Certificates and key exchanges are free values (log entries 5, 32). -/
def Obligations.SecurityRows : Prop :=
  ∀ (s : State),
    (bit (rd s rBootstat) 6 = true → exec .entropyFail s = .next { orReg s rBootstat 128 with sec := { s.sec with entWait := true } })
    ∧ (∀ u v w, u = setFld { s with sec := { s.sec with entWait := false, entQ := [], asked := 0, asks := [] } } rBootstat 6 6 1 → v = s.sec.entQ.foldl (fun s e => setRegion s e.1 e.2) u →
      w = v.streams.foldl (fun s e => if e.2.st = .opening && e.2.sndUna = noSeq then openWith s e.1 else s) v →
      exec .entropyReseed s = .next (s.sec.asks.foldl (fun s e => doAsk s e.1 e.2) w))
    ∧ (∀ (f : Fin 64), (∀ off len, exec (.spdmGetCertificate f off len) s = .next (spdm s f 0x82 (leBytes 4 off ++ leBytes 4 len) (fun s => answer s f 0x02 (((certChain s).drop off).take len))))
      ∧ (∀ nonce, exec (.spdmChallenge f nonce) s = .next (spdm s f 0x83 nonce (fun s => ask s f (.challenge nonce)))
        ∧ doAsk s f (.challenge nonce) = signedAnswer s f 0x03 (sha384 (certChain s)) (sha384 (certChain s) ++ nonce))
      ∧ (∀ (i : BitVec 8) nonce b, b = (if i.toNat = 255 then (rangeFrom 1 8).flatMap (measurement s f) else measurement s f i.toNat) →
        exec (.spdmGetMeasurements f i nonce) s = .next (spdm s f 0xE0 (leBytes 1 i.toNat ++ nonce) (fun s => ask s f (.measure i.toNat nonce)))
        ∧ doAsk s f (.measure i.toNat nonce) = signedAnswer s f 0x60 b (b ++ nonce))
      ∧ (∀ req n u, n = s.sec.nextSession → u = drawn s 1 → exec (.spdmKeyExchange f req) s = .next (spdm s f 0xE4 req (fun s => ask s f (.exchange req)))
        ∧ (4 ≤ s.sec.sessions.length → doAsk s f (.exchange req) = s)
        ∧ (s.sec.sessions.length < 4 → doAsk s f (.exchange req) = answer { u with sec := { u.sec with sessions := s.sec.sessions ++ [(f.val, n)], nextSession := n + 1 } } f 0x64
            (leBytes 2 n ++ Config.keyExchange s.draws (fwm s) req)))
      ∧ (∀ n, exec (.spdmHeartbeat f n true) s = .next { s with sec := { s.sec with sessions := s.sec.sessions.filter (· ≠ (f.val, n)) } }
        ∧ exec (.spdmHeartbeat f n false) s = .next (spdm s f 0xE8 (leBytes 2 n) (fun s => if s.sec.sessions.contains (f.val, n) then answer s f 0x68 (leBytes 2 n) else s)))
      ∧ (s.sec.sessions.any (fun e => e.1 = f.val) = true →
        (∀ (st : Fin 9) g key i keys, i = st.val * 2 + b2n g → keys = (match key with | some k => tput s.sec.ideKeys i k | none => s.sec.ideKeys) →
          exec (.ideKmKeySetGo f st g key) s = .next { s with sec := { s.sec with ideKeys := keys, ide := if thas keys i then tput s.sec.ide st (b2n g, true) else s.sec.ide } })
        ∧ (∀ (st : Fin 8) k, isTdi s f = true → tdiState s f = 0 → tget s.sec.ide st = some (k, true) →
          exec (.tdispLockInterface f st) s = .next (setFld (setFld (setTdi s f 1) (rSecTdi f) 3 3 1) (rSecTdi f) 6 4 st))
        ∧ (tdiState s f = 1 → exec (.tdispStartInterface f) s = .next (setTdi s f 2))
        ∧ (tdiState s f = 2 → exec (.tdispStopInterface f) s = .next (startScrub s f 13))
        ∧ (tdiState s f = 1 → exec (.tdispStopInterface f) s = .next (setFld (setTdi s f 0) (rSecTdi f) 6 3 0)))
      ∧ (tdiState s f = 4 → exec (.tdiScrubDone f) s = .next (setFld (setTdi s f 0) (rSecTdi f) 6 3 0)))
    ∧ (∀ (st : Fin 9) k u, tget s.sec.ide st = some (k, true) → u = { s with sec := { s.sec with ide := tput s.sec.ide st (k, false) } } → exec (.ideTlpFail st) s = .next
      ((List.range 64).foldl (fun s f => if bit (rd s (rSecTdi f)) 3 && fld s (rSecTdi f) 6 4 = st.val then tdiError s f else s) u))
    ∧ (s.pins.pcieUp = true → (∀ (f : Fin 64), f.val = 0 ∨ vfOn s f = true →
        (∀ n d (v : BitVec 32), exec (.configurationRequest f (.vector n d) v) s = .next (writeVector s f n d v.toNat))
        ∧ (∀ i (v u : BitVec 32), u = cfgValue (.bar i) v → isTdi s f = true → (tget s.sec.cfg (cfgKey f (.bar i))).getD 0 ≠ u →
          exec (.configurationRequest f (.bar i) v) s = .next (((List.range 64).filter (fun n => decide (n = f.val) && isTdi s n)).foldl tdiError { s with sec := { s.sec with cfg := tput s.sec.cfg (cfgKey f (.bar i)) u } })))
      ∧ (∀ v : BitVec 32, v.toNat ≤ totalVfs s → (tget s.sec.cfg (cfgKey 0 .numVfs)).getD 0 ≠ v →
        exec (.configurationRequest 0 .numVfs v) s = .next (((List.range 64).filter (isTdi s)).foldl tdiError { s with sec := { s.sec with cfg := tput s.sec.cfg (cfgKey 0 .numVfs) v } })))
    ∧ (∀ (p : Fin 8) (v : BitVec 32) w u c, accepts s w = true → u = barWake s w → c = bits v.toNat 5 2 →
      (bit v.toNat 1 = true → bit v.toNat 0 = false → exec (.sealClear p v w) s = .next (writeThen u (rSealctl p) v.toNat (fun t => dropSeal t p)))
      ∧ (bit v.toNat 0 = true → bit (rd u (rSealctl p)) 7 = false →
        (bits v.toNat 31 11 = 0 → (bit (rd u (rSealctl p)) 6 = true ∧ bit v.toNat 1 = false) ∨ ctxNone u p c = true →
          exec (.sealInstall p v w) s = .next (setSealStatus (rejectOff u (rSealctl p)) p 7))
        ∧ ((bit (rd u (rSealctl p)) 6 = false ∨ bit v.toNat 1 = true) → ctxNone u p c = false →
          (winFits u p c (rd u (rSealwin p)) = false → exec (.sealInstall p v w) s = .next (rejectOff u (rSealctl p)))
          ∧ (winFits u p c (rd u (rSealwin p)) = true → exec (.sealInstall p v w) s = .next (writeThen u (rSealctl p) v.toNat (fun t =>
            let t := if bit v.toNat 1 then dropSeal t p else t
            setSealStatus (setFld t (rSealctl p) 7 7 1) p 0))))))
    ∧ (∀ (p : Fin 8) u c, bit (rd s (rSealctl p)) 7 = true → u = setFld s (rSealctl p) 7 7 0 → c = fld u (rSealctl p) 5 2 →
      exec (.sealInstallDone p none) s = .next (setSealStatus u p 2)
      ∧ (∀ b, ctxNone u p c = true → exec (.sealInstallDone p (some b)) s = .next (setSealStatus u p 7))
      ∧ (∀ b, ctxNone u p c = false → exec (.sealInstallDone p (some b)) s = .next (match unwrapBlob u (padTo 432 b) with
        | .error e => setSealStatus u p e
        | .ok k => setSealStatus (setFld (setFld { u with seals := tput u.seals p { ctx := c, setId := sliceB b 8 16, key := k } } (rSealctl p) 6 6 1) (rSealuse p) 31 0 0) p 1)))

/-- Register writes (01 R34, R37, 05 R138, 10 R242, R254, 11 R268, 16 R403). -/
def Obligations.RegisterRows : Prop :=
  ∀ (w : Writer) (s : State),
    (accepts s w = false → (∀ off n v, exec (.regWrite 0 off n v w) s = .next (refuseBar s w)) ∧ (∀ off v, exec (.shadowWrite off v w) s = .next (refuseBar s w))
      ∧ (∀ m, exec (.cfgerrClear m w) s = .next (refuseBar s w)) ∧ (∀ p v, exec (.drumEnable p v w) s = .next (refuseBar s w)) ∧ (∀ p v, exec (.partitionEnable p v w) s = .next (refuseBar s w))
      ∧ (∀ b v, exec (.bellEnable b v w) s = .next (refuseBar s w) ∧ exec (.bellDisable b v w) s = .next (refuseBar s w)))
    ∧ ∀ (u : State), accepts s w = true → u = barWake s w →
    (∀ (off : BitVec 32) (n : Fin 9) (v : BitVec 64), barShape off.toNat n = true →
      exec (.regWrite 0 off n v w) s = .next (plainWrite (wideWrite u off.toNat n v.toNat).1 (wideWrite u off.toNat n v.toNat).2 u)
      ∧ (n = 8 → wideWrite u off.toNat n v.toNat = (off.toNat, v.toNat))
      ∧ (∀ d, n = 4 → regFind off.toNat = some d → d.width = 64 → wideWrite u off.toNat n v.toNat = (off.toNat, v.toNat % 2 ^ 32 + otherHalf u d off.toNat true))
      ∧ (∀ d, n = 4 → regFind off.toNat = some d → d.width = 32 → regFind (off.toNat - 4) = none → wideWrite u off.toNat n v.toNat = (off.toNat, v.toNat % 2 ^ 32)))
    ∧ (∀ off v d i j x, regFind off = some d → regIdx d off = some (i, j) → x = v % 2 ^ d.width → clearsEn u d off x = false →
      (fldsOk d x = false → plainWrite off v u = rejectOff u off)
      ∧ (fldsOk d x = true → ownRow u d off x = false →
        (ruleBad u d i j off x = false → plainWrite off v u = afterWrite u (regApply u off d x) d i)
        ∧ (ruleBad u d i j off x = true → plainWrite off v u = rejectOff u off)))
    ∧ (∀ (off : BitVec 32) (n : Fin 9) (v : BitVec 64), barShape off.toNat n = false → exec (.regWrite 0 off n v w) s = .next (match w with | .host _ => { u with out := u.out ++ [.abort 0] } | .mgc _ => u))
    ∧ (∀ (vf : Fin 64) (off : BitVec 32) (n : Fin 9) (v : BitVec 64) t y, vf ≠ 0 → accepts s (.host none) = true → y = barWake s (.host none) → barShape off.toNat n = true →
      exec (.regWrite vf off n v (.host t)) s = .next (toVf y vf off.toNat t (fun s => toTunnel s vf 2 off.toNat (leBytes n v.toNat))))
    ∧ (∀ (off : BitVec 32) (v : BitVec 64) d p x, cwPart off.toNat = some p → regFind off.toNat = some d → x = v.toNat % 2 ^ d.width →
      (off.toNat ≠ rDbtPeriod p ∨ bit (rd u (rDbtPeriod p)) 0 = true ∨ bit x 0 = false) →
      (fldsOk d x = true → exec (.shadowWrite off v w) s = .next (shadowWrite u p off.toNat (d.flds.foldl (fldWrite x 0) 0)))
      ∧ (fldsOk d x = false → exec (.shadowWrite off v w) s = .next (rejectOff u off.toNat)))
    ∧ (∀ mask : BitVec 17, ∃ t, exec (.cfgerrClear mask w) s = .next t ∧ fld t rCfgerr 16 0 = clearBits (fld u rCfgerr 16 0) mask.toNat (stuck u rCfgerr)
      ∧ (∀ h l, 16 < l → fld t rCfgerr h l = fld u rCfgerr h l) ∧ regsBut [rCfgerr] u t ∧ { t with regs := u.regs } = u)
    ∧ (∀ k : Fin 12, ∃ t, exec (.tstorePeakClear k w) s = .next t ∧ fld t (rCteTstore k) 30 16 = fld u (rCteTstore k) 14 0 ∧ regsBut [rCteTstore k] u t ∧ { t with regs := u.regs } = u)
    ∧ (∀ (p : Fin 8) (v : BitVec 32), bit (rd u (rDbtPeriod p)) 0 = false → v.getLsbD 0 = true → 12 ≤ bits v.toNat 8 4 → bits v.toNat 8 4 ≤ 26 →
      exec (.drumEnable p v w) s = .next (modPart (setReg { u with shadow := tdel u.shadow (rDbtPeriod p), shadowLate := tdel u.shadowLate (rDbtPeriod p) } (rDbtPeriod p) (1 + at_ (bits v.toNat 8 4) 4)) p
        (fun x => { x with anchor := some (u.cycle + 1), count := 0, lastPoint := none })))
    ∧ (∀ (p : Fin 8) (v : BitVec 64), bit (rd u (rPtnCfg p)) 0 = false → v.getLsbD 0 = true → ptnOk u p v.toNat = true →
      exec (.partitionEnable p v w) s = .next (modPart (setReg u (rPtnCfg p) (ptnCfgVal v.toNat)) p (fun x => { x with trun := 0, theld := 0, held0 := rd (setReg u (rPtnCfg p) (ptnCfgVal v.toNat)) rDbtHeld })))
    ∧ (∀ (b : Fin 64) (v : BitVec 64),
      (bit (rd u (rBelCfg b)) 0 = false → v.getLsbD 0 = true → belCfgOk v.toNat = true →
        exec (.bellEnable b v w) s = .next (modBell (setReg u (rBelCfg b) (belCfgVal v.toNat)) b (fun x => { ctx := x.ctx, discards := x.discards })))
      ∧ (bit (rd u (rBelCfg b)) 0 = true → v.getLsbD 0 = false → bellRuns u b = false → exec (.bellDisable b v w) s = .next (setFld u (rBelCfg b) 0 0 0)))

/-- Ledger rows (02 R56 to R58, 08 R201 to R208, 18 R449). -/
def Obligations.LedgerRows : Prop :=
  ∀ (p : Fin 8) (s : State),
    (∀ u, bit (rd s (rLdgCtrl p)) 0 = true → (part s p).ring.waiting ≠ [] → ringRoom s p = true → u = ringPut s p →
      exec (.ledgerRecordWrite p) s = .next (if bpHold u p then freeBackpressure u p else u))
    ∧ (∀ k l, bit (rd s (rLdgCtrl p)) 0 = true → (part s p).ring.waiting ≠ [] → ringRoom s p = false → waitingCtxs s p = k :: l → bpHold s p = false →
      exec (.ledgerRecordWrite p) s = .next (gateEval (modPart (setFld (raiseHold s 9 p 5 0 (some k) s.run 0) (rLdgStatus p) 30 30 1) p (fun x => { x with ring := { x.ring with blockedAt := some x.points } }))))
    ∧ (∀ off n b rest q corr bad u, bit (rd s (rLdgCtrl p)) 1 = true → dropPads (part s p).ring.written = (off, n, b) :: rest → ledgerQp s p = some q → 1 + (n + 63) / 64 ≤ qpSlots s q →
      cqRoom s q (1 + (n + 63) / 64) = true → u = gddrReport s (ringBase s p + off) n corr bad →
      exec (.ledgerStream p corr bad) s = .next (passRecord (writeCompl u q { kind := 4, status := 0, ctx := 0, id := 0, body := streamBytes u (ringBase s p + off) n }) p rest))
    ∧ (∀ n, (part s p).ring.blockedAt = some n → bpHold s p = true → n + fld s (rLdgCtrl p) 31 16 ≤ (part s p).points →
      exec (.ledgerOverrun p) s = .next (gateEval ((waitingCtxs s p).foldl (fun t k => fault1 t k (overrunProb s p))
        (modPart (setFld s (rLdgStatus p) 30 30 0) p (fun x => { x with ring := { x.ring with blockedAt := none } })))))
    ∧ (∀ (v : BitVec 32) w u, accepts s w = true → u = barWake s w →
      (bit (rd u (rLdgCtrl p)) 0 = false → v.getLsbD 0 = true → bits v.toNat 31 16 ≠ 0 → ledgerOk u p = true →
        exec (.ledgerEnable p v w) s = .next (modPart (setReg (setReg u (rLdgCtrl p) (ldgCtrlVal v.toNat)) (rLdgStatus p) 0) p (fun x => { x with ring := {} })))
      ∧ (bit (rd u (rLdgCtrl p)) 0 = true → v.getLsbD 0 = false → bits v.toNat 31 16 ≠ 0 →
        exec (.ledgerDisable p v w) s = .next (gateEval (syncPtr (modPart (endBackpressure (setReg u (rLdgCtrl p) (ldgCtrlVal v.toNat)) p) p
          (fun x => { x with ring := { x.ring with waiting := [], written := [] } })) p)))
      ∧ (bit (rd u (rSnapCtrl p)) 0 = false → v.getLsbD 0 = true → snapOk u p = true →
        exec (.snapRingEnable p v w) s = .next (modPart (setReg (setReg u (rSnapCtrl p) 1) (rSnapPtr p) 0) p (fun x => { x with snap := {} }))))
    ∧ (∀ (v : BitVec 64) w u, accepts s w = true → u = barWake s w →
      (bits v.toNat 60 32 = fld u (rSnapPtr p) 28 0 → exec (.snapRptrWrite p v w) s = .next
        (modPart (setFld u (rSnapPtr p) 60 32 (bits v.toNat 60 32)) p (fun x => { x with snap := { x.snap with written := [] } })))
      ∧ (∀ l, bits v.toNat 60 32 ≠ fld u (rSnapPtr p) 28 0 → fromRecord (bits v.toNat 60 32 * 64) (part u p).snap.written = some l → exec (.snapRptrWrite p v w) s = .next
        (modPart (setFld u (rSnapPtr p) 60 32 (bits v.toNat 60 32)) p (fun x => { x with snap := { x.snap with written := l } })))
      ∧ (∀ x, x = at_ (bits v.toNat 47 20) 20 + at_ (bits v.toNat 63 48) 48 → ldgRegionOk u p x = true →
        (u.sec.entWait = false → exec (.ledgerRegionWrite p v w) s = .next (setRegion u p x))
        ∧ (u.sec.entWait = true → exec (.ledgerRegionWrite p v w) s = .next { u with sec := { u.sec with entQ := u.sec.entQ ++ [(p.val, x)] } })))

/-- 03 R78: an INT8 destination saturates in both modes, and a NaN becomes 0. -/
def Obligations.Int8Saturates : Prop :=
  ∀ (r : Rnd) (ovf : Bool), (∀ b, r = .sr8 b → b < 256) →
    (∀ neg m e, (decodeF .int8 (convertF .int8 r ovf (.fin neg m e)).1 = .fin neg (rndUnits r m e 0).1 0 ∨ (rndUnits r m e 0).1 = 0)
        ∨ (neg = false ∧ 127 < (rndUnits r m e 0).1 ∧ (convertF .int8 r ovf (.fin neg m e)).1 = 0x7F)
        ∨ (neg = true ∧ 128 < (rndUnits r m e 0).1 ∧ (convertF .int8 r ovf (.fin neg m e)).1 = 0x80))
    ∧ decodeF .int8 (convertF .int8 r ovf (.inf false)).1 = .fin false 127 0
    ∧ decodeF .int8 (convertF .int8 r ovf (.inf true)).1 = .fin true 128 0
    ∧ decodeF .int8 (convertF .int8 r ovf .nan).1 = .fin false 0 0

/-- 03 R76, R77: what SAT and OVF put in the place of a result that overflows (R75), of an infinity, and of a NaN; SAT never produces an infinity. -/
def Obligations.SatAndOvfModes : Prop :=
  ∀ f ∈ [Fmt.fp32, .bf16, .fp16, .e4m3, .e5m2], ∀ (r : Rnd), (∀ b, r = .sr8 b → b < 256) →
    (∀ neg m e, m ≠ 0 → magGt (rndUnits r m e (quantum f m e)).1 (quantum f m e) (maxFin f).1 (maxFin f).2 = true →
      decodeF f (convertF f r false (.fin neg m e)).1 = .fin neg (maxFin f).1 (maxFin f).2
      ∧ decodeF f (convertF f r true (.fin neg m e)).1 = (if f = .e4m3 then .nan else .inf neg)
      ∧ (f = .e4m3 → (convertF f r true (.fin neg m e)).1 = 0x7F))
    ∧ (∀ neg, decodeF f (convertF f r false (.inf neg)).1 = .fin neg (maxFin f).1 (maxFin f).2
      ∧ decodeF f (convertF f r true (.inf neg)).1 = (if f = .e4m3 then .nan else .inf neg)
      ∧ (f = .e4m3 → (convertF f r true (.inf neg)).1 = 0x7F))
    ∧ (∀ x neg, decodeF f (convertF f r false x).1 ≠ .inf neg)
    ∧ decodeF f (convertF f r false .nan).1 = .nan

/-- 03 R64, R65, R71 to R73, R82: encoding after decoding is the identity on finite codes, under every CVC setting, and raises nothing. -/
def Obligations.RepresentableValuesKeep : Prop :=
  ∀ fw ∈ [(Fmt.fp32, 32), (.bf16, 16), (.fp16, 16), (.e4m3, 8), (.e5m2, 8), (.int8, 8)], ∀ (r : Rnd) (ovf neg : Bool) (n m : Nat) (e : Int), (∀ b, r = .sr8 b → b < 256) →
    n < 2 ^ fw.2 → decodeF fw.1 n = .fin neg m e → convertF fw.1 r ovf (decodeF fw.1 n) = (n, {})

/-- 15 R384: a COPY_OUT that meets a poisoned unit. -/
def Obligations.CopyOutStopsAtPoison : Prop :=
  ∀ (q : Fin 64) (s u : State) (m : Man) (host dev len i : Nat), (qp s q).mans.find? (fun m => m.stage = 1 && fieldB m.slot 0 1 = 7) = none → manUp s q 7 0x2C m u → s.sec.entWait = false → copyCheck u q m false = 0 →
    host = fieldB m.slot 0x10 8 → dev = fieldB m.slot 0x18 8 → len = fieldB m.slot 0x20 8 → i < len / 64 → u.poison.contains (dev / 64 + i) = true →
    (∀ j < i, u.poison.contains (dev / 64 + j) = false) →
    ((∀ z f, copyWay u (qpPtn u q) dev len ≠ .sealed z f) →
      exec (.copyOut q) s = .next (finishMan (hostWrite (hbmUse u (qpPtn u q) dev (64 * i)) host (outBytes u (qpPtn u q) dev (64 * i))) q m.seq 10 (copyResult (64 * i) (64 * i))))
    ∧ (∀ z f n v, copyWay u (qpPtn u q) dev len = .sealed z f → n = 64 * i / 4096 → z.chunks + n ≤ 2 ^ 32 →
      v = hostWrite (hbmUse u (qpPtn u q) dev (4096 * n)) host (sealChunks z u.draws f (outBytes u (qpPtn u q) dev (4096 * n))) →
      exec (.copyOut q) s = .next (finishMan { drawn v n with seals := tmod u.seals (qpPtn u q) (fun x => { x with chunks := x.chunks + n }) } q m.seq 10 (copyResult (4096 * n) (64 * i))))
    ∧ (∀ t, exec (.copyOut q) s = .next t → t.ctxs = s.ctxs)

/-- 10 R242, R247, 19 R471, R474, 00 R7: what a step does when no command waits. That a CCLK cycle passes then is the model's choice (log entry 10). -/
def Obligations.TickRows : Prop :=
  ∀ (s : State), s.pending = [] →
    (s.boot.held ≠ 0 → step s = .next s)
    ∧ (s.boot.held = 0 → 8 ≤ s.power.steps → step s = .next (joinShadow s))
    ∧ (s.boot.held = 0 → 6 ≤ s.power.steps → s.power.steps < 8 → step s = .next (railCheck (refTick (joinShadow s))))
    ∧ (s.boot.held = 0 → s.power.steps < 6 → 2 ^ 64 ≤ s.cycle + 1 → step s = .fault .cycleRange)
    ∧ (∀ u, s.boot.held = 0 → s.power.steps < 6 → s.cycle + 1 < 2 ^ 64 → u = roceCycle (portsCycle (hbmCycle (hbmCycle (joinShadow (refTick (endCycle (tunnelsOut (tunnelsIn s))))) 0) 1)) →
      step s = .next (railCheck (gateEval { u with cycle := u.cycle + 1, power := { u.power with idleAt := if idleRow u then some (u.power.idleAt.getD u.cycle) else none } })))

/-- The reset values other than zero that the register tables give, as (offset, count, stride, second count, second stride, high bit, low bit, value). -/
def Obligations.ResetRegisters : Prop :=
  ∀ x ∈ [
   (0x0, 1, 0x0, 1, 0x0, 15, 0, 0xF07), (0x18, 1, 0x0, 1, 0x0, 31, 0, 0x5D2E0001), (0x30000, 8, 0x100, 1, 0x0, 8, 4, 0x10), (0x40000, 64, 0x10, 1, 0x0, 51, 36, 0x400),
   (0x40800, 8, 0x8, 1, 0x0, 3, 0, 0x2), (0x40900, 1, 0x0, 1, 0x0, 15, 0, 0x100), (0x2002000, 108, 0x10000, 1, 0x0, 8, 0, 0x100), (0x2002000, 108, 0x10000, 1, 0x0, 16, 9, 0x80),
   (0x2002000, 108, 0x10000, 1, 0x0, 26, 17, 0x200), (0x2002000, 108, 0x10000, 1, 0x0, 27, 27, 0x1), (0x2002000, 108, 0x10000, 1, 0x0, 29, 28, 0x3), (0x2004000, 108, 0x10000, 1, 0x0, 6, 0, 0x40),
   (0x2004000, 108, 0x10000, 1, 0x0, 7, 7, 0x1), (0x2004000, 108, 0x10000, 1, 0x0, 8, 8, 0x1), (0x2004000, 108, 0x10000, 1, 0x0, 9, 9, 0x1), (0x2004000, 108, 0x10000, 1, 0x0, 17, 10, 0xFF),
   (0x70000, 8, 0x100, 1, 0x0, 31, 16, 0x400), (0x50028, 8, 0x100, 1, 0x0, 15, 0, 0x40), (0x50028, 8, 0x100, 1, 0x0, 31, 16, 0x400), (0x61000, 64, 0x40, 1, 0x0, 10, 6, 0x4),
   (0x61000, 64, 0x40, 1, 0x0, 15, 11, 0x9), (0x2003000, 108, 0x10000, 1, 0x0, 8, 0, 0x100), (0x2003000, 108, 0x10000, 1, 0x0, 18, 9, 0x200), (0x2003000, 108, 0x10000, 1, 0x0, 20, 19, 0x3),
   (0x2003000, 108, 0x10000, 1, 0x0, 25, 21, 0x10), (0x2003000, 108, 0x10000, 1, 0x0, 31, 26, 0x3F), (0x28, 1, 0x0, 1, 0x0, 5, 1, 0xA), (0x40, 2, 0x8, 1, 0x0, 15, 0, 0x64),
   (0x50038, 8, 0x100, 1, 0x0, 15, 8, 0x40), (0x50038, 8, 0x100, 1, 0x0, 31, 16, 0x400), (0x50040, 8, 0x100, 1, 0x0, 31, 16, 0x100), (0x1300000, 2, 0x800000, 1, 0x0, 7, 0, 0x10),
   (0x1300000, 2, 0x800000, 1, 0x0, 15, 8, 0x4), (0x1300000, 2, 0x800000, 1, 0x0, 17, 16, 0x2), (0x1100800, 2, 0x800000, 1, 0x0, 15, 0, 0xC7A0), (0x1100800, 2, 0x800000, 1, 0x0, 17, 16, 0x2),
   (0x1100800, 2, 0x800000, 1, 0x0, 25, 18, 0x40), (0x1100800, 2, 0x800000, 1, 0x0, 29, 26, 0x8), (0x1100800, 2, 0x800000, 1, 0x0, 47, 32, 0x8), (0x1100800, 2, 0x800000, 1, 0x0, 55, 48, 0xC),
   (0x1100818, 2, 0x800000, 1, 0x0, 31, 0, 0x20000), (0x1200000, 2, 0x800000, 1, 0x0, 4, 1, 0xF), (0x1000800, 2, 0x800000, 1, 0x0, 0, 0, 0x1), (0x1000800, 2, 0x800000, 1, 0x0, 8, 1, 0x18),
   (0x1000C00, 1, 0x0, 1, 0x0, 0, 0, 0x1), (0x1000C00, 1, 0x0, 1, 0x0, 7, 1, 0xA), (0x1000C00, 1, 0x0, 1, 0x0, 23, 8, 0x40), (0x1001000, 2, 0x800000, 8, 0x8, 14, 8, 0x40),
   (0x10000, 1, 0x0, 1, 0x0, 31, 16, 0x64), (0x10010, 1, 0x0, 1, 0x0, 10, 0, 0x5F0), (0x10010, 1, 0x0, 1, 0x0, 26, 16, 0x5F0), (0x10018, 1, 0x0, 1, 0x0, 11, 0, 0x708)],
    ∀ i < x.2.1, ∀ j < x.2.2.2.1, fld State.reset (x.1 + i * x.2.2.1 + j * x.2.2.2.2.1) x.2.2.2.2.2.1 x.2.2.2.2.2.2.1 = x.2.2.2.2.2.2.2
end

