-- ==== Sys2Proof/Laws/Tables.lean ====
section
/-! SUPPORT. Laws of tables by number and of rising lists: what an update puts, what it leaves alone. -/

namespace Sys2Proof.Machine

@[simp] theorem tget_nil {α : Type} (k : Nat) : tget ([] : Tbl α) k = none := rfl

/-- An entry just put is found. -/
@[simp] theorem tget_tput_same {α : Type} (t : Tbl α) (k : Nat) (a : α) : tget (tput t k a) k = some a := by
  induction t with
  | nil => simp [tput, tget]
  | cons e r ih =>
    unfold tput
    by_cases hk : e.1 < k
    · simp [hk, tget, Nat.ne_of_lt hk, ih]
    · simp [hk, tget]

/-- A put leaves every other entry alone. -/
@[simp] theorem tget_tput_other {α : Type} (t : Tbl α) (k i : Nat) (a : α) (h : i ≠ k) : tget (tput t k a) i = tget t i := by
  induction t with
  | nil => simp [tput, tget, h.symm]
  | cons e r ih =>
    unfold tput
    by_cases hk : e.1 < k
    · simp only [hk, if_true, tget, ih]
    · by_cases he : e.1 = k
      · simp [he, tget, Ne.symm h]
      · simp [hk, he, tget, Ne.symm h]

theorem tget_tput {α : Type} (t : Tbl α) (k i : Nat) (a : α) : tget (tput t k a) i = if i = k then some a else tget t i := by
  split
  · rename_i h; subst h; simp
  · rename_i h; simp [h]

@[simp] theorem tgetD_tput_same {α : Type} (t : Tbl α) (k : Nat) (a d : α) : tgetD (tput t k a) k d = a := by simp [tgetD]
@[simp] theorem tgetD_tput_other {α : Type} (t : Tbl α) (k i : Nat) (a d : α) (h : i ≠ k) : tgetD (tput t k a) i d = tgetD t i d := by
  simp [tgetD, h]

/-- A removed entry is gone. -/
@[simp] theorem tget_tdel_same {α : Type} (t : Tbl α) (k : Nat) : tget (tdel t k) k = none := by
  induction t with
  | nil => rfl
  | cons e r ih =>
    obtain ⟨j, b⟩ := e
    simp only [tdel, List.filter_cons] at ih ⊢
    split
    · rename_i h
      have hj : j ≠ k := by simpa using h
      simpa [tget, hj] using ih
    · simpa using ih

/-- A removal leaves every other entry alone. -/
@[simp] theorem tget_tdel_other {α : Type} (t : Tbl α) (k i : Nat) (h : i ≠ k) : tget (tdel t k) i = tget t i := by
  induction t with
  | nil => rfl
  | cons e r ih =>
    obtain ⟨j, b⟩ := e
    simp only [tdel, List.filter_cons] at ih ⊢
    split
    · simp only [tget]
      split
      · rfl
      · simpa using ih
    · rename_i h2
      have hj : j = k := by simpa using h2
      simp only [tget, hj, Ne.symm h, if_false]
      simpa using ih

/-- Changing the entry of a key that has one. -/
theorem tget_tmod_same {α : Type} (t : Tbl α) (k : Nat) (f : α → α) : tget (tmod t k f) k = (tget t k).map f := by
  unfold tmod
  cases h : tget t k with
  | none => simp [h]
  | some a => simp

@[simp] theorem tget_tmod_other {α : Type} (t : Tbl α) (k i : Nat) (f : α → α) (h : i ≠ k) : tget (tmod t k f) i = tget t i := by
  unfold tmod
  cases tget t k <;> simp [h]

/-- The members of a rising list after an insertion. -/
theorem mem_sput (l : List Nat) (k x : Nat) : x ∈ sput l k ↔ x = k ∨ x ∈ l := by
  induction l with
  | nil => simp [sput]
  | cons n t ih =>
    unfold sput
    by_cases hk : n < k
    · simp only [hk, if_true, List.mem_cons, ih]; tauto
    · by_cases he : n = k
      · simp [he]
      · simp [hk, he]

/-- An insertion keeps a list strictly rising. -/
theorem pairwise_sput (l : List Nat) (k : Nat) (h : l.Pairwise (· < ·)) : (sput l k).Pairwise (· < ·) := by
  induction l with
  | nil => simp [sput]
  | cons n t ih =>
    have above := fun a ha => List.rel_of_pairwise_cons h (a' := a) ha
    have tail := h.of_cons
    unfold sput
    by_cases hk : n < k
    · rw [if_pos hk, List.pairwise_cons]
      refine ⟨fun a ha => ?_, ih tail⟩
      by_cases he : a = k
      · omega
      · exact above a (((mem_sput t k a).1 ha).resolve_left he)
    · rw [if_neg hk]
      by_cases he : n = k
      · rwa [if_pos he]
      · rw [if_neg he, List.pairwise_cons]
        refine ⟨fun a ha => ?_, h⟩
        have : n ≤ a := by
          by_cases hn : a = n
          · omega
          · exact Nat.le_of_lt (above a (by simpa [hn] using ha))
        omega

end Sys2Proof.Machine
end

