-- ==== Sys2Proof/Laws/Memory.lean ====
section
/-! SUPPORT. Laws of memory: every operation keeps the canonical form; a read after a write gives what was written and every other byte as before. -/

namespace Sys2Proof.Machine

/-- The canonical form as a rising list without unlisted values. -/
theorem Memory.wf_iff (m : List Host.Cell) :
    Memory.wf m = true ↔ m.Pairwise (fun a b => a.1 < b.1) ∧ ∀ c ∈ m, c.2 ≠ memUnlisted := by
  induction m with
  | nil => simp [Memory.wf]
  | cons c r ih =>
    obtain ⟨a, b⟩ := c
    cases r with
    | nil => simp [Memory.wf]
    | cons d r =>
      obtain ⟨a', b'⟩ := d
      simp only [Memory.wf, Bool.and_eq_true, bne_iff_ne, decide_eq_true_eq, ih, List.pairwise_cons]
      have low : (∀ c ∈ (a', b') :: r, a < c.1) → a < a' := fun g => g (a', b') (by simp)
      have high : a < a' → (∀ c ∈ r, a' < c.1) → ∀ c ∈ (a', b') :: r, a < c.1 := by
        intro g up
        simpa [g] using fun x y m => Nat.lt_trans g (up (x, y) m)
      simp only [List.forall_mem_cons] at *
      tauto

@[simp] theorem Memory.wf_nil : Memory.wf [] = true := rfl

theorem mem_memSet (m : List Host.Cell) (a : Nat) (v : Byte) (c : Host.Cell) (h : c ∈ memSet m a v) : c ∈ m ∨ (c = (a, v) ∧ v ≠ memUnlisted) := by
  induction m with
  | nil =>
    simp only [memSet] at h
    split at h <;> simp_all
  | cons d r ih =>
    unfold memSet at h
    by_cases hj : d.1 < a
    · simp only [hj, if_true, List.mem_cons] at h ⊢
      tauto
    · have rest : ∀ e, e ∈ (if d.1 = a then r else d :: r) → e ∈ d :: r := by
        intro e; split <;> simp_all
      by_cases hv : v = memUnlisted
      · simp only [hj, hv, if_false, if_true] at h
        exact Or.inl (rest _ h)
      · simp only [hj, hv, if_false, List.mem_cons] at h
        exact h.elim (fun g => Or.inr (And.intro g hv)) (fun g => Or.inl (rest _ g))

/-- Writing one byte keeps the canonical form. -/
theorem wf_memSet (m : List Host.Cell) (a : Nat) (v : Byte) (h : Memory.wf m = true) : Memory.wf (memSet m a v) = true := by
  rw [Memory.wf_iff] at h ⊢
  obtain ⟨hp, hn⟩ := h
  constructor
  · induction m with
    | nil => simp only [memSet]; split <;> simp
    | cons d r ih =>
      have above := fun x hx => List.rel_of_pairwise_cons hp (a' := x) hx
      have tail := hp.of_cons
      unfold memSet
      by_cases hj : d.1 < a
      · rw [if_pos hj, List.pairwise_cons]
        refine ⟨fun x hx => ?_, ih tail (fun c hc => hn c (List.mem_cons_of_mem _ hc))⟩
        exact (mem_memSet r a v x hx).elim (above x) (fun g => g.1 ▸ hj)
      · have far : ∀ x ∈ (if d.1 = a then r else d :: r), a < x.1 := by
          intro x hx
          by_cases he : d.1 = a
          · rw [if_pos he] at hx
            exact he ▸ above x hx
          · rw [if_neg he] at hx
            have hd : a < d.1 := by omega
            exact (List.mem_cons.1 hx).elim (fun g => g ▸ hd) (fun g => Nat.lt_trans hd (above x g))
        have ordered : (if d.1 = a then r else d :: r).Pairwise (fun p q => p.1 < q.1) := by split <;> assumption
        rw [if_neg hj]
        dsimp only
        by_cases hv : v = memUnlisted
        · rwa [if_pos hv]
        · rw [if_neg hv]
          exact List.Pairwise.cons far ordered
  · intro c hc
    rcases mem_memSet m a v c hc with hc | ⟨rfl, hv⟩
    · exact hn c hc
    · exact hv

/-- Writing bytes keeps the canonical form. -/
theorem wf_memWrite (m : List Host.Cell) (a : Nat) (b : Bytes) (h : Memory.wf m = true) : Memory.wf (memWrite m a b) = true := by
  induction b generalizing m a with
  | nil => exact h
  | cons x r ih => exact ih _ _ (wf_memSet m a x h)

/-- Dropping cells keeps the canonical form. -/
theorem wf_filter (m : List Host.Cell) (f : Host.Cell → Bool) (h : Memory.wf m = true) : Memory.wf (m.filter f) = true := by
  rw [Memory.wf_iff] at h ⊢
  exact ⟨h.1.filter f, fun c hc => h.2 c (List.mem_of_mem_filter hc)⟩

theorem wf_memClear (m : List Host.Cell) (a n : Nat) (h : Memory.wf m = true) : Memory.wf (memClear m a n) = true := wf_filter m _ h

/-- Changing the listed bytes keeps the canonical form. -/
theorem wf_memMap (m : List Host.Cell) (f : Nat → Byte → Byte) (h : Memory.wf m = true) : Memory.wf (memMap m f) = true := by
  rw [Memory.wf_iff] at h ⊢
  unfold memMap
  refine ⟨h.1.filterMap _ (fun c d hlt c' hc d' hd => ?_), fun c hc => ?_⟩
  · dsimp only at hc hd
    split at hc <;> split at hd <;> simp_all
    rw [← hc, ← hd]; exact hlt
  · obtain ⟨d, -, hd⟩ := List.mem_filterMap.1 hc
    dsimp only at hd
    split at hd
    · cases hd
    · injection hd with e; rw [← e]; assumption

/-- Putting cells back keeps the canonical form. -/
theorem wf_memPutCells (m : List Host.Cell) (src dst : Nat) (l : List Host.Cell) (h : Memory.wf m = true) : Memory.wf (memPutCells m src dst l) = true := by
  induction l generalizing m with
  | nil => exact h
  | cons c r ih => exact ih _ (wf_memSet m _ _ h)

/-- Below the first address nothing is listed. -/
theorem memGet_absent (m : List Host.Cell) (a : Nat) (h : ∀ c ∈ m, c.1 ≠ a) : memGet m a = memUnlisted := by
  induction m with
  | nil => rfl
  | cons c r ih =>
    obtain ⟨j, b⟩ := c
    have hj : j ≠ a := h (j, b) (by simp)
    simp only [memGet, hj, if_false]
    exact ih (fun c hc => h c (List.mem_cons_of_mem _ hc))

/-- A byte just written reads back. -/
theorem memGet_memSet_same (m : List Host.Cell) (a : Nat) (v : Byte) (h : Memory.wf m = true) : memGet (memSet m a v) a = v := by
  rw [Memory.wf_iff] at h
  obtain ⟨hp, -⟩ := h
  induction m with
  | nil =>
    simp only [memSet]
    split
    · rename_i hv; simp [memGet, hv]
    · simp [memGet]
  | cons d r ih =>
    have above := fun x hx => List.rel_of_pairwise_cons hp (a' := x) hx
    unfold memSet
    by_cases hj : d.1 < a
    · simp only [hj, if_true, memGet, Nat.ne_of_lt hj, if_false]
      exact ih hp.of_cons
    · by_cases hv : v = memUnlisted
      · simp only [hj, hv, if_false, if_true]
        refine memGet_absent _ _ (fun c hc => ?_)
        by_cases he : d.1 = a
        · rw [if_pos he] at hc
          have := above c hc
          omega
        · rw [if_neg he] at hc
          have : d.1 ≤ c.1 := (List.mem_cons.1 hc).elim (fun g => g ▸ Nat.le_refl _) (fun g => Nat.le_of_lt (above c g))
          omega
      · simp [hj, hv, memGet]

/-- Writing one byte leaves every other byte alone. -/
theorem memGet_memSet_other (m : List Host.Cell) (a i : Nat) (v : Byte) (h : i ≠ a) : memGet (memSet m a v) i = memGet m i := by
  induction m with
  | nil =>
    simp only [memSet]
    split
    · rfl
    · simp [memGet, h.symm]
  | cons d r ih =>
    unfold memSet
    by_cases hj : d.1 < a
    · simp only [hj, if_true, memGet, ih]
    · have rest : memGet (if d.1 = a then r else d :: r) i = memGet (d :: r) i := by
        by_cases he : d.1 = a
        · simp [he, memGet, h.symm]
        · rw [if_neg he]
      rw [if_neg hj, ← rest]
      dsimp only
      by_cases hv : v = memUnlisted
      · rw [if_pos hv]
      · rw [if_neg hv]; simp [memGet, h.symm]

/-- Writing bytes leaves every byte outside them alone. -/
theorem memGet_memWrite_other (m : List Host.Cell) (a i : Nat) (b : Bytes) (h : i < a ∨ a + b.length ≤ i) : memGet (memWrite m a b) i = memGet m i := by
  induction b generalizing m a with
  | nil => rfl
  | cons x r ih =>
    simp only [List.length_cons] at h
    rw [memWrite, ih _ _ (by omega), memGet_memSet_other _ _ _ _ (by omega)]

/-- Bytes just written read back. -/
theorem memGet_memWrite_same (m : List Host.Cell) (a i : Nat) (b : Bytes) (hm : Memory.wf m = true) (h : i < b.length) :
    memGet (memWrite m a b) (a + i) = b.getD i 0 := by
  induction b generalizing m a i with
  | nil => simp at h
  | cons x r ih =>
    cases i with
    | zero =>
      rw [memWrite, memGet_memWrite_other _ _ _ _ (by omega)]
      simpa using memGet_memSet_same m a x hm
    | succ n =>
      have := ih (memSet m a x) (a + 1) n (wf_memSet m a x hm) (by simpa using h)
      rw [memWrite, show a + (n + 1) = a + 1 + n by omega, this]
      simp

/-- A read of exactly what was written. -/
theorem memBytes_memWrite (m : List Host.Cell) (a : Nat) (b : Bytes) (hm : Memory.wf m = true) : memBytes (memWrite m a b) a b.length = b := by
  unfold memBytes
  apply List.ext_getElem
  · simp
  · intro i h1 h2
    simp only [List.getElem_map, List.getElem_range]
    rw [memGet_memWrite_same m a i b hm h2]
    simp [h2]

/-- A read beside what was written. -/
theorem memBytes_memWrite_other (m : List Host.Cell) (a c n : Nat) (b : Bytes) (h : c + n ≤ a ∨ a + b.length ≤ c) :
    memBytes (memWrite m a b) c n = memBytes m c n := by
  unfold memBytes
  apply List.map_congr_left
  intro i hi
  have := List.mem_range.1 hi
  exact memGet_memWrite_other _ _ _ _ (by omega)

/-! ### Poisoned units in rising order -/

theorem rising_iff (l : List Nat) : rising l = true ↔ l.Pairwise (· < ·) := by
  induction l with
  | nil => simp [rising]
  | cons a r ih => simp [rising, ih, List.all_eq_true]

theorem rising_filter (l : List Nat) (f : Nat → Bool) (h : rising l = true) : rising (l.filter f) = true := by
  rw [rising_iff] at h ⊢; exact h.filter f

theorem rising_sput (l : List Nat) (k : Nat) (h : rising l = true) : rising (sput l k) = true := by
  rw [rising_iff] at h ⊢; exact pairwise_sput l k h

/-- A fold whose every step keeps the order. -/
theorem rising_foldl {α : Type} (f : List Nat → α → List Nat) (h : ∀ t a, rising t = true → rising (f t a) = true) (us : List α) (t : List Nat) (ht : rising t = true) :
    rising (us.foldl f t) = true := by
  induction us generalizing t with
  | nil => exact ht
  | cons u _ ih => exact ih _ (h _ u ht)

theorem rising_foldl_sput {α : Type} (g : α → Nat) (us : List α) (l : List Nat) (h : rising l = true) : rising (us.foldl (fun t u => sput t (g u)) l) = true :=
  rising_foldl _ (fun _ _ => rising_sput _ _) us l h

end Sys2Proof.Machine
end

