-- ==== Sys2Proof/Laws/State.lean ====
section
/-! SUPPORT. What each named update leaves of each field of the state: one lemma per field per update. -/

namespace Sys2Proof.Machine

@[simp] theorem setReg_pending (s : State) (a v : Nat) : (setReg s a v).pending = s.pending := rfl
@[simp] theorem setReg_regs (s : State) (a v : Nat) : (setReg s a v).regs = tput s.regs a (BitVec.ofNat 64 v) := rfl
@[simp] theorem setReg_shadow (s : State) (a v : Nat) : (setReg s a v).shadow = s.shadow := rfl
@[simp] theorem setReg_shadowLate (s : State) (a v : Nat) : (setReg s a v).shadowLate = s.shadowLate := rfl
@[simp] theorem setReg_stickNow (s : State) (a v : Nat) : (setReg s a v).stickNow = s.stickNow := rfl
@[simp] theorem setReg_mem (s : State) (a v : Nat) : (setReg s a v).mem = s.mem := rfl
@[simp] theorem setReg_poison (s : State) (a v : Nat) : (setReg s a v).poison = s.poison := rfl
@[simp] theorem setReg_pword (s : State) (a v : Nat) : (setReg s a v).pword = s.pword := rfl
@[simp] theorem setReg_hostMem (s : State) (a v : Nat) : (setReg s a v).hostMem = s.hostMem := rfl
@[simp] theorem setReg_out (s : State) (a v : Nat) : (setReg s a v).out = s.out := rfl
@[simp] theorem setReg_cycle (s : State) (a v : Nat) : (setReg s a v).cycle = s.cycle := rfl
@[simp] theorem setReg_refcnt (s : State) (a v : Nat) : (setReg s a v).refcnt = s.refcnt := rfl
@[simp] theorem setReg_refAcc (s : State) (a v : Nat) : (setReg s a v).refAcc = s.refAcc := rfl
@[simp] theorem setReg_run (s : State) (a v : Nat) : (setReg s a v).run = s.run := rfl
@[simp] theorem setReg_gate (s : State) (a v : Nat) : (setReg s a v).gate = s.gate := rfl
@[simp] theorem setReg_heldLast (s : State) (a v : Nat) : (setReg s a v).heldLast = s.heldLast := rfl
@[simp] theorem setReg_holds (s : State) (a v : Nat) : (setReg s a v).holds = s.holds := rfl
@[simp] theorem setReg_nextHold (s : State) (a v : Nat) : (setReg s a v).nextHold = s.nextHold := rfl
@[simp] theorem setReg_parts (s : State) (a v : Nat) : (setReg s a v).parts = s.parts := rfl
@[simp] theorem setReg_ctxs (s : State) (a v : Nat) : (setReg s a v).ctxs = s.ctxs := rfl
@[simp] theorem setReg_mxe (s : State) (a v : Nat) : (setReg s a v).mxe = s.mxe := rfl
@[simp] theorem setReg_echo (s : State) (a v : Nat) : (setReg s a v).echo = s.echo := rfl
@[simp] theorem setReg_echoOpens (s : State) (a v : Nat) : (setReg s a v).echoOpens = s.echoOpens := rfl
@[simp] theorem setReg_thirds (s : State) (a v : Nat) : (setReg s a v).thirds = s.thirds := rfl
@[simp] theorem setReg_strikes (s : State) (a v : Nat) : (setReg s a v).strikes = s.strikes := rfl
@[simp] theorem setReg_dirty (s : State) (a v : Nat) : (setReg s a v).dirty = s.dirty := rfl
@[simp] theorem setReg_short (s : State) (a v : Nat) : (setReg s a v).short = s.short := rfl
@[simp] theorem setReg_passAt (s : State) (a v : Nat) : (setReg s a v).passAt = s.passAt := rfl
@[simp] theorem setReg_bells (s : State) (a v : Nat) : (setReg s a v).bells = s.bells := rfl
@[simp] theorem setReg_qps (s : State) (a v : Nat) : (setReg s a v).qps = s.qps := rfl
@[simp] theorem setReg_streams (s : State) (a v : Nat) : (setReg s a v).streams = s.streams := rfl
@[simp] theorem setReg_cvu (s : State) (a v : Nat) : (setReg s a v).cvu = s.cvu := rfl
@[simp] theorem setReg_ports (s : State) (a v : Nat) : (setReg s a v).ports = s.ports := rfl
@[simp] theorem setReg_seals (s : State) (a v : Nat) : (setReg s a v).seals = s.seals := rfl
@[simp] theorem setReg_msix (s : State) (a v : Nat) : (setReg s a v).msix = s.msix := rfl
@[simp] theorem setReg_tunOut (s : State) (a v : Nat) : (setReg s a v).tunOut = s.tunOut := rfl
@[simp] theorem setReg_tunIn (s : State) (a v : Nat) : (setReg s a v).tunIn = s.tunIn := rfl
@[simp] theorem setReg_fw (s : State) (a v : Nat) : (setReg s a v).fw = s.fw := rfl
@[simp] theorem setReg_prof (s : State) (a v : Nat) : (setReg s a v).prof = s.prof := rfl
@[simp] theorem setReg_coverOf (s : State) (a v : Nat) : (setReg s a v).coverOf = s.coverOf := rfl
@[simp] theorem setReg_sentinels (s : State) (a v : Nat) : (setReg s a v).sentinels = s.sentinels := rfl
@[simp] theorem setReg_retired (s : State) (a v : Nat) : (setReg s a v).retired = s.retired := rfl
@[simp] theorem setReg_unitMap (s : State) (a v : Nat) : (setReg s a v).unitMap = s.unitMap := rfl
@[simp] theorem setReg_spared (s : State) (a v : Nat) : (setReg s a v).spared = s.spared := rfl
@[simp] theorem setReg_hbmQ (s : State) (a v : Nat) : (setReg s a v).hbmQ = s.hbmQ := rfl
@[simp] theorem setReg_hbmWin (s : State) (a v : Nat) : (setReg s a v).hbmWin = s.hbmWin := rfl
@[simp] theorem setReg_scrubAt (s : State) (a v : Nat) : (setReg s a v).scrubAt = s.scrubAt := rfl
@[simp] theorem setReg_scrubLate (s : State) (a v : Nat) : (setReg s a v).scrubLate = s.scrubLate := rfl
@[simp] theorem setReg_ldgKeys (s : State) (a v : Nat) : (setReg s a v).ldgKeys = s.ldgKeys := rfl
@[simp] theorem setReg_scrubPos (s : State) (a v : Nat) : (setReg s a v).scrubPos = s.scrubPos := rfl
@[simp] theorem setReg_mbox (s : State) (a v : Nat) : (setReg s a v).mbox = s.mbox := rfl
@[simp] theorem setReg_thermal (s : State) (a v : Nat) : (setReg s a v).thermal = s.thermal := rfl
@[simp] theorem setReg_power (s : State) (a v : Nat) : (setReg s a v).power = s.power := rfl
@[simp] theorem setReg_pins (s : State) (a v : Nat) : (setReg s a v).pins = s.pins := rfl
@[simp] theorem setReg_boot (s : State) (a v : Nat) : (setReg s a v).boot = s.boot := rfl
@[simp] theorem setReg_refs (s : State) (a v : Nat) : (setReg s a v).refs = s.refs := rfl
@[simp] theorem setReg_sec (s : State) (a v : Nat) : (setReg s a v).sec = s.sec := rfl
@[simp] theorem setReg_roce (s : State) (a v : Nat) : (setReg s a v).roce = s.roce := rfl
@[simp] theorem setReg_chain (s : State) (a v : Nat) : (setReg s a v).chain = s.chain := rfl
@[simp] theorem setReg_draws (s : State) (a v : Nat) : (setReg s a v).draws = s.draws := rfl

@[simp] theorem setFld_pending (s : State) (a hi lo v : Nat) : (setFld s a hi lo v).pending = s.pending := rfl
@[simp] theorem setFld_regs (s : State) (a hi lo v : Nat) : (setFld s a hi lo v).regs = tput s.regs a (BitVec.ofNat 64 (setBits (rd s a) hi lo v)) := rfl
@[simp] theorem setFld_shadow (s : State) (a hi lo v : Nat) : (setFld s a hi lo v).shadow = s.shadow := rfl
@[simp] theorem setFld_shadowLate (s : State) (a hi lo v : Nat) : (setFld s a hi lo v).shadowLate = s.shadowLate := rfl
@[simp] theorem setFld_stickNow (s : State) (a hi lo v : Nat) : (setFld s a hi lo v).stickNow = s.stickNow := rfl
@[simp] theorem setFld_mem (s : State) (a hi lo v : Nat) : (setFld s a hi lo v).mem = s.mem := rfl
@[simp] theorem setFld_poison (s : State) (a hi lo v : Nat) : (setFld s a hi lo v).poison = s.poison := rfl
@[simp] theorem setFld_pword (s : State) (a hi lo v : Nat) : (setFld s a hi lo v).pword = s.pword := rfl
@[simp] theorem setFld_hostMem (s : State) (a hi lo v : Nat) : (setFld s a hi lo v).hostMem = s.hostMem := rfl
@[simp] theorem setFld_out (s : State) (a hi lo v : Nat) : (setFld s a hi lo v).out = s.out := rfl
@[simp] theorem setFld_cycle (s : State) (a hi lo v : Nat) : (setFld s a hi lo v).cycle = s.cycle := rfl
@[simp] theorem setFld_refcnt (s : State) (a hi lo v : Nat) : (setFld s a hi lo v).refcnt = s.refcnt := rfl
@[simp] theorem setFld_refAcc (s : State) (a hi lo v : Nat) : (setFld s a hi lo v).refAcc = s.refAcc := rfl
@[simp] theorem setFld_run (s : State) (a hi lo v : Nat) : (setFld s a hi lo v).run = s.run := rfl
@[simp] theorem setFld_gate (s : State) (a hi lo v : Nat) : (setFld s a hi lo v).gate = s.gate := rfl
@[simp] theorem setFld_heldLast (s : State) (a hi lo v : Nat) : (setFld s a hi lo v).heldLast = s.heldLast := rfl
@[simp] theorem setFld_holds (s : State) (a hi lo v : Nat) : (setFld s a hi lo v).holds = s.holds := rfl
@[simp] theorem setFld_nextHold (s : State) (a hi lo v : Nat) : (setFld s a hi lo v).nextHold = s.nextHold := rfl
@[simp] theorem setFld_parts (s : State) (a hi lo v : Nat) : (setFld s a hi lo v).parts = s.parts := rfl
@[simp] theorem setFld_ctxs (s : State) (a hi lo v : Nat) : (setFld s a hi lo v).ctxs = s.ctxs := rfl
@[simp] theorem setFld_mxe (s : State) (a hi lo v : Nat) : (setFld s a hi lo v).mxe = s.mxe := rfl
@[simp] theorem setFld_echo (s : State) (a hi lo v : Nat) : (setFld s a hi lo v).echo = s.echo := rfl
@[simp] theorem setFld_echoOpens (s : State) (a hi lo v : Nat) : (setFld s a hi lo v).echoOpens = s.echoOpens := rfl
@[simp] theorem setFld_thirds (s : State) (a hi lo v : Nat) : (setFld s a hi lo v).thirds = s.thirds := rfl
@[simp] theorem setFld_strikes (s : State) (a hi lo v : Nat) : (setFld s a hi lo v).strikes = s.strikes := rfl
@[simp] theorem setFld_dirty (s : State) (a hi lo v : Nat) : (setFld s a hi lo v).dirty = s.dirty := rfl
@[simp] theorem setFld_short (s : State) (a hi lo v : Nat) : (setFld s a hi lo v).short = s.short := rfl
@[simp] theorem setFld_passAt (s : State) (a hi lo v : Nat) : (setFld s a hi lo v).passAt = s.passAt := rfl
@[simp] theorem setFld_bells (s : State) (a hi lo v : Nat) : (setFld s a hi lo v).bells = s.bells := rfl
@[simp] theorem setFld_qps (s : State) (a hi lo v : Nat) : (setFld s a hi lo v).qps = s.qps := rfl
@[simp] theorem setFld_streams (s : State) (a hi lo v : Nat) : (setFld s a hi lo v).streams = s.streams := rfl
@[simp] theorem setFld_cvu (s : State) (a hi lo v : Nat) : (setFld s a hi lo v).cvu = s.cvu := rfl
@[simp] theorem setFld_ports (s : State) (a hi lo v : Nat) : (setFld s a hi lo v).ports = s.ports := rfl
@[simp] theorem setFld_seals (s : State) (a hi lo v : Nat) : (setFld s a hi lo v).seals = s.seals := rfl
@[simp] theorem setFld_msix (s : State) (a hi lo v : Nat) : (setFld s a hi lo v).msix = s.msix := rfl
@[simp] theorem setFld_tunOut (s : State) (a hi lo v : Nat) : (setFld s a hi lo v).tunOut = s.tunOut := rfl
@[simp] theorem setFld_tunIn (s : State) (a hi lo v : Nat) : (setFld s a hi lo v).tunIn = s.tunIn := rfl
@[simp] theorem setFld_fw (s : State) (a hi lo v : Nat) : (setFld s a hi lo v).fw = s.fw := rfl
@[simp] theorem setFld_prof (s : State) (a hi lo v : Nat) : (setFld s a hi lo v).prof = s.prof := rfl
@[simp] theorem setFld_coverOf (s : State) (a hi lo v : Nat) : (setFld s a hi lo v).coverOf = s.coverOf := rfl
@[simp] theorem setFld_sentinels (s : State) (a hi lo v : Nat) : (setFld s a hi lo v).sentinels = s.sentinels := rfl
@[simp] theorem setFld_retired (s : State) (a hi lo v : Nat) : (setFld s a hi lo v).retired = s.retired := rfl
@[simp] theorem setFld_unitMap (s : State) (a hi lo v : Nat) : (setFld s a hi lo v).unitMap = s.unitMap := rfl
@[simp] theorem setFld_spared (s : State) (a hi lo v : Nat) : (setFld s a hi lo v).spared = s.spared := rfl
@[simp] theorem setFld_hbmQ (s : State) (a hi lo v : Nat) : (setFld s a hi lo v).hbmQ = s.hbmQ := rfl
@[simp] theorem setFld_hbmWin (s : State) (a hi lo v : Nat) : (setFld s a hi lo v).hbmWin = s.hbmWin := rfl
@[simp] theorem setFld_scrubAt (s : State) (a hi lo v : Nat) : (setFld s a hi lo v).scrubAt = s.scrubAt := rfl
@[simp] theorem setFld_scrubLate (s : State) (a hi lo v : Nat) : (setFld s a hi lo v).scrubLate = s.scrubLate := rfl
@[simp] theorem setFld_ldgKeys (s : State) (a hi lo v : Nat) : (setFld s a hi lo v).ldgKeys = s.ldgKeys := rfl
@[simp] theorem setFld_scrubPos (s : State) (a hi lo v : Nat) : (setFld s a hi lo v).scrubPos = s.scrubPos := rfl
@[simp] theorem setFld_mbox (s : State) (a hi lo v : Nat) : (setFld s a hi lo v).mbox = s.mbox := rfl
@[simp] theorem setFld_thermal (s : State) (a hi lo v : Nat) : (setFld s a hi lo v).thermal = s.thermal := rfl
@[simp] theorem setFld_power (s : State) (a hi lo v : Nat) : (setFld s a hi lo v).power = s.power := rfl
@[simp] theorem setFld_pins (s : State) (a hi lo v : Nat) : (setFld s a hi lo v).pins = s.pins := rfl
@[simp] theorem setFld_boot (s : State) (a hi lo v : Nat) : (setFld s a hi lo v).boot = s.boot := rfl
@[simp] theorem setFld_refs (s : State) (a hi lo v : Nat) : (setFld s a hi lo v).refs = s.refs := rfl
@[simp] theorem setFld_sec (s : State) (a hi lo v : Nat) : (setFld s a hi lo v).sec = s.sec := rfl
@[simp] theorem setFld_roce (s : State) (a hi lo v : Nat) : (setFld s a hi lo v).roce = s.roce := rfl
@[simp] theorem setFld_chain (s : State) (a hi lo v : Nat) : (setFld s a hi lo v).chain = s.chain := rfl
@[simp] theorem setFld_draws (s : State) (a hi lo v : Nat) : (setFld s a hi lo v).draws = s.draws := rfl

@[simp] theorem orReg_pending (s : State) (a v : Nat) : (orReg s a v).pending = s.pending := rfl
@[simp] theorem orReg_shadow (s : State) (a v : Nat) : (orReg s a v).shadow = s.shadow := rfl
@[simp] theorem orReg_shadowLate (s : State) (a v : Nat) : (orReg s a v).shadowLate = s.shadowLate := rfl
@[simp] theorem orReg_mem (s : State) (a v : Nat) : (orReg s a v).mem = s.mem := rfl
@[simp] theorem orReg_poison (s : State) (a v : Nat) : (orReg s a v).poison = s.poison := rfl
@[simp] theorem orReg_pword (s : State) (a v : Nat) : (orReg s a v).pword = s.pword := rfl
@[simp] theorem orReg_hostMem (s : State) (a v : Nat) : (orReg s a v).hostMem = s.hostMem := rfl
@[simp] theorem orReg_out (s : State) (a v : Nat) : (orReg s a v).out = s.out := rfl
@[simp] theorem orReg_cycle (s : State) (a v : Nat) : (orReg s a v).cycle = s.cycle := rfl
@[simp] theorem orReg_refcnt (s : State) (a v : Nat) : (orReg s a v).refcnt = s.refcnt := rfl
@[simp] theorem orReg_refAcc (s : State) (a v : Nat) : (orReg s a v).refAcc = s.refAcc := rfl
@[simp] theorem orReg_run (s : State) (a v : Nat) : (orReg s a v).run = s.run := rfl
@[simp] theorem orReg_gate (s : State) (a v : Nat) : (orReg s a v).gate = s.gate := rfl
@[simp] theorem orReg_heldLast (s : State) (a v : Nat) : (orReg s a v).heldLast = s.heldLast := rfl
@[simp] theorem orReg_holds (s : State) (a v : Nat) : (orReg s a v).holds = s.holds := rfl
@[simp] theorem orReg_nextHold (s : State) (a v : Nat) : (orReg s a v).nextHold = s.nextHold := rfl
@[simp] theorem orReg_parts (s : State) (a v : Nat) : (orReg s a v).parts = s.parts := rfl
@[simp] theorem orReg_ctxs (s : State) (a v : Nat) : (orReg s a v).ctxs = s.ctxs := rfl
@[simp] theorem orReg_mxe (s : State) (a v : Nat) : (orReg s a v).mxe = s.mxe := rfl
@[simp] theorem orReg_echo (s : State) (a v : Nat) : (orReg s a v).echo = s.echo := rfl
@[simp] theorem orReg_echoOpens (s : State) (a v : Nat) : (orReg s a v).echoOpens = s.echoOpens := rfl
@[simp] theorem orReg_thirds (s : State) (a v : Nat) : (orReg s a v).thirds = s.thirds := rfl
@[simp] theorem orReg_strikes (s : State) (a v : Nat) : (orReg s a v).strikes = s.strikes := rfl
@[simp] theorem orReg_dirty (s : State) (a v : Nat) : (orReg s a v).dirty = s.dirty := rfl
@[simp] theorem orReg_short (s : State) (a v : Nat) : (orReg s a v).short = s.short := rfl
@[simp] theorem orReg_passAt (s : State) (a v : Nat) : (orReg s a v).passAt = s.passAt := rfl
@[simp] theorem orReg_bells (s : State) (a v : Nat) : (orReg s a v).bells = s.bells := rfl
@[simp] theorem orReg_qps (s : State) (a v : Nat) : (orReg s a v).qps = s.qps := rfl
@[simp] theorem orReg_streams (s : State) (a v : Nat) : (orReg s a v).streams = s.streams := rfl
@[simp] theorem orReg_cvu (s : State) (a v : Nat) : (orReg s a v).cvu = s.cvu := rfl
@[simp] theorem orReg_ports (s : State) (a v : Nat) : (orReg s a v).ports = s.ports := rfl
@[simp] theorem orReg_seals (s : State) (a v : Nat) : (orReg s a v).seals = s.seals := rfl
@[simp] theorem orReg_msix (s : State) (a v : Nat) : (orReg s a v).msix = s.msix := rfl
@[simp] theorem orReg_tunOut (s : State) (a v : Nat) : (orReg s a v).tunOut = s.tunOut := rfl
@[simp] theorem orReg_tunIn (s : State) (a v : Nat) : (orReg s a v).tunIn = s.tunIn := rfl
@[simp] theorem orReg_fw (s : State) (a v : Nat) : (orReg s a v).fw = s.fw := rfl
@[simp] theorem orReg_prof (s : State) (a v : Nat) : (orReg s a v).prof = s.prof := rfl
@[simp] theorem orReg_coverOf (s : State) (a v : Nat) : (orReg s a v).coverOf = s.coverOf := rfl
@[simp] theorem orReg_sentinels (s : State) (a v : Nat) : (orReg s a v).sentinels = s.sentinels := rfl
@[simp] theorem orReg_retired (s : State) (a v : Nat) : (orReg s a v).retired = s.retired := rfl
@[simp] theorem orReg_unitMap (s : State) (a v : Nat) : (orReg s a v).unitMap = s.unitMap := rfl
@[simp] theorem orReg_spared (s : State) (a v : Nat) : (orReg s a v).spared = s.spared := rfl
@[simp] theorem orReg_hbmQ (s : State) (a v : Nat) : (orReg s a v).hbmQ = s.hbmQ := rfl
@[simp] theorem orReg_hbmWin (s : State) (a v : Nat) : (orReg s a v).hbmWin = s.hbmWin := rfl
@[simp] theorem orReg_scrubAt (s : State) (a v : Nat) : (orReg s a v).scrubAt = s.scrubAt := rfl
@[simp] theorem orReg_scrubLate (s : State) (a v : Nat) : (orReg s a v).scrubLate = s.scrubLate := rfl
@[simp] theorem orReg_ldgKeys (s : State) (a v : Nat) : (orReg s a v).ldgKeys = s.ldgKeys := rfl
@[simp] theorem orReg_scrubPos (s : State) (a v : Nat) : (orReg s a v).scrubPos = s.scrubPos := rfl
@[simp] theorem orReg_mbox (s : State) (a v : Nat) : (orReg s a v).mbox = s.mbox := rfl
@[simp] theorem orReg_thermal (s : State) (a v : Nat) : (orReg s a v).thermal = s.thermal := rfl
@[simp] theorem orReg_power (s : State) (a v : Nat) : (orReg s a v).power = s.power := rfl
@[simp] theorem orReg_pins (s : State) (a v : Nat) : (orReg s a v).pins = s.pins := rfl
@[simp] theorem orReg_boot (s : State) (a v : Nat) : (orReg s a v).boot = s.boot := rfl
@[simp] theorem orReg_refs (s : State) (a v : Nat) : (orReg s a v).refs = s.refs := rfl
@[simp] theorem orReg_sec (s : State) (a v : Nat) : (orReg s a v).sec = s.sec := rfl
@[simp] theorem orReg_roce (s : State) (a v : Nat) : (orReg s a v).roce = s.roce := rfl
@[simp] theorem orReg_chain (s : State) (a v : Nat) : (orReg s a v).chain = s.chain := rfl
@[simp] theorem orReg_draws (s : State) (a v : Nat) : (orReg s a v).draws = s.draws := rfl

@[simp] theorem satFld_pending (s : State) (a hi lo v : Nat) : (satFld s a hi lo v).pending = s.pending := rfl
@[simp] theorem satFld_shadow (s : State) (a hi lo v : Nat) : (satFld s a hi lo v).shadow = s.shadow := rfl
@[simp] theorem satFld_shadowLate (s : State) (a hi lo v : Nat) : (satFld s a hi lo v).shadowLate = s.shadowLate := rfl
@[simp] theorem satFld_stickNow (s : State) (a hi lo v : Nat) : (satFld s a hi lo v).stickNow = s.stickNow := rfl
@[simp] theorem satFld_mem (s : State) (a hi lo v : Nat) : (satFld s a hi lo v).mem = s.mem := rfl
@[simp] theorem satFld_poison (s : State) (a hi lo v : Nat) : (satFld s a hi lo v).poison = s.poison := rfl
@[simp] theorem satFld_pword (s : State) (a hi lo v : Nat) : (satFld s a hi lo v).pword = s.pword := rfl
@[simp] theorem satFld_hostMem (s : State) (a hi lo v : Nat) : (satFld s a hi lo v).hostMem = s.hostMem := rfl
@[simp] theorem satFld_out (s : State) (a hi lo v : Nat) : (satFld s a hi lo v).out = s.out := rfl
@[simp] theorem satFld_cycle (s : State) (a hi lo v : Nat) : (satFld s a hi lo v).cycle = s.cycle := rfl
@[simp] theorem satFld_refcnt (s : State) (a hi lo v : Nat) : (satFld s a hi lo v).refcnt = s.refcnt := rfl
@[simp] theorem satFld_refAcc (s : State) (a hi lo v : Nat) : (satFld s a hi lo v).refAcc = s.refAcc := rfl
@[simp] theorem satFld_run (s : State) (a hi lo v : Nat) : (satFld s a hi lo v).run = s.run := rfl
@[simp] theorem satFld_gate (s : State) (a hi lo v : Nat) : (satFld s a hi lo v).gate = s.gate := rfl
@[simp] theorem satFld_heldLast (s : State) (a hi lo v : Nat) : (satFld s a hi lo v).heldLast = s.heldLast := rfl
@[simp] theorem satFld_holds (s : State) (a hi lo v : Nat) : (satFld s a hi lo v).holds = s.holds := rfl
@[simp] theorem satFld_nextHold (s : State) (a hi lo v : Nat) : (satFld s a hi lo v).nextHold = s.nextHold := rfl
@[simp] theorem satFld_parts (s : State) (a hi lo v : Nat) : (satFld s a hi lo v).parts = s.parts := rfl
@[simp] theorem satFld_ctxs (s : State) (a hi lo v : Nat) : (satFld s a hi lo v).ctxs = s.ctxs := rfl
@[simp] theorem satFld_mxe (s : State) (a hi lo v : Nat) : (satFld s a hi lo v).mxe = s.mxe := rfl
@[simp] theorem satFld_echo (s : State) (a hi lo v : Nat) : (satFld s a hi lo v).echo = s.echo := rfl
@[simp] theorem satFld_echoOpens (s : State) (a hi lo v : Nat) : (satFld s a hi lo v).echoOpens = s.echoOpens := rfl
@[simp] theorem satFld_thirds (s : State) (a hi lo v : Nat) : (satFld s a hi lo v).thirds = s.thirds := rfl
@[simp] theorem satFld_strikes (s : State) (a hi lo v : Nat) : (satFld s a hi lo v).strikes = s.strikes := rfl
@[simp] theorem satFld_dirty (s : State) (a hi lo v : Nat) : (satFld s a hi lo v).dirty = s.dirty := rfl
@[simp] theorem satFld_short (s : State) (a hi lo v : Nat) : (satFld s a hi lo v).short = s.short := rfl
@[simp] theorem satFld_passAt (s : State) (a hi lo v : Nat) : (satFld s a hi lo v).passAt = s.passAt := rfl
@[simp] theorem satFld_bells (s : State) (a hi lo v : Nat) : (satFld s a hi lo v).bells = s.bells := rfl
@[simp] theorem satFld_qps (s : State) (a hi lo v : Nat) : (satFld s a hi lo v).qps = s.qps := rfl
@[simp] theorem satFld_streams (s : State) (a hi lo v : Nat) : (satFld s a hi lo v).streams = s.streams := rfl
@[simp] theorem satFld_cvu (s : State) (a hi lo v : Nat) : (satFld s a hi lo v).cvu = s.cvu := rfl
@[simp] theorem satFld_ports (s : State) (a hi lo v : Nat) : (satFld s a hi lo v).ports = s.ports := rfl
@[simp] theorem satFld_seals (s : State) (a hi lo v : Nat) : (satFld s a hi lo v).seals = s.seals := rfl
@[simp] theorem satFld_msix (s : State) (a hi lo v : Nat) : (satFld s a hi lo v).msix = s.msix := rfl
@[simp] theorem satFld_tunOut (s : State) (a hi lo v : Nat) : (satFld s a hi lo v).tunOut = s.tunOut := rfl
@[simp] theorem satFld_tunIn (s : State) (a hi lo v : Nat) : (satFld s a hi lo v).tunIn = s.tunIn := rfl
@[simp] theorem satFld_fw (s : State) (a hi lo v : Nat) : (satFld s a hi lo v).fw = s.fw := rfl
@[simp] theorem satFld_prof (s : State) (a hi lo v : Nat) : (satFld s a hi lo v).prof = s.prof := rfl
@[simp] theorem satFld_coverOf (s : State) (a hi lo v : Nat) : (satFld s a hi lo v).coverOf = s.coverOf := rfl
@[simp] theorem satFld_sentinels (s : State) (a hi lo v : Nat) : (satFld s a hi lo v).sentinels = s.sentinels := rfl
@[simp] theorem satFld_retired (s : State) (a hi lo v : Nat) : (satFld s a hi lo v).retired = s.retired := rfl
@[simp] theorem satFld_unitMap (s : State) (a hi lo v : Nat) : (satFld s a hi lo v).unitMap = s.unitMap := rfl
@[simp] theorem satFld_spared (s : State) (a hi lo v : Nat) : (satFld s a hi lo v).spared = s.spared := rfl
@[simp] theorem satFld_hbmQ (s : State) (a hi lo v : Nat) : (satFld s a hi lo v).hbmQ = s.hbmQ := rfl
@[simp] theorem satFld_hbmWin (s : State) (a hi lo v : Nat) : (satFld s a hi lo v).hbmWin = s.hbmWin := rfl
@[simp] theorem satFld_scrubAt (s : State) (a hi lo v : Nat) : (satFld s a hi lo v).scrubAt = s.scrubAt := rfl
@[simp] theorem satFld_scrubLate (s : State) (a hi lo v : Nat) : (satFld s a hi lo v).scrubLate = s.scrubLate := rfl
@[simp] theorem satFld_ldgKeys (s : State) (a hi lo v : Nat) : (satFld s a hi lo v).ldgKeys = s.ldgKeys := rfl
@[simp] theorem satFld_scrubPos (s : State) (a hi lo v : Nat) : (satFld s a hi lo v).scrubPos = s.scrubPos := rfl
@[simp] theorem satFld_mbox (s : State) (a hi lo v : Nat) : (satFld s a hi lo v).mbox = s.mbox := rfl
@[simp] theorem satFld_thermal (s : State) (a hi lo v : Nat) : (satFld s a hi lo v).thermal = s.thermal := rfl
@[simp] theorem satFld_power (s : State) (a hi lo v : Nat) : (satFld s a hi lo v).power = s.power := rfl
@[simp] theorem satFld_pins (s : State) (a hi lo v : Nat) : (satFld s a hi lo v).pins = s.pins := rfl
@[simp] theorem satFld_boot (s : State) (a hi lo v : Nat) : (satFld s a hi lo v).boot = s.boot := rfl
@[simp] theorem satFld_refs (s : State) (a hi lo v : Nat) : (satFld s a hi lo v).refs = s.refs := rfl
@[simp] theorem satFld_sec (s : State) (a hi lo v : Nat) : (satFld s a hi lo v).sec = s.sec := rfl
@[simp] theorem satFld_roce (s : State) (a hi lo v : Nat) : (satFld s a hi lo v).roce = s.roce := rfl
@[simp] theorem satFld_chain (s : State) (a hi lo v : Nat) : (satFld s a hi lo v).chain = s.chain := rfl
@[simp] theorem satFld_draws (s : State) (a hi lo v : Nat) : (satFld s a hi lo v).draws = s.draws := rfl

@[simp] theorem devWrite_pending (s : State) (a : Nat) (b : Bytes) : (devWrite s a b).pending = s.pending := rfl
@[simp] theorem devWrite_regs (s : State) (a : Nat) (b : Bytes) : (devWrite s a b).regs = s.regs := rfl
@[simp] theorem devWrite_shadow (s : State) (a : Nat) (b : Bytes) : (devWrite s a b).shadow = s.shadow := rfl
@[simp] theorem devWrite_shadowLate (s : State) (a : Nat) (b : Bytes) : (devWrite s a b).shadowLate = s.shadowLate := rfl
@[simp] theorem devWrite_stickNow (s : State) (a : Nat) (b : Bytes) : (devWrite s a b).stickNow = s.stickNow := rfl
@[simp] theorem devWrite_hostMem (s : State) (a : Nat) (b : Bytes) : (devWrite s a b).hostMem = s.hostMem := rfl
@[simp] theorem devWrite_out (s : State) (a : Nat) (b : Bytes) : (devWrite s a b).out = s.out := rfl
@[simp] theorem devWrite_cycle (s : State) (a : Nat) (b : Bytes) : (devWrite s a b).cycle = s.cycle := rfl
@[simp] theorem devWrite_refcnt (s : State) (a : Nat) (b : Bytes) : (devWrite s a b).refcnt = s.refcnt := rfl
@[simp] theorem devWrite_refAcc (s : State) (a : Nat) (b : Bytes) : (devWrite s a b).refAcc = s.refAcc := rfl
@[simp] theorem devWrite_run (s : State) (a : Nat) (b : Bytes) : (devWrite s a b).run = s.run := rfl
@[simp] theorem devWrite_gate (s : State) (a : Nat) (b : Bytes) : (devWrite s a b).gate = s.gate := rfl
@[simp] theorem devWrite_heldLast (s : State) (a : Nat) (b : Bytes) : (devWrite s a b).heldLast = s.heldLast := rfl
@[simp] theorem devWrite_holds (s : State) (a : Nat) (b : Bytes) : (devWrite s a b).holds = s.holds := rfl
@[simp] theorem devWrite_nextHold (s : State) (a : Nat) (b : Bytes) : (devWrite s a b).nextHold = s.nextHold := rfl
@[simp] theorem devWrite_parts (s : State) (a : Nat) (b : Bytes) : (devWrite s a b).parts = s.parts := rfl
@[simp] theorem devWrite_ctxs (s : State) (a : Nat) (b : Bytes) : (devWrite s a b).ctxs = s.ctxs := rfl
@[simp] theorem devWrite_mxe (s : State) (a : Nat) (b : Bytes) : (devWrite s a b).mxe = s.mxe := rfl
@[simp] theorem devWrite_echo (s : State) (a : Nat) (b : Bytes) : (devWrite s a b).echo = s.echo := rfl
@[simp] theorem devWrite_echoOpens (s : State) (a : Nat) (b : Bytes) : (devWrite s a b).echoOpens = s.echoOpens := rfl
@[simp] theorem devWrite_thirds (s : State) (a : Nat) (b : Bytes) : (devWrite s a b).thirds = s.thirds := rfl
@[simp] theorem devWrite_strikes (s : State) (a : Nat) (b : Bytes) : (devWrite s a b).strikes = s.strikes := rfl
@[simp] theorem devWrite_dirty (s : State) (a : Nat) (b : Bytes) : (devWrite s a b).dirty = s.dirty := rfl
@[simp] theorem devWrite_short (s : State) (a : Nat) (b : Bytes) : (devWrite s a b).short = s.short := rfl
@[simp] theorem devWrite_passAt (s : State) (a : Nat) (b : Bytes) : (devWrite s a b).passAt = s.passAt := rfl
@[simp] theorem devWrite_bells (s : State) (a : Nat) (b : Bytes) : (devWrite s a b).bells = s.bells := rfl
@[simp] theorem devWrite_qps (s : State) (a : Nat) (b : Bytes) : (devWrite s a b).qps = s.qps := rfl
@[simp] theorem devWrite_streams (s : State) (a : Nat) (b : Bytes) : (devWrite s a b).streams = s.streams := rfl
@[simp] theorem devWrite_cvu (s : State) (a : Nat) (b : Bytes) : (devWrite s a b).cvu = s.cvu := rfl
@[simp] theorem devWrite_ports (s : State) (a : Nat) (b : Bytes) : (devWrite s a b).ports = s.ports := rfl
@[simp] theorem devWrite_seals (s : State) (a : Nat) (b : Bytes) : (devWrite s a b).seals = s.seals := rfl
@[simp] theorem devWrite_msix (s : State) (a : Nat) (b : Bytes) : (devWrite s a b).msix = s.msix := rfl
@[simp] theorem devWrite_tunOut (s : State) (a : Nat) (b : Bytes) : (devWrite s a b).tunOut = s.tunOut := rfl
@[simp] theorem devWrite_tunIn (s : State) (a : Nat) (b : Bytes) : (devWrite s a b).tunIn = s.tunIn := rfl
@[simp] theorem devWrite_fw (s : State) (a : Nat) (b : Bytes) : (devWrite s a b).fw = s.fw := rfl
@[simp] theorem devWrite_prof (s : State) (a : Nat) (b : Bytes) : (devWrite s a b).prof = s.prof := rfl
@[simp] theorem devWrite_coverOf (s : State) (a : Nat) (b : Bytes) : (devWrite s a b).coverOf = s.coverOf := rfl
@[simp] theorem devWrite_sentinels (s : State) (a : Nat) (b : Bytes) : (devWrite s a b).sentinels = s.sentinels := rfl
@[simp] theorem devWrite_retired (s : State) (a : Nat) (b : Bytes) : (devWrite s a b).retired = s.retired := rfl
@[simp] theorem devWrite_unitMap (s : State) (a : Nat) (b : Bytes) : (devWrite s a b).unitMap = s.unitMap := rfl
@[simp] theorem devWrite_spared (s : State) (a : Nat) (b : Bytes) : (devWrite s a b).spared = s.spared := rfl
@[simp] theorem devWrite_hbmQ (s : State) (a : Nat) (b : Bytes) : (devWrite s a b).hbmQ = s.hbmQ := rfl
@[simp] theorem devWrite_hbmWin (s : State) (a : Nat) (b : Bytes) : (devWrite s a b).hbmWin = s.hbmWin := rfl
@[simp] theorem devWrite_scrubAt (s : State) (a : Nat) (b : Bytes) : (devWrite s a b).scrubAt = s.scrubAt := rfl
@[simp] theorem devWrite_scrubLate (s : State) (a : Nat) (b : Bytes) : (devWrite s a b).scrubLate = s.scrubLate := rfl
@[simp] theorem devWrite_ldgKeys (s : State) (a : Nat) (b : Bytes) : (devWrite s a b).ldgKeys = s.ldgKeys := rfl
@[simp] theorem devWrite_scrubPos (s : State) (a : Nat) (b : Bytes) : (devWrite s a b).scrubPos = s.scrubPos := rfl
@[simp] theorem devWrite_mbox (s : State) (a : Nat) (b : Bytes) : (devWrite s a b).mbox = s.mbox := rfl
@[simp] theorem devWrite_thermal (s : State) (a : Nat) (b : Bytes) : (devWrite s a b).thermal = s.thermal := rfl
@[simp] theorem devWrite_power (s : State) (a : Nat) (b : Bytes) : (devWrite s a b).power = s.power := rfl
@[simp] theorem devWrite_pins (s : State) (a : Nat) (b : Bytes) : (devWrite s a b).pins = s.pins := rfl
@[simp] theorem devWrite_boot (s : State) (a : Nat) (b : Bytes) : (devWrite s a b).boot = s.boot := rfl
@[simp] theorem devWrite_refs (s : State) (a : Nat) (b : Bytes) : (devWrite s a b).refs = s.refs := rfl
@[simp] theorem devWrite_sec (s : State) (a : Nat) (b : Bytes) : (devWrite s a b).sec = s.sec := rfl
@[simp] theorem devWrite_roce (s : State) (a : Nat) (b : Bytes) : (devWrite s a b).roce = s.roce := rfl
@[simp] theorem devWrite_chain (s : State) (a : Nat) (b : Bytes) : (devWrite s a b).chain = s.chain := rfl
@[simp] theorem devWrite_draws (s : State) (a : Nat) (b : Bytes) : (devWrite s a b).draws = s.draws := rfl

@[simp] theorem devSeg_pending (s : State) (g : Seg) : (devSeg s g).pending = s.pending := rfl
@[simp] theorem devSeg_regs (s : State) (g : Seg) : (devSeg s g).regs = s.regs := rfl
@[simp] theorem devSeg_shadow (s : State) (g : Seg) : (devSeg s g).shadow = s.shadow := rfl
@[simp] theorem devSeg_shadowLate (s : State) (g : Seg) : (devSeg s g).shadowLate = s.shadowLate := rfl
@[simp] theorem devSeg_stickNow (s : State) (g : Seg) : (devSeg s g).stickNow = s.stickNow := rfl
@[simp] theorem devSeg_hostMem (s : State) (g : Seg) : (devSeg s g).hostMem = s.hostMem := rfl
@[simp] theorem devSeg_out (s : State) (g : Seg) : (devSeg s g).out = s.out := rfl
@[simp] theorem devSeg_cycle (s : State) (g : Seg) : (devSeg s g).cycle = s.cycle := rfl
@[simp] theorem devSeg_refcnt (s : State) (g : Seg) : (devSeg s g).refcnt = s.refcnt := rfl
@[simp] theorem devSeg_refAcc (s : State) (g : Seg) : (devSeg s g).refAcc = s.refAcc := rfl
@[simp] theorem devSeg_run (s : State) (g : Seg) : (devSeg s g).run = s.run := rfl
@[simp] theorem devSeg_gate (s : State) (g : Seg) : (devSeg s g).gate = s.gate := rfl
@[simp] theorem devSeg_heldLast (s : State) (g : Seg) : (devSeg s g).heldLast = s.heldLast := rfl
@[simp] theorem devSeg_holds (s : State) (g : Seg) : (devSeg s g).holds = s.holds := rfl
@[simp] theorem devSeg_nextHold (s : State) (g : Seg) : (devSeg s g).nextHold = s.nextHold := rfl
@[simp] theorem devSeg_parts (s : State) (g : Seg) : (devSeg s g).parts = s.parts := rfl
@[simp] theorem devSeg_ctxs (s : State) (g : Seg) : (devSeg s g).ctxs = s.ctxs := rfl
@[simp] theorem devSeg_mxe (s : State) (g : Seg) : (devSeg s g).mxe = s.mxe := rfl
@[simp] theorem devSeg_echo (s : State) (g : Seg) : (devSeg s g).echo = s.echo := rfl
@[simp] theorem devSeg_echoOpens (s : State) (g : Seg) : (devSeg s g).echoOpens = s.echoOpens := rfl
@[simp] theorem devSeg_thirds (s : State) (g : Seg) : (devSeg s g).thirds = s.thirds := rfl
@[simp] theorem devSeg_strikes (s : State) (g : Seg) : (devSeg s g).strikes = s.strikes := rfl
@[simp] theorem devSeg_dirty (s : State) (g : Seg) : (devSeg s g).dirty = s.dirty := rfl
@[simp] theorem devSeg_short (s : State) (g : Seg) : (devSeg s g).short = s.short := rfl
@[simp] theorem devSeg_passAt (s : State) (g : Seg) : (devSeg s g).passAt = s.passAt := rfl
@[simp] theorem devSeg_bells (s : State) (g : Seg) : (devSeg s g).bells = s.bells := rfl
@[simp] theorem devSeg_qps (s : State) (g : Seg) : (devSeg s g).qps = s.qps := rfl
@[simp] theorem devSeg_streams (s : State) (g : Seg) : (devSeg s g).streams = s.streams := rfl
@[simp] theorem devSeg_cvu (s : State) (g : Seg) : (devSeg s g).cvu = s.cvu := rfl
@[simp] theorem devSeg_ports (s : State) (g : Seg) : (devSeg s g).ports = s.ports := rfl
@[simp] theorem devSeg_seals (s : State) (g : Seg) : (devSeg s g).seals = s.seals := rfl
@[simp] theorem devSeg_msix (s : State) (g : Seg) : (devSeg s g).msix = s.msix := rfl
@[simp] theorem devSeg_tunOut (s : State) (g : Seg) : (devSeg s g).tunOut = s.tunOut := rfl
@[simp] theorem devSeg_tunIn (s : State) (g : Seg) : (devSeg s g).tunIn = s.tunIn := rfl
@[simp] theorem devSeg_fw (s : State) (g : Seg) : (devSeg s g).fw = s.fw := rfl
@[simp] theorem devSeg_prof (s : State) (g : Seg) : (devSeg s g).prof = s.prof := rfl
@[simp] theorem devSeg_coverOf (s : State) (g : Seg) : (devSeg s g).coverOf = s.coverOf := rfl
@[simp] theorem devSeg_sentinels (s : State) (g : Seg) : (devSeg s g).sentinels = s.sentinels := rfl
@[simp] theorem devSeg_retired (s : State) (g : Seg) : (devSeg s g).retired = s.retired := rfl
@[simp] theorem devSeg_unitMap (s : State) (g : Seg) : (devSeg s g).unitMap = s.unitMap := rfl
@[simp] theorem devSeg_spared (s : State) (g : Seg) : (devSeg s g).spared = s.spared := rfl
@[simp] theorem devSeg_hbmQ (s : State) (g : Seg) : (devSeg s g).hbmQ = s.hbmQ := rfl
@[simp] theorem devSeg_hbmWin (s : State) (g : Seg) : (devSeg s g).hbmWin = s.hbmWin := rfl
@[simp] theorem devSeg_scrubAt (s : State) (g : Seg) : (devSeg s g).scrubAt = s.scrubAt := rfl
@[simp] theorem devSeg_scrubLate (s : State) (g : Seg) : (devSeg s g).scrubLate = s.scrubLate := rfl
@[simp] theorem devSeg_ldgKeys (s : State) (g : Seg) : (devSeg s g).ldgKeys = s.ldgKeys := rfl
@[simp] theorem devSeg_scrubPos (s : State) (g : Seg) : (devSeg s g).scrubPos = s.scrubPos := rfl
@[simp] theorem devSeg_mbox (s : State) (g : Seg) : (devSeg s g).mbox = s.mbox := rfl
@[simp] theorem devSeg_thermal (s : State) (g : Seg) : (devSeg s g).thermal = s.thermal := rfl
@[simp] theorem devSeg_power (s : State) (g : Seg) : (devSeg s g).power = s.power := rfl
@[simp] theorem devSeg_pins (s : State) (g : Seg) : (devSeg s g).pins = s.pins := rfl
@[simp] theorem devSeg_boot (s : State) (g : Seg) : (devSeg s g).boot = s.boot := rfl
@[simp] theorem devSeg_refs (s : State) (g : Seg) : (devSeg s g).refs = s.refs := rfl
@[simp] theorem devSeg_sec (s : State) (g : Seg) : (devSeg s g).sec = s.sec := rfl
@[simp] theorem devSeg_roce (s : State) (g : Seg) : (devSeg s g).roce = s.roce := rfl
@[simp] theorem devSeg_chain (s : State) (g : Seg) : (devSeg s g).chain = s.chain := rfl
@[simp] theorem devSeg_draws (s : State) (g : Seg) : (devSeg s g).draws = s.draws := rfl

@[simp] theorem devCopy_pending (s : State) (a b n : Nat) : (devCopy s a b n).pending = s.pending := rfl
@[simp] theorem devCopy_regs (s : State) (a b n : Nat) : (devCopy s a b n).regs = s.regs := rfl
@[simp] theorem devCopy_shadow (s : State) (a b n : Nat) : (devCopy s a b n).shadow = s.shadow := rfl
@[simp] theorem devCopy_shadowLate (s : State) (a b n : Nat) : (devCopy s a b n).shadowLate = s.shadowLate := rfl
@[simp] theorem devCopy_stickNow (s : State) (a b n : Nat) : (devCopy s a b n).stickNow = s.stickNow := rfl
@[simp] theorem devCopy_hostMem (s : State) (a b n : Nat) : (devCopy s a b n).hostMem = s.hostMem := rfl
@[simp] theorem devCopy_out (s : State) (a b n : Nat) : (devCopy s a b n).out = s.out := rfl
@[simp] theorem devCopy_cycle (s : State) (a b n : Nat) : (devCopy s a b n).cycle = s.cycle := rfl
@[simp] theorem devCopy_refcnt (s : State) (a b n : Nat) : (devCopy s a b n).refcnt = s.refcnt := rfl
@[simp] theorem devCopy_refAcc (s : State) (a b n : Nat) : (devCopy s a b n).refAcc = s.refAcc := rfl
@[simp] theorem devCopy_run (s : State) (a b n : Nat) : (devCopy s a b n).run = s.run := rfl
@[simp] theorem devCopy_gate (s : State) (a b n : Nat) : (devCopy s a b n).gate = s.gate := rfl
@[simp] theorem devCopy_heldLast (s : State) (a b n : Nat) : (devCopy s a b n).heldLast = s.heldLast := rfl
@[simp] theorem devCopy_holds (s : State) (a b n : Nat) : (devCopy s a b n).holds = s.holds := rfl
@[simp] theorem devCopy_nextHold (s : State) (a b n : Nat) : (devCopy s a b n).nextHold = s.nextHold := rfl
@[simp] theorem devCopy_parts (s : State) (a b n : Nat) : (devCopy s a b n).parts = s.parts := rfl
@[simp] theorem devCopy_ctxs (s : State) (a b n : Nat) : (devCopy s a b n).ctxs = s.ctxs := rfl
@[simp] theorem devCopy_mxe (s : State) (a b n : Nat) : (devCopy s a b n).mxe = s.mxe := rfl
@[simp] theorem devCopy_echo (s : State) (a b n : Nat) : (devCopy s a b n).echo = s.echo := rfl
@[simp] theorem devCopy_echoOpens (s : State) (a b n : Nat) : (devCopy s a b n).echoOpens = s.echoOpens := rfl
@[simp] theorem devCopy_thirds (s : State) (a b n : Nat) : (devCopy s a b n).thirds = s.thirds := rfl
@[simp] theorem devCopy_strikes (s : State) (a b n : Nat) : (devCopy s a b n).strikes = s.strikes := rfl
@[simp] theorem devCopy_dirty (s : State) (a b n : Nat) : (devCopy s a b n).dirty = s.dirty := rfl
@[simp] theorem devCopy_short (s : State) (a b n : Nat) : (devCopy s a b n).short = s.short := rfl
@[simp] theorem devCopy_passAt (s : State) (a b n : Nat) : (devCopy s a b n).passAt = s.passAt := rfl
@[simp] theorem devCopy_bells (s : State) (a b n : Nat) : (devCopy s a b n).bells = s.bells := rfl
@[simp] theorem devCopy_qps (s : State) (a b n : Nat) : (devCopy s a b n).qps = s.qps := rfl
@[simp] theorem devCopy_streams (s : State) (a b n : Nat) : (devCopy s a b n).streams = s.streams := rfl
@[simp] theorem devCopy_cvu (s : State) (a b n : Nat) : (devCopy s a b n).cvu = s.cvu := rfl
@[simp] theorem devCopy_ports (s : State) (a b n : Nat) : (devCopy s a b n).ports = s.ports := rfl
@[simp] theorem devCopy_seals (s : State) (a b n : Nat) : (devCopy s a b n).seals = s.seals := rfl
@[simp] theorem devCopy_msix (s : State) (a b n : Nat) : (devCopy s a b n).msix = s.msix := rfl
@[simp] theorem devCopy_tunOut (s : State) (a b n : Nat) : (devCopy s a b n).tunOut = s.tunOut := rfl
@[simp] theorem devCopy_tunIn (s : State) (a b n : Nat) : (devCopy s a b n).tunIn = s.tunIn := rfl
@[simp] theorem devCopy_fw (s : State) (a b n : Nat) : (devCopy s a b n).fw = s.fw := rfl
@[simp] theorem devCopy_prof (s : State) (a b n : Nat) : (devCopy s a b n).prof = s.prof := rfl
@[simp] theorem devCopy_coverOf (s : State) (a b n : Nat) : (devCopy s a b n).coverOf = s.coverOf := rfl
@[simp] theorem devCopy_sentinels (s : State) (a b n : Nat) : (devCopy s a b n).sentinels = s.sentinels := rfl
@[simp] theorem devCopy_retired (s : State) (a b n : Nat) : (devCopy s a b n).retired = s.retired := rfl
@[simp] theorem devCopy_unitMap (s : State) (a b n : Nat) : (devCopy s a b n).unitMap = s.unitMap := rfl
@[simp] theorem devCopy_spared (s : State) (a b n : Nat) : (devCopy s a b n).spared = s.spared := rfl
@[simp] theorem devCopy_hbmQ (s : State) (a b n : Nat) : (devCopy s a b n).hbmQ = s.hbmQ := rfl
@[simp] theorem devCopy_hbmWin (s : State) (a b n : Nat) : (devCopy s a b n).hbmWin = s.hbmWin := rfl
@[simp] theorem devCopy_scrubAt (s : State) (a b n : Nat) : (devCopy s a b n).scrubAt = s.scrubAt := rfl
@[simp] theorem devCopy_scrubLate (s : State) (a b n : Nat) : (devCopy s a b n).scrubLate = s.scrubLate := rfl
@[simp] theorem devCopy_ldgKeys (s : State) (a b n : Nat) : (devCopy s a b n).ldgKeys = s.ldgKeys := rfl
@[simp] theorem devCopy_scrubPos (s : State) (a b n : Nat) : (devCopy s a b n).scrubPos = s.scrubPos := rfl
@[simp] theorem devCopy_mbox (s : State) (a b n : Nat) : (devCopy s a b n).mbox = s.mbox := rfl
@[simp] theorem devCopy_thermal (s : State) (a b n : Nat) : (devCopy s a b n).thermal = s.thermal := rfl
@[simp] theorem devCopy_power (s : State) (a b n : Nat) : (devCopy s a b n).power = s.power := rfl
@[simp] theorem devCopy_pins (s : State) (a b n : Nat) : (devCopy s a b n).pins = s.pins := rfl
@[simp] theorem devCopy_boot (s : State) (a b n : Nat) : (devCopy s a b n).boot = s.boot := rfl
@[simp] theorem devCopy_refs (s : State) (a b n : Nat) : (devCopy s a b n).refs = s.refs := rfl
@[simp] theorem devCopy_sec (s : State) (a b n : Nat) : (devCopy s a b n).sec = s.sec := rfl
@[simp] theorem devCopy_roce (s : State) (a b n : Nat) : (devCopy s a b n).roce = s.roce := rfl
@[simp] theorem devCopy_chain (s : State) (a b n : Nat) : (devCopy s a b n).chain = s.chain := rfl
@[simp] theorem devCopy_draws (s : State) (a b n : Nat) : (devCopy s a b n).draws = s.draws := rfl

@[simp] theorem devTaint_pending (s : State) (a n : Nat) : (devTaint s a n).pending = s.pending := rfl
@[simp] theorem devTaint_regs (s : State) (a n : Nat) : (devTaint s a n).regs = s.regs := rfl
@[simp] theorem devTaint_shadow (s : State) (a n : Nat) : (devTaint s a n).shadow = s.shadow := rfl
@[simp] theorem devTaint_shadowLate (s : State) (a n : Nat) : (devTaint s a n).shadowLate = s.shadowLate := rfl
@[simp] theorem devTaint_stickNow (s : State) (a n : Nat) : (devTaint s a n).stickNow = s.stickNow := rfl
@[simp] theorem devTaint_mem (s : State) (a n : Nat) : (devTaint s a n).mem = s.mem := rfl
@[simp] theorem devTaint_hostMem (s : State) (a n : Nat) : (devTaint s a n).hostMem = s.hostMem := rfl
@[simp] theorem devTaint_out (s : State) (a n : Nat) : (devTaint s a n).out = s.out := rfl
@[simp] theorem devTaint_cycle (s : State) (a n : Nat) : (devTaint s a n).cycle = s.cycle := rfl
@[simp] theorem devTaint_refcnt (s : State) (a n : Nat) : (devTaint s a n).refcnt = s.refcnt := rfl
@[simp] theorem devTaint_refAcc (s : State) (a n : Nat) : (devTaint s a n).refAcc = s.refAcc := rfl
@[simp] theorem devTaint_run (s : State) (a n : Nat) : (devTaint s a n).run = s.run := rfl
@[simp] theorem devTaint_gate (s : State) (a n : Nat) : (devTaint s a n).gate = s.gate := rfl
@[simp] theorem devTaint_heldLast (s : State) (a n : Nat) : (devTaint s a n).heldLast = s.heldLast := rfl
@[simp] theorem devTaint_holds (s : State) (a n : Nat) : (devTaint s a n).holds = s.holds := rfl
@[simp] theorem devTaint_nextHold (s : State) (a n : Nat) : (devTaint s a n).nextHold = s.nextHold := rfl
@[simp] theorem devTaint_parts (s : State) (a n : Nat) : (devTaint s a n).parts = s.parts := rfl
@[simp] theorem devTaint_ctxs (s : State) (a n : Nat) : (devTaint s a n).ctxs = s.ctxs := rfl
@[simp] theorem devTaint_mxe (s : State) (a n : Nat) : (devTaint s a n).mxe = s.mxe := rfl
@[simp] theorem devTaint_echo (s : State) (a n : Nat) : (devTaint s a n).echo = s.echo := rfl
@[simp] theorem devTaint_echoOpens (s : State) (a n : Nat) : (devTaint s a n).echoOpens = s.echoOpens := rfl
@[simp] theorem devTaint_thirds (s : State) (a n : Nat) : (devTaint s a n).thirds = s.thirds := rfl
@[simp] theorem devTaint_strikes (s : State) (a n : Nat) : (devTaint s a n).strikes = s.strikes := rfl
@[simp] theorem devTaint_dirty (s : State) (a n : Nat) : (devTaint s a n).dirty = s.dirty := rfl
@[simp] theorem devTaint_short (s : State) (a n : Nat) : (devTaint s a n).short = s.short := rfl
@[simp] theorem devTaint_passAt (s : State) (a n : Nat) : (devTaint s a n).passAt = s.passAt := rfl
@[simp] theorem devTaint_bells (s : State) (a n : Nat) : (devTaint s a n).bells = s.bells := rfl
@[simp] theorem devTaint_qps (s : State) (a n : Nat) : (devTaint s a n).qps = s.qps := rfl
@[simp] theorem devTaint_streams (s : State) (a n : Nat) : (devTaint s a n).streams = s.streams := rfl
@[simp] theorem devTaint_cvu (s : State) (a n : Nat) : (devTaint s a n).cvu = s.cvu := rfl
@[simp] theorem devTaint_ports (s : State) (a n : Nat) : (devTaint s a n).ports = s.ports := rfl
@[simp] theorem devTaint_seals (s : State) (a n : Nat) : (devTaint s a n).seals = s.seals := rfl
@[simp] theorem devTaint_msix (s : State) (a n : Nat) : (devTaint s a n).msix = s.msix := rfl
@[simp] theorem devTaint_tunOut (s : State) (a n : Nat) : (devTaint s a n).tunOut = s.tunOut := rfl
@[simp] theorem devTaint_tunIn (s : State) (a n : Nat) : (devTaint s a n).tunIn = s.tunIn := rfl
@[simp] theorem devTaint_fw (s : State) (a n : Nat) : (devTaint s a n).fw = s.fw := rfl
@[simp] theorem devTaint_prof (s : State) (a n : Nat) : (devTaint s a n).prof = s.prof := rfl
@[simp] theorem devTaint_coverOf (s : State) (a n : Nat) : (devTaint s a n).coverOf = s.coverOf := rfl
@[simp] theorem devTaint_sentinels (s : State) (a n : Nat) : (devTaint s a n).sentinels = s.sentinels := rfl
@[simp] theorem devTaint_retired (s : State) (a n : Nat) : (devTaint s a n).retired = s.retired := rfl
@[simp] theorem devTaint_unitMap (s : State) (a n : Nat) : (devTaint s a n).unitMap = s.unitMap := rfl
@[simp] theorem devTaint_spared (s : State) (a n : Nat) : (devTaint s a n).spared = s.spared := rfl
@[simp] theorem devTaint_hbmQ (s : State) (a n : Nat) : (devTaint s a n).hbmQ = s.hbmQ := rfl
@[simp] theorem devTaint_hbmWin (s : State) (a n : Nat) : (devTaint s a n).hbmWin = s.hbmWin := rfl
@[simp] theorem devTaint_scrubAt (s : State) (a n : Nat) : (devTaint s a n).scrubAt = s.scrubAt := rfl
@[simp] theorem devTaint_scrubLate (s : State) (a n : Nat) : (devTaint s a n).scrubLate = s.scrubLate := rfl
@[simp] theorem devTaint_ldgKeys (s : State) (a n : Nat) : (devTaint s a n).ldgKeys = s.ldgKeys := rfl
@[simp] theorem devTaint_scrubPos (s : State) (a n : Nat) : (devTaint s a n).scrubPos = s.scrubPos := rfl
@[simp] theorem devTaint_mbox (s : State) (a n : Nat) : (devTaint s a n).mbox = s.mbox := rfl
@[simp] theorem devTaint_thermal (s : State) (a n : Nat) : (devTaint s a n).thermal = s.thermal := rfl
@[simp] theorem devTaint_power (s : State) (a n : Nat) : (devTaint s a n).power = s.power := rfl
@[simp] theorem devTaint_pins (s : State) (a n : Nat) : (devTaint s a n).pins = s.pins := rfl
@[simp] theorem devTaint_boot (s : State) (a n : Nat) : (devTaint s a n).boot = s.boot := rfl
@[simp] theorem devTaint_refs (s : State) (a n : Nat) : (devTaint s a n).refs = s.refs := rfl
@[simp] theorem devTaint_sec (s : State) (a n : Nat) : (devTaint s a n).sec = s.sec := rfl
@[simp] theorem devTaint_roce (s : State) (a n : Nat) : (devTaint s a n).roce = s.roce := rfl
@[simp] theorem devTaint_chain (s : State) (a n : Nat) : (devTaint s a n).chain = s.chain := rfl
@[simp] theorem devTaint_draws (s : State) (a n : Nat) : (devTaint s a n).draws = s.draws := rfl

@[simp] theorem poisonRange_pending (s : State) (a n : Nat) : (poisonRange s a n).pending = s.pending := rfl
@[simp] theorem poisonRange_regs (s : State) (a n : Nat) : (poisonRange s a n).regs = s.regs := rfl
@[simp] theorem poisonRange_shadow (s : State) (a n : Nat) : (poisonRange s a n).shadow = s.shadow := rfl
@[simp] theorem poisonRange_shadowLate (s : State) (a n : Nat) : (poisonRange s a n).shadowLate = s.shadowLate := rfl
@[simp] theorem poisonRange_stickNow (s : State) (a n : Nat) : (poisonRange s a n).stickNow = s.stickNow := rfl
@[simp] theorem poisonRange_mem (s : State) (a n : Nat) : (poisonRange s a n).mem = s.mem := rfl
@[simp] theorem poisonRange_hostMem (s : State) (a n : Nat) : (poisonRange s a n).hostMem = s.hostMem := rfl
@[simp] theorem poisonRange_out (s : State) (a n : Nat) : (poisonRange s a n).out = s.out := rfl
@[simp] theorem poisonRange_cycle (s : State) (a n : Nat) : (poisonRange s a n).cycle = s.cycle := rfl
@[simp] theorem poisonRange_refcnt (s : State) (a n : Nat) : (poisonRange s a n).refcnt = s.refcnt := rfl
@[simp] theorem poisonRange_refAcc (s : State) (a n : Nat) : (poisonRange s a n).refAcc = s.refAcc := rfl
@[simp] theorem poisonRange_run (s : State) (a n : Nat) : (poisonRange s a n).run = s.run := rfl
@[simp] theorem poisonRange_gate (s : State) (a n : Nat) : (poisonRange s a n).gate = s.gate := rfl
@[simp] theorem poisonRange_heldLast (s : State) (a n : Nat) : (poisonRange s a n).heldLast = s.heldLast := rfl
@[simp] theorem poisonRange_holds (s : State) (a n : Nat) : (poisonRange s a n).holds = s.holds := rfl
@[simp] theorem poisonRange_nextHold (s : State) (a n : Nat) : (poisonRange s a n).nextHold = s.nextHold := rfl
@[simp] theorem poisonRange_parts (s : State) (a n : Nat) : (poisonRange s a n).parts = s.parts := rfl
@[simp] theorem poisonRange_ctxs (s : State) (a n : Nat) : (poisonRange s a n).ctxs = s.ctxs := rfl
@[simp] theorem poisonRange_mxe (s : State) (a n : Nat) : (poisonRange s a n).mxe = s.mxe := rfl
@[simp] theorem poisonRange_echo (s : State) (a n : Nat) : (poisonRange s a n).echo = s.echo := rfl
@[simp] theorem poisonRange_echoOpens (s : State) (a n : Nat) : (poisonRange s a n).echoOpens = s.echoOpens := rfl
@[simp] theorem poisonRange_thirds (s : State) (a n : Nat) : (poisonRange s a n).thirds = s.thirds := rfl
@[simp] theorem poisonRange_strikes (s : State) (a n : Nat) : (poisonRange s a n).strikes = s.strikes := rfl
@[simp] theorem poisonRange_dirty (s : State) (a n : Nat) : (poisonRange s a n).dirty = s.dirty := rfl
@[simp] theorem poisonRange_short (s : State) (a n : Nat) : (poisonRange s a n).short = s.short := rfl
@[simp] theorem poisonRange_passAt (s : State) (a n : Nat) : (poisonRange s a n).passAt = s.passAt := rfl
@[simp] theorem poisonRange_bells (s : State) (a n : Nat) : (poisonRange s a n).bells = s.bells := rfl
@[simp] theorem poisonRange_qps (s : State) (a n : Nat) : (poisonRange s a n).qps = s.qps := rfl
@[simp] theorem poisonRange_streams (s : State) (a n : Nat) : (poisonRange s a n).streams = s.streams := rfl
@[simp] theorem poisonRange_cvu (s : State) (a n : Nat) : (poisonRange s a n).cvu = s.cvu := rfl
@[simp] theorem poisonRange_ports (s : State) (a n : Nat) : (poisonRange s a n).ports = s.ports := rfl
@[simp] theorem poisonRange_seals (s : State) (a n : Nat) : (poisonRange s a n).seals = s.seals := rfl
@[simp] theorem poisonRange_msix (s : State) (a n : Nat) : (poisonRange s a n).msix = s.msix := rfl
@[simp] theorem poisonRange_tunOut (s : State) (a n : Nat) : (poisonRange s a n).tunOut = s.tunOut := rfl
@[simp] theorem poisonRange_tunIn (s : State) (a n : Nat) : (poisonRange s a n).tunIn = s.tunIn := rfl
@[simp] theorem poisonRange_fw (s : State) (a n : Nat) : (poisonRange s a n).fw = s.fw := rfl
@[simp] theorem poisonRange_prof (s : State) (a n : Nat) : (poisonRange s a n).prof = s.prof := rfl
@[simp] theorem poisonRange_coverOf (s : State) (a n : Nat) : (poisonRange s a n).coverOf = s.coverOf := rfl
@[simp] theorem poisonRange_sentinels (s : State) (a n : Nat) : (poisonRange s a n).sentinels = s.sentinels := rfl
@[simp] theorem poisonRange_retired (s : State) (a n : Nat) : (poisonRange s a n).retired = s.retired := rfl
@[simp] theorem poisonRange_unitMap (s : State) (a n : Nat) : (poisonRange s a n).unitMap = s.unitMap := rfl
@[simp] theorem poisonRange_spared (s : State) (a n : Nat) : (poisonRange s a n).spared = s.spared := rfl
@[simp] theorem poisonRange_hbmQ (s : State) (a n : Nat) : (poisonRange s a n).hbmQ = s.hbmQ := rfl
@[simp] theorem poisonRange_hbmWin (s : State) (a n : Nat) : (poisonRange s a n).hbmWin = s.hbmWin := rfl
@[simp] theorem poisonRange_scrubAt (s : State) (a n : Nat) : (poisonRange s a n).scrubAt = s.scrubAt := rfl
@[simp] theorem poisonRange_scrubLate (s : State) (a n : Nat) : (poisonRange s a n).scrubLate = s.scrubLate := rfl
@[simp] theorem poisonRange_ldgKeys (s : State) (a n : Nat) : (poisonRange s a n).ldgKeys = s.ldgKeys := rfl
@[simp] theorem poisonRange_scrubPos (s : State) (a n : Nat) : (poisonRange s a n).scrubPos = s.scrubPos := rfl
@[simp] theorem poisonRange_mbox (s : State) (a n : Nat) : (poisonRange s a n).mbox = s.mbox := rfl
@[simp] theorem poisonRange_thermal (s : State) (a n : Nat) : (poisonRange s a n).thermal = s.thermal := rfl
@[simp] theorem poisonRange_power (s : State) (a n : Nat) : (poisonRange s a n).power = s.power := rfl
@[simp] theorem poisonRange_pins (s : State) (a n : Nat) : (poisonRange s a n).pins = s.pins := rfl
@[simp] theorem poisonRange_boot (s : State) (a n : Nat) : (poisonRange s a n).boot = s.boot := rfl
@[simp] theorem poisonRange_refs (s : State) (a n : Nat) : (poisonRange s a n).refs = s.refs := rfl
@[simp] theorem poisonRange_sec (s : State) (a n : Nat) : (poisonRange s a n).sec = s.sec := rfl
@[simp] theorem poisonRange_roce (s : State) (a n : Nat) : (poisonRange s a n).roce = s.roce := rfl
@[simp] theorem poisonRange_chain (s : State) (a n : Nat) : (poisonRange s a n).chain = s.chain := rfl
@[simp] theorem poisonRange_draws (s : State) (a n : Nat) : (poisonRange s a n).draws = s.draws := rfl

@[simp] theorem devZero_pending (s : State) (a n : Nat) : (devZero s a n).pending = s.pending := rfl
@[simp] theorem devZero_regs (s : State) (a n : Nat) : (devZero s a n).regs = s.regs := rfl
@[simp] theorem devZero_shadow (s : State) (a n : Nat) : (devZero s a n).shadow = s.shadow := rfl
@[simp] theorem devZero_shadowLate (s : State) (a n : Nat) : (devZero s a n).shadowLate = s.shadowLate := rfl
@[simp] theorem devZero_stickNow (s : State) (a n : Nat) : (devZero s a n).stickNow = s.stickNow := rfl
@[simp] theorem devZero_hostMem (s : State) (a n : Nat) : (devZero s a n).hostMem = s.hostMem := rfl
@[simp] theorem devZero_out (s : State) (a n : Nat) : (devZero s a n).out = s.out := rfl
@[simp] theorem devZero_cycle (s : State) (a n : Nat) : (devZero s a n).cycle = s.cycle := rfl
@[simp] theorem devZero_refcnt (s : State) (a n : Nat) : (devZero s a n).refcnt = s.refcnt := rfl
@[simp] theorem devZero_refAcc (s : State) (a n : Nat) : (devZero s a n).refAcc = s.refAcc := rfl
@[simp] theorem devZero_run (s : State) (a n : Nat) : (devZero s a n).run = s.run := rfl
@[simp] theorem devZero_gate (s : State) (a n : Nat) : (devZero s a n).gate = s.gate := rfl
@[simp] theorem devZero_heldLast (s : State) (a n : Nat) : (devZero s a n).heldLast = s.heldLast := rfl
@[simp] theorem devZero_holds (s : State) (a n : Nat) : (devZero s a n).holds = s.holds := rfl
@[simp] theorem devZero_nextHold (s : State) (a n : Nat) : (devZero s a n).nextHold = s.nextHold := rfl
@[simp] theorem devZero_parts (s : State) (a n : Nat) : (devZero s a n).parts = s.parts := rfl
@[simp] theorem devZero_ctxs (s : State) (a n : Nat) : (devZero s a n).ctxs = s.ctxs := rfl
@[simp] theorem devZero_mxe (s : State) (a n : Nat) : (devZero s a n).mxe = s.mxe := rfl
@[simp] theorem devZero_echo (s : State) (a n : Nat) : (devZero s a n).echo = s.echo := rfl
@[simp] theorem devZero_echoOpens (s : State) (a n : Nat) : (devZero s a n).echoOpens = s.echoOpens := rfl
@[simp] theorem devZero_thirds (s : State) (a n : Nat) : (devZero s a n).thirds = s.thirds := rfl
@[simp] theorem devZero_strikes (s : State) (a n : Nat) : (devZero s a n).strikes = s.strikes := rfl
@[simp] theorem devZero_dirty (s : State) (a n : Nat) : (devZero s a n).dirty = s.dirty := rfl
@[simp] theorem devZero_short (s : State) (a n : Nat) : (devZero s a n).short = s.short := rfl
@[simp] theorem devZero_passAt (s : State) (a n : Nat) : (devZero s a n).passAt = s.passAt := rfl
@[simp] theorem devZero_bells (s : State) (a n : Nat) : (devZero s a n).bells = s.bells := rfl
@[simp] theorem devZero_qps (s : State) (a n : Nat) : (devZero s a n).qps = s.qps := rfl
@[simp] theorem devZero_streams (s : State) (a n : Nat) : (devZero s a n).streams = s.streams := rfl
@[simp] theorem devZero_cvu (s : State) (a n : Nat) : (devZero s a n).cvu = s.cvu := rfl
@[simp] theorem devZero_ports (s : State) (a n : Nat) : (devZero s a n).ports = s.ports := rfl
@[simp] theorem devZero_seals (s : State) (a n : Nat) : (devZero s a n).seals = s.seals := rfl
@[simp] theorem devZero_msix (s : State) (a n : Nat) : (devZero s a n).msix = s.msix := rfl
@[simp] theorem devZero_tunOut (s : State) (a n : Nat) : (devZero s a n).tunOut = s.tunOut := rfl
@[simp] theorem devZero_tunIn (s : State) (a n : Nat) : (devZero s a n).tunIn = s.tunIn := rfl
@[simp] theorem devZero_fw (s : State) (a n : Nat) : (devZero s a n).fw = s.fw := rfl
@[simp] theorem devZero_prof (s : State) (a n : Nat) : (devZero s a n).prof = s.prof := rfl
@[simp] theorem devZero_coverOf (s : State) (a n : Nat) : (devZero s a n).coverOf = s.coverOf := rfl
@[simp] theorem devZero_sentinels (s : State) (a n : Nat) : (devZero s a n).sentinels = s.sentinels := rfl
@[simp] theorem devZero_retired (s : State) (a n : Nat) : (devZero s a n).retired = s.retired := rfl
@[simp] theorem devZero_unitMap (s : State) (a n : Nat) : (devZero s a n).unitMap = s.unitMap := rfl
@[simp] theorem devZero_spared (s : State) (a n : Nat) : (devZero s a n).spared = s.spared := rfl
@[simp] theorem devZero_hbmQ (s : State) (a n : Nat) : (devZero s a n).hbmQ = s.hbmQ := rfl
@[simp] theorem devZero_hbmWin (s : State) (a n : Nat) : (devZero s a n).hbmWin = s.hbmWin := rfl
@[simp] theorem devZero_scrubAt (s : State) (a n : Nat) : (devZero s a n).scrubAt = s.scrubAt := rfl
@[simp] theorem devZero_scrubLate (s : State) (a n : Nat) : (devZero s a n).scrubLate = s.scrubLate := rfl
@[simp] theorem devZero_ldgKeys (s : State) (a n : Nat) : (devZero s a n).ldgKeys = s.ldgKeys := rfl
@[simp] theorem devZero_scrubPos (s : State) (a n : Nat) : (devZero s a n).scrubPos = s.scrubPos := rfl
@[simp] theorem devZero_mbox (s : State) (a n : Nat) : (devZero s a n).mbox = s.mbox := rfl
@[simp] theorem devZero_thermal (s : State) (a n : Nat) : (devZero s a n).thermal = s.thermal := rfl
@[simp] theorem devZero_power (s : State) (a n : Nat) : (devZero s a n).power = s.power := rfl
@[simp] theorem devZero_pins (s : State) (a n : Nat) : (devZero s a n).pins = s.pins := rfl
@[simp] theorem devZero_boot (s : State) (a n : Nat) : (devZero s a n).boot = s.boot := rfl
@[simp] theorem devZero_refs (s : State) (a n : Nat) : (devZero s a n).refs = s.refs := rfl
@[simp] theorem devZero_sec (s : State) (a n : Nat) : (devZero s a n).sec = s.sec := rfl
@[simp] theorem devZero_roce (s : State) (a n : Nat) : (devZero s a n).roce = s.roce := rfl
@[simp] theorem devZero_chain (s : State) (a n : Nat) : (devZero s a n).chain = s.chain := rfl
@[simp] theorem devZero_draws (s : State) (a n : Nat) : (devZero s a n).draws = s.draws := rfl

@[simp] theorem modVc_pending (s : State) (k v : Nat) (f : Vcore → Vcore) : (modVc s k v f).pending = s.pending := rfl
@[simp] theorem modVc_regs (s : State) (k v : Nat) (f : Vcore → Vcore) : (modVc s k v f).regs = s.regs := rfl
@[simp] theorem modVc_shadow (s : State) (k v : Nat) (f : Vcore → Vcore) : (modVc s k v f).shadow = s.shadow := rfl
@[simp] theorem modVc_shadowLate (s : State) (k v : Nat) (f : Vcore → Vcore) : (modVc s k v f).shadowLate = s.shadowLate := rfl
@[simp] theorem modVc_stickNow (s : State) (k v : Nat) (f : Vcore → Vcore) : (modVc s k v f).stickNow = s.stickNow := rfl
@[simp] theorem modVc_mem (s : State) (k v : Nat) (f : Vcore → Vcore) : (modVc s k v f).mem = s.mem := rfl
@[simp] theorem modVc_poison (s : State) (k v : Nat) (f : Vcore → Vcore) : (modVc s k v f).poison = s.poison := rfl
@[simp] theorem modVc_pword (s : State) (k v : Nat) (f : Vcore → Vcore) : (modVc s k v f).pword = s.pword := rfl
@[simp] theorem modVc_hostMem (s : State) (k v : Nat) (f : Vcore → Vcore) : (modVc s k v f).hostMem = s.hostMem := rfl
@[simp] theorem modVc_out (s : State) (k v : Nat) (f : Vcore → Vcore) : (modVc s k v f).out = s.out := rfl
@[simp] theorem modVc_cycle (s : State) (k v : Nat) (f : Vcore → Vcore) : (modVc s k v f).cycle = s.cycle := rfl
@[simp] theorem modVc_refcnt (s : State) (k v : Nat) (f : Vcore → Vcore) : (modVc s k v f).refcnt = s.refcnt := rfl
@[simp] theorem modVc_refAcc (s : State) (k v : Nat) (f : Vcore → Vcore) : (modVc s k v f).refAcc = s.refAcc := rfl
@[simp] theorem modVc_run (s : State) (k v : Nat) (f : Vcore → Vcore) : (modVc s k v f).run = s.run := rfl
@[simp] theorem modVc_gate (s : State) (k v : Nat) (f : Vcore → Vcore) : (modVc s k v f).gate = s.gate := rfl
@[simp] theorem modVc_heldLast (s : State) (k v : Nat) (f : Vcore → Vcore) : (modVc s k v f).heldLast = s.heldLast := rfl
@[simp] theorem modVc_holds (s : State) (k v : Nat) (f : Vcore → Vcore) : (modVc s k v f).holds = s.holds := rfl
@[simp] theorem modVc_nextHold (s : State) (k v : Nat) (f : Vcore → Vcore) : (modVc s k v f).nextHold = s.nextHold := rfl
@[simp] theorem modVc_parts (s : State) (k v : Nat) (f : Vcore → Vcore) : (modVc s k v f).parts = s.parts := rfl
@[simp] theorem modVc_ctxs (s : State) (k v : Nat) (f : Vcore → Vcore) : (modVc s k v f).ctxs = tmod s.ctxs k (fun c => { c with vc := tmod c.vc v f }) := rfl
@[simp] theorem modVc_mxe (s : State) (k v : Nat) (f : Vcore → Vcore) : (modVc s k v f).mxe = s.mxe := rfl
@[simp] theorem modVc_echo (s : State) (k v : Nat) (f : Vcore → Vcore) : (modVc s k v f).echo = s.echo := rfl
@[simp] theorem modVc_echoOpens (s : State) (k v : Nat) (f : Vcore → Vcore) : (modVc s k v f).echoOpens = s.echoOpens := rfl
@[simp] theorem modVc_thirds (s : State) (k v : Nat) (f : Vcore → Vcore) : (modVc s k v f).thirds = s.thirds := rfl
@[simp] theorem modVc_strikes (s : State) (k v : Nat) (f : Vcore → Vcore) : (modVc s k v f).strikes = s.strikes := rfl
@[simp] theorem modVc_dirty (s : State) (k v : Nat) (f : Vcore → Vcore) : (modVc s k v f).dirty = s.dirty := rfl
@[simp] theorem modVc_short (s : State) (k v : Nat) (f : Vcore → Vcore) : (modVc s k v f).short = s.short := rfl
@[simp] theorem modVc_passAt (s : State) (k v : Nat) (f : Vcore → Vcore) : (modVc s k v f).passAt = s.passAt := rfl
@[simp] theorem modVc_bells (s : State) (k v : Nat) (f : Vcore → Vcore) : (modVc s k v f).bells = s.bells := rfl
@[simp] theorem modVc_qps (s : State) (k v : Nat) (f : Vcore → Vcore) : (modVc s k v f).qps = s.qps := rfl
@[simp] theorem modVc_streams (s : State) (k v : Nat) (f : Vcore → Vcore) : (modVc s k v f).streams = s.streams := rfl
@[simp] theorem modVc_cvu (s : State) (k v : Nat) (f : Vcore → Vcore) : (modVc s k v f).cvu = s.cvu := rfl
@[simp] theorem modVc_ports (s : State) (k v : Nat) (f : Vcore → Vcore) : (modVc s k v f).ports = s.ports := rfl
@[simp] theorem modVc_seals (s : State) (k v : Nat) (f : Vcore → Vcore) : (modVc s k v f).seals = s.seals := rfl
@[simp] theorem modVc_msix (s : State) (k v : Nat) (f : Vcore → Vcore) : (modVc s k v f).msix = s.msix := rfl
@[simp] theorem modVc_tunOut (s : State) (k v : Nat) (f : Vcore → Vcore) : (modVc s k v f).tunOut = s.tunOut := rfl
@[simp] theorem modVc_tunIn (s : State) (k v : Nat) (f : Vcore → Vcore) : (modVc s k v f).tunIn = s.tunIn := rfl
@[simp] theorem modVc_fw (s : State) (k v : Nat) (f : Vcore → Vcore) : (modVc s k v f).fw = s.fw := rfl
@[simp] theorem modVc_prof (s : State) (k v : Nat) (f : Vcore → Vcore) : (modVc s k v f).prof = s.prof := rfl
@[simp] theorem modVc_coverOf (s : State) (k v : Nat) (f : Vcore → Vcore) : (modVc s k v f).coverOf = s.coverOf := rfl
@[simp] theorem modVc_sentinels (s : State) (k v : Nat) (f : Vcore → Vcore) : (modVc s k v f).sentinels = s.sentinels := rfl
@[simp] theorem modVc_retired (s : State) (k v : Nat) (f : Vcore → Vcore) : (modVc s k v f).retired = s.retired := rfl
@[simp] theorem modVc_unitMap (s : State) (k v : Nat) (f : Vcore → Vcore) : (modVc s k v f).unitMap = s.unitMap := rfl
@[simp] theorem modVc_spared (s : State) (k v : Nat) (f : Vcore → Vcore) : (modVc s k v f).spared = s.spared := rfl
@[simp] theorem modVc_hbmQ (s : State) (k v : Nat) (f : Vcore → Vcore) : (modVc s k v f).hbmQ = s.hbmQ := rfl
@[simp] theorem modVc_hbmWin (s : State) (k v : Nat) (f : Vcore → Vcore) : (modVc s k v f).hbmWin = s.hbmWin := rfl
@[simp] theorem modVc_scrubAt (s : State) (k v : Nat) (f : Vcore → Vcore) : (modVc s k v f).scrubAt = s.scrubAt := rfl
@[simp] theorem modVc_scrubLate (s : State) (k v : Nat) (f : Vcore → Vcore) : (modVc s k v f).scrubLate = s.scrubLate := rfl
@[simp] theorem modVc_ldgKeys (s : State) (k v : Nat) (f : Vcore → Vcore) : (modVc s k v f).ldgKeys = s.ldgKeys := rfl
@[simp] theorem modVc_scrubPos (s : State) (k v : Nat) (f : Vcore → Vcore) : (modVc s k v f).scrubPos = s.scrubPos := rfl
@[simp] theorem modVc_mbox (s : State) (k v : Nat) (f : Vcore → Vcore) : (modVc s k v f).mbox = s.mbox := rfl
@[simp] theorem modVc_thermal (s : State) (k v : Nat) (f : Vcore → Vcore) : (modVc s k v f).thermal = s.thermal := rfl
@[simp] theorem modVc_power (s : State) (k v : Nat) (f : Vcore → Vcore) : (modVc s k v f).power = s.power := rfl
@[simp] theorem modVc_pins (s : State) (k v : Nat) (f : Vcore → Vcore) : (modVc s k v f).pins = s.pins := rfl
@[simp] theorem modVc_boot (s : State) (k v : Nat) (f : Vcore → Vcore) : (modVc s k v f).boot = s.boot := rfl
@[simp] theorem modVc_refs (s : State) (k v : Nat) (f : Vcore → Vcore) : (modVc s k v f).refs = s.refs := rfl
@[simp] theorem modVc_sec (s : State) (k v : Nat) (f : Vcore → Vcore) : (modVc s k v f).sec = s.sec := rfl
@[simp] theorem modVc_roce (s : State) (k v : Nat) (f : Vcore → Vcore) : (modVc s k v f).roce = s.roce := rfl
@[simp] theorem modVc_chain (s : State) (k v : Nat) (f : Vcore → Vcore) : (modVc s k v f).chain = s.chain := rfl
@[simp] theorem modVc_draws (s : State) (k v : Nat) (f : Vcore → Vcore) : (modVc s k v f).draws = s.draws := rfl

@[simp] theorem modPart_pending (s : State) (p : Nat) (f : Part → Part) : (modPart s p f).pending = s.pending := rfl
@[simp] theorem modPart_regs (s : State) (p : Nat) (f : Part → Part) : (modPart s p f).regs = s.regs := rfl
@[simp] theorem modPart_shadow (s : State) (p : Nat) (f : Part → Part) : (modPart s p f).shadow = s.shadow := rfl
@[simp] theorem modPart_shadowLate (s : State) (p : Nat) (f : Part → Part) : (modPart s p f).shadowLate = s.shadowLate := rfl
@[simp] theorem modPart_stickNow (s : State) (p : Nat) (f : Part → Part) : (modPart s p f).stickNow = s.stickNow := rfl
@[simp] theorem modPart_mem (s : State) (p : Nat) (f : Part → Part) : (modPart s p f).mem = s.mem := rfl
@[simp] theorem modPart_poison (s : State) (p : Nat) (f : Part → Part) : (modPart s p f).poison = s.poison := rfl
@[simp] theorem modPart_pword (s : State) (p : Nat) (f : Part → Part) : (modPart s p f).pword = s.pword := rfl
@[simp] theorem modPart_hostMem (s : State) (p : Nat) (f : Part → Part) : (modPart s p f).hostMem = s.hostMem := rfl
@[simp] theorem modPart_out (s : State) (p : Nat) (f : Part → Part) : (modPart s p f).out = s.out := rfl
@[simp] theorem modPart_cycle (s : State) (p : Nat) (f : Part → Part) : (modPart s p f).cycle = s.cycle := rfl
@[simp] theorem modPart_refcnt (s : State) (p : Nat) (f : Part → Part) : (modPart s p f).refcnt = s.refcnt := rfl
@[simp] theorem modPart_refAcc (s : State) (p : Nat) (f : Part → Part) : (modPart s p f).refAcc = s.refAcc := rfl
@[simp] theorem modPart_run (s : State) (p : Nat) (f : Part → Part) : (modPart s p f).run = s.run := rfl
@[simp] theorem modPart_gate (s : State) (p : Nat) (f : Part → Part) : (modPart s p f).gate = s.gate := rfl
@[simp] theorem modPart_heldLast (s : State) (p : Nat) (f : Part → Part) : (modPart s p f).heldLast = s.heldLast := rfl
@[simp] theorem modPart_holds (s : State) (p : Nat) (f : Part → Part) : (modPart s p f).holds = s.holds := rfl
@[simp] theorem modPart_nextHold (s : State) (p : Nat) (f : Part → Part) : (modPart s p f).nextHold = s.nextHold := rfl
@[simp] theorem modPart_parts (s : State) (p : Nat) (f : Part → Part) : (modPart s p f).parts = tput s.parts p (f (part s p)) := rfl
@[simp] theorem modPart_ctxs (s : State) (p : Nat) (f : Part → Part) : (modPart s p f).ctxs = s.ctxs := rfl
@[simp] theorem modPart_mxe (s : State) (p : Nat) (f : Part → Part) : (modPart s p f).mxe = s.mxe := rfl
@[simp] theorem modPart_echo (s : State) (p : Nat) (f : Part → Part) : (modPart s p f).echo = s.echo := rfl
@[simp] theorem modPart_echoOpens (s : State) (p : Nat) (f : Part → Part) : (modPart s p f).echoOpens = s.echoOpens := rfl
@[simp] theorem modPart_thirds (s : State) (p : Nat) (f : Part → Part) : (modPart s p f).thirds = s.thirds := rfl
@[simp] theorem modPart_strikes (s : State) (p : Nat) (f : Part → Part) : (modPart s p f).strikes = s.strikes := rfl
@[simp] theorem modPart_dirty (s : State) (p : Nat) (f : Part → Part) : (modPart s p f).dirty = s.dirty := rfl
@[simp] theorem modPart_short (s : State) (p : Nat) (f : Part → Part) : (modPart s p f).short = s.short := rfl
@[simp] theorem modPart_passAt (s : State) (p : Nat) (f : Part → Part) : (modPart s p f).passAt = s.passAt := rfl
@[simp] theorem modPart_bells (s : State) (p : Nat) (f : Part → Part) : (modPart s p f).bells = s.bells := rfl
@[simp] theorem modPart_qps (s : State) (p : Nat) (f : Part → Part) : (modPart s p f).qps = s.qps := rfl
@[simp] theorem modPart_streams (s : State) (p : Nat) (f : Part → Part) : (modPart s p f).streams = s.streams := rfl
@[simp] theorem modPart_cvu (s : State) (p : Nat) (f : Part → Part) : (modPart s p f).cvu = s.cvu := rfl
@[simp] theorem modPart_ports (s : State) (p : Nat) (f : Part → Part) : (modPart s p f).ports = s.ports := rfl
@[simp] theorem modPart_seals (s : State) (p : Nat) (f : Part → Part) : (modPart s p f).seals = s.seals := rfl
@[simp] theorem modPart_msix (s : State) (p : Nat) (f : Part → Part) : (modPart s p f).msix = s.msix := rfl
@[simp] theorem modPart_tunOut (s : State) (p : Nat) (f : Part → Part) : (modPart s p f).tunOut = s.tunOut := rfl
@[simp] theorem modPart_tunIn (s : State) (p : Nat) (f : Part → Part) : (modPart s p f).tunIn = s.tunIn := rfl
@[simp] theorem modPart_fw (s : State) (p : Nat) (f : Part → Part) : (modPart s p f).fw = s.fw := rfl
@[simp] theorem modPart_prof (s : State) (p : Nat) (f : Part → Part) : (modPart s p f).prof = s.prof := rfl
@[simp] theorem modPart_coverOf (s : State) (p : Nat) (f : Part → Part) : (modPart s p f).coverOf = s.coverOf := rfl
@[simp] theorem modPart_sentinels (s : State) (p : Nat) (f : Part → Part) : (modPart s p f).sentinels = s.sentinels := rfl
@[simp] theorem modPart_retired (s : State) (p : Nat) (f : Part → Part) : (modPart s p f).retired = s.retired := rfl
@[simp] theorem modPart_unitMap (s : State) (p : Nat) (f : Part → Part) : (modPart s p f).unitMap = s.unitMap := rfl
@[simp] theorem modPart_spared (s : State) (p : Nat) (f : Part → Part) : (modPart s p f).spared = s.spared := rfl
@[simp] theorem modPart_hbmQ (s : State) (p : Nat) (f : Part → Part) : (modPart s p f).hbmQ = s.hbmQ := rfl
@[simp] theorem modPart_hbmWin (s : State) (p : Nat) (f : Part → Part) : (modPart s p f).hbmWin = s.hbmWin := rfl
@[simp] theorem modPart_scrubAt (s : State) (p : Nat) (f : Part → Part) : (modPart s p f).scrubAt = s.scrubAt := rfl
@[simp] theorem modPart_scrubLate (s : State) (p : Nat) (f : Part → Part) : (modPart s p f).scrubLate = s.scrubLate := rfl
@[simp] theorem modPart_ldgKeys (s : State) (p : Nat) (f : Part → Part) : (modPart s p f).ldgKeys = s.ldgKeys := rfl
@[simp] theorem modPart_scrubPos (s : State) (p : Nat) (f : Part → Part) : (modPart s p f).scrubPos = s.scrubPos := rfl
@[simp] theorem modPart_mbox (s : State) (p : Nat) (f : Part → Part) : (modPart s p f).mbox = s.mbox := rfl
@[simp] theorem modPart_thermal (s : State) (p : Nat) (f : Part → Part) : (modPart s p f).thermal = s.thermal := rfl
@[simp] theorem modPart_power (s : State) (p : Nat) (f : Part → Part) : (modPart s p f).power = s.power := rfl
@[simp] theorem modPart_pins (s : State) (p : Nat) (f : Part → Part) : (modPart s p f).pins = s.pins := rfl
@[simp] theorem modPart_boot (s : State) (p : Nat) (f : Part → Part) : (modPart s p f).boot = s.boot := rfl
@[simp] theorem modPart_refs (s : State) (p : Nat) (f : Part → Part) : (modPart s p f).refs = s.refs := rfl
@[simp] theorem modPart_sec (s : State) (p : Nat) (f : Part → Part) : (modPart s p f).sec = s.sec := rfl
@[simp] theorem modPart_roce (s : State) (p : Nat) (f : Part → Part) : (modPart s p f).roce = s.roce := rfl
@[simp] theorem modPart_chain (s : State) (p : Nat) (f : Part → Part) : (modPart s p f).chain = s.chain := rfl
@[simp] theorem modPart_draws (s : State) (p : Nat) (f : Part → Part) : (modPart s p f).draws = s.draws := rfl

@[simp] theorem modCtx_pending (s : State) (k : Nat) (f : Ctx → Ctx) : (modCtx s k f).pending = s.pending := rfl
@[simp] theorem modCtx_regs (s : State) (k : Nat) (f : Ctx → Ctx) : (modCtx s k f).regs = s.regs := rfl
@[simp] theorem modCtx_shadow (s : State) (k : Nat) (f : Ctx → Ctx) : (modCtx s k f).shadow = s.shadow := rfl
@[simp] theorem modCtx_shadowLate (s : State) (k : Nat) (f : Ctx → Ctx) : (modCtx s k f).shadowLate = s.shadowLate := rfl
@[simp] theorem modCtx_stickNow (s : State) (k : Nat) (f : Ctx → Ctx) : (modCtx s k f).stickNow = s.stickNow := rfl
@[simp] theorem modCtx_mem (s : State) (k : Nat) (f : Ctx → Ctx) : (modCtx s k f).mem = s.mem := rfl
@[simp] theorem modCtx_poison (s : State) (k : Nat) (f : Ctx → Ctx) : (modCtx s k f).poison = s.poison := rfl
@[simp] theorem modCtx_pword (s : State) (k : Nat) (f : Ctx → Ctx) : (modCtx s k f).pword = s.pword := rfl
@[simp] theorem modCtx_hostMem (s : State) (k : Nat) (f : Ctx → Ctx) : (modCtx s k f).hostMem = s.hostMem := rfl
@[simp] theorem modCtx_out (s : State) (k : Nat) (f : Ctx → Ctx) : (modCtx s k f).out = s.out := rfl
@[simp] theorem modCtx_cycle (s : State) (k : Nat) (f : Ctx → Ctx) : (modCtx s k f).cycle = s.cycle := rfl
@[simp] theorem modCtx_refcnt (s : State) (k : Nat) (f : Ctx → Ctx) : (modCtx s k f).refcnt = s.refcnt := rfl
@[simp] theorem modCtx_refAcc (s : State) (k : Nat) (f : Ctx → Ctx) : (modCtx s k f).refAcc = s.refAcc := rfl
@[simp] theorem modCtx_run (s : State) (k : Nat) (f : Ctx → Ctx) : (modCtx s k f).run = s.run := rfl
@[simp] theorem modCtx_gate (s : State) (k : Nat) (f : Ctx → Ctx) : (modCtx s k f).gate = s.gate := rfl
@[simp] theorem modCtx_heldLast (s : State) (k : Nat) (f : Ctx → Ctx) : (modCtx s k f).heldLast = s.heldLast := rfl
@[simp] theorem modCtx_holds (s : State) (k : Nat) (f : Ctx → Ctx) : (modCtx s k f).holds = s.holds := rfl
@[simp] theorem modCtx_nextHold (s : State) (k : Nat) (f : Ctx → Ctx) : (modCtx s k f).nextHold = s.nextHold := rfl
@[simp] theorem modCtx_parts (s : State) (k : Nat) (f : Ctx → Ctx) : (modCtx s k f).parts = s.parts := rfl
@[simp] theorem modCtx_ctxs (s : State) (k : Nat) (f : Ctx → Ctx) : (modCtx s k f).ctxs = tmod s.ctxs k f := rfl
@[simp] theorem modCtx_mxe (s : State) (k : Nat) (f : Ctx → Ctx) : (modCtx s k f).mxe = s.mxe := rfl
@[simp] theorem modCtx_echo (s : State) (k : Nat) (f : Ctx → Ctx) : (modCtx s k f).echo = s.echo := rfl
@[simp] theorem modCtx_echoOpens (s : State) (k : Nat) (f : Ctx → Ctx) : (modCtx s k f).echoOpens = s.echoOpens := rfl
@[simp] theorem modCtx_thirds (s : State) (k : Nat) (f : Ctx → Ctx) : (modCtx s k f).thirds = s.thirds := rfl
@[simp] theorem modCtx_strikes (s : State) (k : Nat) (f : Ctx → Ctx) : (modCtx s k f).strikes = s.strikes := rfl
@[simp] theorem modCtx_dirty (s : State) (k : Nat) (f : Ctx → Ctx) : (modCtx s k f).dirty = s.dirty := rfl
@[simp] theorem modCtx_short (s : State) (k : Nat) (f : Ctx → Ctx) : (modCtx s k f).short = s.short := rfl
@[simp] theorem modCtx_passAt (s : State) (k : Nat) (f : Ctx → Ctx) : (modCtx s k f).passAt = s.passAt := rfl
@[simp] theorem modCtx_bells (s : State) (k : Nat) (f : Ctx → Ctx) : (modCtx s k f).bells = s.bells := rfl
@[simp] theorem modCtx_qps (s : State) (k : Nat) (f : Ctx → Ctx) : (modCtx s k f).qps = s.qps := rfl
@[simp] theorem modCtx_streams (s : State) (k : Nat) (f : Ctx → Ctx) : (modCtx s k f).streams = s.streams := rfl
@[simp] theorem modCtx_cvu (s : State) (k : Nat) (f : Ctx → Ctx) : (modCtx s k f).cvu = s.cvu := rfl
@[simp] theorem modCtx_ports (s : State) (k : Nat) (f : Ctx → Ctx) : (modCtx s k f).ports = s.ports := rfl
@[simp] theorem modCtx_seals (s : State) (k : Nat) (f : Ctx → Ctx) : (modCtx s k f).seals = s.seals := rfl
@[simp] theorem modCtx_msix (s : State) (k : Nat) (f : Ctx → Ctx) : (modCtx s k f).msix = s.msix := rfl
@[simp] theorem modCtx_tunOut (s : State) (k : Nat) (f : Ctx → Ctx) : (modCtx s k f).tunOut = s.tunOut := rfl
@[simp] theorem modCtx_tunIn (s : State) (k : Nat) (f : Ctx → Ctx) : (modCtx s k f).tunIn = s.tunIn := rfl
@[simp] theorem modCtx_fw (s : State) (k : Nat) (f : Ctx → Ctx) : (modCtx s k f).fw = s.fw := rfl
@[simp] theorem modCtx_prof (s : State) (k : Nat) (f : Ctx → Ctx) : (modCtx s k f).prof = s.prof := rfl
@[simp] theorem modCtx_coverOf (s : State) (k : Nat) (f : Ctx → Ctx) : (modCtx s k f).coverOf = s.coverOf := rfl
@[simp] theorem modCtx_sentinels (s : State) (k : Nat) (f : Ctx → Ctx) : (modCtx s k f).sentinels = s.sentinels := rfl
@[simp] theorem modCtx_retired (s : State) (k : Nat) (f : Ctx → Ctx) : (modCtx s k f).retired = s.retired := rfl
@[simp] theorem modCtx_unitMap (s : State) (k : Nat) (f : Ctx → Ctx) : (modCtx s k f).unitMap = s.unitMap := rfl
@[simp] theorem modCtx_spared (s : State) (k : Nat) (f : Ctx → Ctx) : (modCtx s k f).spared = s.spared := rfl
@[simp] theorem modCtx_hbmQ (s : State) (k : Nat) (f : Ctx → Ctx) : (modCtx s k f).hbmQ = s.hbmQ := rfl
@[simp] theorem modCtx_hbmWin (s : State) (k : Nat) (f : Ctx → Ctx) : (modCtx s k f).hbmWin = s.hbmWin := rfl
@[simp] theorem modCtx_scrubAt (s : State) (k : Nat) (f : Ctx → Ctx) : (modCtx s k f).scrubAt = s.scrubAt := rfl
@[simp] theorem modCtx_scrubLate (s : State) (k : Nat) (f : Ctx → Ctx) : (modCtx s k f).scrubLate = s.scrubLate := rfl
@[simp] theorem modCtx_ldgKeys (s : State) (k : Nat) (f : Ctx → Ctx) : (modCtx s k f).ldgKeys = s.ldgKeys := rfl
@[simp] theorem modCtx_scrubPos (s : State) (k : Nat) (f : Ctx → Ctx) : (modCtx s k f).scrubPos = s.scrubPos := rfl
@[simp] theorem modCtx_mbox (s : State) (k : Nat) (f : Ctx → Ctx) : (modCtx s k f).mbox = s.mbox := rfl
@[simp] theorem modCtx_thermal (s : State) (k : Nat) (f : Ctx → Ctx) : (modCtx s k f).thermal = s.thermal := rfl
@[simp] theorem modCtx_power (s : State) (k : Nat) (f : Ctx → Ctx) : (modCtx s k f).power = s.power := rfl
@[simp] theorem modCtx_pins (s : State) (k : Nat) (f : Ctx → Ctx) : (modCtx s k f).pins = s.pins := rfl
@[simp] theorem modCtx_boot (s : State) (k : Nat) (f : Ctx → Ctx) : (modCtx s k f).boot = s.boot := rfl
@[simp] theorem modCtx_refs (s : State) (k : Nat) (f : Ctx → Ctx) : (modCtx s k f).refs = s.refs := rfl
@[simp] theorem modCtx_sec (s : State) (k : Nat) (f : Ctx → Ctx) : (modCtx s k f).sec = s.sec := rfl
@[simp] theorem modCtx_roce (s : State) (k : Nat) (f : Ctx → Ctx) : (modCtx s k f).roce = s.roce := rfl
@[simp] theorem modCtx_chain (s : State) (k : Nat) (f : Ctx → Ctx) : (modCtx s k f).chain = s.chain := rfl
@[simp] theorem modCtx_draws (s : State) (k : Nat) (f : Ctx → Ctx) : (modCtx s k f).draws = s.draws := rfl

@[simp] theorem setCtx_pending (s : State) (k : Nat) (c : Ctx) : (setCtx s k c).pending = s.pending := rfl
@[simp] theorem setCtx_regs (s : State) (k : Nat) (c : Ctx) : (setCtx s k c).regs = s.regs := rfl
@[simp] theorem setCtx_shadow (s : State) (k : Nat) (c : Ctx) : (setCtx s k c).shadow = s.shadow := rfl
@[simp] theorem setCtx_shadowLate (s : State) (k : Nat) (c : Ctx) : (setCtx s k c).shadowLate = s.shadowLate := rfl
@[simp] theorem setCtx_stickNow (s : State) (k : Nat) (c : Ctx) : (setCtx s k c).stickNow = s.stickNow := rfl
@[simp] theorem setCtx_mem (s : State) (k : Nat) (c : Ctx) : (setCtx s k c).mem = s.mem := rfl
@[simp] theorem setCtx_poison (s : State) (k : Nat) (c : Ctx) : (setCtx s k c).poison = s.poison := rfl
@[simp] theorem setCtx_pword (s : State) (k : Nat) (c : Ctx) : (setCtx s k c).pword = s.pword := rfl
@[simp] theorem setCtx_hostMem (s : State) (k : Nat) (c : Ctx) : (setCtx s k c).hostMem = s.hostMem := rfl
@[simp] theorem setCtx_out (s : State) (k : Nat) (c : Ctx) : (setCtx s k c).out = s.out := rfl
@[simp] theorem setCtx_cycle (s : State) (k : Nat) (c : Ctx) : (setCtx s k c).cycle = s.cycle := rfl
@[simp] theorem setCtx_refcnt (s : State) (k : Nat) (c : Ctx) : (setCtx s k c).refcnt = s.refcnt := rfl
@[simp] theorem setCtx_refAcc (s : State) (k : Nat) (c : Ctx) : (setCtx s k c).refAcc = s.refAcc := rfl
@[simp] theorem setCtx_run (s : State) (k : Nat) (c : Ctx) : (setCtx s k c).run = s.run := rfl
@[simp] theorem setCtx_gate (s : State) (k : Nat) (c : Ctx) : (setCtx s k c).gate = s.gate := rfl
@[simp] theorem setCtx_heldLast (s : State) (k : Nat) (c : Ctx) : (setCtx s k c).heldLast = s.heldLast := rfl
@[simp] theorem setCtx_holds (s : State) (k : Nat) (c : Ctx) : (setCtx s k c).holds = s.holds := rfl
@[simp] theorem setCtx_nextHold (s : State) (k : Nat) (c : Ctx) : (setCtx s k c).nextHold = s.nextHold := rfl
@[simp] theorem setCtx_parts (s : State) (k : Nat) (c : Ctx) : (setCtx s k c).parts = s.parts := rfl
@[simp] theorem setCtx_ctxs (s : State) (k : Nat) (c : Ctx) : (setCtx s k c).ctxs = tput s.ctxs k c := rfl
@[simp] theorem setCtx_mxe (s : State) (k : Nat) (c : Ctx) : (setCtx s k c).mxe = s.mxe := rfl
@[simp] theorem setCtx_echo (s : State) (k : Nat) (c : Ctx) : (setCtx s k c).echo = s.echo := rfl
@[simp] theorem setCtx_echoOpens (s : State) (k : Nat) (c : Ctx) : (setCtx s k c).echoOpens = s.echoOpens := rfl
@[simp] theorem setCtx_thirds (s : State) (k : Nat) (c : Ctx) : (setCtx s k c).thirds = s.thirds := rfl
@[simp] theorem setCtx_strikes (s : State) (k : Nat) (c : Ctx) : (setCtx s k c).strikes = s.strikes := rfl
@[simp] theorem setCtx_dirty (s : State) (k : Nat) (c : Ctx) : (setCtx s k c).dirty = s.dirty := rfl
@[simp] theorem setCtx_short (s : State) (k : Nat) (c : Ctx) : (setCtx s k c).short = s.short := rfl
@[simp] theorem setCtx_passAt (s : State) (k : Nat) (c : Ctx) : (setCtx s k c).passAt = s.passAt := rfl
@[simp] theorem setCtx_bells (s : State) (k : Nat) (c : Ctx) : (setCtx s k c).bells = s.bells := rfl
@[simp] theorem setCtx_qps (s : State) (k : Nat) (c : Ctx) : (setCtx s k c).qps = s.qps := rfl
@[simp] theorem setCtx_streams (s : State) (k : Nat) (c : Ctx) : (setCtx s k c).streams = s.streams := rfl
@[simp] theorem setCtx_cvu (s : State) (k : Nat) (c : Ctx) : (setCtx s k c).cvu = s.cvu := rfl
@[simp] theorem setCtx_ports (s : State) (k : Nat) (c : Ctx) : (setCtx s k c).ports = s.ports := rfl
@[simp] theorem setCtx_seals (s : State) (k : Nat) (c : Ctx) : (setCtx s k c).seals = s.seals := rfl
@[simp] theorem setCtx_msix (s : State) (k : Nat) (c : Ctx) : (setCtx s k c).msix = s.msix := rfl
@[simp] theorem setCtx_tunOut (s : State) (k : Nat) (c : Ctx) : (setCtx s k c).tunOut = s.tunOut := rfl
@[simp] theorem setCtx_tunIn (s : State) (k : Nat) (c : Ctx) : (setCtx s k c).tunIn = s.tunIn := rfl
@[simp] theorem setCtx_fw (s : State) (k : Nat) (c : Ctx) : (setCtx s k c).fw = s.fw := rfl
@[simp] theorem setCtx_prof (s : State) (k : Nat) (c : Ctx) : (setCtx s k c).prof = s.prof := rfl
@[simp] theorem setCtx_coverOf (s : State) (k : Nat) (c : Ctx) : (setCtx s k c).coverOf = s.coverOf := rfl
@[simp] theorem setCtx_sentinels (s : State) (k : Nat) (c : Ctx) : (setCtx s k c).sentinels = s.sentinels := rfl
@[simp] theorem setCtx_retired (s : State) (k : Nat) (c : Ctx) : (setCtx s k c).retired = s.retired := rfl
@[simp] theorem setCtx_unitMap (s : State) (k : Nat) (c : Ctx) : (setCtx s k c).unitMap = s.unitMap := rfl
@[simp] theorem setCtx_spared (s : State) (k : Nat) (c : Ctx) : (setCtx s k c).spared = s.spared := rfl
@[simp] theorem setCtx_hbmQ (s : State) (k : Nat) (c : Ctx) : (setCtx s k c).hbmQ = s.hbmQ := rfl
@[simp] theorem setCtx_hbmWin (s : State) (k : Nat) (c : Ctx) : (setCtx s k c).hbmWin = s.hbmWin := rfl
@[simp] theorem setCtx_scrubAt (s : State) (k : Nat) (c : Ctx) : (setCtx s k c).scrubAt = s.scrubAt := rfl
@[simp] theorem setCtx_scrubLate (s : State) (k : Nat) (c : Ctx) : (setCtx s k c).scrubLate = s.scrubLate := rfl
@[simp] theorem setCtx_ldgKeys (s : State) (k : Nat) (c : Ctx) : (setCtx s k c).ldgKeys = s.ldgKeys := rfl
@[simp] theorem setCtx_scrubPos (s : State) (k : Nat) (c : Ctx) : (setCtx s k c).scrubPos = s.scrubPos := rfl
@[simp] theorem setCtx_mbox (s : State) (k : Nat) (c : Ctx) : (setCtx s k c).mbox = s.mbox := rfl
@[simp] theorem setCtx_thermal (s : State) (k : Nat) (c : Ctx) : (setCtx s k c).thermal = s.thermal := rfl
@[simp] theorem setCtx_power (s : State) (k : Nat) (c : Ctx) : (setCtx s k c).power = s.power := rfl
@[simp] theorem setCtx_pins (s : State) (k : Nat) (c : Ctx) : (setCtx s k c).pins = s.pins := rfl
@[simp] theorem setCtx_boot (s : State) (k : Nat) (c : Ctx) : (setCtx s k c).boot = s.boot := rfl
@[simp] theorem setCtx_refs (s : State) (k : Nat) (c : Ctx) : (setCtx s k c).refs = s.refs := rfl
@[simp] theorem setCtx_sec (s : State) (k : Nat) (c : Ctx) : (setCtx s k c).sec = s.sec := rfl
@[simp] theorem setCtx_roce (s : State) (k : Nat) (c : Ctx) : (setCtx s k c).roce = s.roce := rfl
@[simp] theorem setCtx_chain (s : State) (k : Nat) (c : Ctx) : (setCtx s k c).chain = s.chain := rfl
@[simp] theorem setCtx_draws (s : State) (k : Nat) (c : Ctx) : (setCtx s k c).draws = s.draws := rfl

@[simp] theorem modQp_pending (s : State) (q : Nat) (f : Qp → Qp) : (modQp s q f).pending = s.pending := rfl
@[simp] theorem modQp_regs (s : State) (q : Nat) (f : Qp → Qp) : (modQp s q f).regs = s.regs := rfl
@[simp] theorem modQp_shadow (s : State) (q : Nat) (f : Qp → Qp) : (modQp s q f).shadow = s.shadow := rfl
@[simp] theorem modQp_shadowLate (s : State) (q : Nat) (f : Qp → Qp) : (modQp s q f).shadowLate = s.shadowLate := rfl
@[simp] theorem modQp_stickNow (s : State) (q : Nat) (f : Qp → Qp) : (modQp s q f).stickNow = s.stickNow := rfl
@[simp] theorem modQp_mem (s : State) (q : Nat) (f : Qp → Qp) : (modQp s q f).mem = s.mem := rfl
@[simp] theorem modQp_poison (s : State) (q : Nat) (f : Qp → Qp) : (modQp s q f).poison = s.poison := rfl
@[simp] theorem modQp_pword (s : State) (q : Nat) (f : Qp → Qp) : (modQp s q f).pword = s.pword := rfl
@[simp] theorem modQp_hostMem (s : State) (q : Nat) (f : Qp → Qp) : (modQp s q f).hostMem = s.hostMem := rfl
@[simp] theorem modQp_out (s : State) (q : Nat) (f : Qp → Qp) : (modQp s q f).out = s.out := rfl
@[simp] theorem modQp_cycle (s : State) (q : Nat) (f : Qp → Qp) : (modQp s q f).cycle = s.cycle := rfl
@[simp] theorem modQp_refcnt (s : State) (q : Nat) (f : Qp → Qp) : (modQp s q f).refcnt = s.refcnt := rfl
@[simp] theorem modQp_refAcc (s : State) (q : Nat) (f : Qp → Qp) : (modQp s q f).refAcc = s.refAcc := rfl
@[simp] theorem modQp_run (s : State) (q : Nat) (f : Qp → Qp) : (modQp s q f).run = s.run := rfl
@[simp] theorem modQp_gate (s : State) (q : Nat) (f : Qp → Qp) : (modQp s q f).gate = s.gate := rfl
@[simp] theorem modQp_heldLast (s : State) (q : Nat) (f : Qp → Qp) : (modQp s q f).heldLast = s.heldLast := rfl
@[simp] theorem modQp_holds (s : State) (q : Nat) (f : Qp → Qp) : (modQp s q f).holds = s.holds := rfl
@[simp] theorem modQp_nextHold (s : State) (q : Nat) (f : Qp → Qp) : (modQp s q f).nextHold = s.nextHold := rfl
@[simp] theorem modQp_parts (s : State) (q : Nat) (f : Qp → Qp) : (modQp s q f).parts = s.parts := rfl
@[simp] theorem modQp_ctxs (s : State) (q : Nat) (f : Qp → Qp) : (modQp s q f).ctxs = s.ctxs := rfl
@[simp] theorem modQp_mxe (s : State) (q : Nat) (f : Qp → Qp) : (modQp s q f).mxe = s.mxe := rfl
@[simp] theorem modQp_echo (s : State) (q : Nat) (f : Qp → Qp) : (modQp s q f).echo = s.echo := rfl
@[simp] theorem modQp_echoOpens (s : State) (q : Nat) (f : Qp → Qp) : (modQp s q f).echoOpens = s.echoOpens := rfl
@[simp] theorem modQp_thirds (s : State) (q : Nat) (f : Qp → Qp) : (modQp s q f).thirds = s.thirds := rfl
@[simp] theorem modQp_strikes (s : State) (q : Nat) (f : Qp → Qp) : (modQp s q f).strikes = s.strikes := rfl
@[simp] theorem modQp_dirty (s : State) (q : Nat) (f : Qp → Qp) : (modQp s q f).dirty = s.dirty := rfl
@[simp] theorem modQp_short (s : State) (q : Nat) (f : Qp → Qp) : (modQp s q f).short = s.short := rfl
@[simp] theorem modQp_passAt (s : State) (q : Nat) (f : Qp → Qp) : (modQp s q f).passAt = s.passAt := rfl
@[simp] theorem modQp_bells (s : State) (q : Nat) (f : Qp → Qp) : (modQp s q f).bells = s.bells := rfl
@[simp] theorem modQp_qps (s : State) (q : Nat) (f : Qp → Qp) : (modQp s q f).qps = tput s.qps q (f (qp s q)) := rfl
@[simp] theorem modQp_streams (s : State) (q : Nat) (f : Qp → Qp) : (modQp s q f).streams = s.streams := rfl
@[simp] theorem modQp_cvu (s : State) (q : Nat) (f : Qp → Qp) : (modQp s q f).cvu = s.cvu := rfl
@[simp] theorem modQp_ports (s : State) (q : Nat) (f : Qp → Qp) : (modQp s q f).ports = s.ports := rfl
@[simp] theorem modQp_seals (s : State) (q : Nat) (f : Qp → Qp) : (modQp s q f).seals = s.seals := rfl
@[simp] theorem modQp_msix (s : State) (q : Nat) (f : Qp → Qp) : (modQp s q f).msix = s.msix := rfl
@[simp] theorem modQp_tunOut (s : State) (q : Nat) (f : Qp → Qp) : (modQp s q f).tunOut = s.tunOut := rfl
@[simp] theorem modQp_tunIn (s : State) (q : Nat) (f : Qp → Qp) : (modQp s q f).tunIn = s.tunIn := rfl
@[simp] theorem modQp_fw (s : State) (q : Nat) (f : Qp → Qp) : (modQp s q f).fw = s.fw := rfl
@[simp] theorem modQp_prof (s : State) (q : Nat) (f : Qp → Qp) : (modQp s q f).prof = s.prof := rfl
@[simp] theorem modQp_coverOf (s : State) (q : Nat) (f : Qp → Qp) : (modQp s q f).coverOf = s.coverOf := rfl
@[simp] theorem modQp_sentinels (s : State) (q : Nat) (f : Qp → Qp) : (modQp s q f).sentinels = s.sentinels := rfl
@[simp] theorem modQp_retired (s : State) (q : Nat) (f : Qp → Qp) : (modQp s q f).retired = s.retired := rfl
@[simp] theorem modQp_unitMap (s : State) (q : Nat) (f : Qp → Qp) : (modQp s q f).unitMap = s.unitMap := rfl
@[simp] theorem modQp_spared (s : State) (q : Nat) (f : Qp → Qp) : (modQp s q f).spared = s.spared := rfl
@[simp] theorem modQp_hbmQ (s : State) (q : Nat) (f : Qp → Qp) : (modQp s q f).hbmQ = s.hbmQ := rfl
@[simp] theorem modQp_hbmWin (s : State) (q : Nat) (f : Qp → Qp) : (modQp s q f).hbmWin = s.hbmWin := rfl
@[simp] theorem modQp_scrubAt (s : State) (q : Nat) (f : Qp → Qp) : (modQp s q f).scrubAt = s.scrubAt := rfl
@[simp] theorem modQp_scrubLate (s : State) (q : Nat) (f : Qp → Qp) : (modQp s q f).scrubLate = s.scrubLate := rfl
@[simp] theorem modQp_ldgKeys (s : State) (q : Nat) (f : Qp → Qp) : (modQp s q f).ldgKeys = s.ldgKeys := rfl
@[simp] theorem modQp_scrubPos (s : State) (q : Nat) (f : Qp → Qp) : (modQp s q f).scrubPos = s.scrubPos := rfl
@[simp] theorem modQp_mbox (s : State) (q : Nat) (f : Qp → Qp) : (modQp s q f).mbox = s.mbox := rfl
@[simp] theorem modQp_thermal (s : State) (q : Nat) (f : Qp → Qp) : (modQp s q f).thermal = s.thermal := rfl
@[simp] theorem modQp_power (s : State) (q : Nat) (f : Qp → Qp) : (modQp s q f).power = s.power := rfl
@[simp] theorem modQp_pins (s : State) (q : Nat) (f : Qp → Qp) : (modQp s q f).pins = s.pins := rfl
@[simp] theorem modQp_boot (s : State) (q : Nat) (f : Qp → Qp) : (modQp s q f).boot = s.boot := rfl
@[simp] theorem modQp_refs (s : State) (q : Nat) (f : Qp → Qp) : (modQp s q f).refs = s.refs := rfl
@[simp] theorem modQp_sec (s : State) (q : Nat) (f : Qp → Qp) : (modQp s q f).sec = s.sec := rfl
@[simp] theorem modQp_roce (s : State) (q : Nat) (f : Qp → Qp) : (modQp s q f).roce = s.roce := rfl
@[simp] theorem modQp_chain (s : State) (q : Nat) (f : Qp → Qp) : (modQp s q f).chain = s.chain := rfl
@[simp] theorem modQp_draws (s : State) (q : Nat) (f : Qp → Qp) : (modQp s q f).draws = s.draws := rfl

@[simp] theorem modBell_pending (s : State) (b : Nat) (f : Bell → Bell) : (modBell s b f).pending = s.pending := rfl
@[simp] theorem modBell_regs (s : State) (b : Nat) (f : Bell → Bell) : (modBell s b f).regs = s.regs := rfl
@[simp] theorem modBell_shadow (s : State) (b : Nat) (f : Bell → Bell) : (modBell s b f).shadow = s.shadow := rfl
@[simp] theorem modBell_shadowLate (s : State) (b : Nat) (f : Bell → Bell) : (modBell s b f).shadowLate = s.shadowLate := rfl
@[simp] theorem modBell_stickNow (s : State) (b : Nat) (f : Bell → Bell) : (modBell s b f).stickNow = s.stickNow := rfl
@[simp] theorem modBell_mem (s : State) (b : Nat) (f : Bell → Bell) : (modBell s b f).mem = s.mem := rfl
@[simp] theorem modBell_poison (s : State) (b : Nat) (f : Bell → Bell) : (modBell s b f).poison = s.poison := rfl
@[simp] theorem modBell_pword (s : State) (b : Nat) (f : Bell → Bell) : (modBell s b f).pword = s.pword := rfl
@[simp] theorem modBell_hostMem (s : State) (b : Nat) (f : Bell → Bell) : (modBell s b f).hostMem = s.hostMem := rfl
@[simp] theorem modBell_out (s : State) (b : Nat) (f : Bell → Bell) : (modBell s b f).out = s.out := rfl
@[simp] theorem modBell_cycle (s : State) (b : Nat) (f : Bell → Bell) : (modBell s b f).cycle = s.cycle := rfl
@[simp] theorem modBell_refcnt (s : State) (b : Nat) (f : Bell → Bell) : (modBell s b f).refcnt = s.refcnt := rfl
@[simp] theorem modBell_refAcc (s : State) (b : Nat) (f : Bell → Bell) : (modBell s b f).refAcc = s.refAcc := rfl
@[simp] theorem modBell_run (s : State) (b : Nat) (f : Bell → Bell) : (modBell s b f).run = s.run := rfl
@[simp] theorem modBell_gate (s : State) (b : Nat) (f : Bell → Bell) : (modBell s b f).gate = s.gate := rfl
@[simp] theorem modBell_heldLast (s : State) (b : Nat) (f : Bell → Bell) : (modBell s b f).heldLast = s.heldLast := rfl
@[simp] theorem modBell_holds (s : State) (b : Nat) (f : Bell → Bell) : (modBell s b f).holds = s.holds := rfl
@[simp] theorem modBell_nextHold (s : State) (b : Nat) (f : Bell → Bell) : (modBell s b f).nextHold = s.nextHold := rfl
@[simp] theorem modBell_parts (s : State) (b : Nat) (f : Bell → Bell) : (modBell s b f).parts = s.parts := rfl
@[simp] theorem modBell_ctxs (s : State) (b : Nat) (f : Bell → Bell) : (modBell s b f).ctxs = s.ctxs := rfl
@[simp] theorem modBell_mxe (s : State) (b : Nat) (f : Bell → Bell) : (modBell s b f).mxe = s.mxe := rfl
@[simp] theorem modBell_echo (s : State) (b : Nat) (f : Bell → Bell) : (modBell s b f).echo = s.echo := rfl
@[simp] theorem modBell_echoOpens (s : State) (b : Nat) (f : Bell → Bell) : (modBell s b f).echoOpens = s.echoOpens := rfl
@[simp] theorem modBell_thirds (s : State) (b : Nat) (f : Bell → Bell) : (modBell s b f).thirds = s.thirds := rfl
@[simp] theorem modBell_strikes (s : State) (b : Nat) (f : Bell → Bell) : (modBell s b f).strikes = s.strikes := rfl
@[simp] theorem modBell_dirty (s : State) (b : Nat) (f : Bell → Bell) : (modBell s b f).dirty = s.dirty := rfl
@[simp] theorem modBell_short (s : State) (b : Nat) (f : Bell → Bell) : (modBell s b f).short = s.short := rfl
@[simp] theorem modBell_passAt (s : State) (b : Nat) (f : Bell → Bell) : (modBell s b f).passAt = s.passAt := rfl
@[simp] theorem modBell_bells (s : State) (b : Nat) (f : Bell → Bell) : (modBell s b f).bells = tput s.bells b (f (bell s b)) := rfl
@[simp] theorem modBell_qps (s : State) (b : Nat) (f : Bell → Bell) : (modBell s b f).qps = s.qps := rfl
@[simp] theorem modBell_streams (s : State) (b : Nat) (f : Bell → Bell) : (modBell s b f).streams = s.streams := rfl
@[simp] theorem modBell_cvu (s : State) (b : Nat) (f : Bell → Bell) : (modBell s b f).cvu = s.cvu := rfl
@[simp] theorem modBell_ports (s : State) (b : Nat) (f : Bell → Bell) : (modBell s b f).ports = s.ports := rfl
@[simp] theorem modBell_seals (s : State) (b : Nat) (f : Bell → Bell) : (modBell s b f).seals = s.seals := rfl
@[simp] theorem modBell_msix (s : State) (b : Nat) (f : Bell → Bell) : (modBell s b f).msix = s.msix := rfl
@[simp] theorem modBell_tunOut (s : State) (b : Nat) (f : Bell → Bell) : (modBell s b f).tunOut = s.tunOut := rfl
@[simp] theorem modBell_tunIn (s : State) (b : Nat) (f : Bell → Bell) : (modBell s b f).tunIn = s.tunIn := rfl
@[simp] theorem modBell_fw (s : State) (b : Nat) (f : Bell → Bell) : (modBell s b f).fw = s.fw := rfl
@[simp] theorem modBell_prof (s : State) (b : Nat) (f : Bell → Bell) : (modBell s b f).prof = s.prof := rfl
@[simp] theorem modBell_coverOf (s : State) (b : Nat) (f : Bell → Bell) : (modBell s b f).coverOf = s.coverOf := rfl
@[simp] theorem modBell_sentinels (s : State) (b : Nat) (f : Bell → Bell) : (modBell s b f).sentinels = s.sentinels := rfl
@[simp] theorem modBell_retired (s : State) (b : Nat) (f : Bell → Bell) : (modBell s b f).retired = s.retired := rfl
@[simp] theorem modBell_unitMap (s : State) (b : Nat) (f : Bell → Bell) : (modBell s b f).unitMap = s.unitMap := rfl
@[simp] theorem modBell_spared (s : State) (b : Nat) (f : Bell → Bell) : (modBell s b f).spared = s.spared := rfl
@[simp] theorem modBell_hbmQ (s : State) (b : Nat) (f : Bell → Bell) : (modBell s b f).hbmQ = s.hbmQ := rfl
@[simp] theorem modBell_hbmWin (s : State) (b : Nat) (f : Bell → Bell) : (modBell s b f).hbmWin = s.hbmWin := rfl
@[simp] theorem modBell_scrubAt (s : State) (b : Nat) (f : Bell → Bell) : (modBell s b f).scrubAt = s.scrubAt := rfl
@[simp] theorem modBell_scrubLate (s : State) (b : Nat) (f : Bell → Bell) : (modBell s b f).scrubLate = s.scrubLate := rfl
@[simp] theorem modBell_ldgKeys (s : State) (b : Nat) (f : Bell → Bell) : (modBell s b f).ldgKeys = s.ldgKeys := rfl
@[simp] theorem modBell_scrubPos (s : State) (b : Nat) (f : Bell → Bell) : (modBell s b f).scrubPos = s.scrubPos := rfl
@[simp] theorem modBell_mbox (s : State) (b : Nat) (f : Bell → Bell) : (modBell s b f).mbox = s.mbox := rfl
@[simp] theorem modBell_thermal (s : State) (b : Nat) (f : Bell → Bell) : (modBell s b f).thermal = s.thermal := rfl
@[simp] theorem modBell_power (s : State) (b : Nat) (f : Bell → Bell) : (modBell s b f).power = s.power := rfl
@[simp] theorem modBell_pins (s : State) (b : Nat) (f : Bell → Bell) : (modBell s b f).pins = s.pins := rfl
@[simp] theorem modBell_boot (s : State) (b : Nat) (f : Bell → Bell) : (modBell s b f).boot = s.boot := rfl
@[simp] theorem modBell_refs (s : State) (b : Nat) (f : Bell → Bell) : (modBell s b f).refs = s.refs := rfl
@[simp] theorem modBell_sec (s : State) (b : Nat) (f : Bell → Bell) : (modBell s b f).sec = s.sec := rfl
@[simp] theorem modBell_roce (s : State) (b : Nat) (f : Bell → Bell) : (modBell s b f).roce = s.roce := rfl
@[simp] theorem modBell_chain (s : State) (b : Nat) (f : Bell → Bell) : (modBell s b f).chain = s.chain := rfl
@[simp] theorem modBell_draws (s : State) (b : Nat) (f : Bell → Bell) : (modBell s b f).draws = s.draws := rfl

@[simp] theorem modStream_pending (s : State) (x : Nat) (f : Stream → Stream) : (modStream s x f).pending = s.pending := rfl
@[simp] theorem modStream_regs (s : State) (x : Nat) (f : Stream → Stream) : (modStream s x f).regs = s.regs := rfl
@[simp] theorem modStream_shadow (s : State) (x : Nat) (f : Stream → Stream) : (modStream s x f).shadow = s.shadow := rfl
@[simp] theorem modStream_shadowLate (s : State) (x : Nat) (f : Stream → Stream) : (modStream s x f).shadowLate = s.shadowLate := rfl
@[simp] theorem modStream_stickNow (s : State) (x : Nat) (f : Stream → Stream) : (modStream s x f).stickNow = s.stickNow := rfl
@[simp] theorem modStream_mem (s : State) (x : Nat) (f : Stream → Stream) : (modStream s x f).mem = s.mem := rfl
@[simp] theorem modStream_poison (s : State) (x : Nat) (f : Stream → Stream) : (modStream s x f).poison = s.poison := rfl
@[simp] theorem modStream_pword (s : State) (x : Nat) (f : Stream → Stream) : (modStream s x f).pword = s.pword := rfl
@[simp] theorem modStream_hostMem (s : State) (x : Nat) (f : Stream → Stream) : (modStream s x f).hostMem = s.hostMem := rfl
@[simp] theorem modStream_out (s : State) (x : Nat) (f : Stream → Stream) : (modStream s x f).out = s.out := rfl
@[simp] theorem modStream_cycle (s : State) (x : Nat) (f : Stream → Stream) : (modStream s x f).cycle = s.cycle := rfl
@[simp] theorem modStream_refcnt (s : State) (x : Nat) (f : Stream → Stream) : (modStream s x f).refcnt = s.refcnt := rfl
@[simp] theorem modStream_refAcc (s : State) (x : Nat) (f : Stream → Stream) : (modStream s x f).refAcc = s.refAcc := rfl
@[simp] theorem modStream_run (s : State) (x : Nat) (f : Stream → Stream) : (modStream s x f).run = s.run := rfl
@[simp] theorem modStream_gate (s : State) (x : Nat) (f : Stream → Stream) : (modStream s x f).gate = s.gate := rfl
@[simp] theorem modStream_heldLast (s : State) (x : Nat) (f : Stream → Stream) : (modStream s x f).heldLast = s.heldLast := rfl
@[simp] theorem modStream_holds (s : State) (x : Nat) (f : Stream → Stream) : (modStream s x f).holds = s.holds := rfl
@[simp] theorem modStream_nextHold (s : State) (x : Nat) (f : Stream → Stream) : (modStream s x f).nextHold = s.nextHold := rfl
@[simp] theorem modStream_parts (s : State) (x : Nat) (f : Stream → Stream) : (modStream s x f).parts = s.parts := rfl
@[simp] theorem modStream_ctxs (s : State) (x : Nat) (f : Stream → Stream) : (modStream s x f).ctxs = s.ctxs := rfl
@[simp] theorem modStream_mxe (s : State) (x : Nat) (f : Stream → Stream) : (modStream s x f).mxe = s.mxe := rfl
@[simp] theorem modStream_echo (s : State) (x : Nat) (f : Stream → Stream) : (modStream s x f).echo = s.echo := rfl
@[simp] theorem modStream_echoOpens (s : State) (x : Nat) (f : Stream → Stream) : (modStream s x f).echoOpens = s.echoOpens := rfl
@[simp] theorem modStream_thirds (s : State) (x : Nat) (f : Stream → Stream) : (modStream s x f).thirds = s.thirds := rfl
@[simp] theorem modStream_strikes (s : State) (x : Nat) (f : Stream → Stream) : (modStream s x f).strikes = s.strikes := rfl
@[simp] theorem modStream_dirty (s : State) (x : Nat) (f : Stream → Stream) : (modStream s x f).dirty = s.dirty := rfl
@[simp] theorem modStream_short (s : State) (x : Nat) (f : Stream → Stream) : (modStream s x f).short = s.short := rfl
@[simp] theorem modStream_passAt (s : State) (x : Nat) (f : Stream → Stream) : (modStream s x f).passAt = s.passAt := rfl
@[simp] theorem modStream_bells (s : State) (x : Nat) (f : Stream → Stream) : (modStream s x f).bells = s.bells := rfl
@[simp] theorem modStream_qps (s : State) (x : Nat) (f : Stream → Stream) : (modStream s x f).qps = s.qps := rfl
@[simp] theorem modStream_streams (s : State) (x : Nat) (f : Stream → Stream) : (modStream s x f).streams = tmod s.streams x f := rfl
@[simp] theorem modStream_cvu (s : State) (x : Nat) (f : Stream → Stream) : (modStream s x f).cvu = s.cvu := rfl
@[simp] theorem modStream_ports (s : State) (x : Nat) (f : Stream → Stream) : (modStream s x f).ports = s.ports := rfl
@[simp] theorem modStream_seals (s : State) (x : Nat) (f : Stream → Stream) : (modStream s x f).seals = s.seals := rfl
@[simp] theorem modStream_msix (s : State) (x : Nat) (f : Stream → Stream) : (modStream s x f).msix = s.msix := rfl
@[simp] theorem modStream_tunOut (s : State) (x : Nat) (f : Stream → Stream) : (modStream s x f).tunOut = s.tunOut := rfl
@[simp] theorem modStream_tunIn (s : State) (x : Nat) (f : Stream → Stream) : (modStream s x f).tunIn = s.tunIn := rfl
@[simp] theorem modStream_fw (s : State) (x : Nat) (f : Stream → Stream) : (modStream s x f).fw = s.fw := rfl
@[simp] theorem modStream_prof (s : State) (x : Nat) (f : Stream → Stream) : (modStream s x f).prof = s.prof := rfl
@[simp] theorem modStream_coverOf (s : State) (x : Nat) (f : Stream → Stream) : (modStream s x f).coverOf = s.coverOf := rfl
@[simp] theorem modStream_sentinels (s : State) (x : Nat) (f : Stream → Stream) : (modStream s x f).sentinels = s.sentinels := rfl
@[simp] theorem modStream_retired (s : State) (x : Nat) (f : Stream → Stream) : (modStream s x f).retired = s.retired := rfl
@[simp] theorem modStream_unitMap (s : State) (x : Nat) (f : Stream → Stream) : (modStream s x f).unitMap = s.unitMap := rfl
@[simp] theorem modStream_spared (s : State) (x : Nat) (f : Stream → Stream) : (modStream s x f).spared = s.spared := rfl
@[simp] theorem modStream_hbmQ (s : State) (x : Nat) (f : Stream → Stream) : (modStream s x f).hbmQ = s.hbmQ := rfl
@[simp] theorem modStream_hbmWin (s : State) (x : Nat) (f : Stream → Stream) : (modStream s x f).hbmWin = s.hbmWin := rfl
@[simp] theorem modStream_scrubAt (s : State) (x : Nat) (f : Stream → Stream) : (modStream s x f).scrubAt = s.scrubAt := rfl
@[simp] theorem modStream_scrubLate (s : State) (x : Nat) (f : Stream → Stream) : (modStream s x f).scrubLate = s.scrubLate := rfl
@[simp] theorem modStream_ldgKeys (s : State) (x : Nat) (f : Stream → Stream) : (modStream s x f).ldgKeys = s.ldgKeys := rfl
@[simp] theorem modStream_scrubPos (s : State) (x : Nat) (f : Stream → Stream) : (modStream s x f).scrubPos = s.scrubPos := rfl
@[simp] theorem modStream_mbox (s : State) (x : Nat) (f : Stream → Stream) : (modStream s x f).mbox = s.mbox := rfl
@[simp] theorem modStream_thermal (s : State) (x : Nat) (f : Stream → Stream) : (modStream s x f).thermal = s.thermal := rfl
@[simp] theorem modStream_power (s : State) (x : Nat) (f : Stream → Stream) : (modStream s x f).power = s.power := rfl
@[simp] theorem modStream_pins (s : State) (x : Nat) (f : Stream → Stream) : (modStream s x f).pins = s.pins := rfl
@[simp] theorem modStream_boot (s : State) (x : Nat) (f : Stream → Stream) : (modStream s x f).boot = s.boot := rfl
@[simp] theorem modStream_refs (s : State) (x : Nat) (f : Stream → Stream) : (modStream s x f).refs = s.refs := rfl
@[simp] theorem modStream_sec (s : State) (x : Nat) (f : Stream → Stream) : (modStream s x f).sec = s.sec := rfl
@[simp] theorem modStream_roce (s : State) (x : Nat) (f : Stream → Stream) : (modStream s x f).roce = s.roce := rfl
@[simp] theorem modStream_chain (s : State) (x : Nat) (f : Stream → Stream) : (modStream s x f).chain = s.chain := rfl
@[simp] theorem modStream_draws (s : State) (x : Nat) (f : Stream → Stream) : (modStream s x f).draws = s.draws := rfl

@[simp] theorem modPort_pending (s : State) (n : Nat) (f : PortSt → PortSt) : (modPort s n f).pending = s.pending := rfl
@[simp] theorem modPort_regs (s : State) (n : Nat) (f : PortSt → PortSt) : (modPort s n f).regs = s.regs := rfl
@[simp] theorem modPort_shadow (s : State) (n : Nat) (f : PortSt → PortSt) : (modPort s n f).shadow = s.shadow := rfl
@[simp] theorem modPort_shadowLate (s : State) (n : Nat) (f : PortSt → PortSt) : (modPort s n f).shadowLate = s.shadowLate := rfl
@[simp] theorem modPort_stickNow (s : State) (n : Nat) (f : PortSt → PortSt) : (modPort s n f).stickNow = s.stickNow := rfl
@[simp] theorem modPort_mem (s : State) (n : Nat) (f : PortSt → PortSt) : (modPort s n f).mem = s.mem := rfl
@[simp] theorem modPort_poison (s : State) (n : Nat) (f : PortSt → PortSt) : (modPort s n f).poison = s.poison := rfl
@[simp] theorem modPort_pword (s : State) (n : Nat) (f : PortSt → PortSt) : (modPort s n f).pword = s.pword := rfl
@[simp] theorem modPort_hostMem (s : State) (n : Nat) (f : PortSt → PortSt) : (modPort s n f).hostMem = s.hostMem := rfl
@[simp] theorem modPort_out (s : State) (n : Nat) (f : PortSt → PortSt) : (modPort s n f).out = s.out := rfl
@[simp] theorem modPort_cycle (s : State) (n : Nat) (f : PortSt → PortSt) : (modPort s n f).cycle = s.cycle := rfl
@[simp] theorem modPort_refcnt (s : State) (n : Nat) (f : PortSt → PortSt) : (modPort s n f).refcnt = s.refcnt := rfl
@[simp] theorem modPort_refAcc (s : State) (n : Nat) (f : PortSt → PortSt) : (modPort s n f).refAcc = s.refAcc := rfl
@[simp] theorem modPort_run (s : State) (n : Nat) (f : PortSt → PortSt) : (modPort s n f).run = s.run := rfl
@[simp] theorem modPort_gate (s : State) (n : Nat) (f : PortSt → PortSt) : (modPort s n f).gate = s.gate := rfl
@[simp] theorem modPort_heldLast (s : State) (n : Nat) (f : PortSt → PortSt) : (modPort s n f).heldLast = s.heldLast := rfl
@[simp] theorem modPort_holds (s : State) (n : Nat) (f : PortSt → PortSt) : (modPort s n f).holds = s.holds := rfl
@[simp] theorem modPort_nextHold (s : State) (n : Nat) (f : PortSt → PortSt) : (modPort s n f).nextHold = s.nextHold := rfl
@[simp] theorem modPort_parts (s : State) (n : Nat) (f : PortSt → PortSt) : (modPort s n f).parts = s.parts := rfl
@[simp] theorem modPort_ctxs (s : State) (n : Nat) (f : PortSt → PortSt) : (modPort s n f).ctxs = s.ctxs := rfl
@[simp] theorem modPort_mxe (s : State) (n : Nat) (f : PortSt → PortSt) : (modPort s n f).mxe = s.mxe := rfl
@[simp] theorem modPort_echo (s : State) (n : Nat) (f : PortSt → PortSt) : (modPort s n f).echo = s.echo := rfl
@[simp] theorem modPort_echoOpens (s : State) (n : Nat) (f : PortSt → PortSt) : (modPort s n f).echoOpens = s.echoOpens := rfl
@[simp] theorem modPort_thirds (s : State) (n : Nat) (f : PortSt → PortSt) : (modPort s n f).thirds = s.thirds := rfl
@[simp] theorem modPort_strikes (s : State) (n : Nat) (f : PortSt → PortSt) : (modPort s n f).strikes = s.strikes := rfl
@[simp] theorem modPort_dirty (s : State) (n : Nat) (f : PortSt → PortSt) : (modPort s n f).dirty = s.dirty := rfl
@[simp] theorem modPort_short (s : State) (n : Nat) (f : PortSt → PortSt) : (modPort s n f).short = s.short := rfl
@[simp] theorem modPort_passAt (s : State) (n : Nat) (f : PortSt → PortSt) : (modPort s n f).passAt = s.passAt := rfl
@[simp] theorem modPort_bells (s : State) (n : Nat) (f : PortSt → PortSt) : (modPort s n f).bells = s.bells := rfl
@[simp] theorem modPort_qps (s : State) (n : Nat) (f : PortSt → PortSt) : (modPort s n f).qps = s.qps := rfl
@[simp] theorem modPort_streams (s : State) (n : Nat) (f : PortSt → PortSt) : (modPort s n f).streams = s.streams := rfl
@[simp] theorem modPort_cvu (s : State) (n : Nat) (f : PortSt → PortSt) : (modPort s n f).cvu = s.cvu := rfl
@[simp] theorem modPort_ports (s : State) (n : Nat) (f : PortSt → PortSt) : (modPort s n f).ports = tput s.ports n (f (portSt s n)) := rfl
@[simp] theorem modPort_seals (s : State) (n : Nat) (f : PortSt → PortSt) : (modPort s n f).seals = s.seals := rfl
@[simp] theorem modPort_msix (s : State) (n : Nat) (f : PortSt → PortSt) : (modPort s n f).msix = s.msix := rfl
@[simp] theorem modPort_tunOut (s : State) (n : Nat) (f : PortSt → PortSt) : (modPort s n f).tunOut = s.tunOut := rfl
@[simp] theorem modPort_tunIn (s : State) (n : Nat) (f : PortSt → PortSt) : (modPort s n f).tunIn = s.tunIn := rfl
@[simp] theorem modPort_fw (s : State) (n : Nat) (f : PortSt → PortSt) : (modPort s n f).fw = s.fw := rfl
@[simp] theorem modPort_prof (s : State) (n : Nat) (f : PortSt → PortSt) : (modPort s n f).prof = s.prof := rfl
@[simp] theorem modPort_coverOf (s : State) (n : Nat) (f : PortSt → PortSt) : (modPort s n f).coverOf = s.coverOf := rfl
@[simp] theorem modPort_sentinels (s : State) (n : Nat) (f : PortSt → PortSt) : (modPort s n f).sentinels = s.sentinels := rfl
@[simp] theorem modPort_retired (s : State) (n : Nat) (f : PortSt → PortSt) : (modPort s n f).retired = s.retired := rfl
@[simp] theorem modPort_unitMap (s : State) (n : Nat) (f : PortSt → PortSt) : (modPort s n f).unitMap = s.unitMap := rfl
@[simp] theorem modPort_spared (s : State) (n : Nat) (f : PortSt → PortSt) : (modPort s n f).spared = s.spared := rfl
@[simp] theorem modPort_hbmQ (s : State) (n : Nat) (f : PortSt → PortSt) : (modPort s n f).hbmQ = s.hbmQ := rfl
@[simp] theorem modPort_hbmWin (s : State) (n : Nat) (f : PortSt → PortSt) : (modPort s n f).hbmWin = s.hbmWin := rfl
@[simp] theorem modPort_scrubAt (s : State) (n : Nat) (f : PortSt → PortSt) : (modPort s n f).scrubAt = s.scrubAt := rfl
@[simp] theorem modPort_scrubLate (s : State) (n : Nat) (f : PortSt → PortSt) : (modPort s n f).scrubLate = s.scrubLate := rfl
@[simp] theorem modPort_ldgKeys (s : State) (n : Nat) (f : PortSt → PortSt) : (modPort s n f).ldgKeys = s.ldgKeys := rfl
@[simp] theorem modPort_scrubPos (s : State) (n : Nat) (f : PortSt → PortSt) : (modPort s n f).scrubPos = s.scrubPos := rfl
@[simp] theorem modPort_mbox (s : State) (n : Nat) (f : PortSt → PortSt) : (modPort s n f).mbox = s.mbox := rfl
@[simp] theorem modPort_thermal (s : State) (n : Nat) (f : PortSt → PortSt) : (modPort s n f).thermal = s.thermal := rfl
@[simp] theorem modPort_power (s : State) (n : Nat) (f : PortSt → PortSt) : (modPort s n f).power = s.power := rfl
@[simp] theorem modPort_pins (s : State) (n : Nat) (f : PortSt → PortSt) : (modPort s n f).pins = s.pins := rfl
@[simp] theorem modPort_boot (s : State) (n : Nat) (f : PortSt → PortSt) : (modPort s n f).boot = s.boot := rfl
@[simp] theorem modPort_refs (s : State) (n : Nat) (f : PortSt → PortSt) : (modPort s n f).refs = s.refs := rfl
@[simp] theorem modPort_sec (s : State) (n : Nat) (f : PortSt → PortSt) : (modPort s n f).sec = s.sec := rfl
@[simp] theorem modPort_roce (s : State) (n : Nat) (f : PortSt → PortSt) : (modPort s n f).roce = s.roce := rfl
@[simp] theorem modPort_chain (s : State) (n : Nat) (f : PortSt → PortSt) : (modPort s n f).chain = s.chain := rfl
@[simp] theorem modPort_draws (s : State) (n : Nat) (f : PortSt → PortSt) : (modPort s n f).draws = s.draws := rfl

@[simp] theorem drawn_pending (s : State) (n : Nat) : (drawn s n).pending = s.pending := rfl
@[simp] theorem drawn_regs (s : State) (n : Nat) : (drawn s n).regs = s.regs := rfl
@[simp] theorem drawn_shadow (s : State) (n : Nat) : (drawn s n).shadow = s.shadow := rfl
@[simp] theorem drawn_shadowLate (s : State) (n : Nat) : (drawn s n).shadowLate = s.shadowLate := rfl
@[simp] theorem drawn_stickNow (s : State) (n : Nat) : (drawn s n).stickNow = s.stickNow := rfl
@[simp] theorem drawn_mem (s : State) (n : Nat) : (drawn s n).mem = s.mem := rfl
@[simp] theorem drawn_poison (s : State) (n : Nat) : (drawn s n).poison = s.poison := rfl
@[simp] theorem drawn_pword (s : State) (n : Nat) : (drawn s n).pword = s.pword := rfl
@[simp] theorem drawn_hostMem (s : State) (n : Nat) : (drawn s n).hostMem = s.hostMem := rfl
@[simp] theorem drawn_out (s : State) (n : Nat) : (drawn s n).out = s.out := rfl
@[simp] theorem drawn_cycle (s : State) (n : Nat) : (drawn s n).cycle = s.cycle := rfl
@[simp] theorem drawn_refcnt (s : State) (n : Nat) : (drawn s n).refcnt = s.refcnt := rfl
@[simp] theorem drawn_refAcc (s : State) (n : Nat) : (drawn s n).refAcc = s.refAcc := rfl
@[simp] theorem drawn_run (s : State) (n : Nat) : (drawn s n).run = s.run := rfl
@[simp] theorem drawn_gate (s : State) (n : Nat) : (drawn s n).gate = s.gate := rfl
@[simp] theorem drawn_heldLast (s : State) (n : Nat) : (drawn s n).heldLast = s.heldLast := rfl
@[simp] theorem drawn_holds (s : State) (n : Nat) : (drawn s n).holds = s.holds := rfl
@[simp] theorem drawn_nextHold (s : State) (n : Nat) : (drawn s n).nextHold = s.nextHold := rfl
@[simp] theorem drawn_parts (s : State) (n : Nat) : (drawn s n).parts = s.parts := rfl
@[simp] theorem drawn_ctxs (s : State) (n : Nat) : (drawn s n).ctxs = s.ctxs := rfl
@[simp] theorem drawn_mxe (s : State) (n : Nat) : (drawn s n).mxe = s.mxe := rfl
@[simp] theorem drawn_echo (s : State) (n : Nat) : (drawn s n).echo = s.echo := rfl
@[simp] theorem drawn_echoOpens (s : State) (n : Nat) : (drawn s n).echoOpens = s.echoOpens := rfl
@[simp] theorem drawn_thirds (s : State) (n : Nat) : (drawn s n).thirds = s.thirds := rfl
@[simp] theorem drawn_strikes (s : State) (n : Nat) : (drawn s n).strikes = s.strikes := rfl
@[simp] theorem drawn_dirty (s : State) (n : Nat) : (drawn s n).dirty = s.dirty := rfl
@[simp] theorem drawn_short (s : State) (n : Nat) : (drawn s n).short = s.short := rfl
@[simp] theorem drawn_passAt (s : State) (n : Nat) : (drawn s n).passAt = s.passAt := rfl
@[simp] theorem drawn_bells (s : State) (n : Nat) : (drawn s n).bells = s.bells := rfl
@[simp] theorem drawn_qps (s : State) (n : Nat) : (drawn s n).qps = s.qps := rfl
@[simp] theorem drawn_streams (s : State) (n : Nat) : (drawn s n).streams = s.streams := rfl
@[simp] theorem drawn_cvu (s : State) (n : Nat) : (drawn s n).cvu = s.cvu := rfl
@[simp] theorem drawn_ports (s : State) (n : Nat) : (drawn s n).ports = s.ports := rfl
@[simp] theorem drawn_seals (s : State) (n : Nat) : (drawn s n).seals = s.seals := rfl
@[simp] theorem drawn_msix (s : State) (n : Nat) : (drawn s n).msix = s.msix := rfl
@[simp] theorem drawn_tunOut (s : State) (n : Nat) : (drawn s n).tunOut = s.tunOut := rfl
@[simp] theorem drawn_tunIn (s : State) (n : Nat) : (drawn s n).tunIn = s.tunIn := rfl
@[simp] theorem drawn_fw (s : State) (n : Nat) : (drawn s n).fw = s.fw := rfl
@[simp] theorem drawn_prof (s : State) (n : Nat) : (drawn s n).prof = s.prof := rfl
@[simp] theorem drawn_coverOf (s : State) (n : Nat) : (drawn s n).coverOf = s.coverOf := rfl
@[simp] theorem drawn_sentinels (s : State) (n : Nat) : (drawn s n).sentinels = s.sentinels := rfl
@[simp] theorem drawn_retired (s : State) (n : Nat) : (drawn s n).retired = s.retired := rfl
@[simp] theorem drawn_unitMap (s : State) (n : Nat) : (drawn s n).unitMap = s.unitMap := rfl
@[simp] theorem drawn_spared (s : State) (n : Nat) : (drawn s n).spared = s.spared := rfl
@[simp] theorem drawn_hbmQ (s : State) (n : Nat) : (drawn s n).hbmQ = s.hbmQ := rfl
@[simp] theorem drawn_hbmWin (s : State) (n : Nat) : (drawn s n).hbmWin = s.hbmWin := rfl
@[simp] theorem drawn_scrubAt (s : State) (n : Nat) : (drawn s n).scrubAt = s.scrubAt := rfl
@[simp] theorem drawn_scrubLate (s : State) (n : Nat) : (drawn s n).scrubLate = s.scrubLate := rfl
@[simp] theorem drawn_ldgKeys (s : State) (n : Nat) : (drawn s n).ldgKeys = s.ldgKeys := rfl
@[simp] theorem drawn_scrubPos (s : State) (n : Nat) : (drawn s n).scrubPos = s.scrubPos := rfl
@[simp] theorem drawn_mbox (s : State) (n : Nat) : (drawn s n).mbox = s.mbox := rfl
@[simp] theorem drawn_thermal (s : State) (n : Nat) : (drawn s n).thermal = s.thermal := rfl
@[simp] theorem drawn_power (s : State) (n : Nat) : (drawn s n).power = s.power := rfl
@[simp] theorem drawn_pins (s : State) (n : Nat) : (drawn s n).pins = s.pins := rfl
@[simp] theorem drawn_boot (s : State) (n : Nat) : (drawn s n).boot = s.boot := rfl
@[simp] theorem drawn_refs (s : State) (n : Nat) : (drawn s n).refs = s.refs := rfl
@[simp] theorem drawn_roce (s : State) (n : Nat) : (drawn s n).roce = s.roce := rfl
@[simp] theorem drawn_chain (s : State) (n : Nat) : (drawn s n).chain = s.chain := rfl

@[simp] theorem newKeys_pending (s : State) (p : Nat) : (newKeys s p).pending = s.pending := rfl
@[simp] theorem newKeys_regs (s : State) (p : Nat) : (newKeys s p).regs = s.regs := rfl
@[simp] theorem newKeys_shadow (s : State) (p : Nat) : (newKeys s p).shadow = s.shadow := rfl
@[simp] theorem newKeys_shadowLate (s : State) (p : Nat) : (newKeys s p).shadowLate = s.shadowLate := rfl
@[simp] theorem newKeys_stickNow (s : State) (p : Nat) : (newKeys s p).stickNow = s.stickNow := rfl
@[simp] theorem newKeys_mem (s : State) (p : Nat) : (newKeys s p).mem = s.mem := rfl
@[simp] theorem newKeys_poison (s : State) (p : Nat) : (newKeys s p).poison = s.poison := rfl
@[simp] theorem newKeys_pword (s : State) (p : Nat) : (newKeys s p).pword = s.pword := rfl
@[simp] theorem newKeys_hostMem (s : State) (p : Nat) : (newKeys s p).hostMem = s.hostMem := rfl
@[simp] theorem newKeys_out (s : State) (p : Nat) : (newKeys s p).out = s.out := rfl
@[simp] theorem newKeys_cycle (s : State) (p : Nat) : (newKeys s p).cycle = s.cycle := rfl
@[simp] theorem newKeys_refcnt (s : State) (p : Nat) : (newKeys s p).refcnt = s.refcnt := rfl
@[simp] theorem newKeys_refAcc (s : State) (p : Nat) : (newKeys s p).refAcc = s.refAcc := rfl
@[simp] theorem newKeys_run (s : State) (p : Nat) : (newKeys s p).run = s.run := rfl
@[simp] theorem newKeys_gate (s : State) (p : Nat) : (newKeys s p).gate = s.gate := rfl
@[simp] theorem newKeys_heldLast (s : State) (p : Nat) : (newKeys s p).heldLast = s.heldLast := rfl
@[simp] theorem newKeys_holds (s : State) (p : Nat) : (newKeys s p).holds = s.holds := rfl
@[simp] theorem newKeys_nextHold (s : State) (p : Nat) : (newKeys s p).nextHold = s.nextHold := rfl
@[simp] theorem newKeys_parts (s : State) (p : Nat) : (newKeys s p).parts = s.parts := rfl
@[simp] theorem newKeys_ctxs (s : State) (p : Nat) : (newKeys s p).ctxs = s.ctxs := rfl
@[simp] theorem newKeys_mxe (s : State) (p : Nat) : (newKeys s p).mxe = s.mxe := rfl
@[simp] theorem newKeys_echo (s : State) (p : Nat) : (newKeys s p).echo = s.echo := rfl
@[simp] theorem newKeys_echoOpens (s : State) (p : Nat) : (newKeys s p).echoOpens = s.echoOpens := rfl
@[simp] theorem newKeys_thirds (s : State) (p : Nat) : (newKeys s p).thirds = s.thirds := rfl
@[simp] theorem newKeys_strikes (s : State) (p : Nat) : (newKeys s p).strikes = s.strikes := rfl
@[simp] theorem newKeys_dirty (s : State) (p : Nat) : (newKeys s p).dirty = s.dirty := rfl
@[simp] theorem newKeys_short (s : State) (p : Nat) : (newKeys s p).short = s.short := rfl
@[simp] theorem newKeys_passAt (s : State) (p : Nat) : (newKeys s p).passAt = s.passAt := rfl
@[simp] theorem newKeys_bells (s : State) (p : Nat) : (newKeys s p).bells = s.bells := rfl
@[simp] theorem newKeys_qps (s : State) (p : Nat) : (newKeys s p).qps = s.qps := rfl
@[simp] theorem newKeys_streams (s : State) (p : Nat) : (newKeys s p).streams = s.streams := rfl
@[simp] theorem newKeys_cvu (s : State) (p : Nat) : (newKeys s p).cvu = s.cvu := rfl
@[simp] theorem newKeys_ports (s : State) (p : Nat) : (newKeys s p).ports = s.ports := rfl
@[simp] theorem newKeys_seals (s : State) (p : Nat) : (newKeys s p).seals = s.seals := rfl
@[simp] theorem newKeys_msix (s : State) (p : Nat) : (newKeys s p).msix = s.msix := rfl
@[simp] theorem newKeys_tunOut (s : State) (p : Nat) : (newKeys s p).tunOut = s.tunOut := rfl
@[simp] theorem newKeys_tunIn (s : State) (p : Nat) : (newKeys s p).tunIn = s.tunIn := rfl
@[simp] theorem newKeys_fw (s : State) (p : Nat) : (newKeys s p).fw = s.fw := rfl
@[simp] theorem newKeys_prof (s : State) (p : Nat) : (newKeys s p).prof = s.prof := rfl
@[simp] theorem newKeys_coverOf (s : State) (p : Nat) : (newKeys s p).coverOf = s.coverOf := rfl
@[simp] theorem newKeys_sentinels (s : State) (p : Nat) : (newKeys s p).sentinels = s.sentinels := rfl
@[simp] theorem newKeys_retired (s : State) (p : Nat) : (newKeys s p).retired = s.retired := rfl
@[simp] theorem newKeys_unitMap (s : State) (p : Nat) : (newKeys s p).unitMap = s.unitMap := rfl
@[simp] theorem newKeys_spared (s : State) (p : Nat) : (newKeys s p).spared = s.spared := rfl
@[simp] theorem newKeys_hbmQ (s : State) (p : Nat) : (newKeys s p).hbmQ = s.hbmQ := rfl
@[simp] theorem newKeys_hbmWin (s : State) (p : Nat) : (newKeys s p).hbmWin = s.hbmWin := rfl
@[simp] theorem newKeys_scrubAt (s : State) (p : Nat) : (newKeys s p).scrubAt = s.scrubAt := rfl
@[simp] theorem newKeys_scrubLate (s : State) (p : Nat) : (newKeys s p).scrubLate = s.scrubLate := rfl
@[simp] theorem newKeys_scrubPos (s : State) (p : Nat) : (newKeys s p).scrubPos = s.scrubPos := rfl
@[simp] theorem newKeys_mbox (s : State) (p : Nat) : (newKeys s p).mbox = s.mbox := rfl
@[simp] theorem newKeys_thermal (s : State) (p : Nat) : (newKeys s p).thermal = s.thermal := rfl
@[simp] theorem newKeys_power (s : State) (p : Nat) : (newKeys s p).power = s.power := rfl
@[simp] theorem newKeys_pins (s : State) (p : Nat) : (newKeys s p).pins = s.pins := rfl
@[simp] theorem newKeys_boot (s : State) (p : Nat) : (newKeys s p).boot = s.boot := rfl
@[simp] theorem newKeys_refs (s : State) (p : Nat) : (newKeys s p).refs = s.refs := rfl
@[simp] theorem newKeys_roce (s : State) (p : Nat) : (newKeys s p).roce = s.roce := rfl
@[simp] theorem newKeys_chain (s : State) (p : Nat) : (newKeys s p).chain = s.chain := rfl

@[simp] theorem toTunnel_pending (s : State) (n op a : Nat) (b : Bytes) : (toTunnel s n op a b).pending = s.pending := rfl
@[simp] theorem toTunnel_regs (s : State) (n op a : Nat) (b : Bytes) : (toTunnel s n op a b).regs = s.regs := rfl
@[simp] theorem toTunnel_shadow (s : State) (n op a : Nat) (b : Bytes) : (toTunnel s n op a b).shadow = s.shadow := rfl
@[simp] theorem toTunnel_shadowLate (s : State) (n op a : Nat) (b : Bytes) : (toTunnel s n op a b).shadowLate = s.shadowLate := rfl
@[simp] theorem toTunnel_stickNow (s : State) (n op a : Nat) (b : Bytes) : (toTunnel s n op a b).stickNow = s.stickNow := rfl
@[simp] theorem toTunnel_mem (s : State) (n op a : Nat) (b : Bytes) : (toTunnel s n op a b).mem = s.mem := rfl
@[simp] theorem toTunnel_poison (s : State) (n op a : Nat) (b : Bytes) : (toTunnel s n op a b).poison = s.poison := rfl
@[simp] theorem toTunnel_pword (s : State) (n op a : Nat) (b : Bytes) : (toTunnel s n op a b).pword = s.pword := rfl
@[simp] theorem toTunnel_hostMem (s : State) (n op a : Nat) (b : Bytes) : (toTunnel s n op a b).hostMem = s.hostMem := rfl
@[simp] theorem toTunnel_out (s : State) (n op a : Nat) (b : Bytes) : (toTunnel s n op a b).out = s.out := rfl
@[simp] theorem toTunnel_cycle (s : State) (n op a : Nat) (b : Bytes) : (toTunnel s n op a b).cycle = s.cycle := rfl
@[simp] theorem toTunnel_refcnt (s : State) (n op a : Nat) (b : Bytes) : (toTunnel s n op a b).refcnt = s.refcnt := rfl
@[simp] theorem toTunnel_refAcc (s : State) (n op a : Nat) (b : Bytes) : (toTunnel s n op a b).refAcc = s.refAcc := rfl
@[simp] theorem toTunnel_run (s : State) (n op a : Nat) (b : Bytes) : (toTunnel s n op a b).run = s.run := rfl
@[simp] theorem toTunnel_gate (s : State) (n op a : Nat) (b : Bytes) : (toTunnel s n op a b).gate = s.gate := rfl
@[simp] theorem toTunnel_heldLast (s : State) (n op a : Nat) (b : Bytes) : (toTunnel s n op a b).heldLast = s.heldLast := rfl
@[simp] theorem toTunnel_holds (s : State) (n op a : Nat) (b : Bytes) : (toTunnel s n op a b).holds = s.holds := rfl
@[simp] theorem toTunnel_nextHold (s : State) (n op a : Nat) (b : Bytes) : (toTunnel s n op a b).nextHold = s.nextHold := rfl
@[simp] theorem toTunnel_parts (s : State) (n op a : Nat) (b : Bytes) : (toTunnel s n op a b).parts = s.parts := rfl
@[simp] theorem toTunnel_ctxs (s : State) (n op a : Nat) (b : Bytes) : (toTunnel s n op a b).ctxs = s.ctxs := rfl
@[simp] theorem toTunnel_mxe (s : State) (n op a : Nat) (b : Bytes) : (toTunnel s n op a b).mxe = s.mxe := rfl
@[simp] theorem toTunnel_echo (s : State) (n op a : Nat) (b : Bytes) : (toTunnel s n op a b).echo = s.echo := rfl
@[simp] theorem toTunnel_echoOpens (s : State) (n op a : Nat) (b : Bytes) : (toTunnel s n op a b).echoOpens = s.echoOpens := rfl
@[simp] theorem toTunnel_thirds (s : State) (n op a : Nat) (b : Bytes) : (toTunnel s n op a b).thirds = s.thirds := rfl
@[simp] theorem toTunnel_strikes (s : State) (n op a : Nat) (b : Bytes) : (toTunnel s n op a b).strikes = s.strikes := rfl
@[simp] theorem toTunnel_dirty (s : State) (n op a : Nat) (b : Bytes) : (toTunnel s n op a b).dirty = s.dirty := rfl
@[simp] theorem toTunnel_short (s : State) (n op a : Nat) (b : Bytes) : (toTunnel s n op a b).short = s.short := rfl
@[simp] theorem toTunnel_passAt (s : State) (n op a : Nat) (b : Bytes) : (toTunnel s n op a b).passAt = s.passAt := rfl
@[simp] theorem toTunnel_bells (s : State) (n op a : Nat) (b : Bytes) : (toTunnel s n op a b).bells = s.bells := rfl
@[simp] theorem toTunnel_qps (s : State) (n op a : Nat) (b : Bytes) : (toTunnel s n op a b).qps = s.qps := rfl
@[simp] theorem toTunnel_streams (s : State) (n op a : Nat) (b : Bytes) : (toTunnel s n op a b).streams = s.streams := rfl
@[simp] theorem toTunnel_cvu (s : State) (n op a : Nat) (b : Bytes) : (toTunnel s n op a b).cvu = s.cvu := rfl
@[simp] theorem toTunnel_ports (s : State) (n op a : Nat) (b : Bytes) : (toTunnel s n op a b).ports = s.ports := rfl
@[simp] theorem toTunnel_seals (s : State) (n op a : Nat) (b : Bytes) : (toTunnel s n op a b).seals = s.seals := rfl
@[simp] theorem toTunnel_msix (s : State) (n op a : Nat) (b : Bytes) : (toTunnel s n op a b).msix = s.msix := rfl
@[simp] theorem toTunnel_tunIn (s : State) (n op a : Nat) (b : Bytes) : (toTunnel s n op a b).tunIn = s.tunIn := rfl
@[simp] theorem toTunnel_fw (s : State) (n op a : Nat) (b : Bytes) : (toTunnel s n op a b).fw = s.fw := rfl
@[simp] theorem toTunnel_prof (s : State) (n op a : Nat) (b : Bytes) : (toTunnel s n op a b).prof = s.prof := rfl
@[simp] theorem toTunnel_coverOf (s : State) (n op a : Nat) (b : Bytes) : (toTunnel s n op a b).coverOf = s.coverOf := rfl
@[simp] theorem toTunnel_sentinels (s : State) (n op a : Nat) (b : Bytes) : (toTunnel s n op a b).sentinels = s.sentinels := rfl
@[simp] theorem toTunnel_retired (s : State) (n op a : Nat) (b : Bytes) : (toTunnel s n op a b).retired = s.retired := rfl
@[simp] theorem toTunnel_unitMap (s : State) (n op a : Nat) (b : Bytes) : (toTunnel s n op a b).unitMap = s.unitMap := rfl
@[simp] theorem toTunnel_spared (s : State) (n op a : Nat) (b : Bytes) : (toTunnel s n op a b).spared = s.spared := rfl
@[simp] theorem toTunnel_hbmQ (s : State) (n op a : Nat) (b : Bytes) : (toTunnel s n op a b).hbmQ = s.hbmQ := rfl
@[simp] theorem toTunnel_hbmWin (s : State) (n op a : Nat) (b : Bytes) : (toTunnel s n op a b).hbmWin = s.hbmWin := rfl
@[simp] theorem toTunnel_scrubAt (s : State) (n op a : Nat) (b : Bytes) : (toTunnel s n op a b).scrubAt = s.scrubAt := rfl
@[simp] theorem toTunnel_scrubLate (s : State) (n op a : Nat) (b : Bytes) : (toTunnel s n op a b).scrubLate = s.scrubLate := rfl
@[simp] theorem toTunnel_ldgKeys (s : State) (n op a : Nat) (b : Bytes) : (toTunnel s n op a b).ldgKeys = s.ldgKeys := rfl
@[simp] theorem toTunnel_scrubPos (s : State) (n op a : Nat) (b : Bytes) : (toTunnel s n op a b).scrubPos = s.scrubPos := rfl
@[simp] theorem toTunnel_mbox (s : State) (n op a : Nat) (b : Bytes) : (toTunnel s n op a b).mbox = s.mbox := rfl
@[simp] theorem toTunnel_thermal (s : State) (n op a : Nat) (b : Bytes) : (toTunnel s n op a b).thermal = s.thermal := rfl
@[simp] theorem toTunnel_power (s : State) (n op a : Nat) (b : Bytes) : (toTunnel s n op a b).power = s.power := rfl
@[simp] theorem toTunnel_pins (s : State) (n op a : Nat) (b : Bytes) : (toTunnel s n op a b).pins = s.pins := rfl
@[simp] theorem toTunnel_boot (s : State) (n op a : Nat) (b : Bytes) : (toTunnel s n op a b).boot = s.boot := rfl
@[simp] theorem toTunnel_refs (s : State) (n op a : Nat) (b : Bytes) : (toTunnel s n op a b).refs = s.refs := rfl
@[simp] theorem toTunnel_sec (s : State) (n op a : Nat) (b : Bytes) : (toTunnel s n op a b).sec = s.sec := rfl
@[simp] theorem toTunnel_roce (s : State) (n op a : Nat) (b : Bytes) : (toTunnel s n op a b).roce = s.roce := rfl
@[simp] theorem toTunnel_chain (s : State) (n op a : Nat) (b : Bytes) : (toTunnel s n op a b).chain = s.chain := rfl
@[simp] theorem toTunnel_draws (s : State) (n op a : Nat) (b : Bytes) : (toTunnel s n op a b).draws = s.draws := rfl

@[simp] theorem hostWriteAs_pending (s : State) (f a : Nat) (b : Bytes) : (hostWriteAs s f a b).pending = s.pending := rfl
@[simp] theorem hostWriteAs_regs (s : State) (f a : Nat) (b : Bytes) : (hostWriteAs s f a b).regs = s.regs := rfl
@[simp] theorem hostWriteAs_shadow (s : State) (f a : Nat) (b : Bytes) : (hostWriteAs s f a b).shadow = s.shadow := rfl
@[simp] theorem hostWriteAs_shadowLate (s : State) (f a : Nat) (b : Bytes) : (hostWriteAs s f a b).shadowLate = s.shadowLate := rfl
@[simp] theorem hostWriteAs_stickNow (s : State) (f a : Nat) (b : Bytes) : (hostWriteAs s f a b).stickNow = s.stickNow := rfl
@[simp] theorem hostWriteAs_mem (s : State) (f a : Nat) (b : Bytes) : (hostWriteAs s f a b).mem = s.mem := rfl
@[simp] theorem hostWriteAs_poison (s : State) (f a : Nat) (b : Bytes) : (hostWriteAs s f a b).poison = s.poison := rfl
@[simp] theorem hostWriteAs_pword (s : State) (f a : Nat) (b : Bytes) : (hostWriteAs s f a b).pword = s.pword := rfl
@[simp] theorem hostWriteAs_cycle (s : State) (f a : Nat) (b : Bytes) : (hostWriteAs s f a b).cycle = s.cycle := rfl
@[simp] theorem hostWriteAs_refcnt (s : State) (f a : Nat) (b : Bytes) : (hostWriteAs s f a b).refcnt = s.refcnt := rfl
@[simp] theorem hostWriteAs_refAcc (s : State) (f a : Nat) (b : Bytes) : (hostWriteAs s f a b).refAcc = s.refAcc := rfl
@[simp] theorem hostWriteAs_run (s : State) (f a : Nat) (b : Bytes) : (hostWriteAs s f a b).run = s.run := rfl
@[simp] theorem hostWriteAs_gate (s : State) (f a : Nat) (b : Bytes) : (hostWriteAs s f a b).gate = s.gate := rfl
@[simp] theorem hostWriteAs_heldLast (s : State) (f a : Nat) (b : Bytes) : (hostWriteAs s f a b).heldLast = s.heldLast := rfl
@[simp] theorem hostWriteAs_holds (s : State) (f a : Nat) (b : Bytes) : (hostWriteAs s f a b).holds = s.holds := rfl
@[simp] theorem hostWriteAs_nextHold (s : State) (f a : Nat) (b : Bytes) : (hostWriteAs s f a b).nextHold = s.nextHold := rfl
@[simp] theorem hostWriteAs_parts (s : State) (f a : Nat) (b : Bytes) : (hostWriteAs s f a b).parts = s.parts := rfl
@[simp] theorem hostWriteAs_ctxs (s : State) (f a : Nat) (b : Bytes) : (hostWriteAs s f a b).ctxs = s.ctxs := rfl
@[simp] theorem hostWriteAs_mxe (s : State) (f a : Nat) (b : Bytes) : (hostWriteAs s f a b).mxe = s.mxe := rfl
@[simp] theorem hostWriteAs_echo (s : State) (f a : Nat) (b : Bytes) : (hostWriteAs s f a b).echo = s.echo := rfl
@[simp] theorem hostWriteAs_echoOpens (s : State) (f a : Nat) (b : Bytes) : (hostWriteAs s f a b).echoOpens = s.echoOpens := rfl
@[simp] theorem hostWriteAs_thirds (s : State) (f a : Nat) (b : Bytes) : (hostWriteAs s f a b).thirds = s.thirds := rfl
@[simp] theorem hostWriteAs_strikes (s : State) (f a : Nat) (b : Bytes) : (hostWriteAs s f a b).strikes = s.strikes := rfl
@[simp] theorem hostWriteAs_dirty (s : State) (f a : Nat) (b : Bytes) : (hostWriteAs s f a b).dirty = s.dirty := rfl
@[simp] theorem hostWriteAs_short (s : State) (f a : Nat) (b : Bytes) : (hostWriteAs s f a b).short = s.short := rfl
@[simp] theorem hostWriteAs_passAt (s : State) (f a : Nat) (b : Bytes) : (hostWriteAs s f a b).passAt = s.passAt := rfl
@[simp] theorem hostWriteAs_bells (s : State) (f a : Nat) (b : Bytes) : (hostWriteAs s f a b).bells = s.bells := rfl
@[simp] theorem hostWriteAs_qps (s : State) (f a : Nat) (b : Bytes) : (hostWriteAs s f a b).qps = s.qps := rfl
@[simp] theorem hostWriteAs_streams (s : State) (f a : Nat) (b : Bytes) : (hostWriteAs s f a b).streams = s.streams := rfl
@[simp] theorem hostWriteAs_cvu (s : State) (f a : Nat) (b : Bytes) : (hostWriteAs s f a b).cvu = s.cvu := rfl
@[simp] theorem hostWriteAs_ports (s : State) (f a : Nat) (b : Bytes) : (hostWriteAs s f a b).ports = s.ports := rfl
@[simp] theorem hostWriteAs_seals (s : State) (f a : Nat) (b : Bytes) : (hostWriteAs s f a b).seals = s.seals := rfl
@[simp] theorem hostWriteAs_msix (s : State) (f a : Nat) (b : Bytes) : (hostWriteAs s f a b).msix = s.msix := rfl
@[simp] theorem hostWriteAs_tunOut (s : State) (f a : Nat) (b : Bytes) : (hostWriteAs s f a b).tunOut = s.tunOut := rfl
@[simp] theorem hostWriteAs_tunIn (s : State) (f a : Nat) (b : Bytes) : (hostWriteAs s f a b).tunIn = s.tunIn := rfl
@[simp] theorem hostWriteAs_fw (s : State) (f a : Nat) (b : Bytes) : (hostWriteAs s f a b).fw = s.fw := rfl
@[simp] theorem hostWriteAs_prof (s : State) (f a : Nat) (b : Bytes) : (hostWriteAs s f a b).prof = s.prof := rfl
@[simp] theorem hostWriteAs_coverOf (s : State) (f a : Nat) (b : Bytes) : (hostWriteAs s f a b).coverOf = s.coverOf := rfl
@[simp] theorem hostWriteAs_sentinels (s : State) (f a : Nat) (b : Bytes) : (hostWriteAs s f a b).sentinels = s.sentinels := rfl
@[simp] theorem hostWriteAs_retired (s : State) (f a : Nat) (b : Bytes) : (hostWriteAs s f a b).retired = s.retired := rfl
@[simp] theorem hostWriteAs_unitMap (s : State) (f a : Nat) (b : Bytes) : (hostWriteAs s f a b).unitMap = s.unitMap := rfl
@[simp] theorem hostWriteAs_spared (s : State) (f a : Nat) (b : Bytes) : (hostWriteAs s f a b).spared = s.spared := rfl
@[simp] theorem hostWriteAs_hbmQ (s : State) (f a : Nat) (b : Bytes) : (hostWriteAs s f a b).hbmQ = s.hbmQ := rfl
@[simp] theorem hostWriteAs_hbmWin (s : State) (f a : Nat) (b : Bytes) : (hostWriteAs s f a b).hbmWin = s.hbmWin := rfl
@[simp] theorem hostWriteAs_scrubAt (s : State) (f a : Nat) (b : Bytes) : (hostWriteAs s f a b).scrubAt = s.scrubAt := rfl
@[simp] theorem hostWriteAs_scrubLate (s : State) (f a : Nat) (b : Bytes) : (hostWriteAs s f a b).scrubLate = s.scrubLate := rfl
@[simp] theorem hostWriteAs_ldgKeys (s : State) (f a : Nat) (b : Bytes) : (hostWriteAs s f a b).ldgKeys = s.ldgKeys := rfl
@[simp] theorem hostWriteAs_scrubPos (s : State) (f a : Nat) (b : Bytes) : (hostWriteAs s f a b).scrubPos = s.scrubPos := rfl
@[simp] theorem hostWriteAs_mbox (s : State) (f a : Nat) (b : Bytes) : (hostWriteAs s f a b).mbox = s.mbox := rfl
@[simp] theorem hostWriteAs_thermal (s : State) (f a : Nat) (b : Bytes) : (hostWriteAs s f a b).thermal = s.thermal := rfl
@[simp] theorem hostWriteAs_power (s : State) (f a : Nat) (b : Bytes) : (hostWriteAs s f a b).power = s.power := rfl
@[simp] theorem hostWriteAs_pins (s : State) (f a : Nat) (b : Bytes) : (hostWriteAs s f a b).pins = s.pins := rfl
@[simp] theorem hostWriteAs_boot (s : State) (f a : Nat) (b : Bytes) : (hostWriteAs s f a b).boot = s.boot := rfl
@[simp] theorem hostWriteAs_refs (s : State) (f a : Nat) (b : Bytes) : (hostWriteAs s f a b).refs = s.refs := rfl
@[simp] theorem hostWriteAs_sec (s : State) (f a : Nat) (b : Bytes) : (hostWriteAs s f a b).sec = s.sec := rfl
@[simp] theorem hostWriteAs_roce (s : State) (f a : Nat) (b : Bytes) : (hostWriteAs s f a b).roce = s.roce := rfl
@[simp] theorem hostWriteAs_chain (s : State) (f a : Nat) (b : Bytes) : (hostWriteAs s f a b).chain = s.chain := rfl
@[simp] theorem hostWriteAs_draws (s : State) (f a : Nat) (b : Bytes) : (hostWriteAs s f a b).draws = s.draws := rfl

@[simp] theorem modRoce_pending (s : State) (n : Nat) (f : RoceQp → RoceQp) : (modRoce s n f).pending = s.pending := rfl
@[simp] theorem modRoce_regs (s : State) (n : Nat) (f : RoceQp → RoceQp) : (modRoce s n f).regs = s.regs := rfl
@[simp] theorem modRoce_shadow (s : State) (n : Nat) (f : RoceQp → RoceQp) : (modRoce s n f).shadow = s.shadow := rfl
@[simp] theorem modRoce_shadowLate (s : State) (n : Nat) (f : RoceQp → RoceQp) : (modRoce s n f).shadowLate = s.shadowLate := rfl
@[simp] theorem modRoce_stickNow (s : State) (n : Nat) (f : RoceQp → RoceQp) : (modRoce s n f).stickNow = s.stickNow := rfl
@[simp] theorem modRoce_mem (s : State) (n : Nat) (f : RoceQp → RoceQp) : (modRoce s n f).mem = s.mem := rfl
@[simp] theorem modRoce_poison (s : State) (n : Nat) (f : RoceQp → RoceQp) : (modRoce s n f).poison = s.poison := rfl
@[simp] theorem modRoce_pword (s : State) (n : Nat) (f : RoceQp → RoceQp) : (modRoce s n f).pword = s.pword := rfl
@[simp] theorem modRoce_hostMem (s : State) (n : Nat) (f : RoceQp → RoceQp) : (modRoce s n f).hostMem = s.hostMem := rfl
@[simp] theorem modRoce_out (s : State) (n : Nat) (f : RoceQp → RoceQp) : (modRoce s n f).out = s.out := rfl
@[simp] theorem modRoce_cycle (s : State) (n : Nat) (f : RoceQp → RoceQp) : (modRoce s n f).cycle = s.cycle := rfl
@[simp] theorem modRoce_refcnt (s : State) (n : Nat) (f : RoceQp → RoceQp) : (modRoce s n f).refcnt = s.refcnt := rfl
@[simp] theorem modRoce_refAcc (s : State) (n : Nat) (f : RoceQp → RoceQp) : (modRoce s n f).refAcc = s.refAcc := rfl
@[simp] theorem modRoce_run (s : State) (n : Nat) (f : RoceQp → RoceQp) : (modRoce s n f).run = s.run := rfl
@[simp] theorem modRoce_gate (s : State) (n : Nat) (f : RoceQp → RoceQp) : (modRoce s n f).gate = s.gate := rfl
@[simp] theorem modRoce_heldLast (s : State) (n : Nat) (f : RoceQp → RoceQp) : (modRoce s n f).heldLast = s.heldLast := rfl
@[simp] theorem modRoce_holds (s : State) (n : Nat) (f : RoceQp → RoceQp) : (modRoce s n f).holds = s.holds := rfl
@[simp] theorem modRoce_nextHold (s : State) (n : Nat) (f : RoceQp → RoceQp) : (modRoce s n f).nextHold = s.nextHold := rfl
@[simp] theorem modRoce_parts (s : State) (n : Nat) (f : RoceQp → RoceQp) : (modRoce s n f).parts = s.parts := rfl
@[simp] theorem modRoce_ctxs (s : State) (n : Nat) (f : RoceQp → RoceQp) : (modRoce s n f).ctxs = s.ctxs := rfl
@[simp] theorem modRoce_mxe (s : State) (n : Nat) (f : RoceQp → RoceQp) : (modRoce s n f).mxe = s.mxe := rfl
@[simp] theorem modRoce_echo (s : State) (n : Nat) (f : RoceQp → RoceQp) : (modRoce s n f).echo = s.echo := rfl
@[simp] theorem modRoce_echoOpens (s : State) (n : Nat) (f : RoceQp → RoceQp) : (modRoce s n f).echoOpens = s.echoOpens := rfl
@[simp] theorem modRoce_thirds (s : State) (n : Nat) (f : RoceQp → RoceQp) : (modRoce s n f).thirds = s.thirds := rfl
@[simp] theorem modRoce_strikes (s : State) (n : Nat) (f : RoceQp → RoceQp) : (modRoce s n f).strikes = s.strikes := rfl
@[simp] theorem modRoce_dirty (s : State) (n : Nat) (f : RoceQp → RoceQp) : (modRoce s n f).dirty = s.dirty := rfl
@[simp] theorem modRoce_short (s : State) (n : Nat) (f : RoceQp → RoceQp) : (modRoce s n f).short = s.short := rfl
@[simp] theorem modRoce_passAt (s : State) (n : Nat) (f : RoceQp → RoceQp) : (modRoce s n f).passAt = s.passAt := rfl
@[simp] theorem modRoce_bells (s : State) (n : Nat) (f : RoceQp → RoceQp) : (modRoce s n f).bells = s.bells := rfl
@[simp] theorem modRoce_qps (s : State) (n : Nat) (f : RoceQp → RoceQp) : (modRoce s n f).qps = s.qps := rfl
@[simp] theorem modRoce_streams (s : State) (n : Nat) (f : RoceQp → RoceQp) : (modRoce s n f).streams = s.streams := rfl
@[simp] theorem modRoce_cvu (s : State) (n : Nat) (f : RoceQp → RoceQp) : (modRoce s n f).cvu = s.cvu := rfl
@[simp] theorem modRoce_ports (s : State) (n : Nat) (f : RoceQp → RoceQp) : (modRoce s n f).ports = s.ports := rfl
@[simp] theorem modRoce_seals (s : State) (n : Nat) (f : RoceQp → RoceQp) : (modRoce s n f).seals = s.seals := rfl
@[simp] theorem modRoce_msix (s : State) (n : Nat) (f : RoceQp → RoceQp) : (modRoce s n f).msix = s.msix := rfl
@[simp] theorem modRoce_tunOut (s : State) (n : Nat) (f : RoceQp → RoceQp) : (modRoce s n f).tunOut = s.tunOut := rfl
@[simp] theorem modRoce_tunIn (s : State) (n : Nat) (f : RoceQp → RoceQp) : (modRoce s n f).tunIn = s.tunIn := rfl
@[simp] theorem modRoce_fw (s : State) (n : Nat) (f : RoceQp → RoceQp) : (modRoce s n f).fw = s.fw := rfl
@[simp] theorem modRoce_prof (s : State) (n : Nat) (f : RoceQp → RoceQp) : (modRoce s n f).prof = s.prof := rfl
@[simp] theorem modRoce_coverOf (s : State) (n : Nat) (f : RoceQp → RoceQp) : (modRoce s n f).coverOf = s.coverOf := rfl
@[simp] theorem modRoce_sentinels (s : State) (n : Nat) (f : RoceQp → RoceQp) : (modRoce s n f).sentinels = s.sentinels := rfl
@[simp] theorem modRoce_retired (s : State) (n : Nat) (f : RoceQp → RoceQp) : (modRoce s n f).retired = s.retired := rfl
@[simp] theorem modRoce_unitMap (s : State) (n : Nat) (f : RoceQp → RoceQp) : (modRoce s n f).unitMap = s.unitMap := rfl
@[simp] theorem modRoce_spared (s : State) (n : Nat) (f : RoceQp → RoceQp) : (modRoce s n f).spared = s.spared := rfl
@[simp] theorem modRoce_hbmQ (s : State) (n : Nat) (f : RoceQp → RoceQp) : (modRoce s n f).hbmQ = s.hbmQ := rfl
@[simp] theorem modRoce_hbmWin (s : State) (n : Nat) (f : RoceQp → RoceQp) : (modRoce s n f).hbmWin = s.hbmWin := rfl
@[simp] theorem modRoce_scrubAt (s : State) (n : Nat) (f : RoceQp → RoceQp) : (modRoce s n f).scrubAt = s.scrubAt := rfl
@[simp] theorem modRoce_scrubLate (s : State) (n : Nat) (f : RoceQp → RoceQp) : (modRoce s n f).scrubLate = s.scrubLate := rfl
@[simp] theorem modRoce_ldgKeys (s : State) (n : Nat) (f : RoceQp → RoceQp) : (modRoce s n f).ldgKeys = s.ldgKeys := rfl
@[simp] theorem modRoce_scrubPos (s : State) (n : Nat) (f : RoceQp → RoceQp) : (modRoce s n f).scrubPos = s.scrubPos := rfl
@[simp] theorem modRoce_mbox (s : State) (n : Nat) (f : RoceQp → RoceQp) : (modRoce s n f).mbox = s.mbox := rfl
@[simp] theorem modRoce_thermal (s : State) (n : Nat) (f : RoceQp → RoceQp) : (modRoce s n f).thermal = s.thermal := rfl
@[simp] theorem modRoce_power (s : State) (n : Nat) (f : RoceQp → RoceQp) : (modRoce s n f).power = s.power := rfl
@[simp] theorem modRoce_pins (s : State) (n : Nat) (f : RoceQp → RoceQp) : (modRoce s n f).pins = s.pins := rfl
@[simp] theorem modRoce_boot (s : State) (n : Nat) (f : RoceQp → RoceQp) : (modRoce s n f).boot = s.boot := rfl
@[simp] theorem modRoce_refs (s : State) (n : Nat) (f : RoceQp → RoceQp) : (modRoce s n f).refs = s.refs := rfl
@[simp] theorem modRoce_sec (s : State) (n : Nat) (f : RoceQp → RoceQp) : (modRoce s n f).sec = s.sec := rfl
@[simp] theorem modRoce_roce (s : State) (n : Nat) (f : RoceQp → RoceQp) : (modRoce s n f).roce = tmod s.roce n f := rfl
@[simp] theorem modRoce_chain (s : State) (n : Nat) (f : RoceQp → RoceQp) : (modRoce s n f).chain = s.chain := rfl
@[simp] theorem modRoce_draws (s : State) (n : Nat) (f : RoceQp → RoceQp) : (modRoce s n f).draws = s.draws := rfl

@[simp] theorem setCvu_pending (s : State) (d c v : Nat) : (setCvu s d c v).pending = s.pending := rfl
@[simp] theorem setCvu_regs (s : State) (d c v : Nat) : (setCvu s d c v).regs = s.regs := rfl
@[simp] theorem setCvu_shadow (s : State) (d c v : Nat) : (setCvu s d c v).shadow = s.shadow := rfl
@[simp] theorem setCvu_shadowLate (s : State) (d c v : Nat) : (setCvu s d c v).shadowLate = s.shadowLate := rfl
@[simp] theorem setCvu_stickNow (s : State) (d c v : Nat) : (setCvu s d c v).stickNow = s.stickNow := rfl
@[simp] theorem setCvu_mem (s : State) (d c v : Nat) : (setCvu s d c v).mem = s.mem := rfl
@[simp] theorem setCvu_poison (s : State) (d c v : Nat) : (setCvu s d c v).poison = s.poison := rfl
@[simp] theorem setCvu_pword (s : State) (d c v : Nat) : (setCvu s d c v).pword = s.pword := rfl
@[simp] theorem setCvu_hostMem (s : State) (d c v : Nat) : (setCvu s d c v).hostMem = s.hostMem := rfl
@[simp] theorem setCvu_out (s : State) (d c v : Nat) : (setCvu s d c v).out = s.out := rfl
@[simp] theorem setCvu_cycle (s : State) (d c v : Nat) : (setCvu s d c v).cycle = s.cycle := rfl
@[simp] theorem setCvu_refcnt (s : State) (d c v : Nat) : (setCvu s d c v).refcnt = s.refcnt := rfl
@[simp] theorem setCvu_refAcc (s : State) (d c v : Nat) : (setCvu s d c v).refAcc = s.refAcc := rfl
@[simp] theorem setCvu_run (s : State) (d c v : Nat) : (setCvu s d c v).run = s.run := rfl
@[simp] theorem setCvu_gate (s : State) (d c v : Nat) : (setCvu s d c v).gate = s.gate := rfl
@[simp] theorem setCvu_heldLast (s : State) (d c v : Nat) : (setCvu s d c v).heldLast = s.heldLast := rfl
@[simp] theorem setCvu_holds (s : State) (d c v : Nat) : (setCvu s d c v).holds = s.holds := rfl
@[simp] theorem setCvu_nextHold (s : State) (d c v : Nat) : (setCvu s d c v).nextHold = s.nextHold := rfl
@[simp] theorem setCvu_parts (s : State) (d c v : Nat) : (setCvu s d c v).parts = s.parts := rfl
@[simp] theorem setCvu_ctxs (s : State) (d c v : Nat) : (setCvu s d c v).ctxs = s.ctxs := rfl
@[simp] theorem setCvu_mxe (s : State) (d c v : Nat) : (setCvu s d c v).mxe = s.mxe := rfl
@[simp] theorem setCvu_echo (s : State) (d c v : Nat) : (setCvu s d c v).echo = s.echo := rfl
@[simp] theorem setCvu_echoOpens (s : State) (d c v : Nat) : (setCvu s d c v).echoOpens = s.echoOpens := rfl
@[simp] theorem setCvu_thirds (s : State) (d c v : Nat) : (setCvu s d c v).thirds = s.thirds := rfl
@[simp] theorem setCvu_strikes (s : State) (d c v : Nat) : (setCvu s d c v).strikes = s.strikes := rfl
@[simp] theorem setCvu_dirty (s : State) (d c v : Nat) : (setCvu s d c v).dirty = s.dirty := rfl
@[simp] theorem setCvu_short (s : State) (d c v : Nat) : (setCvu s d c v).short = s.short := rfl
@[simp] theorem setCvu_passAt (s : State) (d c v : Nat) : (setCvu s d c v).passAt = s.passAt := rfl
@[simp] theorem setCvu_bells (s : State) (d c v : Nat) : (setCvu s d c v).bells = s.bells := rfl
@[simp] theorem setCvu_qps (s : State) (d c v : Nat) : (setCvu s d c v).qps = s.qps := rfl
@[simp] theorem setCvu_streams (s : State) (d c v : Nat) : (setCvu s d c v).streams = s.streams := rfl
@[simp] theorem setCvu_cvu (s : State) (d c v : Nat) : (setCvu s d c v).cvu = tput s.cvu (d * 4 + c) v := rfl
@[simp] theorem setCvu_ports (s : State) (d c v : Nat) : (setCvu s d c v).ports = s.ports := rfl
@[simp] theorem setCvu_seals (s : State) (d c v : Nat) : (setCvu s d c v).seals = s.seals := rfl
@[simp] theorem setCvu_msix (s : State) (d c v : Nat) : (setCvu s d c v).msix = s.msix := rfl
@[simp] theorem setCvu_tunOut (s : State) (d c v : Nat) : (setCvu s d c v).tunOut = s.tunOut := rfl
@[simp] theorem setCvu_tunIn (s : State) (d c v : Nat) : (setCvu s d c v).tunIn = s.tunIn := rfl
@[simp] theorem setCvu_fw (s : State) (d c v : Nat) : (setCvu s d c v).fw = s.fw := rfl
@[simp] theorem setCvu_prof (s : State) (d c v : Nat) : (setCvu s d c v).prof = s.prof := rfl
@[simp] theorem setCvu_coverOf (s : State) (d c v : Nat) : (setCvu s d c v).coverOf = s.coverOf := rfl
@[simp] theorem setCvu_sentinels (s : State) (d c v : Nat) : (setCvu s d c v).sentinels = s.sentinels := rfl
@[simp] theorem setCvu_retired (s : State) (d c v : Nat) : (setCvu s d c v).retired = s.retired := rfl
@[simp] theorem setCvu_unitMap (s : State) (d c v : Nat) : (setCvu s d c v).unitMap = s.unitMap := rfl
@[simp] theorem setCvu_spared (s : State) (d c v : Nat) : (setCvu s d c v).spared = s.spared := rfl
@[simp] theorem setCvu_hbmQ (s : State) (d c v : Nat) : (setCvu s d c v).hbmQ = s.hbmQ := rfl
@[simp] theorem setCvu_hbmWin (s : State) (d c v : Nat) : (setCvu s d c v).hbmWin = s.hbmWin := rfl
@[simp] theorem setCvu_scrubAt (s : State) (d c v : Nat) : (setCvu s d c v).scrubAt = s.scrubAt := rfl
@[simp] theorem setCvu_scrubLate (s : State) (d c v : Nat) : (setCvu s d c v).scrubLate = s.scrubLate := rfl
@[simp] theorem setCvu_ldgKeys (s : State) (d c v : Nat) : (setCvu s d c v).ldgKeys = s.ldgKeys := rfl
@[simp] theorem setCvu_scrubPos (s : State) (d c v : Nat) : (setCvu s d c v).scrubPos = s.scrubPos := rfl
@[simp] theorem setCvu_mbox (s : State) (d c v : Nat) : (setCvu s d c v).mbox = s.mbox := rfl
@[simp] theorem setCvu_thermal (s : State) (d c v : Nat) : (setCvu s d c v).thermal = s.thermal := rfl
@[simp] theorem setCvu_power (s : State) (d c v : Nat) : (setCvu s d c v).power = s.power := rfl
@[simp] theorem setCvu_pins (s : State) (d c v : Nat) : (setCvu s d c v).pins = s.pins := rfl
@[simp] theorem setCvu_boot (s : State) (d c v : Nat) : (setCvu s d c v).boot = s.boot := rfl
@[simp] theorem setCvu_refs (s : State) (d c v : Nat) : (setCvu s d c v).refs = s.refs := rfl
@[simp] theorem setCvu_sec (s : State) (d c v : Nat) : (setCvu s d c v).sec = s.sec := rfl
@[simp] theorem setCvu_roce (s : State) (d c v : Nat) : (setCvu s d c v).roce = s.roce := rfl
@[simp] theorem setCvu_chain (s : State) (d c v : Nat) : (setCvu s d c v).chain = s.chain := rfl
@[simp] theorem setCvu_draws (s : State) (d c v : Nat) : (setCvu s d c v).draws = s.draws := rfl

@[simp] theorem emit_pending (s : State) (n : Nat) (b : Bytes) : (emit s n b).pending = s.pending := rfl
@[simp] theorem emit_regs (s : State) (n : Nat) (b : Bytes) : (emit s n b).regs = s.regs := rfl
@[simp] theorem emit_shadow (s : State) (n : Nat) (b : Bytes) : (emit s n b).shadow = s.shadow := rfl
@[simp] theorem emit_shadowLate (s : State) (n : Nat) (b : Bytes) : (emit s n b).shadowLate = s.shadowLate := rfl
@[simp] theorem emit_stickNow (s : State) (n : Nat) (b : Bytes) : (emit s n b).stickNow = s.stickNow := rfl
@[simp] theorem emit_mem (s : State) (n : Nat) (b : Bytes) : (emit s n b).mem = s.mem := rfl
@[simp] theorem emit_poison (s : State) (n : Nat) (b : Bytes) : (emit s n b).poison = s.poison := rfl
@[simp] theorem emit_pword (s : State) (n : Nat) (b : Bytes) : (emit s n b).pword = s.pword := rfl
@[simp] theorem emit_hostMem (s : State) (n : Nat) (b : Bytes) : (emit s n b).hostMem = s.hostMem := rfl
@[simp] theorem emit_out (s : State) (n : Nat) (b : Bytes) : (emit s n b).out = s.out ++ [.frame n b] := rfl
@[simp] theorem emit_cycle (s : State) (n : Nat) (b : Bytes) : (emit s n b).cycle = s.cycle := rfl
@[simp] theorem emit_refcnt (s : State) (n : Nat) (b : Bytes) : (emit s n b).refcnt = s.refcnt := rfl
@[simp] theorem emit_refAcc (s : State) (n : Nat) (b : Bytes) : (emit s n b).refAcc = s.refAcc := rfl
@[simp] theorem emit_run (s : State) (n : Nat) (b : Bytes) : (emit s n b).run = s.run := rfl
@[simp] theorem emit_gate (s : State) (n : Nat) (b : Bytes) : (emit s n b).gate = s.gate := rfl
@[simp] theorem emit_heldLast (s : State) (n : Nat) (b : Bytes) : (emit s n b).heldLast = s.heldLast := rfl
@[simp] theorem emit_holds (s : State) (n : Nat) (b : Bytes) : (emit s n b).holds = s.holds := rfl
@[simp] theorem emit_nextHold (s : State) (n : Nat) (b : Bytes) : (emit s n b).nextHold = s.nextHold := rfl
@[simp] theorem emit_parts (s : State) (n : Nat) (b : Bytes) : (emit s n b).parts = s.parts := rfl
@[simp] theorem emit_ctxs (s : State) (n : Nat) (b : Bytes) : (emit s n b).ctxs = s.ctxs := rfl
@[simp] theorem emit_mxe (s : State) (n : Nat) (b : Bytes) : (emit s n b).mxe = s.mxe := rfl
@[simp] theorem emit_echo (s : State) (n : Nat) (b : Bytes) : (emit s n b).echo = s.echo := rfl
@[simp] theorem emit_echoOpens (s : State) (n : Nat) (b : Bytes) : (emit s n b).echoOpens = s.echoOpens := rfl
@[simp] theorem emit_thirds (s : State) (n : Nat) (b : Bytes) : (emit s n b).thirds = s.thirds := rfl
@[simp] theorem emit_strikes (s : State) (n : Nat) (b : Bytes) : (emit s n b).strikes = s.strikes := rfl
@[simp] theorem emit_dirty (s : State) (n : Nat) (b : Bytes) : (emit s n b).dirty = s.dirty := rfl
@[simp] theorem emit_short (s : State) (n : Nat) (b : Bytes) : (emit s n b).short = s.short := rfl
@[simp] theorem emit_passAt (s : State) (n : Nat) (b : Bytes) : (emit s n b).passAt = s.passAt := rfl
@[simp] theorem emit_bells (s : State) (n : Nat) (b : Bytes) : (emit s n b).bells = s.bells := rfl
@[simp] theorem emit_qps (s : State) (n : Nat) (b : Bytes) : (emit s n b).qps = s.qps := rfl
@[simp] theorem emit_streams (s : State) (n : Nat) (b : Bytes) : (emit s n b).streams = s.streams := rfl
@[simp] theorem emit_cvu (s : State) (n : Nat) (b : Bytes) : (emit s n b).cvu = s.cvu := rfl
@[simp] theorem emit_ports (s : State) (n : Nat) (b : Bytes) : (emit s n b).ports = s.ports := rfl
@[simp] theorem emit_seals (s : State) (n : Nat) (b : Bytes) : (emit s n b).seals = s.seals := rfl
@[simp] theorem emit_msix (s : State) (n : Nat) (b : Bytes) : (emit s n b).msix = s.msix := rfl
@[simp] theorem emit_tunOut (s : State) (n : Nat) (b : Bytes) : (emit s n b).tunOut = s.tunOut := rfl
@[simp] theorem emit_tunIn (s : State) (n : Nat) (b : Bytes) : (emit s n b).tunIn = s.tunIn := rfl
@[simp] theorem emit_fw (s : State) (n : Nat) (b : Bytes) : (emit s n b).fw = s.fw := rfl
@[simp] theorem emit_prof (s : State) (n : Nat) (b : Bytes) : (emit s n b).prof = s.prof := rfl
@[simp] theorem emit_coverOf (s : State) (n : Nat) (b : Bytes) : (emit s n b).coverOf = s.coverOf := rfl
@[simp] theorem emit_sentinels (s : State) (n : Nat) (b : Bytes) : (emit s n b).sentinels = s.sentinels := rfl
@[simp] theorem emit_retired (s : State) (n : Nat) (b : Bytes) : (emit s n b).retired = s.retired := rfl
@[simp] theorem emit_unitMap (s : State) (n : Nat) (b : Bytes) : (emit s n b).unitMap = s.unitMap := rfl
@[simp] theorem emit_spared (s : State) (n : Nat) (b : Bytes) : (emit s n b).spared = s.spared := rfl
@[simp] theorem emit_hbmQ (s : State) (n : Nat) (b : Bytes) : (emit s n b).hbmQ = s.hbmQ := rfl
@[simp] theorem emit_hbmWin (s : State) (n : Nat) (b : Bytes) : (emit s n b).hbmWin = s.hbmWin := rfl
@[simp] theorem emit_scrubAt (s : State) (n : Nat) (b : Bytes) : (emit s n b).scrubAt = s.scrubAt := rfl
@[simp] theorem emit_scrubLate (s : State) (n : Nat) (b : Bytes) : (emit s n b).scrubLate = s.scrubLate := rfl
@[simp] theorem emit_ldgKeys (s : State) (n : Nat) (b : Bytes) : (emit s n b).ldgKeys = s.ldgKeys := rfl
@[simp] theorem emit_scrubPos (s : State) (n : Nat) (b : Bytes) : (emit s n b).scrubPos = s.scrubPos := rfl
@[simp] theorem emit_mbox (s : State) (n : Nat) (b : Bytes) : (emit s n b).mbox = s.mbox := rfl
@[simp] theorem emit_thermal (s : State) (n : Nat) (b : Bytes) : (emit s n b).thermal = s.thermal := rfl
@[simp] theorem emit_power (s : State) (n : Nat) (b : Bytes) : (emit s n b).power = s.power := rfl
@[simp] theorem emit_pins (s : State) (n : Nat) (b : Bytes) : (emit s n b).pins = s.pins := rfl
@[simp] theorem emit_boot (s : State) (n : Nat) (b : Bytes) : (emit s n b).boot = s.boot := rfl
@[simp] theorem emit_refs (s : State) (n : Nat) (b : Bytes) : (emit s n b).refs = s.refs := rfl
@[simp] theorem emit_sec (s : State) (n : Nat) (b : Bytes) : (emit s n b).sec = s.sec := rfl
@[simp] theorem emit_roce (s : State) (n : Nat) (b : Bytes) : (emit s n b).roce = s.roce := rfl
@[simp] theorem emit_chain (s : State) (n : Nat) (b : Bytes) : (emit s n b).chain = s.chain := rfl
@[simp] theorem emit_draws (s : State) (n : Nat) (b : Bytes) : (emit s n b).draws = s.draws := rfl

@[simp] theorem queueCtl_pending (s : State) (n f : Nat) (b : Bytes) : (queueCtl s n f b).pending = s.pending := rfl
@[simp] theorem queueCtl_regs (s : State) (n f : Nat) (b : Bytes) : (queueCtl s n f b).regs = s.regs := rfl
@[simp] theorem queueCtl_shadow (s : State) (n f : Nat) (b : Bytes) : (queueCtl s n f b).shadow = s.shadow := rfl
@[simp] theorem queueCtl_shadowLate (s : State) (n f : Nat) (b : Bytes) : (queueCtl s n f b).shadowLate = s.shadowLate := rfl
@[simp] theorem queueCtl_stickNow (s : State) (n f : Nat) (b : Bytes) : (queueCtl s n f b).stickNow = s.stickNow := rfl
@[simp] theorem queueCtl_mem (s : State) (n f : Nat) (b : Bytes) : (queueCtl s n f b).mem = s.mem := rfl
@[simp] theorem queueCtl_poison (s : State) (n f : Nat) (b : Bytes) : (queueCtl s n f b).poison = s.poison := rfl
@[simp] theorem queueCtl_pword (s : State) (n f : Nat) (b : Bytes) : (queueCtl s n f b).pword = s.pword := rfl
@[simp] theorem queueCtl_hostMem (s : State) (n f : Nat) (b : Bytes) : (queueCtl s n f b).hostMem = s.hostMem := rfl
@[simp] theorem queueCtl_out (s : State) (n f : Nat) (b : Bytes) : (queueCtl s n f b).out = s.out := rfl
@[simp] theorem queueCtl_cycle (s : State) (n f : Nat) (b : Bytes) : (queueCtl s n f b).cycle = s.cycle := rfl
@[simp] theorem queueCtl_refcnt (s : State) (n f : Nat) (b : Bytes) : (queueCtl s n f b).refcnt = s.refcnt := rfl
@[simp] theorem queueCtl_refAcc (s : State) (n f : Nat) (b : Bytes) : (queueCtl s n f b).refAcc = s.refAcc := rfl
@[simp] theorem queueCtl_run (s : State) (n f : Nat) (b : Bytes) : (queueCtl s n f b).run = s.run := rfl
@[simp] theorem queueCtl_gate (s : State) (n f : Nat) (b : Bytes) : (queueCtl s n f b).gate = s.gate := rfl
@[simp] theorem queueCtl_heldLast (s : State) (n f : Nat) (b : Bytes) : (queueCtl s n f b).heldLast = s.heldLast := rfl
@[simp] theorem queueCtl_holds (s : State) (n f : Nat) (b : Bytes) : (queueCtl s n f b).holds = s.holds := rfl
@[simp] theorem queueCtl_nextHold (s : State) (n f : Nat) (b : Bytes) : (queueCtl s n f b).nextHold = s.nextHold := rfl
@[simp] theorem queueCtl_parts (s : State) (n f : Nat) (b : Bytes) : (queueCtl s n f b).parts = s.parts := rfl
@[simp] theorem queueCtl_ctxs (s : State) (n f : Nat) (b : Bytes) : (queueCtl s n f b).ctxs = s.ctxs := rfl
@[simp] theorem queueCtl_mxe (s : State) (n f : Nat) (b : Bytes) : (queueCtl s n f b).mxe = s.mxe := rfl
@[simp] theorem queueCtl_echo (s : State) (n f : Nat) (b : Bytes) : (queueCtl s n f b).echo = s.echo := rfl
@[simp] theorem queueCtl_echoOpens (s : State) (n f : Nat) (b : Bytes) : (queueCtl s n f b).echoOpens = s.echoOpens := rfl
@[simp] theorem queueCtl_thirds (s : State) (n f : Nat) (b : Bytes) : (queueCtl s n f b).thirds = s.thirds := rfl
@[simp] theorem queueCtl_strikes (s : State) (n f : Nat) (b : Bytes) : (queueCtl s n f b).strikes = s.strikes := rfl
@[simp] theorem queueCtl_dirty (s : State) (n f : Nat) (b : Bytes) : (queueCtl s n f b).dirty = s.dirty := rfl
@[simp] theorem queueCtl_short (s : State) (n f : Nat) (b : Bytes) : (queueCtl s n f b).short = s.short := rfl
@[simp] theorem queueCtl_passAt (s : State) (n f : Nat) (b : Bytes) : (queueCtl s n f b).passAt = s.passAt := rfl
@[simp] theorem queueCtl_bells (s : State) (n f : Nat) (b : Bytes) : (queueCtl s n f b).bells = s.bells := rfl
@[simp] theorem queueCtl_qps (s : State) (n f : Nat) (b : Bytes) : (queueCtl s n f b).qps = s.qps := rfl
@[simp] theorem queueCtl_streams (s : State) (n f : Nat) (b : Bytes) : (queueCtl s n f b).streams = s.streams := rfl
@[simp] theorem queueCtl_cvu (s : State) (n f : Nat) (b : Bytes) : (queueCtl s n f b).cvu = s.cvu := rfl
@[simp] theorem queueCtl_ports (s : State) (n f : Nat) (b : Bytes) : (queueCtl s n f b).ports = tput s.ports n { portSt s n with ctl := (portSt s n).ctl ++ [(f, b)] } := rfl
@[simp] theorem queueCtl_seals (s : State) (n f : Nat) (b : Bytes) : (queueCtl s n f b).seals = s.seals := rfl
@[simp] theorem queueCtl_msix (s : State) (n f : Nat) (b : Bytes) : (queueCtl s n f b).msix = s.msix := rfl
@[simp] theorem queueCtl_tunOut (s : State) (n f : Nat) (b : Bytes) : (queueCtl s n f b).tunOut = s.tunOut := rfl
@[simp] theorem queueCtl_tunIn (s : State) (n f : Nat) (b : Bytes) : (queueCtl s n f b).tunIn = s.tunIn := rfl
@[simp] theorem queueCtl_fw (s : State) (n f : Nat) (b : Bytes) : (queueCtl s n f b).fw = s.fw := rfl
@[simp] theorem queueCtl_prof (s : State) (n f : Nat) (b : Bytes) : (queueCtl s n f b).prof = s.prof := rfl
@[simp] theorem queueCtl_coverOf (s : State) (n f : Nat) (b : Bytes) : (queueCtl s n f b).coverOf = s.coverOf := rfl
@[simp] theorem queueCtl_sentinels (s : State) (n f : Nat) (b : Bytes) : (queueCtl s n f b).sentinels = s.sentinels := rfl
@[simp] theorem queueCtl_retired (s : State) (n f : Nat) (b : Bytes) : (queueCtl s n f b).retired = s.retired := rfl
@[simp] theorem queueCtl_unitMap (s : State) (n f : Nat) (b : Bytes) : (queueCtl s n f b).unitMap = s.unitMap := rfl
@[simp] theorem queueCtl_spared (s : State) (n f : Nat) (b : Bytes) : (queueCtl s n f b).spared = s.spared := rfl
@[simp] theorem queueCtl_hbmQ (s : State) (n f : Nat) (b : Bytes) : (queueCtl s n f b).hbmQ = s.hbmQ := rfl
@[simp] theorem queueCtl_hbmWin (s : State) (n f : Nat) (b : Bytes) : (queueCtl s n f b).hbmWin = s.hbmWin := rfl
@[simp] theorem queueCtl_scrubAt (s : State) (n f : Nat) (b : Bytes) : (queueCtl s n f b).scrubAt = s.scrubAt := rfl
@[simp] theorem queueCtl_scrubLate (s : State) (n f : Nat) (b : Bytes) : (queueCtl s n f b).scrubLate = s.scrubLate := rfl
@[simp] theorem queueCtl_ldgKeys (s : State) (n f : Nat) (b : Bytes) : (queueCtl s n f b).ldgKeys = s.ldgKeys := rfl
@[simp] theorem queueCtl_scrubPos (s : State) (n f : Nat) (b : Bytes) : (queueCtl s n f b).scrubPos = s.scrubPos := rfl
@[simp] theorem queueCtl_mbox (s : State) (n f : Nat) (b : Bytes) : (queueCtl s n f b).mbox = s.mbox := rfl
@[simp] theorem queueCtl_thermal (s : State) (n f : Nat) (b : Bytes) : (queueCtl s n f b).thermal = s.thermal := rfl
@[simp] theorem queueCtl_power (s : State) (n f : Nat) (b : Bytes) : (queueCtl s n f b).power = s.power := rfl
@[simp] theorem queueCtl_pins (s : State) (n f : Nat) (b : Bytes) : (queueCtl s n f b).pins = s.pins := rfl
@[simp] theorem queueCtl_boot (s : State) (n f : Nat) (b : Bytes) : (queueCtl s n f b).boot = s.boot := rfl
@[simp] theorem queueCtl_refs (s : State) (n f : Nat) (b : Bytes) : (queueCtl s n f b).refs = s.refs := rfl
@[simp] theorem queueCtl_sec (s : State) (n f : Nat) (b : Bytes) : (queueCtl s n f b).sec = s.sec := rfl
@[simp] theorem queueCtl_roce (s : State) (n f : Nat) (b : Bytes) : (queueCtl s n f b).roce = s.roce := rfl
@[simp] theorem queueCtl_chain (s : State) (n f : Nat) (b : Bytes) : (queueCtl s n f b).chain = s.chain := rfl
@[simp] theorem queueCtl_draws (s : State) (n f : Nat) (b : Bytes) : (queueCtl s n f b).draws = s.draws := rfl

@[simp] theorem queueAck_pending (s : State) (n : Nat) (b : Bytes) : (queueAck s n b).pending = s.pending := rfl
@[simp] theorem queueAck_regs (s : State) (n : Nat) (b : Bytes) : (queueAck s n b).regs = s.regs := rfl
@[simp] theorem queueAck_shadow (s : State) (n : Nat) (b : Bytes) : (queueAck s n b).shadow = s.shadow := rfl
@[simp] theorem queueAck_shadowLate (s : State) (n : Nat) (b : Bytes) : (queueAck s n b).shadowLate = s.shadowLate := rfl
@[simp] theorem queueAck_stickNow (s : State) (n : Nat) (b : Bytes) : (queueAck s n b).stickNow = s.stickNow := rfl
@[simp] theorem queueAck_mem (s : State) (n : Nat) (b : Bytes) : (queueAck s n b).mem = s.mem := rfl
@[simp] theorem queueAck_poison (s : State) (n : Nat) (b : Bytes) : (queueAck s n b).poison = s.poison := rfl
@[simp] theorem queueAck_pword (s : State) (n : Nat) (b : Bytes) : (queueAck s n b).pword = s.pword := rfl
@[simp] theorem queueAck_hostMem (s : State) (n : Nat) (b : Bytes) : (queueAck s n b).hostMem = s.hostMem := rfl
@[simp] theorem queueAck_out (s : State) (n : Nat) (b : Bytes) : (queueAck s n b).out = s.out := rfl
@[simp] theorem queueAck_cycle (s : State) (n : Nat) (b : Bytes) : (queueAck s n b).cycle = s.cycle := rfl
@[simp] theorem queueAck_refcnt (s : State) (n : Nat) (b : Bytes) : (queueAck s n b).refcnt = s.refcnt := rfl
@[simp] theorem queueAck_refAcc (s : State) (n : Nat) (b : Bytes) : (queueAck s n b).refAcc = s.refAcc := rfl
@[simp] theorem queueAck_run (s : State) (n : Nat) (b : Bytes) : (queueAck s n b).run = s.run := rfl
@[simp] theorem queueAck_gate (s : State) (n : Nat) (b : Bytes) : (queueAck s n b).gate = s.gate := rfl
@[simp] theorem queueAck_heldLast (s : State) (n : Nat) (b : Bytes) : (queueAck s n b).heldLast = s.heldLast := rfl
@[simp] theorem queueAck_holds (s : State) (n : Nat) (b : Bytes) : (queueAck s n b).holds = s.holds := rfl
@[simp] theorem queueAck_nextHold (s : State) (n : Nat) (b : Bytes) : (queueAck s n b).nextHold = s.nextHold := rfl
@[simp] theorem queueAck_parts (s : State) (n : Nat) (b : Bytes) : (queueAck s n b).parts = s.parts := rfl
@[simp] theorem queueAck_ctxs (s : State) (n : Nat) (b : Bytes) : (queueAck s n b).ctxs = s.ctxs := rfl
@[simp] theorem queueAck_mxe (s : State) (n : Nat) (b : Bytes) : (queueAck s n b).mxe = s.mxe := rfl
@[simp] theorem queueAck_echo (s : State) (n : Nat) (b : Bytes) : (queueAck s n b).echo = s.echo := rfl
@[simp] theorem queueAck_echoOpens (s : State) (n : Nat) (b : Bytes) : (queueAck s n b).echoOpens = s.echoOpens := rfl
@[simp] theorem queueAck_thirds (s : State) (n : Nat) (b : Bytes) : (queueAck s n b).thirds = s.thirds := rfl
@[simp] theorem queueAck_strikes (s : State) (n : Nat) (b : Bytes) : (queueAck s n b).strikes = s.strikes := rfl
@[simp] theorem queueAck_dirty (s : State) (n : Nat) (b : Bytes) : (queueAck s n b).dirty = s.dirty := rfl
@[simp] theorem queueAck_short (s : State) (n : Nat) (b : Bytes) : (queueAck s n b).short = s.short := rfl
@[simp] theorem queueAck_passAt (s : State) (n : Nat) (b : Bytes) : (queueAck s n b).passAt = s.passAt := rfl
@[simp] theorem queueAck_bells (s : State) (n : Nat) (b : Bytes) : (queueAck s n b).bells = s.bells := rfl
@[simp] theorem queueAck_qps (s : State) (n : Nat) (b : Bytes) : (queueAck s n b).qps = s.qps := rfl
@[simp] theorem queueAck_streams (s : State) (n : Nat) (b : Bytes) : (queueAck s n b).streams = s.streams := rfl
@[simp] theorem queueAck_cvu (s : State) (n : Nat) (b : Bytes) : (queueAck s n b).cvu = s.cvu := rfl
@[simp] theorem queueAck_ports (s : State) (n : Nat) (b : Bytes) : (queueAck s n b).ports = tput s.ports n { portSt s n with acks := (portSt s n).acks ++ [b] } := rfl
@[simp] theorem queueAck_seals (s : State) (n : Nat) (b : Bytes) : (queueAck s n b).seals = s.seals := rfl
@[simp] theorem queueAck_msix (s : State) (n : Nat) (b : Bytes) : (queueAck s n b).msix = s.msix := rfl
@[simp] theorem queueAck_tunOut (s : State) (n : Nat) (b : Bytes) : (queueAck s n b).tunOut = s.tunOut := rfl
@[simp] theorem queueAck_tunIn (s : State) (n : Nat) (b : Bytes) : (queueAck s n b).tunIn = s.tunIn := rfl
@[simp] theorem queueAck_fw (s : State) (n : Nat) (b : Bytes) : (queueAck s n b).fw = s.fw := rfl
@[simp] theorem queueAck_prof (s : State) (n : Nat) (b : Bytes) : (queueAck s n b).prof = s.prof := rfl
@[simp] theorem queueAck_coverOf (s : State) (n : Nat) (b : Bytes) : (queueAck s n b).coverOf = s.coverOf := rfl
@[simp] theorem queueAck_sentinels (s : State) (n : Nat) (b : Bytes) : (queueAck s n b).sentinels = s.sentinels := rfl
@[simp] theorem queueAck_retired (s : State) (n : Nat) (b : Bytes) : (queueAck s n b).retired = s.retired := rfl
@[simp] theorem queueAck_unitMap (s : State) (n : Nat) (b : Bytes) : (queueAck s n b).unitMap = s.unitMap := rfl
@[simp] theorem queueAck_spared (s : State) (n : Nat) (b : Bytes) : (queueAck s n b).spared = s.spared := rfl
@[simp] theorem queueAck_hbmQ (s : State) (n : Nat) (b : Bytes) : (queueAck s n b).hbmQ = s.hbmQ := rfl
@[simp] theorem queueAck_hbmWin (s : State) (n : Nat) (b : Bytes) : (queueAck s n b).hbmWin = s.hbmWin := rfl
@[simp] theorem queueAck_scrubAt (s : State) (n : Nat) (b : Bytes) : (queueAck s n b).scrubAt = s.scrubAt := rfl
@[simp] theorem queueAck_scrubLate (s : State) (n : Nat) (b : Bytes) : (queueAck s n b).scrubLate = s.scrubLate := rfl
@[simp] theorem queueAck_ldgKeys (s : State) (n : Nat) (b : Bytes) : (queueAck s n b).ldgKeys = s.ldgKeys := rfl
@[simp] theorem queueAck_scrubPos (s : State) (n : Nat) (b : Bytes) : (queueAck s n b).scrubPos = s.scrubPos := rfl
@[simp] theorem queueAck_mbox (s : State) (n : Nat) (b : Bytes) : (queueAck s n b).mbox = s.mbox := rfl
@[simp] theorem queueAck_thermal (s : State) (n : Nat) (b : Bytes) : (queueAck s n b).thermal = s.thermal := rfl
@[simp] theorem queueAck_power (s : State) (n : Nat) (b : Bytes) : (queueAck s n b).power = s.power := rfl
@[simp] theorem queueAck_pins (s : State) (n : Nat) (b : Bytes) : (queueAck s n b).pins = s.pins := rfl
@[simp] theorem queueAck_boot (s : State) (n : Nat) (b : Bytes) : (queueAck s n b).boot = s.boot := rfl
@[simp] theorem queueAck_refs (s : State) (n : Nat) (b : Bytes) : (queueAck s n b).refs = s.refs := rfl
@[simp] theorem queueAck_sec (s : State) (n : Nat) (b : Bytes) : (queueAck s n b).sec = s.sec := rfl
@[simp] theorem queueAck_roce (s : State) (n : Nat) (b : Bytes) : (queueAck s n b).roce = s.roce := rfl
@[simp] theorem queueAck_chain (s : State) (n : Nat) (b : Bytes) : (queueAck s n b).chain = s.chain := rfl
@[simp] theorem queueAck_draws (s : State) (n : Nat) (b : Bytes) : (queueAck s n b).draws = s.draws := rfl

@[simp] theorem queueLocal_pending (s : State) (n : Nat) (b : Bytes) : (queueLocal s n b).pending = s.pending := rfl
@[simp] theorem queueLocal_regs (s : State) (n : Nat) (b : Bytes) : (queueLocal s n b).regs = s.regs := rfl
@[simp] theorem queueLocal_shadow (s : State) (n : Nat) (b : Bytes) : (queueLocal s n b).shadow = s.shadow := rfl
@[simp] theorem queueLocal_shadowLate (s : State) (n : Nat) (b : Bytes) : (queueLocal s n b).shadowLate = s.shadowLate := rfl
@[simp] theorem queueLocal_stickNow (s : State) (n : Nat) (b : Bytes) : (queueLocal s n b).stickNow = s.stickNow := rfl
@[simp] theorem queueLocal_mem (s : State) (n : Nat) (b : Bytes) : (queueLocal s n b).mem = s.mem := rfl
@[simp] theorem queueLocal_poison (s : State) (n : Nat) (b : Bytes) : (queueLocal s n b).poison = s.poison := rfl
@[simp] theorem queueLocal_pword (s : State) (n : Nat) (b : Bytes) : (queueLocal s n b).pword = s.pword := rfl
@[simp] theorem queueLocal_hostMem (s : State) (n : Nat) (b : Bytes) : (queueLocal s n b).hostMem = s.hostMem := rfl
@[simp] theorem queueLocal_out (s : State) (n : Nat) (b : Bytes) : (queueLocal s n b).out = s.out := rfl
@[simp] theorem queueLocal_cycle (s : State) (n : Nat) (b : Bytes) : (queueLocal s n b).cycle = s.cycle := rfl
@[simp] theorem queueLocal_refcnt (s : State) (n : Nat) (b : Bytes) : (queueLocal s n b).refcnt = s.refcnt := rfl
@[simp] theorem queueLocal_refAcc (s : State) (n : Nat) (b : Bytes) : (queueLocal s n b).refAcc = s.refAcc := rfl
@[simp] theorem queueLocal_run (s : State) (n : Nat) (b : Bytes) : (queueLocal s n b).run = s.run := rfl
@[simp] theorem queueLocal_gate (s : State) (n : Nat) (b : Bytes) : (queueLocal s n b).gate = s.gate := rfl
@[simp] theorem queueLocal_heldLast (s : State) (n : Nat) (b : Bytes) : (queueLocal s n b).heldLast = s.heldLast := rfl
@[simp] theorem queueLocal_holds (s : State) (n : Nat) (b : Bytes) : (queueLocal s n b).holds = s.holds := rfl
@[simp] theorem queueLocal_nextHold (s : State) (n : Nat) (b : Bytes) : (queueLocal s n b).nextHold = s.nextHold := rfl
@[simp] theorem queueLocal_parts (s : State) (n : Nat) (b : Bytes) : (queueLocal s n b).parts = s.parts := rfl
@[simp] theorem queueLocal_ctxs (s : State) (n : Nat) (b : Bytes) : (queueLocal s n b).ctxs = s.ctxs := rfl
@[simp] theorem queueLocal_mxe (s : State) (n : Nat) (b : Bytes) : (queueLocal s n b).mxe = s.mxe := rfl
@[simp] theorem queueLocal_echo (s : State) (n : Nat) (b : Bytes) : (queueLocal s n b).echo = s.echo := rfl
@[simp] theorem queueLocal_echoOpens (s : State) (n : Nat) (b : Bytes) : (queueLocal s n b).echoOpens = s.echoOpens := rfl
@[simp] theorem queueLocal_thirds (s : State) (n : Nat) (b : Bytes) : (queueLocal s n b).thirds = s.thirds := rfl
@[simp] theorem queueLocal_strikes (s : State) (n : Nat) (b : Bytes) : (queueLocal s n b).strikes = s.strikes := rfl
@[simp] theorem queueLocal_dirty (s : State) (n : Nat) (b : Bytes) : (queueLocal s n b).dirty = s.dirty := rfl
@[simp] theorem queueLocal_short (s : State) (n : Nat) (b : Bytes) : (queueLocal s n b).short = s.short := rfl
@[simp] theorem queueLocal_passAt (s : State) (n : Nat) (b : Bytes) : (queueLocal s n b).passAt = s.passAt := rfl
@[simp] theorem queueLocal_bells (s : State) (n : Nat) (b : Bytes) : (queueLocal s n b).bells = s.bells := rfl
@[simp] theorem queueLocal_qps (s : State) (n : Nat) (b : Bytes) : (queueLocal s n b).qps = s.qps := rfl
@[simp] theorem queueLocal_streams (s : State) (n : Nat) (b : Bytes) : (queueLocal s n b).streams = s.streams := rfl
@[simp] theorem queueLocal_cvu (s : State) (n : Nat) (b : Bytes) : (queueLocal s n b).cvu = s.cvu := rfl
@[simp] theorem queueLocal_ports (s : State) (n : Nat) (b : Bytes) : (queueLocal s n b).ports = tput s.ports n { portSt s n with loc := (portSt s n).loc ++ [b] } := rfl
@[simp] theorem queueLocal_seals (s : State) (n : Nat) (b : Bytes) : (queueLocal s n b).seals = s.seals := rfl
@[simp] theorem queueLocal_msix (s : State) (n : Nat) (b : Bytes) : (queueLocal s n b).msix = s.msix := rfl
@[simp] theorem queueLocal_tunOut (s : State) (n : Nat) (b : Bytes) : (queueLocal s n b).tunOut = s.tunOut := rfl
@[simp] theorem queueLocal_tunIn (s : State) (n : Nat) (b : Bytes) : (queueLocal s n b).tunIn = s.tunIn := rfl
@[simp] theorem queueLocal_fw (s : State) (n : Nat) (b : Bytes) : (queueLocal s n b).fw = s.fw := rfl
@[simp] theorem queueLocal_prof (s : State) (n : Nat) (b : Bytes) : (queueLocal s n b).prof = s.prof := rfl
@[simp] theorem queueLocal_coverOf (s : State) (n : Nat) (b : Bytes) : (queueLocal s n b).coverOf = s.coverOf := rfl
@[simp] theorem queueLocal_sentinels (s : State) (n : Nat) (b : Bytes) : (queueLocal s n b).sentinels = s.sentinels := rfl
@[simp] theorem queueLocal_retired (s : State) (n : Nat) (b : Bytes) : (queueLocal s n b).retired = s.retired := rfl
@[simp] theorem queueLocal_unitMap (s : State) (n : Nat) (b : Bytes) : (queueLocal s n b).unitMap = s.unitMap := rfl
@[simp] theorem queueLocal_spared (s : State) (n : Nat) (b : Bytes) : (queueLocal s n b).spared = s.spared := rfl
@[simp] theorem queueLocal_hbmQ (s : State) (n : Nat) (b : Bytes) : (queueLocal s n b).hbmQ = s.hbmQ := rfl
@[simp] theorem queueLocal_hbmWin (s : State) (n : Nat) (b : Bytes) : (queueLocal s n b).hbmWin = s.hbmWin := rfl
@[simp] theorem queueLocal_scrubAt (s : State) (n : Nat) (b : Bytes) : (queueLocal s n b).scrubAt = s.scrubAt := rfl
@[simp] theorem queueLocal_scrubLate (s : State) (n : Nat) (b : Bytes) : (queueLocal s n b).scrubLate = s.scrubLate := rfl
@[simp] theorem queueLocal_ldgKeys (s : State) (n : Nat) (b : Bytes) : (queueLocal s n b).ldgKeys = s.ldgKeys := rfl
@[simp] theorem queueLocal_scrubPos (s : State) (n : Nat) (b : Bytes) : (queueLocal s n b).scrubPos = s.scrubPos := rfl
@[simp] theorem queueLocal_mbox (s : State) (n : Nat) (b : Bytes) : (queueLocal s n b).mbox = s.mbox := rfl
@[simp] theorem queueLocal_thermal (s : State) (n : Nat) (b : Bytes) : (queueLocal s n b).thermal = s.thermal := rfl
@[simp] theorem queueLocal_power (s : State) (n : Nat) (b : Bytes) : (queueLocal s n b).power = s.power := rfl
@[simp] theorem queueLocal_pins (s : State) (n : Nat) (b : Bytes) : (queueLocal s n b).pins = s.pins := rfl
@[simp] theorem queueLocal_boot (s : State) (n : Nat) (b : Bytes) : (queueLocal s n b).boot = s.boot := rfl
@[simp] theorem queueLocal_refs (s : State) (n : Nat) (b : Bytes) : (queueLocal s n b).refs = s.refs := rfl
@[simp] theorem queueLocal_sec (s : State) (n : Nat) (b : Bytes) : (queueLocal s n b).sec = s.sec := rfl
@[simp] theorem queueLocal_roce (s : State) (n : Nat) (b : Bytes) : (queueLocal s n b).roce = s.roce := rfl
@[simp] theorem queueLocal_chain (s : State) (n : Nat) (b : Bytes) : (queueLocal s n b).chain = s.chain := rfl
@[simp] theorem queueLocal_draws (s : State) (n : Nat) (b : Bytes) : (queueLocal s n b).draws = s.draws := rfl

end Sys2Proof.Machine
end

