-- ==== Sys2Proof/Laws/Registers.lean ====
section
/-! SUPPORT. Bit fields, and what a read of a register or of a field gives after a write. -/

namespace Sys2Proof.Machine

theorem bits_lt (n hi lo : Nat) : bits n hi lo < 2 ^ (hi + 1 - lo) := Nat.mod_lt _ (Nat.two_pow_pos _)

theorem testBit_bits (n hi lo i : Nat) : (bits n hi lo).testBit i = (decide (i < hi + 1 - lo) && n.testBit (lo + i)) := by
  simp [bits, Nat.testBit_mod_two_pow, Nat.testBit_shiftRight]

/-- `n` cut at bits lo and w + lo. -/
theorem nat_cut (n lo w : Nat) : n = n / 2 ^ (w + lo) * 2 ^ (w + lo) + (n / 2 ^ lo % 2 ^ w) * 2 ^ lo + n % 2 ^ lo := by
  have h1 := Nat.div_add_mod n (2 ^ lo)
  have h2 := Nat.div_add_mod (n / 2 ^ lo) (2 ^ w)
  rw [Nat.div_div_eq_div_mul, ← Nat.pow_add, Nat.add_comm lo w] at h2
  have e : n / 2 ^ (w + lo) * 2 ^ (w + lo) = 2 ^ lo * (2 ^ w * (n / 2 ^ (w + lo))) := by
    rw [Nat.pow_add]; ring
  rw [e]
  calc n = 2 ^ lo * (n / 2 ^ lo) + n % 2 ^ lo := h1.symm
    _ = 2 ^ lo * (2 ^ w * (n / 2 ^ (w + lo)) + n / 2 ^ lo % 2 ^ w) + n % 2 ^ lo := by rw [h2]
    _ = _ := by ring

/-- A replaced field: the bits above, the new value, the bits below. -/
theorem setBits_eq (n hi lo v : Nat) :
    setBits n hi lo v = n / 2 ^ (hi + 1 - lo + lo) * 2 ^ (hi + 1 - lo + lo) + (v % 2 ^ (hi + 1 - lo)) * 2 ^ lo + n % 2 ^ lo := by
  have h := nat_cut n lo (hi + 1 - lo)
  unfold setBits bits
  rw [Nat.shiftRight_eq_div_pow]
  omega

theorem testBit_setBits (n hi lo v i : Nat) (h : lo ≤ hi) :
    (setBits n hi lo v).testBit i = if lo ≤ i ∧ i ≤ hi then v.testBit (i - lo) else n.testBit i := by
  rw [setBits_eq]
  have hw : hi + 1 - lo + lo = hi + 1 := by omega
  rw [hw, Nat.mul_comm (n / 2 ^ (hi + 1)), Nat.add_assoc]
  have hl : n % 2 ^ lo < 2 ^ lo := Nat.mod_lt _ (Nat.two_pow_pos _)
  have hv : v % 2 ^ (hi + 1 - lo) * 2 ^ lo + n % 2 ^ lo < 2 ^ (hi + 1) := by
    have : v % 2 ^ (hi + 1 - lo) + 1 ≤ 2 ^ (hi + 1 - lo) := Nat.mod_lt _ (Nat.two_pow_pos _)
    calc v % 2 ^ (hi + 1 - lo) * 2 ^ lo + n % 2 ^ lo < v % 2 ^ (hi + 1 - lo) * 2 ^ lo + 2 ^ lo := by omega
      _ = (v % 2 ^ (hi + 1 - lo) + 1) * 2 ^ lo := by ring
      _ ≤ 2 ^ (hi + 1 - lo) * 2 ^ lo := Nat.mul_le_mul_right _ this
      _ = 2 ^ (hi + 1) := by rw [← Nat.pow_add, hw]
  rw [Nat.testBit_two_pow_mul_add _ hv, Nat.mul_comm (v % 2 ^ (hi + 1 - lo))]
  rw [Nat.testBit_two_pow_mul_add _ hl]
  by_cases h1 : i < hi + 1
  · by_cases h2 : i < lo
    · have : ¬ lo ≤ i := by omega
      simp [h1, h2, this, Nat.testBit_mod_two_pow]
    · have h3 : lo ≤ i := by omega
      have h4 : i ≤ hi := by omega
      have h5 : i - lo < hi + 1 - lo := by omega
      simp [h1, h2, h3, h4, h5, Nat.testBit_mod_two_pow]
  · have h2 : ¬ i ≤ hi := by omega
    have h3 : i - (hi + 1) + (hi + 1) = i := by omega
    simp [h1, h2, Nat.testBit_div_two_pow, h3]

/-- A field that was replaced reads as the low bits of its new value. -/
theorem bits_setBits_same (n hi lo v : Nat) (h : lo ≤ hi) : bits (setBits n hi lo v) hi lo = v % 2 ^ (hi + 1 - lo) := by
  apply Nat.eq_of_testBit_eq
  intro i
  rw [testBit_bits, testBit_setBits _ _ _ _ _ h, Nat.testBit_mod_two_pow]
  by_cases hi' : i < hi + 1 - lo
  · have h1 : lo ≤ lo + i ∧ lo + i ≤ hi := by omega
    have h2 : lo + i - lo = i := by omega
    simp [hi', h1, h2]
  · simp [hi']

/-- A field that does not meet the replaced one reads as before. -/
theorem bits_setBits_other (n hi lo v a b : Nat) (h : lo ≤ hi) (d : a < lo ∨ hi < b) : bits (setBits n hi lo v) a b = bits n a b := by
  apply Nat.eq_of_testBit_eq
  intro i
  rw [testBit_bits, testBit_bits, testBit_setBits _ _ _ _ _ h]
  by_cases hi' : i < a + 1 - b
  · have h1 : ¬ (lo ≤ b + i ∧ b + i ≤ hi) := by omega
    simp [hi', h1]
  · simp [hi']

theorem setBits_lt (n hi lo v w : Nat) (h : lo ≤ hi) (hw : hi < w) (hn : n < 2 ^ w) : setBits n hi lo v < 2 ^ w := by
  refine Nat.lt_pow_two_of_testBit _ (fun i hi' => ?_)
  rw [testBit_setBits _ _ _ _ _ h]
  have h1 : ¬ (lo ≤ i ∧ i ≤ hi) := by omega
  simp only [h1, if_false]
  exact Nat.testBit_lt_two_pow (Nat.lt_of_lt_of_le hn (Nat.pow_le_pow_right (by omega) hi'))

theorem leBytes_length (k n : Nat) : (leBytes k n).length = k := by
  induction k generalizing n with
  | zero => rfl
  | succ k ih => simp [leBytes, ih]

/-! ### Registers -/

@[simp] theorem rd_setReg_same (s : State) (a v : Nat) : rd (setReg s a v) a = v % 2 ^ 64 := by simp [rd]
@[simp] theorem rd_setReg_other (s : State) (a b v : Nat) (h : b ≠ a) : rd (setReg s a v) b = rd s b := by simp [rd, h]

theorem resets_lt : (allRegs.all (fun d => decide (descReset d < 2 ^ 64))) = true := by decide +kernel

theorem rd_lt (s : State) (a : Nat) : rd s a < 2 ^ 64 := by
  unfold rd
  split
  · exact BitVec.isLt _
  · unfold resetOf
    split
    · rename_i d h
      have h1 : d ∈ allRegs := List.mem_of_find?_eq_some h
      simpa using (List.all_eq_true.1 resets_lt) d h1
    · exact Nat.two_pow_pos _

theorem rd_setFld_same (s : State) (a hi lo v : Nat) (h : lo ≤ hi) (hw : hi < 64) : rd (setFld s a hi lo v) a = setBits (rd s a) hi lo v := by
  show rd (setReg s a _) a = _
  rw [rd_setReg_same, Nat.mod_eq_of_lt (setBits_lt _ _ _ _ 64 h hw (rd_lt s a))]
@[simp] theorem rd_setFld_other (s : State) (a b hi lo v : Nat) (h : b ≠ a) : rd (setFld s a hi lo v) b = rd s b := rd_setReg_other _ _ _ _ h

/-- A field that was written reads as the low bits of what was written. -/
theorem fld_setFld_same (s : State) (a hi lo v : Nat) (h : lo ≤ hi) (hw : hi < 64) : fld (setFld s a hi lo v) a hi lo = v % 2 ^ (hi + 1 - lo) := by
  unfold fld
  rw [rd_setFld_same _ _ _ _ _ h hw, bits_setBits_same _ _ _ _ h]
/-- A field of the register that does not meet the written one reads as before. -/
theorem fld_setFld_beside (s : State) (a hi lo v x y : Nat) (h : lo ≤ hi) (hw : hi < 64) (d : x < lo ∨ hi < y) : fld (setFld s a hi lo v) a x y = fld s a x y := by
  unfold fld
  rw [rd_setFld_same _ _ _ _ _ h hw, bits_setBits_other _ _ _ _ _ _ h d]
@[simp] theorem fld_setFld_other (s : State) (a b hi lo v x y : Nat) (h : b ≠ a) : fld (setFld s a hi lo v) b x y = fld s b x y := by
  unfold fld
  rw [rd_setFld_other _ _ _ _ _ _ h]
/-- A counter that saturates. -/
theorem fld_satFld_same (s : State) (a hi lo v : Nat) (h : lo ≤ hi) (hw : hi < 64) : fld (satFld s a hi lo v) a hi lo = satAdd (hi + 1 - lo) (fld s a hi lo) v := by
  unfold satFld
  rw [fld_setFld_same _ _ _ _ _ h hw, Nat.mod_eq_of_lt]
  have := Nat.two_pow_pos (hi + 1 - lo)
  unfold satAdd
  omega
@[simp] theorem rd_satFld_other (s : State) (a b hi lo v : Nat) (h : b ≠ a) : rd (satFld s a hi lo v) b = rd s b := rd_setFld_other _ _ _ _ _ _ h
/-- Sticky flags are ORed into what the register holds. -/
theorem rd_orReg_same (s : State) (a v : Nat) (hv : v < 2 ^ 64) : rd (orReg s a v) a = rd s a ||| v := by
  show rd (setReg s a _) a = _
  rw [rd_setReg_same, Nat.mod_eq_of_lt (Nat.or_lt_two_pow (rd_lt s a) hv)]
@[simp] theorem rd_orReg_other (s : State) (a b v : Nat) (h : b ≠ a) : rd (orReg s a v) b = rd s b := rd_setReg_other _ _ _ _ h

/-! ### The tables that stand for an entry with a default -/

@[simp] theorem part_modPart_same (s : State) (p : Nat) (f : Part → Part) : part (modPart s p f) p = f (part s p) := by simp [part]
@[simp] theorem part_modPart_other (s : State) (p q : Nat) (f : Part → Part) (h : q ≠ p) : part (modPart s p f) q = part s q := by simp [part, h]
@[simp] theorem qp_modQp_same (s : State) (q : Nat) (f : Qp → Qp) : qp (modQp s q f) q = f (qp s q) := by simp [qp]
@[simp] theorem qp_modQp_other (s : State) (q r : Nat) (f : Qp → Qp) (h : r ≠ q) : qp (modQp s q f) r = qp s r := by simp [qp, h]
@[simp] theorem bell_modBell_same (s : State) (b : Nat) (f : Bell → Bell) : bell (modBell s b f) b = f (bell s b) := by simp [bell]
@[simp] theorem bell_modBell_other (s : State) (b c : Nat) (f : Bell → Bell) (h : c ≠ b) : bell (modBell s b f) c = bell s c := by simp [bell, h]
@[simp] theorem portSt_modPort_same (s : State) (n : Nat) (f : PortSt → PortSt) : portSt (modPort s n f) n = f (portSt s n) := by simp [portSt]
@[simp] theorem portSt_modPort_other (s : State) (n m : Nat) (f : PortSt → PortSt) (h : m ≠ n) : portSt (modPort s n f) m = portSt s m := by simp [portSt, h]
@[simp] theorem ctxOf_modCtx_same (s : State) (k : Nat) (f : Ctx → Ctx) : ctxOf (modCtx s k f) k = (ctxOf s k).map f := by simp [ctxOf, tget_tmod_same]
@[simp] theorem ctxOf_modCtx_other (s : State) (k j : Nat) (f : Ctx → Ctx) (h : j ≠ k) : ctxOf (modCtx s k f) j = ctxOf s j := by simp [ctxOf, h]
@[simp] theorem ctxOf_setCtx_same (s : State) (k : Nat) (c : Ctx) : ctxOf (setCtx s k c) k = some c := by simp [ctxOf]
@[simp] theorem ctxOf_setCtx_other (s : State) (k j : Nat) (c : Ctx) (h : j ≠ k) : ctxOf (setCtx s k c) j = ctxOf s j := by simp [ctxOf, h]
@[simp] theorem stream_modStream_same (s : State) (x : Nat) (f : Stream → Stream) : stream (modStream s x f) x = (stream s x).map f := by simp [stream, tget_tmod_same]
@[simp] theorem stream_modStream_other (s : State) (x y : Nat) (f : Stream → Stream) (h : y ≠ x) : stream (modStream s x f) y = stream s y := by simp [stream, h]

end Sys2Proof.Machine
end

