-- ==== Sys2Proof/Laws/Device.lean ====
section
/-! SUPPORT. Device memory: what a read gives after a write, a copy or a zeroing, and which bytes these leave alone. -/

namespace Sys2Proof.Machine

theorem devRead_length (s : State) (a n : Nat) : (devRead s a n).length = n := by simp [devRead, memBytes]

theorem devRead_of_mem {s t : State} (h : t.mem = s.mem) (a n : Nat) : devRead t a n = devRead s a n := by simp [devRead, h]
theorem devPoison_of_poison {s t : State} (h : t.poison = s.poison) (a n : Nat) : devPoison t a n = devPoison s a n := by simp [devPoison, h]

@[simp] theorem devWrite_mem (s : State) (a : Nat) (b : Bytes) : (devWrite s a b).mem = memWrite s.mem a b := rfl
theorem devSeg_mem (s : State) (a : Nat) (l : List (Byte × Bool)) : (devSeg s (a, l)).mem = memWrite s.mem a (l.map (·.1)) := rfl

/-- A written range reads as what was written. -/
theorem devRead_devWrite (s : State) (a : Nat) (b : Bytes) (h : Memory.wf s.mem = true) : devRead (devWrite s a b) a b.length = b :=
  memBytes_memWrite _ _ _ h
theorem devRead_devWrite_other (s : State) (a c n : Nat) (b : Bytes) (h : c + n ≤ a ∨ a + b.length ≤ c) : devRead (devWrite s a b) c n = devRead s c n :=
  memBytes_memWrite_other _ _ _ _ _ h

theorem devRead_devSeg (s : State) (a : Nat) (l : List (Byte × Bool)) (h : Memory.wf s.mem = true) : devRead (devSeg s (a, l)) a l.length = l.map (·.1) := by
  have := memBytes_memWrite s.mem a (l.map (·.1)) h
  rw [List.length_map] at this
  exact this
theorem memGet_devSeg_other (s : State) (a x : Nat) (l : List (Byte × Bool)) (h : x < a ∨ a + l.length ≤ x) : memGet (devSeg s (a, l)).mem x = memGet s.mem x := by
  rw [devSeg_mem]
  exact memGet_memWrite_other _ _ _ _ (by rwa [List.length_map])

/-- The bytes of a copy with their poison. -/
theorem devCopy_eq (s : State) (src dst n : Nat) :
    devCopy s src dst n = devSeg s (dst, (devRead s src n).zip ((List.range n).map (fun i => s.poison.contains ((src + i) / 64)))) := rfl

/-- A copy gives the destination the bytes of the source. -/
theorem devRead_devCopy (s : State) (src dst n : Nat) (h : Memory.wf s.mem = true) : devRead (devCopy s src dst n) dst n = devRead s src n := by
  have hl : ((devRead s src n).zip ((List.range n).map (fun i => s.poison.contains ((src + i) / 64)))).length = n := by
    rw [List.length_zip, devRead_length]; simp
  have := devRead_devSeg s dst ((devRead s src n).zip ((List.range n).map (fun i => s.poison.contains ((src + i) / 64)))) h
  rw [hl] at this
  rw [devCopy_eq, this, List.map_fst_zip]
  rw [devRead_length]; simp
theorem memGet_devCopy_other (s : State) (src dst n x : Nat) (h : x < dst ∨ dst + n ≤ x) : memGet (devCopy s src dst n).mem x = memGet s.mem x := by
  rw [devCopy_eq]
  refine memGet_devSeg_other _ _ _ _ ?_
  rw [List.length_zip, devRead_length]
  simpa using h

theorem memGet_memClear (m : List Host.Cell) (a n x : Nat) : memGet (memClear m a n) x = if a ≤ x ∧ x < a + n then memUnlisted else memGet m x := by
  unfold memClear
  have drop : ∀ j : Nat, (!(decide (a ≤ j) && decide (j < a + n))) = !decide (a ≤ j ∧ j < a + n) := by intro j; simp only [Bool.decide_and]
  simp only [drop]
  induction m with
  | nil => split <;> rfl
  | cons c r ih =>
    by_cases hc : a ≤ c.1 ∧ c.1 < a + n
    · rw [List.filter_cons_of_neg (by simp [hc]), ih, memGet]
      by_cases hx : c.1 = x
      · rw [← hx, if_pos hc, if_pos hc]
      · rw [if_neg hx]
    · rw [List.filter_cons_of_pos (by simp only [decide_eq_false hc, Bool.not_false]), memGet, memGet, ih]
      by_cases hx : c.1 = x
      · rw [if_pos hx, if_pos hx, if_neg (hx ▸ hc)]
      · rw [if_neg hx, if_neg hx]

/-- An event changes its register, and a message of it the pending bits, the outputs or the tunnel. -/
theorem sendMsix_same (s : State) (v : Nat) : (sendMsix s v).fw = s.fw ∧ (sendMsix s v).prof = s.prof ∧ (sendMsix s v).boot = s.boot ∧ (sendMsix s v).regs = s.regs := by
  unfold sendMsix
  split
  · exact ⟨rfl, rfl, rfl, rfl⟩
  · unfold sendMsixOf
    dsimp only
    split <;> exact ⟨rfl, rfl, rfl, rfl⟩

theorem setEvent_same (s : State) (b : Nat) : (setEvent s b).fw = s.fw ∧ (setEvent s b).prof = s.prof ∧ (setEvent s b).boot = s.boot := by
  unfold setEvent
  dsimp only
  split
  · exact ⟨rfl, rfl, rfl⟩
  · split
    · obtain ⟨h1, h2, h3, -⟩ := sendMsix_same (orReg s rHifEvent (2 ^ b)) (fld s rHifEvcfg 6 0)
      exact ⟨h1, h2, h3⟩
    · exact ⟨rfl, rfl, rfl⟩

end Sys2Proof.Machine
end

