-- ==== Sys2Proof/Laws/Keeps.lean ====
section
/-! SUPPORT. What every operation keeps: the queue of commands as it is, and the invariant of the state. Rules by which the files under Keeps/ show it for each operation. -/

namespace Sys2Proof.Machine

/-- `t` has the queue of `s`, and meets the invariant if `s` does. -/
structure Keeps (s t : State) : Prop where
  queue : t.pending = s.pending
  inv : Inv s → Inv t

/-- The same of an outcome: there is a next state, and it keeps both. -/
structure KeepsR (s : State) (r : Res) : Prop where
  runs : ∃ t, r = .next t ∧ Keeps s t

theorem Keeps.refl (s : State) : Keeps s s := ⟨rfl, id⟩
theorem Keeps.trans {s t u : State} (h : Keeps s t) (g : Keeps t u) : Keeps s u := ⟨g.queue.trans h.queue, fun i => g.inv (h.inv i)⟩

theorem KeepsR.next {s t : State} (h : Keeps s t) : KeepsR s (.next t) := ⟨t, rfl, h⟩

/-- An update of fields other than the queue, the memories and the poisoned units. -/
theorem Keeps.set {s t u : State} (h : Keeps s t) (hq : u.pending = t.pending := by rfl) (hm : u.mem = t.mem := by rfl)
    (hh : u.hostMem = t.hostMem := by rfl) (hp : u.poison = t.poison := by rfl) : Keeps s u :=
  h.trans ⟨hq, fun i => by unfold Inv at *; rw [hm, hh, hp]; exact i⟩

/-- A state given field by field, with the queue, the memories and the poisoned units of `t`. -/
theorem Keeps.lit {s t : State}
    {a1 a2 a3 a4 a5 a6 a7 a8 a9 a10 a11 a12 a13 a14 a15 a16 a17 a18 a19 a20 a21 a22 a23 a24 a25 a26 a27 a28 a29 a30 a31 a32 a33 a34 a35 a36 a37 a38 a39 a40 a41 a42 a43 a44 a45 a46 a47 a48 a49 a50 a51 a52 a53 a54 a55 a56}
    (h : Keeps s t) : Keeps s (State.mk t.pending a1 a2 a3 a4 t.mem t.poison a5 t.hostMem a6 a7 a8 a9 a10 a11 a12 a13 a14 a15 a16 a17 a18 a19 a20 a21 a22 a23 a24 a25 a26 a27 a28 a29 a30 a31 a32 a33 a34 a35 a36 a37 a38 a39 a40 a41 a42 a43 a44 a45 a46 a47 a48 a49 a50 a51 a52 a53 a54 a55 a56) :=
  h.set

/-- The same as an equation, which rewrites a state given field by field and no other. -/
theorem Keeps.litEq {s t : State}
    {a1 a2 a3 a4 a5 a6 a7 a8 a9 a10 a11 a12 a13 a14 a15 a16 a17 a18 a19 a20 a21 a22 a23 a24 a25 a26 a27 a28 a29 a30 a31 a32 a33 a34 a35 a36 a37 a38 a39 a40 a41 a42 a43 a44 a45 a46 a47 a48 a49 a50 a51 a52 a53 a54 a55 a56} :
    Keeps s (State.mk t.pending a1 a2 a3 a4 t.mem t.poison a5 t.hostMem a6 a7 a8 a9 a10 a11 a12 a13 a14 a15 a16 a17 a18 a19 a20 a21 a22 a23 a24 a25 a26 a27 a28 a29 a30 a31 a32 a33 a34 a35 a36 a37 a38 a39 a40 a41 a42 a43 a44 a45 a46 a47 a48 a49 a50 a51 a52 a53 a54 a55 a56) = Keeps s t :=
  propext ⟨fun h => h.trans ⟨rfl, id⟩, fun h => h.lit⟩

theorem Keeps.ite {s a b : State} {c : Prop} [Decidable c] (h : c → Keeps s a) (g : ¬c → Keeps s b) : Keeps s (if c then a else b) := by
  split
  · exact h ‹_›
  · exact g ‹_›

theorem KeepsR.ite {s : State} {a b : Res} {c : Prop} [Decidable c] (h : c → KeepsR s a) (g : ¬c → KeepsR s b) : KeepsR s (if c then a else b) := by
  split
  · exact h ‹_›
  · exact g ‹_›

/-- A fold whose every step keeps. -/
theorem Keeps.foldl {α : Type} {r s : State} {f : State → α → State} {l : List α} (h : ∀ t a, Keeps r t → Keeps r (f t a)) (g : Keeps r s) : Keeps r (l.foldl f s) := by
  induction l generalizing s with
  | nil => exact g
  | cons a l ih => exact ih (h s a g)

/-- A fold over a state and something beside it. -/
theorem Keeps.foldl1 {α β : Type} {r : State} {x : State × β} {f : State × β → α → State × β} {l : List α} (h : ∀ x a, Keeps r x.1 → Keeps r (f x a).1) (g : Keeps r x.1) :
    Keeps r (l.foldl f x).1 := by
  induction l generalizing x with
  | nil => exact g
  | cons a l ih => exact ih (h x a g)

theorem keeps_devWrite {r s : State} (a : Nat) (b : Bytes) (h : Keeps r s) : Keeps r (devWrite s a b) :=
  h.trans ⟨rfl, fun i => ⟨wf_memWrite _ _ _ i.1, i.2.1, rising_filter _ _ i.2.2⟩⟩
theorem keeps_devTaint {r s : State} (a n : Nat) (h : Keeps r s) : Keeps r (devTaint s a n) :=
  h.trans ⟨rfl, fun i => ⟨i.1, i.2.1, rising_foldl_sput id _ _ i.2.2⟩⟩
theorem keeps_devZero {r s : State} (a n : Nat) (h : Keeps r s) : Keeps r (devZero s a n) :=
  h.trans ⟨rfl, fun i => ⟨wf_memClear _ _ _ i.1, i.2.1, rising_filter _ _ i.2.2⟩⟩
theorem keeps_hostWriteAs {r s : State} (f a : Nat) (b : Bytes) (h : Keeps r s) : Keeps r (hostWriteAs s f a b) := by
  unfold hostWriteAs
  repeat' first | with_reducible assumption | exact h.trans ⟨rfl, fun i => ⟨i.1, wf_memWrite _ _ _ i.2.1, i.2.2⟩⟩ | simp only [Keeps.litEq] | split
theorem keeps_toTunnel {r s : State} (f op a : Nat) (b : Bytes) (h : Keeps r s) : Keeps r (toTunnel s f op a b) := by
  unfold toTunnel
  simp only [Keeps.litEq]
  exact h
theorem keeps_hostWrite {r s : State} (a : Nat) (b : Bytes) (h : Keeps r s) : Keeps r (hostWrite s a b) := by
  unfold hostWrite
  exact Keeps.ite (fun _ => keeps_toTunnel _ _ _ _ h) (fun _ => keeps_hostWriteAs _ _ _ h)

theorem pairwise_rangeFrom (lo n : Nat) : (rangeFrom lo n).Pairwise (· < ·) := by
  unfold rangeFrom
  rw [List.pairwise_map]
  exact List.pairwise_lt_range.imp (by intro a b h; omega)

theorem mem_rangeFrom {lo n x : Nat} : x ∈ rangeFrom lo n ↔ lo ≤ x ∧ x < lo + n := by
  unfold rangeFrom
  simp only [List.mem_map, List.mem_range]
  constructor
  · rintro ⟨a, ha, rfl⟩; omega
  · rintro ⟨h1, h2⟩; exact ⟨x - lo, by omega, by omega⟩

theorem keeps_poisonRange {r s : State} (a n : Nat) (h : Keeps r s) : Keeps r (poisonRange s a n) := by
  refine h.trans ⟨rfl, fun i => ⟨i.1, i.2.1, ?_⟩⟩
  have hp := (rising_iff _).1 i.2.2
  rw [rising_iff]
  show List.Pairwise _ (_ ++ _ ++ _)
  rw [List.pairwise_append, List.pairwise_append]
  refine ⟨⟨hp.filter _, pairwise_rangeFrom _ _, fun x hx y hy => ?_⟩, hp.filter _, fun x hx y hy => ?_⟩
  · have h1 := (List.mem_filter.1 hx).2
    have h2 := mem_rangeFrom.1 hy
    have : x < a / 64 := by simpa using h1
    omega
  · have h2 : (a + n) / 64 ≤ y := by simpa using (List.mem_filter.1 hy).2
    rcases List.mem_append.1 hx with hx | hx
    · have h1 : x < a / 64 := by simpa using (List.mem_filter.1 hx).2
      omega
    · have h1 := mem_rangeFrom.1 hx
      omega

theorem keeps_devSeg {r s : State} (g : Seg) (h : Keeps r s) : Keeps r (devSeg s g) :=
  (keeps_devWrite g.1 (g.2.map (fun x : Byte × Bool => x.1)) h).trans ⟨rfl, fun i => ⟨i.1, i.2.1, rising_foldl_sput _ _ _ i.2.2⟩⟩
theorem keeps_devSegs {r s : State} (l : List Seg) (h : Keeps r s) : Keeps r (devSegs s l) := Keeps.foldl (fun _ _ g => keeps_devSeg _ g) h
theorem keeps_hbmUse {r s : State} (p a n : Nat) (h : Keeps r s) : Keeps r (hbmUse s p a n) := by
  unfold hbmUse
  exact Keeps.ite (fun _ => h) (fun _ => h.set)
theorem keeps_hbmMove {r s : State} (p src dst n : Nat) (h : Keeps r s) : Keeps r (hbmMove s p src dst n) := keeps_hbmUse _ _ _ (keeps_hbmUse _ _ _ h)
theorem keeps_devCopy {r s : State} (src dst n : Nat) (h : Keeps r s) : Keeps r (devCopy s src dst n) := keeps_devSeg _ h

end Sys2Proof.Machine
end

