-- ==== Sys2Proof/Laws/Keeps/Regs.lean ====
section
/-! SUPPORT. What each operation of Machine/Regs.lean keeps: the queue and the invariant. -/

namespace Sys2Proof.Machine

theorem keeps_setReg {r₀ : State} (s : State) (off v : Nat) (h₀ : Keeps r₀ s) : Keeps r₀ (setReg s off v) := by
  unfold setReg
  try dsimp only
  repeat' first
    | with_reducible assumption
    | with_reducible apply Keeps.ite
    | simp only [Keeps.litEq]
    | intro _
    | split

theorem keeps_setFld {r₀ : State} (s : State) (off hi lo v : Nat) (h₀ : Keeps r₀ s) : Keeps r₀ (setFld s off hi lo v) := by
  unfold setFld
  try dsimp only
  repeat' first
    | with_reducible assumption
    | with_reducible apply keeps_setReg
    | with_reducible apply Keeps.ite
    | intro _
    | split

theorem keeps_orReg {r₀ : State} (s : State) (off v : Nat) (h₀ : Keeps r₀ s) : Keeps r₀ (orReg s off v) := by
  unfold orReg
  try dsimp only
  repeat' first
    | with_reducible assumption
    | with_reducible apply keeps_setReg
    | with_reducible apply Keeps.ite
    | simp only [Keeps.litEq]
    | intro _
    | split

theorem keeps_satFld {r₀ : State} (s : State) (off hi lo v : Nat) (h₀ : Keeps r₀ s) : Keeps r₀ (satFld s off hi lo v) := by
  unfold satFld
  try dsimp only
  repeat' first
    | with_reducible assumption
    | with_reducible apply keeps_setFld
    | with_reducible apply Keeps.ite
    | intro _
    | split

theorem keeps_sendMsixOf {r₀ : State} (s : State) (f vec : Nat) (h₀ : Keeps r₀ s) : Keeps r₀ (sendMsixOf s f vec) := by
  unfold sendMsixOf
  try dsimp only
  repeat' first
    | with_reducible assumption
    | with_reducible apply Keeps.ite
    | simp only [Keeps.litEq]
    | intro _
    | split

theorem keeps_sendMsix {r₀ : State} (s : State) (vec : Nat) (h₀ : Keeps r₀ s) : Keeps r₀ (sendMsix s vec) := by
  unfold sendMsix
  try dsimp only
  repeat' first
    | with_reducible assumption
    | with_reducible apply keeps_toTunnel
    | with_reducible apply keeps_sendMsixOf
    | with_reducible apply Keeps.ite
    | intro _
    | split

theorem keeps_setEvent {r₀ : State} (s : State) (b : Nat) (h₀ : Keeps r₀ s) : Keeps r₀ (setEvent s b) := by
  unfold setEvent
  try dsimp only
  repeat' first
    | with_reducible assumption
    | with_reducible apply keeps_orReg
    | with_reducible apply keeps_sendMsix
    | with_reducible apply Keeps.ite
    | intro _
    | split

theorem keeps_reject {r₀ : State} (s : State) (blk off : Nat) (h₀ : Keeps r₀ s) : Keeps r₀ (reject s blk off) := by
  unfold reject
  try dsimp only
  repeat' first
    | with_reducible assumption
    | with_reducible apply keeps_setFld
    | with_reducible apply keeps_orReg
    | with_reducible apply keeps_setEvent
    | with_reducible apply Keeps.ite
    | intro _
    | split

theorem keeps_rejectOff {r₀ : State} (s : State) (off : Nat) (h₀ : Keeps r₀ s) : Keeps r₀ (rejectOff s off) := by
  unfold rejectOff
  try dsimp only
  repeat' first
    | with_reducible assumption
    | with_reducible apply keeps_reject
    | with_reducible apply Keeps.ite
    | simp only [Keeps.litEq]
    | intro _
    | split

theorem keeps_regApply {r₀ : State} (s : State) (off : Nat) (d : RegDesc) (v : Nat) (h₀ : Keeps r₀ s) : Keeps r₀ (regApply s off d v) := by
  unfold regApply
  try dsimp only
  repeat' first
    | with_reducible assumption
    | with_reducible apply keeps_setReg
    | with_reducible apply Keeps.foldl
    | with_reducible apply Keeps.foldl1
    | with_reducible apply Keeps.ite
    | intro _
    | split

theorem keeps_writeThen {r₀ s : State} {off v : Nat} {k : State → State} (h : ∀ t, Keeps r₀ t → Keeps r₀ (k t)) (g : Keeps r₀ s) : Keeps r₀ (writeThen s off v k) := by
  unfold writeThen
  repeat' first | with_reducible assumption | with_reducible apply keeps_rejectOff | (apply h; with_reducible apply keeps_regApply) | with_reducible apply Keeps.ite | intro _ | split


theorem keeps_syncPower {r₀ : State} (s : State) (h₀ : Keeps r₀ s) : Keeps r₀ (syncPower s) := by
  unfold syncPower
  try dsimp only
  repeat' first
    | with_reducible assumption
    | with_reducible apply keeps_setFld
    | with_reducible apply Keeps.ite
    | intro _
    | split

theorem keeps_wake {r₀ : State} (s : State) (kind target : Nat) (h₀ : Keeps r₀ s) : Keeps r₀ (wake s kind target) := by
  unfold wake
  try dsimp only
  repeat' first
    | with_reducible assumption
    | with_reducible apply keeps_setFld
    | with_reducible apply keeps_syncPower
    | with_reducible apply Keeps.ite
    | simp only [Keeps.litEq]
    | intro _
    | split

theorem keeps_wakeUp {r₀ : State} (s : State) (kind : Nat) (h₀ : Keeps r₀ s) : Keeps r₀ (wakeUp s kind) := by
  unfold wakeUp
  try dsimp only
  repeat' first
    | with_reducible assumption
    | with_reducible apply keeps_wake
    | with_reducible apply Keeps.ite
    | intro _
    | split

theorem keeps_frameWake {r₀ : State} (s : State) (h₀ : Keeps r₀ s) : Keeps r₀ (frameWake s) := by
  unfold frameWake
  try dsimp only
  repeat' first
    | with_reducible assumption
    | with_reducible apply keeps_wake
    | with_reducible apply Keeps.ite
    | intro _
    | split

theorem keeps_barWake {r₀ : State} (s : State) (w : Writer) (h₀ : Keeps r₀ s) : Keeps r₀ (barWake s w) := by
  unfold barWake
  try dsimp only
  repeat' first
    | with_reducible assumption
    | with_reducible apply keeps_wakeUp
    | with_reducible apply Keeps.ite
    | simp only [Keeps.litEq]
    | intro _
    | split

theorem keeps_refuseBar {r₀ : State} (s : State) (w : Writer) (h₀ : Keeps r₀ s) : Keeps r₀ (refuseBar s w) := by
  unfold refuseBar
  try dsimp only
  repeat' first
    | with_reducible assumption
    | with_reducible apply Keeps.ite
    | simp only [Keeps.litEq]
    | intro _
    | split

theorem keeps_gate {r₀ s : State} {w : Writer} {r : State → Res} (h : ∀ t, Keeps r₀ t → KeepsR r₀ (r t)) (g : Keeps r₀ s) : KeepsR r₀ (gate s w r) := by
  unfold gate; exact KeepsR.ite (fun _ => h _ (keeps_barWake _ _ g)) (fun _ => KeepsR.next (keeps_refuseBar _ _ g))


theorem keeps_drawn {r₀ : State} (s : State) (n : Nat) (h₀ : Keeps r₀ s) : Keeps r₀ (drawn s n) := by
  unfold drawn
  try dsimp only
  repeat' first
    | with_reducible assumption
    | with_reducible apply Keeps.ite
    | simp only [Keeps.litEq]
    | intro _
    | split

theorem keeps_syncThrottle {r₀ : State} (was : Bool) (s : State) (h₀ : Keeps r₀ s) : Keeps r₀ (syncThrottle was s) := by
  unfold syncThrottle
  try dsimp only
  repeat' first
    | with_reducible assumption
    | with_reducible apply keeps_setFld
    | with_reducible apply Keeps.ite
    | simp only [Keeps.litEq]
    | intro _
    | split

end Sys2Proof.Machine
end

