-- ==== Sys2Proof/Laws/Keeps/Frame.lean ====
section
/-! SUPPORT. What each operation of Machine/Frame.lean keeps: the queue and the invariant. -/

namespace Sys2Proof.Machine

theorem keeps_modPort {r₀ : State} (s : State) (n : Nat) (f : PortSt → PortSt) (h₀ : Keeps r₀ s) : Keeps r₀ (modPort s n f) := by
  unfold modPort
  try dsimp only
  repeat' first
    | with_reducible assumption
    | with_reducible apply Keeps.ite
    | simp only [Keeps.litEq]
    | intro _
    | split

theorem keeps_emit {r₀ : State} (s : State) (n : Nat) (b : Bytes) (h₀ : Keeps r₀ s) : Keeps r₀ (emit s n b) := by
  unfold emit
  try dsimp only
  repeat' first
    | with_reducible assumption
    | with_reducible apply Keeps.ite
    | simp only [Keeps.litEq]
    | intro _
    | split

theorem keeps_queueCtl {r₀ : State} (s : State) (n flags : Nat) (payload : Bytes) (h₀ : Keeps r₀ s) : Keeps r₀ (queueCtl s n flags payload) := by
  unfold queueCtl
  try dsimp only
  repeat' first
    | with_reducible assumption
    | with_reducible apply keeps_modPort
    | with_reducible apply Keeps.ite
    | simp only [Keeps.litEq]
    | intro _
    | split

theorem keeps_queueAck {r₀ : State} (s : State) (n : Nat) (inner : Bytes) (h₀ : Keeps r₀ s) : Keeps r₀ (queueAck s n inner) := by
  unfold queueAck
  try dsimp only
  repeat' first
    | with_reducible assumption
    | with_reducible apply keeps_modPort
    | with_reducible apply Keeps.ite
    | simp only [Keeps.litEq]
    | intro _
    | split

theorem keeps_queueLocal {r₀ : State} (s : State) (n : Nat) (inner : Bytes) (h₀ : Keeps r₀ s) : Keeps r₀ (queueLocal s n inner) := by
  unfold queueLocal
  try dsimp only
  repeat' first
    | with_reducible assumption
    | with_reducible apply keeps_modPort
    | with_reducible apply Keeps.ite
    | simp only [Keeps.litEq]
    | intro _
    | split

theorem keeps_sendPacket {r₀ : State} (s : State) (n : Nat) (inner : Bytes) (h₀ : Keeps r₀ s) : Keeps r₀ (sendPacket s n inner) := by
  unfold sendPacket
  try dsimp only
  repeat' first
    | with_reducible assumption
    | with_reducible apply keeps_modPort
    | with_reducible apply keeps_emit
    | with_reducible apply Keeps.ite
    | simp only [Keeps.litEq]
    | intro _
    | split

theorem keeps_routeBody {r₀ : State} (s : State) (d : Nat) (group : Option Nat) (node dscp flow sidx : Nat) (ack : Bool) (body : Bytes) (h₀ : Keeps r₀ s) : Keeps r₀ (routeBody s d group node dscp flow sidx ack body) := by
  unfold routeBody
  try dsimp only
  repeat' first
    | with_reducible assumption
    | with_reducible apply keeps_satFld
    | with_reducible apply keeps_queueAck
    | with_reducible apply keeps_queueLocal
    | with_reducible apply Keeps.ite
    | simp only [Keeps.litEq]
    | intro _
    | split

theorem keeps_clearRoutes {r₀ : State} (s : State) (n : Nat) (h₀ : Keeps r₀ s) : Keeps r₀ (clearRoutes s n) := by
  unfold clearRoutes
  try dsimp only
  repeat' first
    | with_reducible assumption
    | with_reducible apply keeps_setFld
    | with_reducible apply Keeps.ite
    | simp only [Keeps.litEq]
    | intro _
    | split

end Sys2Proof.Machine
end

