-- ==== Sys2Proof/Laws/Keeps/StreamTx.lean ====
section
/-! SUPPORT. What each operation of Machine/StreamTx.lean keeps: the queue and the invariant. -/

namespace Sys2Proof.Machine

theorem keeps_modStream {r₀ : State} (s : State) (x : Nat) (f : Stream → Stream) (h₀ : Keeps r₀ s) : Keeps r₀ (modStream s x f) := by
  unfold modStream
  try dsimp only
  repeat' first
    | with_reducible assumption
    | with_reducible apply Keeps.ite
    | simp only [Keeps.litEq]
    | intro _
    | split

theorem keeps_sendOn {r₀ : State} (s : State) (x : Nat) (type flags : Nat) (payload : Bytes) (h₀ : Keeps r₀ s) : Keeps r₀ (sendOn s x type flags payload) := by
  unfold sendOn
  try dsimp only
  repeat' first
    | with_reducible assumption
    | with_reducible apply keeps_routeBody
    | with_reducible apply keeps_modStream
    | with_reducible apply Keeps.ite
    | simp only [Keeps.litEq]
    | intro _
    | split

theorem keeps_frameGone {r₀ : State} (s : State) (x : Nat) (f : TxFrame) (h₀ : Keeps r₀ s) : Keeps r₀ (frameGone s x f) := by
  unfold frameGone
  try dsimp only
  repeat' first
    | with_reducible assumption
    | with_reducible apply keeps_modStream
    | with_reducible apply Keeps.ite
    | simp only [Keeps.litEq]
    | intro _
    | split

theorem keeps_queueFrames {r₀ : State} (s : State) (x : Nat) (fs : List TxFrame) (h₀ : Keeps r₀ s) : Keeps r₀ (queueFrames s x fs) := by
  unfold queueFrames
  try dsimp only
  repeat' first
    | with_reducible assumption
    | with_reducible apply keeps_modStream
    | with_reducible apply Keeps.ite
    | simp only [Keeps.litEq]
    | intro _
    | split

theorem keeps_localNext {r₀ : State} (s : State) (n : Nat) (t : State) (b : Bytes) (h₀ : Keeps r₀ s) (e : localNext s n = some (t, b)) : Keeps r₀ t := by
  unfold localNext at e
  dsimp only at e
  repeat' first
    | with_reducible assumption
    | (cases e; done)
    | (cases e)
    | with_reducible apply keeps_modPort
    | with_reducible apply keeps_frameGone
    | with_reducible apply keeps_hbmUse
    | split at e


theorem keeps_dataCycle {r₀ : State} (s : State) (n : Nat) (h₀ : Keeps r₀ s) : Keeps r₀ (dataCycle s n) := by
  unfold dataCycle
  try dsimp only
  repeat' first
    | with_reducible assumption
    | with_reducible apply keeps_modPort
    | with_reducible apply keeps_sendPacket
    | with_reducible apply keeps_localNext _ _ _ _ ?_ (by assumption)
    | with_reducible apply Keeps.ite
    | simp only [Keeps.litEq]
    | intro _
    | split

theorem keeps_portCycle {r₀ : State} (s : State) (n : Nat) (h₀ : Keeps r₀ s) : Keeps r₀ (portCycle s n) := by
  unfold portCycle
  try dsimp only
  repeat' first
    | with_reducible assumption
    | with_reducible apply keeps_modPort
    | with_reducible apply keeps_emit
    | with_reducible apply keeps_sendPacket
    | with_reducible apply keeps_dataCycle
    | with_reducible apply Keeps.ite
    | simp only [Keeps.litEq]
    | intro _
    | split

theorem keeps_noRoute {r₀ : State} (s : State) (e : Nat × Stream) (h₀ : Keeps r₀ s) : Keeps r₀ (noRoute s e) := by
  unfold noRoute
  try dsimp only
  repeat' first
    | with_reducible assumption
    | with_reducible apply keeps_satFld
    | with_reducible apply keeps_frameGone
    | with_reducible apply Keeps.ite
    | simp only [Keeps.litEq]
    | intro _
    | split

theorem keeps_portsCycle {r₀ : State} (s : State) (h₀ : Keeps r₀ s) : Keeps r₀ (portsCycle s) := by
  unfold portsCycle
  try dsimp only
  repeat' first
    | with_reducible assumption
    | with_reducible apply keeps_portCycle
    | with_reducible apply keeps_noRoute
    | with_reducible apply Keeps.foldl
    | with_reducible apply Keeps.foldl1
    | with_reducible apply Keeps.ite
    | intro _
    | split

theorem keeps_closeStream {r₀ : State} (s : State) (x : Nat) (h₀ : Keeps r₀ s) : Keeps r₀ (closeStream s x) := by
  unfold closeStream
  try dsimp only
  repeat' first
    | with_reducible assumption
    | with_reducible apply keeps_modStream
    | with_reducible apply keeps_queueFrames
    | with_reducible apply Keeps.ite
    | simp only [Keeps.litEq]
    | intro _
    | split

end Sys2Proof.Machine
end

