-- ==== Sys2Proof/Laws/Keeps/Ops.lean ====
section
/-! SUPPORT. What each operation of Machine/Ops.lean keeps: the queue and the invariant. -/

namespace Sys2Proof.Machine

theorem keeps_modPart {r₀ : State} (s : State) (p : Nat) (f : Part → Part) (h₀ : Keeps r₀ s) : Keeps r₀ (modPart s p f) := by
  unfold modPart
  try dsimp only
  repeat' first
    | with_reducible assumption
    | with_reducible apply Keeps.ite
    | simp only [Keeps.litEq]
    | intro _
    | split

theorem keeps_modCtx {r₀ : State} (s : State) (k : Nat) (f : Ctx → Ctx) (h₀ : Keeps r₀ s) : Keeps r₀ (modCtx s k f) := by
  unfold modCtx
  try dsimp only
  repeat' first
    | with_reducible assumption
    | with_reducible apply Keeps.ite
    | simp only [Keeps.litEq]
    | intro _
    | split

theorem keeps_setCtx {r₀ : State} (s : State) (k : Nat) (c : Ctx) (h₀ : Keeps r₀ s) : Keeps r₀ (setCtx s k c) := by
  unfold setCtx
  try dsimp only
  repeat' first
    | with_reducible assumption
    | with_reducible apply Keeps.ite
    | simp only [Keeps.litEq]
    | intro _
    | split

theorem keeps_modVc {r₀ : State} (s : State) (k v : Nat) (f : Vcore → Vcore) (h₀ : Keeps r₀ s) : Keeps r₀ (modVc s k v f) := by
  unfold modVc
  try dsimp only
  repeat' first
    | with_reducible assumption
    | with_reducible apply keeps_modCtx
    | with_reducible apply Keeps.ite
    | simp only [Keeps.litEq]
    | intro _
    | split

theorem keeps_modQp {r₀ : State} (s : State) (q : Nat) (f : Qp → Qp) (h₀ : Keeps r₀ s) : Keeps r₀ (modQp s q f) := by
  unfold modQp
  try dsimp only
  repeat' first
    | with_reducible assumption
    | with_reducible apply Keeps.ite
    | simp only [Keeps.litEq]
    | intro _
    | split

theorem keeps_complete {r₀ : State} (s : State) (q : Nat) (c : Compl) (man : Option Nat) (h₀ : Keeps r₀ s) : Keeps r₀ (complete s q c man) := by
  unfold complete
  try dsimp only
  repeat' first
    | with_reducible assumption
    | with_reducible apply keeps_modQp
    | with_reducible apply Keeps.ite
    | simp only [Keeps.litEq]
    | intro _
    | split

theorem keeps_finishMan {r₀ : State} (s : State) (q seq status : Nat) (result : Bytes) (h₀ : Keeps r₀ s) : Keeps r₀ (finishMan s q seq status result) := by
  unfold finishMan
  try dsimp only
  repeat' first
    | with_reducible assumption
    | with_reducible apply keeps_modQp
    | with_reducible apply keeps_complete
    | with_reducible apply Keeps.ite
    | simp only [Keeps.litEq]
    | intro _
    | split

theorem keeps_endStreams {r₀ : State} (s : State) (k : Nat) (failed : Bool) (h₀ : Keeps r₀ s) : Keeps r₀ (endStreams s k failed) := by
  unfold endStreams
  try dsimp only
  repeat' first
    | with_reducible assumption
    | with_reducible apply keeps_modStream
    | with_reducible apply keeps_closeStream
    | with_reducible apply Keeps.foldl
    | with_reducible apply Keeps.foldl1
    | with_reducible apply Keeps.ite
    | simp only [Keeps.litEq]
    | intro _
    | split

theorem keeps_dropSeal {r₀ : State} (s : State) (p : Nat) (h₀ : Keeps r₀ s) : Keeps r₀ (dropSeal s p) := by
  unfold dropSeal
  try dsimp only
  repeat' first
    | with_reducible assumption
    | with_reducible apply keeps_setFld
    | with_reducible apply keeps_finishMan
    | with_reducible apply Keeps.foldl
    | with_reducible apply Keeps.foldl1
    | with_reducible apply Keeps.ite
    | simp only [Keeps.litEq]
    | intro _
    | split

theorem keeps_endMans {r₀ : State} (s : State) (c : Ctx) (status : Nat) (h₀ : Keeps r₀ s) : Keeps r₀ (endMans s c status) := by
  unfold endMans
  try dsimp only
  repeat' first
    | with_reducible assumption
    | with_reducible apply keeps_finishMan
    | with_reducible apply Keeps.ite
    | simp only [Keeps.litEq]
    | intro _
    | split

theorem keeps_freeBells {r₀ : State} (s : State) (k : Nat) (h₀ : Keeps r₀ s) : Keeps r₀ (freeBells s k) := by
  unfold freeBells
  try dsimp only
  repeat' first
    | with_reducible assumption
    | with_reducible apply keeps_setFld
    | with_reducible apply Keeps.foldl
    | with_reducible apply Keeps.foldl1
    | with_reducible apply Keeps.ite
    | simp only [Keeps.litEq]
    | intro _
    | split

theorem keeps_endCtx {r₀ : State} (s : State) (k status : Nat) (h₀ : Keeps r₀ s) : Keeps r₀ (endCtx s k status) := by
  unfold endCtx
  try dsimp only
  repeat' first
    | with_reducible assumption
    | with_reducible apply keeps_setFld
    | with_reducible apply keeps_modPart
    | with_reducible apply keeps_complete
    | with_reducible apply keeps_endStreams
    | with_reducible apply keeps_dropSeal
    | with_reducible apply keeps_endMans
    | with_reducible apply keeps_freeBells
    | with_reducible apply keeps_letIn
    | with_reducible apply Keeps.ite
    | simp only [Keeps.litEq]
    | intro _
    | split

end Sys2Proof.Machine
end

