-- ==== Sys2Proof/Laws/Keeps/Compl.lean ====
section
/-! SUPPORT. What each operation of Machine/Compl.lean keeps: the queue and the invariant. -/

namespace Sys2Proof.Machine

theorem keeps_writeBody {r₀ : State} (s : State) (q t : Nat) (l : List Bytes) (h₀ : Keeps r₀ s) : Keeps r₀ (writeBody s q t l) := by
  induction l generalizing s t with
  | nil => exact h₀
  | cons b r ih => exact ih _ _ (keeps_hostWrite _ _ h₀)


theorem keeps_announce {r₀ : State} (s : State) (q : Nat) (h₀ : Keeps r₀ s) : Keeps r₀ (announce s q) := by
  unfold announce
  try dsimp only
  repeat' first
    | with_reducible assumption
    | with_reducible apply keeps_sendMsix
    | with_reducible apply keeps_modQp
    | with_reducible apply Keeps.ite
    | simp only [Keeps.litEq]
    | intro _
    | split

theorem keeps_writeCompl {r₀ : State} (s : State) (q : Nat) (c : Compl) (h₀ : Keeps r₀ s) : Keeps r₀ (writeCompl s q c) := by
  unfold writeCompl
  try dsimp only
  repeat' first
    | with_reducible assumption
    | with_reducible apply keeps_hostWrite
    | with_reducible apply keeps_modQp
    | with_reducible apply keeps_writeBody
    | with_reducible apply keeps_announce
    | with_reducible apply Keeps.ite
    | simp only [Keeps.litEq]
    | intro _
    | split

theorem keeps_countJob {r₀ : State} (s : State) (q : Nat) (c : Compl) (h₀ : Keeps r₀ s) : Keeps r₀ (countJob s q c) := by
  unfold countJob
  try dsimp only
  repeat' first
    | with_reducible assumption
    | with_reducible apply keeps_satFld
    | with_reducible apply Keeps.ite
    | intro _
    | split

theorem keeps_writeNext {r₀ : State} (s : State) (q : Nat) (h₀ : Keeps r₀ s) : Keeps r₀ (writeNext s q) := by
  unfold writeNext
  try dsimp only
  repeat' first
    | with_reducible assumption
    | with_reducible apply keeps_modQp
    | with_reducible apply keeps_writeCompl
    | with_reducible apply keeps_countJob
    | with_reducible apply Keeps.ite
    | simp only [Keeps.litEq]
    | intro _
    | split

theorem keeps_flushQp {r₀ : State} (n : Nat) (s : State) (q : Nat) (h₀ : Keeps r₀ s) : Keeps r₀ (flushQp n s q) := by
  induction n generalizing s with
  | zero => exact h₀
  | succ n ih => exact ih _ (keeps_writeNext s q h₀)


end Sys2Proof.Machine
end

