-- ==== Sys2Proof/Laws/Keeps/Ledger.lean ====
section
/-! SUPPORT. What each operation of Machine/Ledger.lean keeps: the queue and the invariant. -/

namespace Sys2Proof.Machine

theorem keeps_modRec {r₀ : State} (s : State) (k : Nat) (f : LRec → LRec) (h₀ : Keeps r₀ s) : Keeps r₀ (modRec s k f) := by
  unfold modRec
  try dsimp only
  repeat' first
    | with_reducible assumption
    | with_reducible apply keeps_modCtx
    | with_reducible apply Keeps.ite
    | simp only [Keeps.litEq]
    | intro _
    | split

theorem keeps_recFlag {r₀ : State} (s : State) (k b : Nat) (h₀ : Keeps r₀ s) : Keeps r₀ (recFlag s k b) := by
  unfold recFlag
  try dsimp only
  repeat' first
    | with_reducible assumption
    | with_reducible apply keeps_modRec
    | with_reducible apply Keeps.ite
    | simp only [Keeps.litEq]
    | intro _
    | split

theorem keeps_recLayer {r₀ : State} (s : State) (k layer shard w g o : Nat) (h₀ : Keeps r₀ s) : Keeps r₀ (recLayer s k layer shard w g o) := by
  unfold recLayer
  try dsimp only
  repeat' first
    | with_reducible assumption
    | with_reducible apply keeps_modRec
    | with_reducible apply Keeps.ite
    | simp only [Keeps.litEq]
    | intro _
    | split

theorem keeps_recVar {r₀ : State} (s : State) (k cls engine v layer frame dig : Nat) (h₀ : Keeps r₀ s) : Keeps r₀ (recVar s k cls engine v layer frame dig) := by
  unfold recVar
  try dsimp only
  repeat' first
    | with_reducible assumption
    | with_reducible apply keeps_modRec
    | with_reducible apply keeps_recFlag
    | with_reducible apply Keeps.ite
    | simp only [Keeps.litEq]
    | intro _
    | split

theorem keeps_closeRec {r₀ : State} (s : State) (k : Nat) (faulted live : Bool) (h₀ : Keeps r₀ s) : Keeps r₀ (closeRec s k faulted live) := by
  unfold closeRec
  try dsimp only
  repeat' first
    | with_reducible assumption
    | with_reducible apply keeps_modPart
    | with_reducible apply keeps_setCtx
    | with_reducible apply Keeps.ite
    | simp only [Keeps.litEq]
    | intro _
    | split

theorem keeps_openRec {r₀ : State} (s : State) (k : Nat) (h₀ : Keeps r₀ s) : Keeps r₀ (openRec s k) := by
  unfold openRec
  try dsimp only
  repeat' first
    | with_reducible assumption
    | with_reducible apply keeps_modCtx
    | with_reducible apply Keeps.ite
    | simp only [Keeps.litEq]
    | intro _
    | split

theorem keeps_syncPtr {r₀ : State} (s : State) (p : Nat) (h₀ : Keeps r₀ s) : Keeps r₀ (syncPtr s p) := by
  unfold syncPtr
  try dsimp only
  repeat' first
    | with_reducible assumption
    | with_reducible apply keeps_setFld
    | with_reducible apply Keeps.ite
    | simp only [Keeps.litEq]
    | intro _
    | split

theorem keeps_ringPut {r₀ : State} (s : State) (p : Nat) (h₀ : Keeps r₀ s) : Keeps r₀ (ringPut s p) := by
  unfold ringPut
  try dsimp only
  repeat' first
    | with_reducible assumption
    | with_reducible apply keeps_setFld
    | with_reducible apply keeps_devWrite
    | with_reducible apply keeps_modPart
    | with_reducible apply keeps_syncPtr
    | with_reducible apply Keeps.ite
    | simp only [Keeps.litEq]
    | intro _
    | split

theorem keeps_endBackpressure {r₀ : State} (s : State) (p : Nat) (h₀ : Keeps r₀ s) : Keeps r₀ (endBackpressure s p) := by
  unfold endBackpressure
  try dsimp only
  repeat' first
    | with_reducible assumption
    | with_reducible apply keeps_setFld
    | with_reducible apply keeps_modPart
    | with_reducible apply Keeps.ite
    | simp only [Keeps.litEq]
    | intro _
    | split

end Sys2Proof.Machine
end

