-- ==== Sys2Proof/Laws/Keeps/Faults.lean ====
section
/-! SUPPORT. What each operation of Machine/Faults.lean keeps: the queue and the invariant. -/

namespace Sys2Proof.Machine

theorem keeps_noteWayErr {r₀ : State} (s : State) (c : Ctx) (pr : Prob) (h₀ : Keeps r₀ s) : Keeps r₀ (noteWayErr s c pr) := by
  unfold noteWayErr
  try dsimp only
  repeat' first
    | with_reducible assumption
    | with_reducible apply keeps_orReg
    | with_reducible apply Keeps.ite
    | simp only [Keeps.litEq]
    | intro _
    | split

theorem keeps_faultCtx {r₀ : State} (s : State) (k : Nat) (probs : List Prob) (extra : List Compl) (h₀ : Keeps r₀ s) : Keeps r₀ (faultCtx s k probs extra) := by
  unfold faultCtx
  try dsimp only
  repeat' first
    | with_reducible assumption
    | with_reducible apply keeps_modCtx
    | with_reducible apply Keeps.ite
    | simp only [Keeps.litEq]
    | intro _
    | split

theorem keeps_bookFault {r₀ : State} (s : State) (k : Nat) (c : Ctx) (h₀ : Keeps r₀ s) : Keeps r₀ (bookFault s k c) := by
  unfold bookFault
  try dsimp only
  repeat' first
    | with_reducible assumption
    | with_reducible apply keeps_modPart
    | with_reducible apply keeps_modRec
    | with_reducible apply Keeps.ite
    | simp only [Keeps.litEq]
    | intro _
    | split

theorem keeps_bookFrame {r₀ : State} (s : State) (k : Nat) (c : Ctx) (live : Bool) (h₀ : Keeps r₀ s) : Keeps r₀ (bookFrame s k c live) := by
  unfold bookFrame
  try dsimp only
  repeat' first
    | with_reducible assumption
    | with_reducible apply keeps_modPart
    | with_reducible apply keeps_modRec
    | with_reducible apply keeps_closeRec
    | with_reducible apply Keeps.ite
    | simp only [Keeps.litEq]
    | intro _
    | split

theorem keeps_settleFault {r₀ : State} (s : State) (k : Nat) (c : Ctx) (h₀ : Keeps r₀ s) : Keeps r₀ (settleFault s k c) := by
  unfold settleFault
  try dsimp only
  repeat' first
    | with_reducible assumption
    | with_reducible apply keeps_complete
    | with_reducible apply keeps_endCtx
    | with_reducible apply keeps_closeRec
    | with_reducible apply keeps_noteWayErr
    | with_reducible apply keeps_bookFault
    | with_reducible apply Keeps.foldl
    | with_reducible apply Keeps.foldl1
    | with_reducible apply Keeps.ite
    | intro _
    | split

theorem keeps_settleFaults {r₀ : State} (s : State) (h₀ : Keeps r₀ s) : Keeps r₀ (settleFaults s) := by
  unfold settleFaults
  try dsimp only
  repeat' first
    | with_reducible assumption
    | with_reducible apply keeps_settleFault
    | with_reducible apply Keeps.foldl
    | with_reducible apply Keeps.foldl1
    | with_reducible apply Keeps.ite
    | simp only [Keeps.litEq]
    | intro _
    | split

theorem keeps_fault1 {r₀ : State} (s : State) (k : Nat) (pr : Prob) (h₀ : Keeps r₀ s) : Keeps r₀ (fault1 s k pr) := by
  unfold fault1
  try dsimp only
  repeat' first
    | with_reducible assumption
    | with_reducible apply keeps_faultCtx
    | with_reducible apply Keeps.ite
    | intro _
    | split

theorem keeps_onVcore {r₀ s : State} {p v : Nat} {f : Nat → Ctx → Vcore → State} (h : ∀ k c vc, Keeps r₀ (f k c vc)) (g : Keeps r₀ s) : Keeps r₀ (onVcore s p v f) := by
  unfold onVcore
  repeat' first | with_reducible assumption | apply h | split


theorem keeps_onGate {r₀ s : State} {p v : Nat} {f : Nat → Ctx → Vcore → State} (h : ∀ k c vc, Keeps r₀ (f k c vc)) (g : Keeps r₀ s) : Keeps r₀ (onGate s p v f) :=
  Keeps.ite (fun _ => g) (fun _ => keeps_onVcore h g)


theorem keeps_onEngine {r₀ s : State} {p v q o : Nat} {f : Nat → Ctx → Vcore → State} (h : ∀ k c vc, Keeps r₀ (f k c vc)) (g : Keeps r₀ s) : Keeps r₀ (onEngine s p v q o f) :=
  keeps_onGate (fun _ _ _ => Keeps.ite (fun _ => h _ _ _) (fun _ => g)) g


theorem keeps_onCru {r₀ s : State} {p : Nat} {f : Nat → Ctx → State} (h : ∀ k c, Keeps r₀ (f k c)) (g : Keeps r₀ s) : Keeps r₀ (onCru s p f) := by
  unfold onCru
  repeat' first | with_reducible assumption | apply h | split


end Sys2Proof.Machine
end

