-- ==== Sys2Proof/Laws/Keeps/Hold.lean ====
section
/-! SUPPORT. What each operation of Machine/Hold.lean keeps: the queue and the invariant. -/

namespace Sys2Proof.Machine

theorem keeps_countHold {r₀ : State} (s : State) (cause : Nat) (h₀ : Keeps r₀ s) : Keeps r₀ (countHold s cause) := by
  unfold countHold
  try dsimp only
  repeat' first
    | with_reducible assumption
    | with_reducible apply keeps_setReg
    | with_reducible apply keeps_modRec
    | with_reducible apply Keeps.foldl
    | with_reducible apply Keeps.foldl1
    | with_reducible apply Keeps.ite
    | simp only [Keeps.litEq]
    | intro _
    | split

theorem keeps_gateEval {r₀ : State} (s : State) (h₀ : Keeps r₀ s) : Keeps r₀ (gateEval s) := by
  unfold gateEval
  try dsimp only
  repeat' first
    | with_reducible assumption
    | with_reducible apply keeps_gate
    | with_reducible apply Keeps.ite
    | simp only [Keeps.litEq]
    | intro _
    | split

theorem keeps_raiseHold {r₀ : State} (s : State) (unit term cause obj : Nat) (ctx : Option Nat) (u tol : Nat) (endAt : Option Nat) (h₀ : Keeps r₀ s) : Keeps r₀ (raiseHold s unit term cause obj ctx u tol endAt) := by
  unfold raiseHold
  try dsimp only
  repeat' first
    | with_reducible assumption
    | with_reducible apply keeps_modCtx
    | with_reducible apply Keeps.ite
    | simp only [Keeps.litEq]
    | intro _
    | split

theorem keeps_returnHolds {r₀ : State} (s : State) (f : Hold → Bool) (h₀ : Keeps r₀ s) : Keeps r₀ (returnHolds s f) := by
  unfold returnHolds
  try dsimp only
  repeat' first
    | with_reducible assumption
    | with_reducible apply Keeps.ite
    | simp only [Keeps.litEq]
    | intro _
    | split

theorem keeps_execHoldGateClose {r₀ : State} (s : State) (h₀ : Keeps r₀ s) : KeepsR r₀ (execHoldGateClose s) := by
  unfold execHoldGateClose
  try dsimp only
  repeat' first
    | with_reducible assumption
    | with_reducible apply KeepsR.fault
    | with_reducible apply KeepsR.next
    | with_reducible apply keeps_gateEval
    | with_reducible apply Keeps.ite
    | with_reducible apply KeepsR.ite
    | intro _
    | split

theorem keeps_execHoldGateOpen {r₀ : State} (s : State) (h₀ : Keeps r₀ s) : KeepsR r₀ (execHoldGateOpen s) := by
  unfold execHoldGateOpen
  try dsimp only
  repeat' first
    | with_reducible assumption
    | with_reducible apply KeepsR.fault
    | with_reducible apply KeepsR.next
    | with_reducible apply keeps_gateEval
    | with_reducible apply Keeps.ite
    | with_reducible apply KeepsR.ite
    | intro _
    | split

theorem keeps_execHoldTolFault {r₀ : State} (id : Nat) (s : State) (h₀ : Keeps r₀ s) : KeepsR r₀ (execHoldTolFault id s) := by
  unfold execHoldTolFault
  try dsimp only
  repeat' first
    | with_reducible assumption
    | with_reducible apply KeepsR.fault
    | with_reducible apply KeepsR.next
    | with_reducible apply keeps_fault1
    | with_reducible apply Keeps.ite
    | with_reducible apply KeepsR.ite
    | simp only [Keeps.litEq]
    | intro _
    | split

theorem keeps_heldCycle {r₀ : State} (s : State) (h₀ : Keeps r₀ s) : Keeps r₀ (heldCycle s) := by
  unfold heldCycle
  try dsimp only
  repeat' first
    | with_reducible assumption
    | with_reducible apply keeps_setReg
    | with_reducible apply keeps_modRec
    | with_reducible apply keeps_countHold
    | with_reducible apply Keeps.foldl
    | with_reducible apply Keeps.foldl1
    | with_reducible apply Keeps.ite
    | simp only [Keeps.litEq]
    | intro _
    | split

end Sys2Proof.Machine
end

