-- ==== Sys2Proof/Laws/Keeps/Tally.lean ====
section
/-! SUPPORT. What each operation of Machine/Tally.lean keeps: the queue and the invariant. -/

namespace Sys2Proof.Machine

theorem keeps_syncTstore {r₀ : State} (s : State) (cl : Nat) (h₀ : Keeps r₀ s) : Keeps r₀ (syncTstore s cl) := by
  unfold syncTstore
  try dsimp only
  repeat' first
    | with_reducible assumption
    | with_reducible apply keeps_setFld
    | with_reducible apply Keeps.ite
    | intro _
    | split

theorem keeps_tallyFlags {r₀ : State} (s : State) (k cl f : Nat) (h₀ : Keeps r₀ s) : Keeps r₀ (tallyFlags s k cl f) := by
  unfold tallyFlags
  try dsimp only
  repeat' first
    | with_reducible assumption
    | with_reducible apply keeps_orReg
    | with_reducible apply keeps_modCtx
    | with_reducible apply Keeps.ite
    | simp only [Keeps.litEq]
    | intro _
    | split

theorem keeps_putSum {r₀ : State} (s : State) (k cl tag : Nat) (x : TSum) (h₀ : Keeps r₀ s) : Keeps r₀ (putSum s k cl tag x) := by
  unfold putSum
  try dsimp only
  repeat' first
    | with_reducible assumption
    | with_reducible apply keeps_modCtx
    | with_reducible apply Keeps.ite
    | simp only [Keeps.litEq]
    | intro _
    | split

theorem keeps_modSum {r₀ : State} (s : State) (k cl tag : Nat) (f : TSum → TSum) (h₀ : Keeps r₀ s) : Keeps r₀ (modSum s k cl tag f) := by
  unfold modSum
  try dsimp only
  repeat' first
    | with_reducible assumption
    | with_reducible apply keeps_modCtx
    | with_reducible apply Keeps.ite
    | simp only [Keeps.litEq]
    | intro _
    | split

theorem keeps_finalBytes {r₀ : State} (s : State) (k : Nat) (d : TallyDesc) (own : Nat) (bytes : Tbl Nat) (cnt : Nat) (h₀ : Keeps r₀ s) : Keeps r₀ (finalBytes s k d own bytes cnt) := by
  unfold finalBytes
  try dsimp only
  repeat' first
    | with_reducible assumption
    | with_reducible apply keeps_fault1
    | with_reducible apply keeps_modSum
    | with_reducible apply Keeps.foldl
    | with_reducible apply Keeps.foldl1
    | with_reducible apply Keeps.ite
    | simp only [Keeps.litEq]
    | intro _
    | split

theorem keeps_doAddend {r₀ : State} (s : State) (k : Nat) (c : Ctx) (i : Nat) (h₀ : Keeps r₀ s) : Keeps r₀ (doAddend s k c i) := by
  unfold doAddend
  try dsimp only
  repeat' first
    | with_reducible assumption
    | with_reducible apply keeps_modCtx
    | with_reducible apply keeps_fault1
    | with_reducible apply keeps_syncTstore
    | with_reducible apply keeps_tallyFlags
    | with_reducible apply keeps_putSum
    | with_reducible apply keeps_finalBytes
    | with_reducible apply Keeps.ite
    | simp only [Keeps.litEq]
    | intro _
    | split

theorem keeps_execTallyAddend {r₀ : State} (p : Fin 8) (i : Nat) (s : State) (h₀ : Keeps r₀ s) : KeepsR r₀ (execTallyAddend p i s) := by
  unfold execTallyAddend
  try dsimp only
  repeat' first
    | with_reducible assumption
    | with_reducible apply KeepsR.fault
    | with_reducible apply KeepsR.next
    | with_reducible apply keeps_onCru
    | with_reducible apply keeps_doAddend
    | with_reducible apply Keeps.ite
    | with_reducible apply KeepsR.ite
    | intro _
    | split

theorem keeps_peakTstore {r₀ : State} (s : State) (cl extra : Nat) (h₀ : Keeps r₀ s) : Keeps r₀ (peakTstore s cl extra) := by
  unfold peakTstore
  try dsimp only
  repeat' first
    | with_reducible assumption
    | with_reducible apply keeps_setFld
    | with_reducible apply Keeps.ite
    | intro _
    | split

theorem keeps_doQuantise {r₀ : State} (s : State) (k : Nat) (c : Ctx) (cl tag : Nat) (h₀ : Keeps r₀ s) : Keeps r₀ (doQuantise s k c cl tag) := by
  unfold doQuantise
  try dsimp only
  repeat' first
    | with_reducible assumption
    | with_reducible apply keeps_fault1
    | with_reducible apply keeps_syncTstore
    | with_reducible apply keeps_tallyFlags
    | with_reducible apply keeps_putSum
    | with_reducible apply keeps_peakTstore
    | with_reducible apply Keeps.foldl
    | with_reducible apply Keeps.foldl1
    | with_reducible apply Keeps.ite
    | simp only [Keeps.litEq]
    | intro _
    | split

theorem keeps_execTallyQuantise {r₀ : State} (p : Fin 8) (cl : Fin 12) (tag : BitVec 16) (s : State) (h₀ : Keeps r₀ s) : KeepsR r₀ (execTallyQuantise p cl tag s) := by
  unfold execTallyQuantise
  try dsimp only
  repeat' first
    | with_reducible assumption
    | with_reducible apply KeepsR.fault
    | with_reducible apply KeepsR.next
    | with_reducible apply keeps_onCru
    | with_reducible apply keeps_doQuantise
    | with_reducible apply Keeps.ite
    | with_reducible apply KeepsR.ite
    | intro _
    | split

theorem keeps_deliver {r₀ : State} (s : State) (k : Nat) (c : Ctx) (d : TallyDesc) (cl : Nat) (blocks : List (Nat × List (Nat × Bool))) (h₀ : Keeps r₀ s) : Keeps r₀ (deliver s k c d cl blocks) := by
  unfold deliver
  try dsimp only
  repeat' first
    | with_reducible assumption
    | with_reducible apply keeps_devSeg
    | with_reducible apply keeps_modCtx
    | with_reducible apply keeps_fault1
    | with_reducible apply Keeps.foldl
    | with_reducible apply Keeps.foldl1
    | with_reducible apply Keeps.ite
    | simp only [Keeps.litEq]
    | intro _
    | split

theorem keeps_freeSum {r₀ : State} (s : State) (k : Nat) (d : TallyDesc) (cl : Nat) (h₀ : Keeps r₀ s) : Keeps r₀ (freeSum s k d cl) := by
  unfold freeSum
  try dsimp only
  repeat' first
    | with_reducible assumption
    | with_reducible apply keeps_modCtx
    | with_reducible apply keeps_syncTstore
    | with_reducible apply Keeps.foldl
    | with_reducible apply Keeps.foldl1
    | with_reducible apply Keeps.ite
    | simp only [Keeps.litEq]
    | intro _
    | split

theorem keeps_doConvert {r₀ : State} (s : State) (k : Nat) (c : Ctx) (cl tag : Nat) (h₀ : Keeps r₀ s) : Keeps r₀ (doConvert s k c cl tag) := by
  unfold doConvert
  try dsimp only
  repeat' first
    | with_reducible assumption
    | with_reducible apply keeps_satFld
    | with_reducible apply keeps_tallyFlags
    | with_reducible apply keeps_deliver
    | with_reducible apply keeps_freeSum
    | with_reducible apply Keeps.foldl
    | with_reducible apply Keeps.foldl1
    | with_reducible apply Keeps.ite
    | simp only [Keeps.litEq]
    | intro _
    | split

theorem keeps_execTallyConvert {r₀ : State} (p : Fin 8) (cl : Fin 12) (tag : BitVec 16) (s : State) (h₀ : Keeps r₀ s) : KeepsR r₀ (execTallyConvert p cl tag s) := by
  unfold execTallyConvert
  try dsimp only
  repeat' first
    | with_reducible assumption
    | with_reducible apply KeepsR.fault
    | with_reducible apply KeepsR.next
    | with_reducible apply keeps_onCru
    | with_reducible apply keeps_doConvert
    | with_reducible apply Keeps.ite
    | with_reducible apply KeepsR.ite
    | intro _
    | split

end Sys2Proof.Machine
end

