-- ==== Sys2Proof/Laws/Keeps/Cte.lean ====
section
/-! SUPPORT. What each operation of Machine/Cte.lean keeps: the queue and the invariant. -/

namespace Sys2Proof.Machine

theorem keeps_cteFrames {r₀ : State} (s : State) (k d mode rank : Nat) (fs : List TxFrame) (h₀ : Keeps r₀ s) : Keeps r₀ (cteFrames s k d mode rank fs) := by
  unfold cteFrames
  try dsimp only
  repeat' first
    | with_reducible assumption
    | with_reducible apply keeps_queueFrames
    | with_reducible apply keeps_fault1
    | with_reducible apply Keeps.ite
    | simp only [Keeps.litEq]
    | intro _
    | split

theorem keeps_cteSend {r₀ : State} (s : State) (k rank kind : Nat) (b : Bytes) (h₀ : Keeps r₀ s) : Keeps r₀ (cteSend s k rank kind b) := by
  unfold cteSend
  try dsimp only
  repeat' first
    | with_reducible assumption
    | with_reducible apply keeps_cteFrames
    | with_reducible apply Keeps.ite
    | intro _
    | split

theorem keeps_cteSendAll {r₀ : State} (s : State) (k : Nat) (ranks : List Nat) (kind : Nat) (b : Bytes) (h₀ : Keeps r₀ s) : Keeps r₀ (cteSendAll s k ranks kind b) := by
  unfold cteSendAll
  try dsimp only
  repeat' first
    | with_reducible assumption
    | with_reducible apply keeps_cteSend
    | with_reducible apply Keeps.foldl
    | with_reducible apply Keeps.foldl1
    | with_reducible apply Keeps.ite
    | intro _
    | split

theorem keeps_sendMsgs {r₀ : State} (s : State) (k own mode : Nat) (ranks : List Nat) (ms : List Bytes) (h₀ : Keeps r₀ s) : Keeps r₀ (sendMsgs s k own mode ranks ms) := by
  unfold sendMsgs
  try dsimp only
  repeat' first
    | with_reducible assumption
    | with_reducible apply keeps_cteFrames
    | with_reducible apply Keeps.foldl
    | with_reducible apply Keeps.foldl1
    | with_reducible apply Keeps.ite
    | intro _
    | split

theorem keeps_finalInts {r₀ : State} (s : State) (k : Nat) (c : Ctx) (d : TallyDesc) (own : Nat) (blks : Tbl TBlk) (h₀ : Keeps r₀ s) : Keeps r₀ (finalInts s k c d own blks) := by
  unfold finalInts
  try dsimp only
  repeat' first
    | with_reducible assumption
    | with_reducible apply keeps_modSum
    | with_reducible apply Keeps.ite
    | simp only [Keeps.litEq]
    | intro _
    | split

theorem keeps_finalDown {r₀ : State} (s : State) (k : Nat) (d : TallyDesc) (own : Nat) (kids : List Nat) (bytes : Tbl Nat) (cnt : Nat) (h₀ : Keeps r₀ s) : Keeps r₀ (finalDown s k d own kids bytes cnt) := by
  unfold finalDown
  try dsimp only
  repeat' first
    | with_reducible assumption
    | with_reducible apply keeps_modCtx
    | with_reducible apply keeps_finalBytes
    | with_reducible apply Keeps.ite
    | simp only [Keeps.litEq]
    | intro _
    | split

theorem keeps_overLimits {r₀ : State} (s : State) (h₀ : Keeps r₀ s) : Keeps r₀ (overLimits s) := by
  unfold overLimits
  try dsimp only
  repeat' first
    | with_reducible assumption
    | with_reducible apply keeps_modCtx
    | with_reducible apply keeps_fault1
    | with_reducible apply Keeps.foldl
    | with_reducible apply Keeps.foldl1
    | with_reducible apply Keeps.ite
    | simp only [Keeps.litEq]
    | intro _
    | split

theorem keeps_tryExp {r₀ : State} (s : State) (k : Nat) (d : TallyDesc) (own : Nat) (h₀ : Keeps r₀ s) : Keeps r₀ (tryExp s k d own) := by
  unfold tryExp
  try dsimp only
  repeat' first
    | with_reducible assumption
    | with_reducible apply keeps_sendMsgs
    | with_reducible apply keeps_finalDown
    | with_reducible apply Keeps.ite
    | simp only [Keeps.litEq]
    | intro _
    | split

theorem keeps_blockStep {r₀ : State} (s : State) (k : Nat) (c : Ctx) (d : TallyDesc) (own b : Nat) (h₀ : Keeps r₀ s) : Keeps r₀ (blockStep s k c d own b) := by
  unfold blockStep
  try dsimp only
  repeat' first
    | with_reducible assumption
    | with_reducible apply keeps_modSum
    | with_reducible apply keeps_sendMsgs
    | with_reducible apply Keeps.ite
    | simp only [Keeps.litEq]
    | intro _
    | split

theorem keeps_intDone {r₀ : State} (s : State) (k : Nat) (d : TallyDesc) (own : Nat) (h₀ : Keeps r₀ s) : Keeps r₀ (intDone s k d own) := by
  unfold intDone
  try dsimp only
  repeat' first
    | with_reducible assumption
    | with_reducible apply keeps_finalInts
    | with_reducible apply Keeps.ite
    | simp only [Keeps.litEq]
    | intro _
    | split

theorem keeps_tryInt {r₀ : State} (s : State) (k : Nat) (d : TallyDesc) (own : Nat) (bs : List Nat) (h₀ : Keeps r₀ s) : Keeps r₀ (tryInt s k d own bs) := by
  unfold tryInt
  try dsimp only
  repeat' first
    | with_reducible assumption
    | with_reducible apply keeps_blockStep
    | with_reducible apply keeps_intDone
    | with_reducible apply Keeps.foldl
    | with_reducible apply Keeps.foldl1
    | with_reducible apply Keeps.ite
    | simp only [Keeps.litEq]
    | intro _
    | split

theorem keeps_cteFault {r₀ : State} (s : State) (k : Nat) (m : CteMsg) (h₀ : Keeps r₀ s) : Keeps r₀ (cteFault s k m) := by
  unfold cteFault
  try dsimp only
  repeat' first
    | with_reducible assumption
    | with_reducible apply keeps_fault1
    | with_reducible apply Keeps.ite
    | intro _
    | split

theorem keeps_keepEarly {r₀ : State} (s : State) (k port kind : Nat) (m : CteMsg) (h₀ : Keeps r₀ s) : Keeps r₀ (keepEarly s k port kind m) := by
  unfold keepEarly
  try dsimp only
  repeat' first
    | with_reducible assumption
    | with_reducible apply keeps_modCtx
    | with_reducible apply Keeps.ite
    | simp only [Keeps.litEq]
    | intro _
    | split

theorem keeps_onExpUp {r₀ : State} (s : State) (k port : Nat) (c : Ctx) (m : CteMsg) (h₀ : Keeps r₀ s) : Keeps r₀ (onExpUp s k port c m) := by
  unfold onExpUp
  try dsimp only
  repeat' first
    | with_reducible assumption
    | with_reducible apply keeps_fault1
    | with_reducible apply keeps_modSum
    | with_reducible apply keeps_tryExp
    | with_reducible apply keeps_cteFault
    | with_reducible apply keeps_keepEarly
    | with_reducible apply Keeps.ite
    | simp only [Keeps.litEq]
    | intro _
    | split

theorem keeps_onExpDown {r₀ : State} (s : State) (k : Nat) (c : Ctx) (m : CteMsg) (h₀ : Keeps r₀ s) : Keeps r₀ (onExpDown s k c m) := by
  unfold onExpDown
  try dsimp only
  repeat' first
    | with_reducible assumption
    | with_reducible apply keeps_fault1
    | with_reducible apply keeps_modSum
    | with_reducible apply keeps_sendMsgs
    | with_reducible apply keeps_finalDown
    | with_reducible apply keeps_cteFault
    | with_reducible apply Keeps.foldl
    | with_reducible apply Keeps.foldl1
    | with_reducible apply Keeps.ite
    | simp only [Keeps.litEq]
    | intro _
    | split

theorem keeps_onIntUp {r₀ : State} (s : State) (k port : Nat) (c : Ctx) (m : CteMsg) (h₀ : Keeps r₀ s) : Keeps r₀ (onIntUp s k port c m) := by
  unfold onIntUp
  try dsimp only
  repeat' first
    | with_reducible assumption
    | with_reducible apply keeps_modSum
    | with_reducible apply keeps_tryInt
    | with_reducible apply keeps_cteFault
    | with_reducible apply keeps_keepEarly
    | with_reducible apply Keeps.foldl
    | with_reducible apply Keeps.foldl1
    | with_reducible apply Keeps.ite
    | simp only [Keeps.litEq]
    | intro _
    | split

theorem keeps_onIntDown {r₀ : State} (s : State) (k : Nat) (c : Ctx) (m : CteMsg) (h₀ : Keeps r₀ s) : Keeps r₀ (onIntDown s k c m) := by
  unfold onIntDown
  try dsimp only
  repeat' first
    | with_reducible assumption
    | with_reducible apply keeps_modSum
    | with_reducible apply keeps_sendMsgs
    | with_reducible apply keeps_intDone
    | with_reducible apply keeps_cteFault
    | with_reducible apply Keeps.foldl
    | with_reducible apply Keeps.foldl1
    | with_reducible apply Keeps.ite
    | simp only [Keeps.litEq]
    | intro _
    | split

theorem keeps_drainEarly {r₀ : State} (s : State) (k kind tag : Nat) (h₀ : Keeps r₀ s) : Keeps r₀ (drainEarly s k kind tag) := by
  unfold drainEarly
  try dsimp only
  repeat' first
    | with_reducible assumption
    | with_reducible apply keeps_modCtx
    | with_reducible apply keeps_onExpUp
    | with_reducible apply keeps_onIntUp
    | with_reducible apply Keeps.foldl
    | with_reducible apply Keeps.foldl1
    | with_reducible apply Keeps.ite
    | simp only [Keeps.litEq]
    | intro _
    | split

theorem keeps_doExpRound {r₀ : State} (s : State) (k : Nat) (c : Ctx) (cl tag : Nat) (h₀ : Keeps r₀ s) : Keeps r₀ (doExpRound s k c cl tag) := by
  unfold doExpRound
  try dsimp only
  repeat' first
    | with_reducible assumption
    | with_reducible apply keeps_fault1
    | with_reducible apply keeps_putSum
    | with_reducible apply keeps_finalBytes
    | with_reducible apply keeps_tryExp
    | with_reducible apply keeps_drainEarly
    | with_reducible apply Keeps.ite
    | simp only [Keeps.litEq]
    | intro _
    | split

theorem keeps_doIntRound {r₀ : State} (s : State) (k : Nat) (c : Ctx) (cl tag : Nat) (h₀ : Keeps r₀ s) : Keeps r₀ (doIntRound s k c cl tag) := by
  unfold doIntRound
  try dsimp only
  repeat' first
    | with_reducible assumption
    | with_reducible apply keeps_fault1
    | with_reducible apply keeps_putSum
    | with_reducible apply keeps_finalInts
    | with_reducible apply keeps_tryInt
    | with_reducible apply keeps_drainEarly
    | with_reducible apply Keeps.foldl
    | with_reducible apply Keeps.foldl1
    | with_reducible apply Keeps.ite
    | simp only [Keeps.litEq]
    | intro _
    | split

theorem keeps_execTallyExponentRound {r₀ : State} (p : Fin 8) (cl : Fin 12) (tag : BitVec 16) (s : State) (h₀ : Keeps r₀ s) : KeepsR r₀ (execTallyExponentRound p cl tag s) := by
  unfold execTallyExponentRound
  try dsimp only
  repeat' first
    | with_reducible assumption
    | with_reducible apply KeepsR.fault
    | with_reducible apply KeepsR.next
    | with_reducible apply keeps_onCru
    | with_reducible apply keeps_doExpRound
    | with_reducible apply Keeps.ite
    | with_reducible apply KeepsR.ite
    | intro _
    | split

theorem keeps_execTallyIntegerRound {r₀ : State} (p : Fin 8) (cl : Fin 12) (tag : BitVec 16) (s : State) (h₀ : Keeps r₀ s) : KeepsR r₀ (execTallyIntegerRound p cl tag s) := by
  unfold execTallyIntegerRound
  try dsimp only
  repeat' first
    | with_reducible assumption
    | with_reducible apply KeepsR.fault
    | with_reducible apply KeepsR.next
    | with_reducible apply keeps_onCru
    | with_reducible apply keeps_doIntRound
    | with_reducible apply Keeps.ite
    | with_reducible apply KeepsR.ite
    | intro _
    | split

theorem keeps_doTgroup {r₀ : State} (s : State) (k : Nat) (c : Ctx) (vc : Vcore) (v o : Nat) (h₀ : Keeps r₀ s) : Keeps r₀ (doTgroup s k c vc v o) := by
  unfold doTgroup
  try dsimp only
  repeat' first
    | with_reducible assumption
    | with_reducible apply keeps_modCtx
    | with_reducible apply keeps_modVc
    | with_reducible apply keeps_fault1
    | with_reducible apply Keeps.ite
    | simp only [Keeps.litEq]
    | intro _
    | split

theorem keeps_execTgroup {r₀ : State} (p : Fin 8) (v : Fin 96) (op : BitVec 128) (s : State) (h₀ : Keeps r₀ s) : KeepsR r₀ (execTgroup p v op s) := by
  unfold execTgroup
  try dsimp only
  repeat' first
    | with_reducible assumption
    | with_reducible apply KeepsR.fault
    | with_reducible apply KeepsR.next
    | with_reducible apply keeps_onEngine
    | with_reducible apply keeps_doTgroup
    | with_reducible apply Keeps.ite
    | with_reducible apply KeepsR.ite
    | intro _
    | split

theorem keeps_cadencePair {r₀ : State} (s : State) (k : Nat) (c : Ctx) (kk nc : Nat) (h₀ : Keeps r₀ s) : Keeps r₀ (cadencePair s k c kk nc) := by
  unfold cadencePair
  try dsimp only
  repeat' first
    | with_reducible assumption
    | with_reducible apply keeps_modCtx
    | with_reducible apply keeps_cteSendAll
    | with_reducible apply Keeps.ite
    | simp only [Keeps.litEq]
    | intro _
    | split

theorem keeps_cadenceVote {r₀ : State} (s : State) (k : Nat) (h₀ : Keeps r₀ s) : Keeps r₀ (cadenceVote s k) := by
  unfold cadenceVote
  try dsimp only
  repeat' first
    | with_reducible assumption
    | with_reducible apply keeps_modCtx
    | with_reducible apply keeps_cteSend
    | with_reducible apply keeps_cadencePair
    | with_reducible apply Keeps.foldl
    | with_reducible apply Keeps.foldl1
    | with_reducible apply Keeps.ite
    | simp only [Keeps.litEq]
    | intro _
    | split

end Sys2Proof.Machine
end

