-- ==== Sys2Proof/Laws/Keeps/Echo.lean ====
section
/-! SUPPORT. What each operation of Machine/Echo.lean keeps: the queue and the invariant. -/

namespace Sys2Proof.Machine

theorem keeps_shortCluster {r₀ : State} (s : State) (cl : Nat) (h₀ : Keeps r₀ s) : Keeps r₀ (shortCluster s cl) := by
  unfold shortCluster
  try dsimp only
  repeat' first
    | with_reducible assumption
    | with_reducible apply keeps_fault1
    | with_reducible apply Keeps.foldl
    | with_reducible apply Keeps.foldl1
    | with_reducible apply Keeps.ite
    | simp only [Keeps.litEq]
    | intro _
    | split

theorem keeps_retire {r₀ : State} (s : State) (pc : Nat) (h₀ : Keeps r₀ s) : Keeps r₀ (retire s pc) := by
  unfold retire
  try dsimp only
  repeat' first
    | with_reducible assumption
    | with_reducible apply Keeps.ite
    | simp only [Keeps.litEq]
    | intro _
    | split

theorem keeps_resumePass {r₀ : State} (s : State) (pc since : Nat) (h₀ : Keeps r₀ s) : Keeps r₀ (resumePass s pc since) := by
  unfold resumePass
  try dsimp only
  repeat' first
    | with_reducible assumption
    | with_reducible apply Keeps.ite
    | simp only [Keeps.litEq]
    | intro _
    | split

theorem keeps_underProbe {r₀ : State} (s : State) (p pc : Nat) (h₀ : Keeps r₀ s) : Keeps r₀ (underProbe s p pc) := by
  unfold underProbe
  try dsimp only
  repeat' first
    | with_reducible assumption
    | with_reducible apply keeps_setFld
    | with_reducible apply Keeps.ite
    | intro _
    | split

theorem keeps_echoEnd {r₀ : State} (s : State) (pc r : Nat) (h₀ : Keeps r₀ s) : Keeps r₀ (echoEnd s pc r) := by
  unfold echoEnd
  try dsimp only
  repeat' first
    | with_reducible assumption
    | with_reducible apply keeps_resumePass
    | with_reducible apply keeps_underProbe
    | with_reducible apply Keeps.ite
    | simp only [Keeps.litEq]
    | intro _
    | split

theorem keeps_echoOpen {r₀ : State} (s : State) (k : Nat) (c : Ctx) (vc : Vcore) (v pc r : Nat) (h₀ : Keeps r₀ s) : Keeps r₀ (echoOpen s k c vc v pc r) := by
  unfold echoOpen
  try dsimp only
  repeat' first
    | with_reducible assumption
    | with_reducible apply keeps_setFld
    | with_reducible apply keeps_modVc
    | with_reducible apply keeps_echoEnd
    | with_reducible apply Keeps.ite
    | simp only [Keeps.litEq]
    | intro _
    | split

theorem keeps_echoBytes {r₀ : State} (s : State) (pc r : Nat) (b : Bytes) (h₀ : Keeps r₀ s) : Keeps r₀ (echoBytes s pc r b) := by
  unfold echoBytes
  try dsimp only
  repeat' first
    | with_reducible assumption
    | with_reducible apply keeps_devWrite
    | with_reducible apply Keeps.ite
    | simp only [Keeps.litEq]
    | intro _
    | split

theorem keeps_echoServe {r₀ : State} (s : State) (o : EchoOpening) (h₀ : Keeps r₀ s) : Keeps r₀ (echoServe s o) := by
  unfold echoServe
  try dsimp only
  repeat' first
    | with_reducible assumption
    | with_reducible apply keeps_satFld
    | with_reducible apply keeps_echoBytes
    | with_reducible apply Keeps.ite
    | simp only [Keeps.litEq]
    | intro _
    | split

theorem keeps_serveEchoes {r₀ : State} (s : State) (h₀ : Keeps r₀ s) : Keeps r₀ (serveEchoes s) := by
  unfold serveEchoes
  try dsimp only
  repeat' first
    | with_reducible assumption
    | with_reducible apply keeps_echoServe
    | with_reducible apply Keeps.foldl
    | with_reducible apply Keeps.foldl1
    | with_reducible apply Keeps.ite
    | simp only [Keeps.litEq]
    | intro _
    | split

theorem keeps_strike {r₀ : State} (s : State) (p pc : Nat) (h₀ : Keeps r₀ s) : Keeps r₀ (strike s p pc) := by
  unfold strike
  try dsimp only
  repeat' first
    | with_reducible assumption
    | with_reducible apply keeps_setFld
    | with_reducible apply keeps_retire
    | with_reducible apply keeps_underProbe
    | with_reducible apply Keeps.ite
    | simp only [Keeps.litEq]
    | intro _
    | split

theorem keeps_execEchoThirdRun {r₀ : State} (pc : Fin 108) (r3 : Option (BitVec 64)) (s : State) (h₀ : Keeps r₀ s) : KeepsR r₀ (execEchoThirdRun pc r3 s) := by
  unfold execEchoThirdRun
  try dsimp only
  repeat' first
    | with_reducible assumption
    | with_reducible apply KeepsR.fault
    | with_reducible apply KeepsR.next
    | with_reducible apply keeps_resumePass
    | with_reducible apply keeps_underProbe
    | with_reducible apply keeps_strike
    | with_reducible apply Keeps.ite
    | with_reducible apply KeepsR.ite
    | simp only [Keeps.litEq]
    | intro _
    | split

theorem keeps_marchOver {r₀ : State} (s : State) (pc : Nat) (h₀ : Keeps r₀ s) : Keeps r₀ (marchOver s pc) := by
  unfold marchOver
  try dsimp only
  repeat' first
    | with_reducible assumption
    | with_reducible apply keeps_devWrite
    | with_reducible apply Keeps.ite
    | simp only [Keeps.litEq]
    | intro _
    | split

theorem keeps_execSentinelPassDone {r₀ : State} (pc : Fin 108) (ok kat : Bool) (s : State) (h₀ : Keeps r₀ s) : KeepsR r₀ (execSentinelPassDone pc ok kat s) := by
  unfold execSentinelPassDone
  try dsimp only
  repeat' first
    | with_reducible assumption
    | with_reducible apply KeepsR.fault
    | with_reducible apply KeepsR.next
    | with_reducible apply keeps_setReg
    | with_reducible apply keeps_setFld
    | with_reducible apply keeps_retire
    | with_reducible apply keeps_marchOver
    | with_reducible apply Keeps.ite
    | with_reducible apply KeepsR.ite
    | simp only [Keeps.litEq]
    | intro _
    | split

end Sys2Proof.Machine
end

