-- ==== Sys2Proof/Laws/Keeps/Hbm.lean ====
section
/-! SUPPORT. What each operation of Machine/Hbm.lean keeps: the queue and the invariant. -/

namespace Sys2Proof.Machine

theorem keeps_poisonUnits {r s : State} (l : List Nat) (h : Keeps r s) : Keeps r { s with poison := l.foldl sput s.poison } :=
  h.trans ⟨rfl, fun i => ⟨i.1, i.2.1, rising_foldl_sput id _ _ i.2.2⟩⟩

theorem keeps_setWord {r₀ : State} (s : State) (b : Nat) (w : BitVec 32) (h₀ : Keeps r₀ s) : Keeps r₀ (setWord s b w) :=
  h₀.trans ⟨rfl, fun i => ⟨i.1, i.2.1, rising_foldl _ (fun t k g => by dsimp only; split; exacts [rising_sput _ _ g, rising_filter _ _ g]) _ _ i.2.2⟩⟩


theorem keeps_setStack {r₀ : State} (s : State) (h v : Nat) (h₀ : Keeps r₀ s) : Keeps r₀ (setStack s h v) := by
  unfold setStack
  try dsimp only
  repeat' first
    | with_reducible assumption
    | with_reducible apply keeps_setFld
    | with_reducible apply Keeps.ite
    | intro _
    | split

theorem keeps_writeBack {r₀ : State} (s : State) (a : Nat) (b : Bytes) (later : Bool) (h₀ : Keeps r₀ s) : Keeps r₀ (writeBack s a b later) := by
  unfold writeBack
  exact Keeps.ite (fun _ => h₀) (fun _ => h₀.trans ⟨rfl, fun i => ⟨wf_memWrite _ _ _ i.1, i.2.1, i.2.2⟩⟩)


theorem keeps_sectorRead {r₀ : State} (s : State) (a : Nat) (err : Bytes) (later : Bool) (h₀ : Keeps r₀ s) : Keeps r₀ (sectorRead s a err later) := by
  unfold sectorRead
  dsimp only
  repeat' first
    | with_reducible assumption
    | with_reducible apply keeps_satFld
    | with_reducible apply keeps_setFld
    | with_reducible apply keeps_devTaint
    | with_reducible apply keeps_writeBack
    | split


theorem keeps_wordFlip {r₀ : State} (s : State) (b : Nat) (pw : BitVec 32) (h₀ : Keeps r₀ s) : Keeps r₀ (wordFlip s b pw) := by
  unfold wordFlip
  try dsimp only
  repeat' first
    | with_reducible assumption
    | with_reducible apply keeps_setWord
    | with_reducible apply Keeps.ite
    | intro _
    | split

theorem keeps_execHbmSectorRead {r₀ : State} (a : BitVec 48) (err : Bytes) (pw : BitVec 32) (later : Bool) (s : State) (h₀ : Keeps r₀ s) : KeepsR r₀ (execHbmSectorRead a err pw later s) := by
  unfold execHbmSectorRead
  try dsimp only
  repeat' first
    | with_reducible assumption
    | with_reducible apply KeepsR.fault
    | with_reducible apply KeepsR.next
    | with_reducible apply keeps_sectorRead
    | with_reducible apply keeps_wordFlip
    | with_reducible apply Keeps.ite
    | with_reducible apply KeepsR.ite
    | intro _
    | split

theorem keeps_execScrubRead {r₀ : State} (h : Fin 8) (errs : List Bytes) (pw : BitVec 32) (later : List Bool) (s : State) (h₀ : Keeps r₀ s) : KeepsR r₀ (execScrubRead h errs pw later s) := by
  unfold execScrubRead
  try dsimp only
  repeat' first
    | with_reducible assumption
    | with_reducible apply KeepsR.fault
    | with_reducible apply KeepsR.next
    | with_reducible apply keeps_setFld
    | with_reducible apply keeps_sectorRead
    | with_reducible apply keeps_wordFlip
    | with_reducible apply Keeps.foldl
    | with_reducible apply Keeps.foldl1
    | with_reducible apply Keeps.ite
    | with_reducible apply KeepsR.ite
    | simp only [Keeps.litEq]
    | intro _
    | split

theorem keeps_execInnerEccPoll {r₀ : State} (h : Fin 8) (n : Nat) (s : State) (h₀ : Keeps r₀ s) : KeepsR r₀ (execInnerEccPoll h n s) := by
  unfold execInnerEccPoll
  try dsimp only
  repeat' first
    | with_reducible assumption
    | with_reducible apply KeepsR.fault
    | with_reducible apply KeepsR.next
    | with_reducible apply keeps_satFld
    | with_reducible apply Keeps.ite
    | with_reducible apply KeepsR.ite
    | intro _
    | split

theorem keeps_execHbmStackFail {r₀ : State} (h : Fin 8) (s : State) (h₀ : Keeps r₀ s) : KeepsR r₀ (execHbmStackFail h s) := by
  unfold execHbmStackFail
  try dsimp only
  repeat' first
    | with_reducible assumption
    | with_reducible apply KeepsR.fault
    | with_reducible apply KeepsR.next
    | with_reducible apply keeps_fault1
    | with_reducible apply keeps_setStack
    | with_reducible apply Keeps.foldl
    | with_reducible apply Keeps.foldl1
    | with_reducible apply Keeps.ite
    | with_reducible apply KeepsR.ite
    | intro _
    | split

theorem keeps_execPoisonlogClear {r₀ : State} (d : Fin 2) (w : Writer) (s : State) (h₀ : Keeps r₀ s) : KeepsR r₀ (execPoisonlogClear d w s) := by
  unfold execPoisonlogClear
  try dsimp only
  repeat' first
    | with_reducible assumption
    | with_reducible apply KeepsR.fault
    | with_reducible apply KeepsR.next
    | with_reducible apply keeps_setFld
    | with_reducible apply keeps_gate
    | with_reducible apply Keeps.ite
    | with_reducible apply KeepsR.ite
    | intro _
    | split

theorem keeps_setErr {r₀ : State} (s : State) (d e : Nat) (h₀ : Keeps r₀ s) : Keeps r₀ (setErr s d e) := by
  unfold setErr
  try dsimp only
  repeat' first
    | with_reducible assumption
    | with_reducible apply keeps_setFld
    | with_reducible apply Keeps.ite
    | intro _
    | split

theorem keeps_execMboxTake {r₀ : State} (d : Fin 2) (w : Writer) (s : State) (h₀ : Keeps r₀ s) : KeepsR r₀ (execMboxTake d w s) := by
  unfold execMboxTake
  try dsimp only
  repeat' first
    | with_reducible assumption
    | with_reducible apply KeepsR.fault
    | with_reducible apply KeepsR.next
    | with_reducible apply keeps_setFld
    | with_reducible apply keeps_gate
    | with_reducible apply keeps_setErr
    | with_reducible apply Keeps.ite
    | with_reducible apply KeepsR.ite
    | intro _
    | split

theorem keeps_execMboxRelease {r₀ : State} (d : Fin 2) (w : Writer) (s : State) (h₀ : Keeps r₀ s) : KeepsR r₀ (execMboxRelease d w s) := by
  unfold execMboxRelease
  try dsimp only
  repeat' first
    | with_reducible assumption
    | with_reducible apply KeepsR.fault
    | with_reducible apply KeepsR.next
    | with_reducible apply keeps_setFld
    | with_reducible apply keeps_gate
    | with_reducible apply keeps_setErr
    | with_reducible apply Keeps.ite
    | with_reducible apply KeepsR.ite
    | intro _
    | split

theorem keeps_mboxStart {r₀ : State} (s : State) (d cmd v : Nat) (h₀ : Keeps r₀ s) : Keeps r₀ (mboxStart s d cmd v) := by
  unfold mboxStart
  try dsimp only
  repeat' first
    | with_reducible assumption
    | with_reducible apply keeps_setFld
    | with_reducible apply keeps_writeThen
    | with_reducible apply keeps_setErr
    | with_reducible apply Keeps.ite
    | simp only [Keeps.litEq]
    | intro _
    | split

theorem keeps_execEccLog {r₀ : State} (d : Fin 2) (v : BitVec 64) (w : Writer) (s : State) (h₀ : Keeps r₀ s) : KeepsR r₀ (execEccLog d v w s) := by
  unfold execEccLog
  try dsimp only
  repeat' first
    | with_reducible assumption
    | with_reducible apply KeepsR.fault
    | with_reducible apply KeepsR.next
    | with_reducible apply keeps_gate
    | with_reducible apply keeps_mboxStart
    | with_reducible apply Keeps.ite
    | with_reducible apply KeepsR.ite
    | intro _
    | split

theorem keeps_execSppr {r₀ : State} (d : Fin 2) (v : BitVec 64) (w : Writer) (s : State) (h₀ : Keeps r₀ s) : KeepsR r₀ (execSppr d v w s) := by
  unfold execSppr
  try dsimp only
  repeat' first
    | with_reducible assumption
    | with_reducible apply KeepsR.fault
    | with_reducible apply KeepsR.next
    | with_reducible apply keeps_gate
    | with_reducible apply keeps_mboxStart
    | with_reducible apply Keeps.ite
    | with_reducible apply KeepsR.ite
    | intro _
    | split

theorem keeps_execHppr {r₀ : State} (d : Fin 2) (v : BitVec 64) (w : Writer) (s : State) (h₀ : Keeps r₀ s) : KeepsR r₀ (execHppr d v w s) := by
  unfold execHppr
  try dsimp only
  repeat' first
    | with_reducible assumption
    | with_reducible apply KeepsR.fault
    | with_reducible apply KeepsR.next
    | with_reducible apply keeps_gate
    | with_reducible apply keeps_mboxStart
    | with_reducible apply Keeps.ite
    | with_reducible apply KeepsR.ite
    | intro _
    | split

theorem keeps_execPcSpare {r₀ : State} (d : Fin 2) (v : BitVec 64) (w : Writer) (s : State) (h₀ : Keeps r₀ s) : KeepsR r₀ (execPcSpare d v w s) := by
  unfold execPcSpare
  try dsimp only
  repeat' first
    | with_reducible assumption
    | with_reducible apply KeepsR.fault
    | with_reducible apply KeepsR.next
    | with_reducible apply keeps_gate
    | with_reducible apply keeps_mboxStart
    | with_reducible apply Keeps.ite
    | with_reducible apply KeepsR.ite
    | intro _
    | split

theorem keeps_execMbist {r₀ : State} (d : Fin 2) (v : BitVec 64) (w : Writer) (s : State) (h₀ : Keeps r₀ s) : KeepsR r₀ (execMbist d v w s) := by
  unfold execMbist
  try dsimp only
  repeat' first
    | with_reducible assumption
    | with_reducible apply KeepsR.fault
    | with_reducible apply KeepsR.next
    | with_reducible apply keeps_gate
    | with_reducible apply keeps_mboxStart
    | with_reducible apply Keeps.ite
    | with_reducible apply KeepsR.ite
    | intro _
    | split

theorem keeps_execReadMr {r₀ : State} (d : Fin 2) (v : BitVec 64) (w : Writer) (s : State) (h₀ : Keeps r₀ s) : KeepsR r₀ (execReadMr d v w s) := by
  unfold execReadMr
  try dsimp only
  repeat' first
    | with_reducible assumption
    | with_reducible apply KeepsR.fault
    | with_reducible apply KeepsR.next
    | with_reducible apply keeps_gate
    | with_reducible apply keeps_mboxStart
    | with_reducible apply Keeps.ite
    | with_reducible apply KeepsR.ite
    | intro _
    | split

theorem keeps_poisonWords {r s : State} (l : List Nat) (w : Tbl (BitVec 32)) (h : Keeps r s) : Keeps r { s with poison := l.foldl sput s.poison, pword := w } :=
  (keeps_poisonUnits l h).set

theorem keeps_poisonPc {r₀ : State} (s : State) (h pc : Nat) (h₀ : Keeps r₀ s) : Keeps r₀ (poisonPc s h pc) := by
  unfold poisonPc
  exact keeps_poisonWords _ _ h₀


theorem keeps_sparePc {r₀ : State} (s : State) (h pc : Nat) (h₀ : Keeps r₀ s) : Keeps r₀ (sparePc s h pc) := by
  unfold sparePc
  try dsimp only
  repeat' first
    | with_reducible assumption
    | with_reducible apply keeps_setFld
    | with_reducible apply Keeps.ite
    | simp only [Keeps.litEq]
    | intro _
    | split

theorem keeps_execMboxCmdDone {r₀ : State} (d : Fin 2) (data : BitVec 64) (fail : Bool) (s : State) (h₀ : Keeps r₀ s) : KeepsR r₀ (execMboxCmdDone d data fail s) := by
  unfold execMboxCmdDone
  try dsimp only
  repeat' first
    | with_reducible assumption
    | with_reducible apply KeepsR.fault
    | with_reducible apply KeepsR.next
    | with_reducible apply keeps_setReg
    | with_reducible apply keeps_setFld
    | with_reducible apply keeps_setErr
    | with_reducible apply keeps_poisonPc
    | with_reducible apply keeps_sparePc
    | with_reducible apply Keeps.ite
    | with_reducible apply KeepsR.ite
    | simp only [Keeps.litEq]
    | intro _
    | split

theorem keeps_gddrReport {r₀ : State} (s : State) (a n corr : Nat) (bad : List Nat) (h₀ : Keeps r₀ s) : Keeps r₀ (gddrReport s a n corr bad) :=
  keeps_satFld _ _ _ _ _ (keeps_satFld _ _ _ _ _ (keeps_poisonUnits _ h₀))


theorem keeps_hbmCycle {r₀ : State} (s : State) (d : Nat) (h₀ : Keeps r₀ s) : Keeps r₀ (hbmCycle s d) := by
  unfold hbmCycle
  try dsimp only
  repeat' first
    | with_reducible assumption
    | with_reducible apply Keeps.ite
    | simp only [Keeps.litEq]
    | intro _
    | split

end Sys2Proof.Machine
end

