-- ==== Sys2Proof/Laws/Keeps/Bells.lean ====
section
/-! SUPPORT. What each operation of Machine/Bells.lean keeps: the queue and the invariant. -/

namespace Sys2Proof.Machine

theorem keeps_countChime {r₀ : State} (s : State) (k v ch : Nat) (l : List Sig) (h₀ : Keeps r₀ s) : Keeps r₀ (countChime s k v ch l) := by
  unfold countChime
  try dsimp only
  repeat' first
    | with_reducible assumption
    | with_reducible apply keeps_modVc
    | with_reducible apply keeps_fault1
    | with_reducible apply Keeps.foldl
    | with_reducible apply Keeps.foldl1
    | with_reducible apply Keeps.ite
    | simp only [Keeps.litEq]
    | intro _
    | split

theorem keeps_countLand {r₀ : State} (s : State) (k v ch : Nat) (l : List Sig) (h₀ : Keeps r₀ s) : Keeps r₀ (countLand s k v ch l) := by
  unfold countLand
  try dsimp only
  repeat' first
    | with_reducible assumption
    | with_reducible apply keeps_modVc
    | with_reducible apply keeps_fault1
    | with_reducible apply Keeps.foldl
    | with_reducible apply Keeps.foldl1
    | with_reducible apply Keeps.ite
    | simp only [Keeps.litEq]
    | intro _
    | split

theorem keeps_countCtx {r₀ : State} (s : State) (k : Nat) (h₀ : Keeps r₀ s) : Keeps r₀ (countCtx s k) := by
  unfold countCtx
  try dsimp only
  repeat' first
    | with_reducible assumption
    | with_reducible apply keeps_modCtx
    | with_reducible apply keeps_countChime
    | with_reducible apply keeps_countLand
    | with_reducible apply Keeps.foldl
    | with_reducible apply Keeps.foldl1
    | with_reducible apply Keeps.ite
    | simp only [Keeps.litEq]
    | intro _
    | split

theorem keeps_countAll {r₀ : State} (s : State) (h₀ : Keeps r₀ s) : Keeps r₀ (countAll s) := by
  unfold countAll
  try dsimp only
  repeat' first
    | with_reducible assumption
    | with_reducible apply keeps_countCtx
    | with_reducible apply Keeps.foldl
    | with_reducible apply Keeps.foldl1
    | with_reducible apply Keeps.ite
    | intro _
    | split

theorem keeps_landSig {r₀ : State} (s : State) (k v ch count src : Nat) (h₀ : Keeps r₀ s) : Keeps r₀ (landSig s k v ch count src) := by
  unfold landSig
  try dsimp only
  repeat' first
    | with_reducible assumption
    | with_reducible apply keeps_modCtx
    | with_reducible apply Keeps.ite
    | simp only [Keeps.litEq]
    | intro _
    | split

theorem keeps_execChimeSignal {r₀ : State} (p : Fin 8) (v : Fin 96) (ch : Fin 48) (n : Nat) (s : State) (h₀ : Keeps r₀ s) : KeepsR r₀ (execChimeSignal p v ch n s) := by
  unfold execChimeSignal
  try dsimp only
  repeat' first
    | with_reducible assumption
    | with_reducible apply KeepsR.fault
    | with_reducible apply KeepsR.next
    | with_reducible apply keeps_modCtx
    | with_reducible apply Keeps.ite
    | with_reducible apply KeepsR.ite
    | simp only [Keeps.litEq]
    | intro _
    | split

theorem keeps_modBell {r₀ : State} (s : State) (b : Nat) (f : Bell → Bell) (h₀ : Keeps r₀ s) : Keeps r₀ (modBell s b f) := by
  unfold modBell
  try dsimp only
  repeat' first
    | with_reducible assumption
    | with_reducible apply Keeps.ite
    | simp only [Keeps.litEq]
    | intro _
    | split

theorem keeps_nodeStep {r₀ : State} (s : State) (k b : Nat) (par : Bool) (arg : Bytes) (h₀ : Keeps r₀ s) : Keeps r₀ (nodeStep s k b par arg) := by
  unfold nodeStep
  try dsimp only
  repeat' first
    | with_reducible assumption
    | with_reducible apply keeps_cteSend
    | with_reducible apply keeps_cteSendAll
    | with_reducible apply keeps_modBell
    | with_reducible apply Keeps.ite
    | simp only [Keeps.litEq]
    | intro _
    | split

theorem keeps_localDone {r₀ : State} (s : State) (k : Nat) (c : Ctx) (b : Nat) (h₀ : Keeps r₀ s) : Keeps r₀ (localDone s k c b) := by
  unfold localDone
  try dsimp only
  repeat' first
    | with_reducible assumption
    | with_reducible apply keeps_modBell
    | with_reducible apply keeps_nodeStep
    | with_reducible apply Keeps.ite
    | simp only [Keeps.litEq]
    | intro _
    | split

theorem keeps_arriveBell {r₀ : State} (s : State) (k : Nat) (c : Ctx) (v b : Nat) (h₀ : Keeps r₀ s) : Keeps r₀ (arriveBell s k c v b) := by
  unfold arriveBell
  try dsimp only
  repeat' first
    | with_reducible assumption
    | with_reducible apply keeps_modVc
    | with_reducible apply keeps_modBell
    | with_reducible apply keeps_localDone
    | with_reducible apply Keeps.ite
    | simp only [Keeps.litEq]
    | intro _
    | split

theorem keeps_releaseBell {r₀ : State} (s : State) (b : Nat) (h₀ : Keeps r₀ s) : Keeps r₀ (releaseBell s b) := by
  unfold releaseBell
  try dsimp only
  repeat' first
    | with_reducible assumption
    | with_reducible apply keeps_modCtx
    | with_reducible apply keeps_modBell
    | with_reducible apply keeps_localDone
    | with_reducible apply Keeps.ite
    | simp only [Keeps.litEq]
    | intro _
    | split

theorem keeps_execBellTimeout {r₀ : State} (b : Fin 64) (s : State) (h₀ : Keeps r₀ s) : KeepsR r₀ (execBellTimeout b s) := by
  unfold execBellTimeout
  try dsimp only
  repeat' first
    | with_reducible assumption
    | with_reducible apply KeepsR.fault
    | with_reducible apply KeepsR.next
    | with_reducible apply keeps_fault1
    | with_reducible apply Keeps.ite
    | with_reducible apply KeepsR.ite
    | simp only [Keeps.litEq]
    | intro _
    | split

theorem keeps_bellsDue {r₀ : State} (s : State) (h₀ : Keeps r₀ s) : Keeps r₀ (bellsDue s) := by
  unfold bellsDue
  try dsimp only
  repeat' first
    | with_reducible assumption
    | with_reducible apply Keeps.ite
    | simp only [Keeps.litEq]
    | intro _
    | split

theorem keeps_discardArrival {r₀ : State} (s : State) (b : Nat) (h₀ : Keeps r₀ s) : Keeps r₀ (discardArrival s b) := by
  unfold discardArrival
  try dsimp only
  repeat' first
    | with_reducible assumption
    | with_reducible apply keeps_modBell
    | with_reducible apply Keeps.ite
    | simp only [Keeps.litEq]
    | intro _
    | split

end Sys2Proof.Machine
end

