-- ==== Sys2Proof/Laws/Keeps/CteRx.lean ====
section
/-! SUPPORT. What each operation of Machine/CteRx.lean keeps: the queue and the invariant. -/

namespace Sys2Proof.Machine

theorem keeps_countInst {r₀ : State} (s : State) (d : Nat) (h₀ : Keeps r₀ s) : Keeps r₀ (countInst s d) := by
  unfold countInst
  try dsimp only
  repeat' first
    | with_reducible assumption
    | with_reducible apply keeps_satFld
    | with_reducible apply Keeps.ite
    | intro _
    | split

theorem keeps_landData {r₀ : State} (s : State) (a pmask : Nat) (b : Bytes) (h₀ : Keeps r₀ s) : Keeps r₀ (landData s a pmask b) := by
  unfold landData
  try dsimp only
  repeat' first
    | with_reducible assumption
    | with_reducible apply keeps_devWrite
    | with_reducible apply keeps_devTaint
    | with_reducible apply Keeps.foldl
    | with_reducible apply Keeps.foldl1
    | with_reducible apply Keeps.ite
    | intro _
    | split

theorem keeps_versionStep {r₀ : State} (s : State) (k : Nat) (x : Gather) (i dig : Nat) (h₀ : Keeps r₀ s) : Keeps r₀ (versionStep s k x i dig) := by
  unfold versionStep
  try dsimp only
  repeat' first
    | with_reducible assumption
    | with_reducible apply keeps_devWrite
    | with_reducible apply keeps_hbmUse
    | with_reducible apply keeps_fault1
    | with_reducible apply Keeps.ite
    | simp only [Keeps.litEq]
    | intro _
    | split

theorem keeps_memMap {r s : State} (f : Nat → Byte → Byte) (w : Tbl (BitVec 32)) (h : Keeps r s) : Keeps r { s with mem := memMap s.mem f, pword := w } :=
  h.trans ⟨rfl, fun i => ⟨wf_memMap _ _ i.1, i.2.1, i.2.2⟩⟩

theorem keeps_clearVersions {r₀ : State} (s : State) (c : Ctx) (h₀ : Keeps r₀ s) : Keeps r₀ (clearVersions s c) := by
  unfold clearVersions
  exact Keeps.ite (fun _ => h₀) (fun _ => keeps_memMap _ _ h₀)


theorem keeps_modGather {r₀ : State} (s : State) (k v ord : Nat) (f : Gather → Gather) (h₀ : Keeps r₀ s) : Keeps r₀ (modGather s k v ord f) := by
  unfold modGather
  try dsimp only
  repeat' first
    | with_reducible assumption
    | with_reducible apply keeps_modCtx
    | with_reducible apply Keeps.ite
    | simp only [Keeps.litEq]
    | intro _
    | split

theorem keeps_partSend {r₀ : State} (s : State) (k : Nat) (c : Ctx) (x : Gather) (i dig : Nat) (ranks : List Nat) (h₀ : Keeps r₀ s) : Keeps r₀ (partSend s k c x i dig ranks) := by
  unfold partSend
  try dsimp only
  repeat' first
    | with_reducible assumption
    | with_reducible apply keeps_modVc
    | with_reducible apply keeps_cteFrames
    | with_reducible apply Keeps.foldl
    | with_reducible apply Keeps.foldl1
    | with_reducible apply Keeps.ite
    | simp only [Keeps.litEq]
    | intro _
    | split

theorem keeps_partWhole {r₀ : State} (s : State) (k port : Nat) (x : Gather) (m : CteMsg) (crc : Nat) (h₀ : Keeps r₀ s) : Keeps r₀ (partWhole s k port x m crc) := by
  unfold partWhole
  try dsimp only
  repeat' first
    | with_reducible assumption
    | with_reducible apply keeps_satFld
    | with_reducible apply keeps_devTaint
    | with_reducible apply keeps_versionStep
    | with_reducible apply keeps_modGather
    | with_reducible apply keeps_partSend
    | with_reducible apply Keeps.ite
    | simp only [Keeps.litEq]
    | intro _
    | split

theorem keeps_onPart {r₀ : State} (s : State) (k port : Nat) (c : Ctx) (m : CteMsg) (h₀ : Keeps r₀ s) : Keeps r₀ (onPart s k port c m) := by
  unfold onPart
  try dsimp only
  repeat' first
    | with_reducible assumption
    | with_reducible apply keeps_hbmUse
    | with_reducible apply keeps_cteFault
    | with_reducible apply keeps_keepEarly
    | with_reducible apply keeps_landData
    | with_reducible apply keeps_modGather
    | with_reducible apply keeps_partWhole
    | with_reducible apply Keeps.ite
    | simp only [Keeps.litEq]
    | intro _
    | split

theorem keeps_drainParts {r₀ : State} (s : State) (k v ord : Nat) (h₀ : Keeps r₀ s) : Keeps r₀ (drainParts s k v ord) := by
  unfold drainParts
  try dsimp only
  repeat' first
    | with_reducible assumption
    | with_reducible apply keeps_modCtx
    | with_reducible apply keeps_onPart
    | with_reducible apply Keeps.foldl
    | with_reducible apply Keeps.foldl1
    | with_reducible apply Keeps.ite
    | simp only [Keeps.litEq]
    | intro _
    | split

theorem keeps_musterRelease {r₀ : State} (s : State) (k : Nat) (c : Ctx) (rm : Nat) (h₀ : Keeps r₀ s) : Keeps r₀ (musterRelease s k c rm) := by
  unfold musterRelease
  try dsimp only
  repeat' first
    | with_reducible assumption
    | with_reducible apply keeps_modCtx
    | with_reducible apply keeps_fault1
    | with_reducible apply Keeps.ite
    | simp only [Keeps.litEq]
    | intro _
    | split

theorem keeps_musterStep {r₀ : State} (s : State) (k b : Nat) (h₀ : Keeps r₀ s) : Keeps r₀ (musterStep s k b) := by
  unfold musterStep
  try dsimp only
  repeat' first
    | with_reducible assumption
    | with_reducible apply keeps_fault1
    | with_reducible apply keeps_cteSend
    | with_reducible apply keeps_cteSendAll
    | with_reducible apply keeps_musterRelease
    | with_reducible apply Keeps.ite
    | simp only [Keeps.litEq]
    | intro _
    | split

theorem keeps_onArrive {r₀ : State} (s : State) (k : Nat) (c : Ctx) (m : CteMsg) (h₀ : Keeps r₀ s) : Keeps r₀ (onArrive s k c m) := by
  unfold onArrive
  try dsimp only
  repeat' first
    | with_reducible assumption
    | with_reducible apply keeps_modCtx
    | with_reducible apply keeps_cteFault
    | with_reducible apply keeps_modBell
    | with_reducible apply keeps_nodeStep
    | with_reducible apply keeps_discardArrival
    | with_reducible apply keeps_musterStep
    | with_reducible apply Keeps.ite
    | simp only [Keeps.litEq]
    | intro _
    | split

theorem keeps_onRelease {r₀ : State} (s : State) (k : Nat) (c : Ctx) (m : CteMsg) (h₀ : Keeps r₀ s) : Keeps r₀ (onRelease s k c m) := by
  unfold onRelease
  try dsimp only
  repeat' first
    | with_reducible assumption
    | with_reducible apply keeps_fault1
    | with_reducible apply keeps_cteSendAll
    | with_reducible apply keeps_cteFault
    | with_reducible apply keeps_modBell
    | with_reducible apply keeps_musterRelease
    | with_reducible apply Keeps.ite
    | simp only [Keeps.litEq]
    | intro _
    | split

theorem keeps_onCadence {r₀ : State} (s : State) (k : Nat) (c : Ctx) (m : CteMsg) (h₀ : Keeps r₀ s) : Keeps r₀ (onCadence s k c m) := by
  unfold onCadence
  try dsimp only
  repeat' first
    | with_reducible assumption
    | with_reducible apply keeps_modCtx
    | with_reducible apply keeps_cteFault
    | with_reducible apply keeps_cadencePair
    | with_reducible apply keeps_cadenceVote
    | with_reducible apply Keeps.ite
    | simp only [Keeps.litEq]
    | intro _
    | split

theorem keeps_installMap {r₀ : State} (s : State) (k : Nat) (c : Ctx) (sm alg fan : Nat) (h₀ : Keeps r₀ s) : Keeps r₀ (installMap s k c sm alg fan) := by
  unfold installMap
  try dsimp only
  repeat' first
    | with_reducible assumption
    | with_reducible apply keeps_satFld
    | with_reducible apply keeps_modCtx
    | with_reducible apply keeps_returnHolds
    | with_reducible apply keeps_cteSendAll
    | with_reducible apply Keeps.ite
    | simp only [Keeps.litEq]
    | intro _
    | split

theorem keeps_onMap {r₀ : State} (s : State) (k : Nat) (c : Ctx) (m : CteMsg) (h₀ : Keeps r₀ s) : Keeps r₀ (onMap s k c m) := by
  unfold onMap
  try dsimp only
  repeat' first
    | with_reducible assumption
    | with_reducible apply keeps_cteFault
    | with_reducible apply keeps_installMap
    | with_reducible apply Keeps.ite
    | intro _
    | split

theorem keeps_summaryStep {r₀ : State} (s : State) (k : Nat) (h₀ : Keeps r₀ s) : Keeps r₀ (summaryStep s k) := by
  unfold summaryStep
  try dsimp only
  repeat' first
    | with_reducible assumption
    | with_reducible apply keeps_modCtx
    | with_reducible apply keeps_cteSend
    | with_reducible apply keeps_installMap
    | with_reducible apply Keeps.foldl
    | with_reducible apply Keeps.foldl1
    | with_reducible apply Keeps.ite
    | simp only [Keeps.litEq]
    | intro _
    | split

theorem keeps_onSummary {r₀ : State} (s : State) (k : Nat) (c : Ctx) (m : CteMsg) (h₀ : Keeps r₀ s) : Keeps r₀ (onSummary s k c m) := by
  unfold onSummary
  try dsimp only
  repeat' first
    | with_reducible assumption
    | with_reducible apply keeps_modCtx
    | with_reducible apply keeps_cteFault
    | with_reducible apply keeps_summaryStep
    | with_reducible apply Keeps.ite
    | simp only [Keeps.litEq]
    | intro _
    | split

theorem keeps_applyCte {r₀ : State} (s : State) (k port kind : Nat) (m : CteMsg) (h₀ : Keeps r₀ s) : Keeps r₀ (applyCte s k port kind m) := by
  unfold applyCte
  try dsimp only
  repeat' first
    | with_reducible assumption
    | with_reducible apply keeps_cteFault
    | with_reducible apply keeps_onExpUp
    | with_reducible apply keeps_onExpDown
    | with_reducible apply keeps_onIntUp
    | with_reducible apply keeps_onIntDown
    | with_reducible apply keeps_onPart
    | with_reducible apply keeps_onArrive
    | with_reducible apply keeps_onRelease
    | with_reducible apply keeps_onCadence
    | with_reducible apply keeps_onMap
    | with_reducible apply keeps_onSummary
    | with_reducible apply Keeps.ite
    | simp only [Keeps.litEq]
    | intro _
    | split

end Sys2Proof.Machine
end

