-- ==== Sys2Proof/Laws/Keeps/Stream.lean ====
section
/-! SUPPORT. What each operation of Machine/Stream.lean keeps: the queue and the invariant. -/

namespace Sys2Proof.Machine

theorem keeps_failStream {r₀ : State} (s : State) (x : Nat) (h₀ : Keeps r₀ s) : Keeps r₀ (failStream s x) := by
  unfold failStream
  try dsimp only
  repeat' first
    | with_reducible assumption
    | with_reducible apply keeps_setFld
    | with_reducible apply keeps_setEvent
    | with_reducible apply keeps_modStream
    | with_reducible apply keeps_finishMan
    | with_reducible apply keeps_fault1
    | with_reducible apply Keeps.ite
    | simp only [Keeps.litEq]
    | intro _
    | split

theorem keeps_markSends {r₀ : State} (s : State) (x : Nat) (st : Stream) (una n : Nat) (h₀ : Keeps r₀ s) : Keeps r₀ (markSends s x st una n) := by
  unfold markSends
  try dsimp only
  repeat' first
    | with_reducible assumption
    | with_reducible apply keeps_modCtx
    | with_reducible apply Keeps.ite
    | simp only [Keeps.litEq]
    | intro _
    | split

theorem keeps_permuteArrive {r₀ : State} (s : State) (k : Nat) (h₀ : Keeps r₀ s) : Keeps r₀ (permuteArrive s k) := by
  unfold permuteArrive
  try dsimp only
  repeat' first
    | with_reducible assumption
    | with_reducible apply keeps_modCtx
    | with_reducible apply keeps_arriveBell
    | with_reducible apply Keeps.foldl
    | with_reducible apply Keeps.foldl1
    | with_reducible apply Keeps.ite
    | simp only [Keeps.litEq]
    | intro _
    | split

theorem keeps_resend {r₀ : State} (s : State) (x : Nat) (f : TxFrame → Bool) (h₀ : Keeps r₀ s) : Keeps r₀ (resend s x f) := by
  unfold resend
  try dsimp only
  repeat' first
    | with_reducible assumption
    | with_reducible apply keeps_modStream
    | with_reducible apply Keeps.ite
    | simp only [Keeps.litEq]
    | intro _
    | split

theorem keeps_closedStream {r₀ : State} (s : State) (x : Nat) (st : Stream) (h₀ : Keeps r₀ s) : Keeps r₀ (closedStream s x st) := by
  unfold closedStream
  try dsimp only
  repeat' first
    | with_reducible assumption
    | with_reducible apply keeps_finishMan
    | with_reducible apply Keeps.ite
    | simp only [Keeps.litEq]
    | intro _
    | split

theorem keeps_setPace {r₀ : State} (s : State) (x : Nat) (h₀ : Keeps r₀ s) : Keeps r₀ (setPace s x) := by
  unfold setPace
  try dsimp only
  repeat' first
    | with_reducible assumption
    | with_reducible apply keeps_modStream
    | with_reducible apply Keeps.ite
    | simp only [Keeps.litEq]
    | intro _
    | split

theorem keeps_passAck {r₀ : State} (s : State) (x : Nat) (st : Stream) (ack n : Nat) (h₀ : Keeps r₀ s) : Keeps r₀ (passAck s x st ack n) := by
  unfold passAck
  try dsimp only
  repeat' first
    | with_reducible assumption
    | with_reducible apply keeps_modStream
    | with_reducible apply keeps_markSends
    | with_reducible apply keeps_permuteArrive
    | with_reducible apply Keeps.ite
    | simp only [Keeps.litEq]
    | intro _
    | split

theorem keeps_takeAck {r₀ : State} (s : State) (x : Nat) (f : CvtFrame) (park : Option Bool) (h₀ : Keeps r₀ s) : Keeps r₀ (takeAck s x f park) := by
  unfold takeAck
  try dsimp only
  repeat' first
    | with_reducible assumption
    | with_reducible apply keeps_modStream
    | with_reducible apply keeps_resend
    | with_reducible apply keeps_closedStream
    | with_reducible apply keeps_setPace
    | with_reducible apply keeps_passAck
    | with_reducible apply Keeps.ite
    | simp only [Keeps.litEq]
    | intro _
    | split

theorem keeps_sendAck {r₀ : State} (s : State) (x flags : Nat) (h₀ : Keeps r₀ s) : Keeps r₀ (sendAck s x flags) := by
  unfold sendAck
  try dsimp only
  repeat' first
    | with_reducible assumption
    | with_reducible apply keeps_modStream
    | with_reducible apply keeps_sendOn
    | with_reducible apply Keeps.ite
    | simp only [Keeps.litEq]
    | intro _
    | split

theorem keeps_sendBare {r₀ : State} (s : State) (d : Nat) (group : Option Nat) (node dscp flow type ds ss credit : Nat) (payload : Bytes) (h₀ : Keeps r₀ s) : Keeps r₀ (sendBare s d group node dscp flow type ds ss credit payload) := by
  unfold sendBare
  try dsimp only
  repeat' first
    | with_reducible assumption
    | with_reducible apply keeps_routeBody
    | with_reducible apply Keeps.ite
    | intro _
    | split

theorem keeps_sendOpen {r₀ : State} (s : State) (x : Nat) (h₀ : Keeps r₀ s) : Keeps r₀ (sendOpen s x) := by
  unfold sendOpen
  try dsimp only
  repeat' first
    | with_reducible assumption
    | with_reducible apply keeps_sendBare
    | with_reducible apply Keeps.ite
    | simp only [Keeps.litEq]
    | intro _
    | split

theorem keeps_openWith {r₀ : State} (s : State) (x : Nat) (h₀ : Keeps r₀ s) : Keeps r₀ (openWith s x) := by
  unfold openWith
  try dsimp only
  repeat' first
    | with_reducible assumption
    | with_reducible apply keeps_drawn
    | with_reducible apply keeps_modStream
    | with_reducible apply keeps_sendOpen
    | with_reducible apply Keeps.ite
    | simp only [Keeps.litEq]
    | intro _
    | split

theorem keeps_sendAccept {r₀ : State} (s : State) (x : Nat) (h₀ : Keeps r₀ s) : Keeps r₀ (sendAccept s x) := by
  unfold sendAccept
  try dsimp only
  repeat' first
    | with_reducible assumption
    | with_reducible apply keeps_sendOn
    | with_reducible apply Keeps.ite
    | simp only [Keeps.litEq]
    | intro _
    | split

theorem keeps_openEntry {r₀ : State} (s : State) (d : Nat) (x : Stream) (t : State) (h₀ : Keeps r₀ s) (e : openEntry s d x = .ok t) : Keeps r₀ t := by
  unfold openEntry at e
  dsimp only at e
  repeat' first
    | with_reducible assumption
    | (cases e; done)
    | (cases e)
    | with_reducible apply keeps_openWith
    | with_reducible apply keeps_sendOpen
    | simp only [Keeps.litEq]
    | split at e


theorem keeps_openColl {r₀ : State} (s : State) (k : Nat) (fans : Ctx → List Nat) (h₀ : Keeps r₀ s) : Keeps r₀ (openColl s k fans) := by
  unfold openColl
  dsimp only
  repeat' first
    | with_reducible assumption
    | with_reducible apply keeps_setReg
    | with_reducible apply keeps_fault1
    | (refine keeps_openEntry _ _ _ _ ?_ (by assumption))
    | with_reducible apply Keeps.foldl
    | with_reducible apply Keeps.ite
    | intro _
    | split


theorem keeps_sendSack {r₀ : State} (s : State) (x : Nat) (h₀ : Keeps r₀ s) : Keeps r₀ (sendSack s x) := by
  unfold sendSack
  try dsimp only
  repeat' first
    | with_reducible assumption
    | with_reducible apply keeps_modStream
    | with_reducible apply keeps_sendOn
    | with_reducible apply Keeps.ite
    | simp only [Keeps.litEq]
    | intro _
    | split

theorem keeps_unpark {r₀ : State} (s : State) (k : Nat) (h₀ : Keeps r₀ s) : Keeps r₀ (unpark s k) := by
  unfold unpark
  try dsimp only
  repeat' first
    | with_reducible assumption
    | with_reducible apply keeps_modStream
    | with_reducible apply keeps_sendAck
    | with_reducible apply Keeps.foldl
    | with_reducible apply Keeps.foldl1
    | with_reducible apply Keeps.ite
    | simp only [Keeps.litEq]
    | intro _
    | split

theorem keeps_endTransfer {r₀ : State} (s : State) (port x : Nat) (f : CvtFrame) (h₀ : Keeps r₀ s) : Keeps r₀ (endTransfer s port x f) := by
  unfold endTransfer
  try dsimp only
  repeat' first
    | with_reducible assumption
    | with_reducible apply keeps_satFld
    | with_reducible apply keeps_devTaint
    | with_reducible apply keeps_modStream
    | with_reducible apply Keeps.foldl
    | with_reducible apply Keeps.foldl1
    | with_reducible apply Keeps.ite
    | simp only [Keeps.litEq]
    | intro _
    | split

theorem keeps_applyData {r₀ : State} (s : State) (k port x : Nat) (st : Stream) (c : Ctx) (f : CvtFrame) (h₀ : Keeps r₀ s) : Keeps r₀ (applyData s k port x st c f) := by
  unfold applyData
  try dsimp only
  repeat' first
    | with_reducible assumption
    | with_reducible apply keeps_hbmUse
    | with_reducible apply keeps_modStream
    | with_reducible apply keeps_fault1
    | with_reducible apply keeps_landData
    | with_reducible apply keeps_endTransfer
    | with_reducible apply Keeps.ite
    | simp only [Keeps.litEq]
    | intro _
    | split

theorem keeps_applyChime {r₀ : State} (s : State) (k : Nat) (c : Ctx) (f : CvtFrame) (h₀ : Keeps r₀ s) : Keeps r₀ (applyChime s k c f) := by
  unfold applyChime
  try dsimp only
  repeat' first
    | with_reducible assumption
    | with_reducible apply keeps_fault1
    | with_reducible apply keeps_landSig
    | with_reducible apply Keeps.ite
    | intro _
    | split

theorem keeps_wholeMsg {r₀ : State} (s : State) (k x kind : Nat) (m : CteMsg) (h₀ : Keeps r₀ s) : Keeps r₀ (wholeMsg s k x kind m).1 := by
  unfold wholeMsg
  try dsimp only
  repeat' first
    | with_reducible assumption
    | with_reducible apply keeps_modStream
    | with_reducible apply Keeps.ite
    | simp only [Keeps.litEq]
    | intro _
    | split

theorem keeps_openInstalled {r₀ : State} (s : State) (k kind : Nat) (h₀ : Keeps r₀ s) : Keeps r₀ (openInstalled s k kind) := by
  unfold openInstalled
  try dsimp only
  repeat' first
    | with_reducible assumption
    | with_reducible apply keeps_openColl
    | with_reducible apply Keeps.ite
    | intro _
    | split

theorem keeps_applyMsg {r₀ : State} (s : State) (k port x : Nat) (f : CvtFrame) (h₀ : Keeps r₀ s) : Keeps r₀ (applyMsg s k port x f) := by
  unfold applyMsg
  dsimp only
  have whole : ∀ (t : State) (kind : Nat) (m : CteMsg), Keeps r₀ t → Keeps r₀ (wholeMsg t k x kind m).1 := fun t kind m => keeps_wholeMsg t k x kind m
  repeat' first
    | with_reducible assumption
    | with_reducible apply keeps_modStream
    | with_reducible apply keeps_applyCte
    | with_reducible apply keeps_endTransfer
    | with_reducible apply keeps_openInstalled
    | with_reducible apply Keeps.ite
    | (rename_i e; exact (congrArg (fun y : State × Option CteMsg => Keeps r₀ y.1) e).mp (whole _ _ _ h₀))
    | (rename_i e; refine (congrArg (fun y : State × Option CteMsg => Keeps r₀ y.1) e).mp (whole _ _ _ ?_))
    | simp only [Keeps.litEq]
    | intro _
    | split


theorem keeps_fromTunnel {r₀ : State} (s : State) (n : Nat) (o : TunOp) (h₀ : Keeps r₀ s) : Keeps r₀ (fromTunnel s n o) := by
  unfold fromTunnel
  try dsimp only
  repeat' first
    | with_reducible assumption
    | with_reducible apply Keeps.ite
    | simp only [Keeps.litEq]
    | intro _
    | split

theorem keeps_applyFrame {r₀ : State} (s : State) (port x : Nat) (f : CvtFrame) (h₀ : Keeps r₀ s) : Keeps r₀ (applyFrame s port x f) := by
  unfold applyFrame
  try dsimp only
  repeat' first
    | with_reducible assumption
    | with_reducible apply keeps_modStream
    | with_reducible apply keeps_applyData
    | with_reducible apply keeps_applyChime
    | with_reducible apply keeps_applyMsg
    | with_reducible apply keeps_fromTunnel
    | with_reducible apply Keeps.ite
    | simp only [Keeps.litEq]
    | intro _
    | split

theorem keeps_stopStream {r₀ : State} (s : State) (x : Nat) (st : Stream) (h₀ : Keeps r₀ s) : Keeps r₀ (stopStream s x st) := by
  unfold stopStream
  try dsimp only
  repeat' first
    | with_reducible assumption
    | with_reducible apply keeps_satFld
    | with_reducible apply keeps_modStream
    | with_reducible apply Keeps.ite
    | simp only [Keeps.litEq]
    | intro _
    | split

theorem keeps_applyHeld {r₀ : State} (n : Nat) (s : State) (port x : Nat) (h₀ : Keeps r₀ s) : Keeps r₀ (applyHeld n s port x) := by
  induction n generalizing s with
  | zero => exact h₀
  | succ n ih =>
    simp only [applyHeld]
    repeat' first | with_reducible assumption | with_reducible apply ih | with_reducible apply keeps_stopStream | with_reducible apply keeps_applyFrame | with_reducible apply keeps_modStream | split


theorem keeps_discard {r₀ : State} (s : State) (port : Nat) (h₀ : Keeps r₀ s) : Keeps r₀ (discard s port) := by
  unfold discard
  try dsimp only
  repeat' first
    | with_reducible assumption
    | with_reducible apply keeps_satFld
    | with_reducible apply Keeps.ite
    | intro _
    | split

theorem keeps_applyClose {r₀ : State} (s : State) (x : Nat) (h₀ : Keeps r₀ s) : Keeps r₀ (applyClose s x) := by
  unfold applyClose
  try dsimp only
  repeat' first
    | with_reducible assumption
    | with_reducible apply keeps_modStream
    | with_reducible apply keeps_closedStream
    | with_reducible apply keeps_sendAck
    | with_reducible apply Keeps.ite
    | simp only [Keeps.litEq]
    | intro _
    | split

theorem keeps_rxSeq {r₀ : State} (s : State) (port x : Nat) (f : CvtFrame) (h₀ : Keeps r₀ s) : Keeps r₀ (rxSeq s port x f) := by
  unfold rxSeq
  try dsimp only
  repeat' first
    | with_reducible assumption
    | with_reducible apply keeps_modStream
    | with_reducible apply keeps_sendAck
    | with_reducible apply keeps_sendSack
    | with_reducible apply keeps_applyFrame
    | with_reducible apply keeps_stopStream
    | with_reducible apply keeps_applyHeld
    | with_reducible apply keeps_discard
    | with_reducible apply keeps_applyClose
    | with_reducible apply Keeps.ite
    | simp only [Keeps.litEq]
    | intro _
    | split

theorem keeps_nakPort {r₀ : State} (s : State) (n : Nat) (h₀ : Keeps r₀ s) : Keeps r₀ (nakPort s n) := by
  unfold nakPort
  try dsimp only
  repeat' first
    | with_reducible assumption
    | with_reducible apply keeps_modPort
    | with_reducible apply keeps_queueCtl
    | with_reducible apply Keeps.ite
    | simp only [Keeps.litEq]
    | intro _
    | split

theorem keeps_shimTaken {r₀ : State} (s : State) (n : Nat) (h₀ : Keeps r₀ s) : Keeps r₀ (shimTaken s n) := by
  unfold shimTaken
  try dsimp only
  repeat' first
    | with_reducible assumption
    | with_reducible apply keeps_modPort
    | with_reducible apply Keeps.ite
    | simp only [Keeps.litEq]
    | intro _
    | split

theorem keeps_rxChecked {r₀ s : State} {port : Nat} {f : CvtFrame} {k : State → State} (h : ∀ t, Keeps r₀ t → Keeps r₀ (k t)) (g : Keeps r₀ s) :
    Keeps r₀ (rxChecked s port f k) := by
  unfold rxChecked
  dsimp only
  repeat' first
    | with_reducible assumption
    | apply h
    | with_reducible apply keeps_discard
    | with_reducible apply keeps_frameWake
    | with_reducible apply keeps_nakPort
    | with_reducible apply keeps_shimTaken
    | with_reducible apply keeps_satFld
    | split


theorem keeps_rxStream {r₀ s : State} {port : Nat} {f : CvtFrame} {k : State → Stream → State} (h : ∀ t x, Keeps r₀ t → Keeps r₀ (k t x)) (g : Keeps r₀ s) :
    Keeps r₀ (rxStream s port f k) := by
  unfold rxStream
  refine keeps_rxChecked (fun _ _ => ?_) g
  dsimp only
  repeat' first | with_reducible assumption | with_reducible apply keeps_discard | (apply h; with_reducible apply keeps_modStream) | split


theorem keeps_rxOrdered {r₀ : State} (s : State) (port : Nat) (f : CvtFrame) (h₀ : Keeps r₀ s) : Keeps r₀ (rxOrdered s port f) := by
  unfold rxOrdered
  try dsimp only
  repeat' first
    | with_reducible assumption
    | with_reducible apply keeps_takeAck
    | with_reducible apply keeps_rxSeq
    | with_reducible apply keeps_rxStream
    | with_reducible apply Keeps.ite
    | intro _
    | split

theorem keeps_execCvtData {r₀ : State} (port : Fin 32) (f : CvtFrame) (s : State) (h₀ : Keeps r₀ s) : KeepsR r₀ (execCvtData port f s) := by
  unfold execCvtData
  try dsimp only
  repeat' first
    | with_reducible assumption
    | with_reducible apply KeepsR.fault
    | with_reducible apply KeepsR.next
    | with_reducible apply keeps_rxOrdered
    | with_reducible apply Keeps.ite
    | with_reducible apply KeepsR.ite
    | intro _
    | split

theorem keeps_execCvtChime {r₀ : State} (port : Fin 32) (f : CvtFrame) (s : State) (h₀ : Keeps r₀ s) : KeepsR r₀ (execCvtChime port f s) := by
  unfold execCvtChime
  try dsimp only
  repeat' first
    | with_reducible assumption
    | with_reducible apply KeepsR.fault
    | with_reducible apply KeepsR.next
    | with_reducible apply keeps_rxOrdered
    | with_reducible apply Keeps.ite
    | with_reducible apply KeepsR.ite
    | intro _
    | split

theorem keeps_execCvtClose {r₀ : State} (port : Fin 32) (f : CvtFrame) (s : State) (h₀ : Keeps r₀ s) : KeepsR r₀ (execCvtClose port f s) := by
  unfold execCvtClose
  try dsimp only
  repeat' first
    | with_reducible assumption
    | with_reducible apply KeepsR.fault
    | with_reducible apply KeepsR.next
    | with_reducible apply keeps_rxOrdered
    | with_reducible apply Keeps.ite
    | with_reducible apply KeepsR.ite
    | intro _
    | split

theorem keeps_rxCte {r₀ : State} (s : State) (port kind : Nat) (f : CvtFrame) (h₀ : Keeps r₀ s) : Keeps r₀ (rxCte s port kind f) := by
  unfold rxCte
  try dsimp only
  repeat' first
    | with_reducible assumption
    | with_reducible apply keeps_rxOrdered
    | with_reducible apply Keeps.ite
    | simp only [Keeps.litEq]
    | intro _
    | split

theorem keeps_execCteArrive {r₀ : State} (port : Fin 32) (f : CvtFrame) (s : State) (h₀ : Keeps r₀ s) : KeepsR r₀ (execCteArrive port f s) := by
  unfold execCteArrive
  try dsimp only
  repeat' first
    | with_reducible assumption
    | with_reducible apply KeepsR.fault
    | with_reducible apply KeepsR.next
    | with_reducible apply keeps_rxCte
    | with_reducible apply Keeps.ite
    | with_reducible apply KeepsR.ite
    | intro _
    | split

theorem keeps_execCteRelease {r₀ : State} (port : Fin 32) (f : CvtFrame) (s : State) (h₀ : Keeps r₀ s) : KeepsR r₀ (execCteRelease port f s) := by
  unfold execCteRelease
  try dsimp only
  repeat' first
    | with_reducible assumption
    | with_reducible apply KeepsR.fault
    | with_reducible apply KeepsR.next
    | with_reducible apply keeps_rxCte
    | with_reducible apply Keeps.ite
    | with_reducible apply KeepsR.ite
    | intro _
    | split

theorem keeps_execCteExpUp {r₀ : State} (port : Fin 32) (f : CvtFrame) (s : State) (h₀ : Keeps r₀ s) : KeepsR r₀ (execCteExpUp port f s) := by
  unfold execCteExpUp
  try dsimp only
  repeat' first
    | with_reducible assumption
    | with_reducible apply KeepsR.fault
    | with_reducible apply KeepsR.next
    | with_reducible apply keeps_rxCte
    | with_reducible apply Keeps.ite
    | with_reducible apply KeepsR.ite
    | intro _
    | split

theorem keeps_execCteExpDown {r₀ : State} (port : Fin 32) (f : CvtFrame) (s : State) (h₀ : Keeps r₀ s) : KeepsR r₀ (execCteExpDown port f s) := by
  unfold execCteExpDown
  try dsimp only
  repeat' first
    | with_reducible assumption
    | with_reducible apply KeepsR.fault
    | with_reducible apply KeepsR.next
    | with_reducible apply keeps_rxCte
    | with_reducible apply Keeps.ite
    | with_reducible apply KeepsR.ite
    | intro _
    | split

theorem keeps_execCteIntUp {r₀ : State} (port : Fin 32) (f : CvtFrame) (s : State) (h₀ : Keeps r₀ s) : KeepsR r₀ (execCteIntUp port f s) := by
  unfold execCteIntUp
  try dsimp only
  repeat' first
    | with_reducible assumption
    | with_reducible apply KeepsR.fault
    | with_reducible apply KeepsR.next
    | with_reducible apply keeps_rxCte
    | with_reducible apply Keeps.ite
    | with_reducible apply KeepsR.ite
    | intro _
    | split

theorem keeps_execCteIntDown {r₀ : State} (port : Fin 32) (f : CvtFrame) (s : State) (h₀ : Keeps r₀ s) : KeepsR r₀ (execCteIntDown port f s) := by
  unfold execCteIntDown
  try dsimp only
  repeat' first
    | with_reducible assumption
    | with_reducible apply KeepsR.fault
    | with_reducible apply KeepsR.next
    | with_reducible apply keeps_rxCte
    | with_reducible apply Keeps.ite
    | with_reducible apply KeepsR.ite
    | intro _
    | split

theorem keeps_execCtePart {r₀ : State} (port : Fin 32) (f : CvtFrame) (s : State) (h₀ : Keeps r₀ s) : KeepsR r₀ (execCtePart port f s) := by
  unfold execCtePart
  try dsimp only
  repeat' first
    | with_reducible assumption
    | with_reducible apply KeepsR.fault
    | with_reducible apply KeepsR.next
    | with_reducible apply keeps_rxCte
    | with_reducible apply Keeps.ite
    | with_reducible apply KeepsR.ite
    | intro _
    | split

theorem keeps_execCteCadence {r₀ : State} (port : Fin 32) (f : CvtFrame) (s : State) (h₀ : Keeps r₀ s) : KeepsR r₀ (execCteCadence port f s) := by
  unfold execCteCadence
  try dsimp only
  repeat' first
    | with_reducible assumption
    | with_reducible apply KeepsR.fault
    | with_reducible apply KeepsR.next
    | with_reducible apply keeps_rxCte
    | with_reducible apply Keeps.ite
    | with_reducible apply KeepsR.ite
    | intro _
    | split

theorem keeps_execCteMap {r₀ : State} (port : Fin 32) (f : CvtFrame) (s : State) (h₀ : Keeps r₀ s) : KeepsR r₀ (execCteMap port f s) := by
  unfold execCteMap
  try dsimp only
  repeat' first
    | with_reducible assumption
    | with_reducible apply KeepsR.fault
    | with_reducible apply KeepsR.next
    | with_reducible apply keeps_rxCte
    | with_reducible apply Keeps.ite
    | with_reducible apply KeepsR.ite
    | intro _
    | split

theorem keeps_execCteSummary {r₀ : State} (port : Fin 32) (f : CvtFrame) (s : State) (h₀ : Keeps r₀ s) : KeepsR r₀ (execCteSummary port f s) := by
  unfold execCteSummary
  try dsimp only
  repeat' first
    | with_reducible assumption
    | with_reducible apply KeepsR.fault
    | with_reducible apply KeepsR.next
    | with_reducible apply keeps_rxCte
    | with_reducible apply Keeps.ite
    | with_reducible apply KeepsR.ite
    | intro _
    | split

theorem keeps_takeRtt {r₀ : State} (s : State) (x : Nat) (r : Nat) (h₀ : Keeps r₀ s) : Keeps r₀ (takeRtt s x r) := by
  unfold takeRtt
  try dsimp only
  repeat' first
    | with_reducible assumption
    | with_reducible apply keeps_modStream
    | with_reducible apply Keeps.ite
    | simp only [Keeps.litEq]
    | intro _
    | split

theorem keeps_takeDist {r₀ : State} (s : State) (x hop : Nat) (h₀ : Keeps r₀ s) : Keeps r₀ (takeDist s x hop) := by
  unfold takeDist
  try dsimp only
  repeat' first
    | with_reducible assumption
    | with_reducible apply keeps_setReg
    | with_reducible apply Keeps.foldl
    | with_reducible apply Keeps.foldl1
    | with_reducible apply Keeps.ite
    | simp only [Keeps.litEq]
    | intro _
    | split

theorem keeps_execCvtAck {r₀ : State} (port : Fin 32) (f : CvtFrame) (rtt : Option Nat) (s : State) (h₀ : Keeps r₀ s) : KeepsR r₀ (execCvtAck port f rtt s) := by
  unfold execCvtAck
  try dsimp only
  repeat' first
    | with_reducible assumption
    | with_reducible apply KeepsR.fault
    | with_reducible apply KeepsR.next
    | with_reducible apply keeps_takeAck
    | with_reducible apply keeps_rxStream
    | with_reducible apply keeps_takeRtt
    | with_reducible apply keeps_takeDist
    | with_reducible apply Keeps.ite
    | with_reducible apply KeepsR.ite
    | simp only [Keeps.litEq]
    | intro _
    | split

theorem keeps_execCvtSack {r₀ : State} (port : Fin 32) (f : CvtFrame) (s : State) (h₀ : Keeps r₀ s) : KeepsR r₀ (execCvtSack port f s) := by
  unfold execCvtSack
  try dsimp only
  repeat' first
    | with_reducible assumption
    | with_reducible apply KeepsR.fault
    | with_reducible apply KeepsR.next
    | with_reducible apply keeps_resend
    | with_reducible apply keeps_takeAck
    | with_reducible apply keeps_rxStream
    | with_reducible apply Keeps.ite
    | with_reducible apply KeepsR.ite
    | simp only [Keeps.litEq]
    | intro _
    | split

theorem keeps_closeColl {r₀ : State} (s : State) (k : Nat) (h₀ : Keeps r₀ s) : Keeps r₀ (closeColl s k) := by
  unfold closeColl
  try dsimp only
  repeat' first
    | with_reducible assumption
    | with_reducible apply keeps_closeStream
    | with_reducible apply Keeps.foldl
    | with_reducible apply Keeps.foldl1
    | with_reducible apply Keeps.ite
    | simp only [Keeps.litEq]
    | intro _
    | split

theorem keeps_renumber {r₀ : State} (s : State) (x : Nat) (h₀ : Keeps r₀ s) : Keeps r₀ (renumber s x) := by
  unfold renumber
  try dsimp only
  repeat' first
    | with_reducible assumption
    | with_reducible apply keeps_modStream
    | with_reducible apply keeps_modCtx
    | with_reducible apply Keeps.ite
    | simp only [Keeps.litEq]
    | intro _
    | split

theorem keeps_openedStream {r₀ : State} (s : State) (x peerIdx seq credit : Nat) (h₀ : Keeps r₀ s) : Keeps r₀ (openedStream s x peerIdx seq credit) := by
  unfold openedStream
  try dsimp only
  repeat' first
    | with_reducible assumption
    | with_reducible apply keeps_setFld
    | with_reducible apply keeps_modStream
    | with_reducible apply keeps_finishMan
    | with_reducible apply keeps_renumber
    | with_reducible apply Keeps.ite
    | simp only [Keeps.litEq]
    | intro _
    | split

theorem keeps_tunReset {r₀ : State} (s : State) (d : Nat) (f : CvtFrame) (h₀ : Keeps r₀ s) : Keeps r₀ (tunReset s d f) := by
  unfold tunReset
  try dsimp only
  repeat' first
    | with_reducible assumption
    | with_reducible apply Keeps.ite
    | simp only [Keeps.litEq]
    | intro _
    | split

theorem keeps_execCvtOpen {r₀ : State} (port : Fin 32) (f : CvtFrame) (s : State) (h₀ : Keeps r₀ s) : KeepsR r₀ (execCvtOpen port f s) := by
  unfold execCvtOpen
  try dsimp only
  repeat' first
    | with_reducible assumption
    | with_reducible apply KeepsR.fault
    | with_reducible apply KeepsR.next
    | with_reducible apply keeps_drawn
    | with_reducible apply keeps_modStream
    | with_reducible apply keeps_sendBare
    | with_reducible apply keeps_sendAccept
    | with_reducible apply keeps_rxChecked
    | with_reducible apply keeps_openedStream
    | with_reducible apply keeps_tunReset
    | with_reducible apply Keeps.ite
    | with_reducible apply KeepsR.ite
    | simp only [Keeps.litEq]
    | intro _
    | split

theorem keeps_execCvtAccept {r₀ : State} (port : Fin 32) (f : CvtFrame) (s : State) (h₀ : Keeps r₀ s) : KeepsR r₀ (execCvtAccept port f s) := by
  unfold execCvtAccept
  try dsimp only
  repeat' first
    | with_reducible assumption
    | with_reducible apply KeepsR.fault
    | with_reducible apply KeepsR.next
    | with_reducible apply keeps_discard
    | with_reducible apply keeps_rxChecked
    | with_reducible apply keeps_openedStream
    | with_reducible apply Keeps.ite
    | with_reducible apply KeepsR.ite
    | simp only [Keeps.litEq]
    | intro _
    | split

theorem keeps_dropOpening {r₀ : State} (s : State) (x status : Nat) (h₀ : Keeps r₀ s) : Keeps r₀ (dropOpening s x status) := by
  unfold dropOpening
  try dsimp only
  repeat' first
    | with_reducible assumption
    | with_reducible apply keeps_finishMan
    | with_reducible apply keeps_fault1
    | with_reducible apply Keeps.ite
    | simp only [Keeps.litEq]
    | intro _
    | split

theorem keeps_execCvtRefuse {r₀ : State} (port : Fin 32) (f : CvtFrame) (s : State) (h₀ : Keeps r₀ s) : KeepsR r₀ (execCvtRefuse port f s) := by
  unfold execCvtRefuse
  try dsimp only
  repeat' first
    | with_reducible assumption
    | with_reducible apply KeepsR.fault
    | with_reducible apply KeepsR.next
    | with_reducible apply keeps_discard
    | with_reducible apply keeps_rxChecked
    | with_reducible apply keeps_dropOpening
    | with_reducible apply Keeps.ite
    | with_reducible apply KeepsR.ite
    | simp only [Keeps.litEq]
    | intro _
    | split

theorem keeps_execAckDelayTimer {r₀ : State} (x : Fin 16384) (s : State) (h₀ : Keeps r₀ s) : KeepsR r₀ (execAckDelayTimer x s) := by
  unfold execAckDelayTimer
  try dsimp only
  repeat' first
    | with_reducible assumption
    | with_reducible apply KeepsR.fault
    | with_reducible apply KeepsR.next
    | with_reducible apply keeps_sendAck
    | with_reducible apply Keeps.ite
    | with_reducible apply KeepsR.ite
    | simp only [Keeps.litEq]
    | intro _
    | split

theorem keeps_execRtoExpiry {r₀ : State} (x : Fin 16384) (seq : BitVec 32) (s : State) (h₀ : Keeps r₀ s) : KeepsR r₀ (execRtoExpiry x seq s) := by
  unfold execRtoExpiry
  try dsimp only
  repeat' first
    | with_reducible assumption
    | with_reducible apply KeepsR.fault
    | with_reducible apply KeepsR.next
    | with_reducible apply keeps_modStream
    | with_reducible apply keeps_failStream
    | with_reducible apply Keeps.ite
    | with_reducible apply KeepsR.ite
    | simp only [Keeps.litEq]
    | intro _
    | split

theorem keeps_execOpenResend {r₀ : State} (x : Fin 16384) (s : State) (h₀ : Keeps r₀ s) : KeepsR r₀ (execOpenResend x s) := by
  unfold execOpenResend
  try dsimp only
  repeat' first
    | with_reducible assumption
    | with_reducible apply KeepsR.fault
    | with_reducible apply KeepsR.next
    | with_reducible apply keeps_sendOpen
    | with_reducible apply Keeps.ite
    | with_reducible apply KeepsR.ite
    | simp only [Keeps.litEq]
    | intro _
    | split

theorem keeps_execStreamOpenTimeout {r₀ : State} (x : Fin 16384) (s : State) (h₀ : Keeps r₀ s) : KeepsR r₀ (execStreamOpenTimeout x s) := by
  unfold execStreamOpenTimeout
  try dsimp only
  repeat' first
    | with_reducible assumption
    | with_reducible apply KeepsR.fault
    | with_reducible apply KeepsR.next
    | with_reducible apply keeps_dropOpening
    | with_reducible apply Keeps.ite
    | with_reducible apply KeepsR.ite
    | simp only [Keeps.litEq]
    | intro _
    | split

end Sys2Proof.Machine
end

