-- ==== Sys2Proof/Laws/Keeps/Vse.lean ====
section
/-! SUPPORT. What each operation of Machine/Vse.lean keeps: the queue and the invariant. -/

namespace Sys2Proof.Machine

theorem keeps_vFlagsInto {r₀ : State} (s : State) (k v pc : Nat) (fl : Tbl Nat) (h₀ : Keeps r₀ s) : Keeps r₀ (vFlagsInto s k v pc fl) := by
  unfold vFlagsInto
  try dsimp only
  repeat' first
    | with_reducible assumption
    | with_reducible apply keeps_orReg
    | with_reducible apply keeps_modVc
    | with_reducible apply Keeps.foldl
    | with_reducible apply Keeps.foldl1
    | with_reducible apply Keeps.ite
    | simp only [Keeps.litEq]
    | intro _
    | split

theorem keeps_vWrite {r₀ : State} (s : State) (pc : Nat) (vc : Vcore) (a : VAcc) (h₀ : Keeps r₀ s) : Keeps r₀ (vWrite s pc vc a) := by
  unfold vWrite
  try dsimp only
  repeat' first
    | with_reducible assumption
    | with_reducible apply keeps_devSegs
    | with_reducible apply Keeps.foldl
    | with_reducible apply Keeps.foldl1
    | with_reducible apply Keeps.ite
    | intro _
    | split

theorem keeps_settle {r₀ : State} (t : VRun) (pc : Nat) (vc : Vcore) (lag : Nat) (h₀ : Keeps r₀ t.s) : Keeps r₀ (t.settle pc vc lag).s := by
  unfold VRun.settle
  repeat' first | with_reducible assumption | with_reducible apply keeps_vWrite | split


theorem keeps_groupStep {r₀ : State} (c : Ctx) (pc v : Nat) (vc : Vcore) (ops : List Nat) (inner lag : Nat) (t : VRun) (x : Nat × Nat × Nat) (h₀ : Keeps r₀ t.s) :
    Keeps r₀ (groupStep c pc v vc ops inner lag t x).s := by
  unfold groupStep
  dsimp only
  repeat' first | with_reducible assumption | exact keeps_settle t pc vc lag h₀ | split


theorem keeps_runGroups {r₀ : State} (s : State) (c : Ctx) (pc v : Nat) (vc : Vcore) (ops : List Nat) (inner outer lag : Nat) (h₀ : Keeps r₀ s) :
    Keeps r₀ (runGroups s c pc v vc ops inner outer lag).s := by
  have all : ∀ (l : List (Nat × Nat × Nat)) (t : VRun), Keeps r₀ t.s → Keeps r₀ (l.foldl (groupStep c pc v vc ops inner lag) t).s := by
    intro l
    induction l with
    | nil => exact fun _ g => g
    | cons x l ih => exact fun t g => ih _ (keeps_groupStep c pc v vc ops inner lag t x g)
  exact Keeps.foldl (fun _ _ g => keeps_vWrite _ _ _ _ g) (all _ _ h₀)


theorem keeps_vRun {r₀ : State} (s : State) (c : Ctx) (pc v : Nat) (vc : Vcore) (ops : List Nat) (inner outer : Nat) (h₀ : Keeps r₀ s) :
    Keeps r₀ (vRun s c pc v vc ops inner outer).s := by
  unfold vRun
  split
  · exact keeps_runGroups (h₀ := h₀.set) ..
  · exact keeps_runGroups (h₀ := h₀) ..


end Sys2Proof.Machine
end

