-- ==== Sys2Proof/Laws/Keeps/VseExec.lean ====
section
/-! SUPPORT. What each operation of Machine/VseExec.lean keeps: the queue and the invariant. -/

namespace Sys2Proof.Machine

theorem keeps_faultIf {r₀ : State} (s : State) (k : Nat) (p : Option Prob) (h₀ : Keeps r₀ s) : Keeps r₀ (faultIf s k p) := by
  unfold faultIf
  try dsimp only
  repeat' first
    | with_reducible assumption
    | with_reducible apply keeps_fault1
    | with_reducible apply Keeps.ite
    | simp only [Keeps.litEq]
    | intro _
    | split

theorem keeps_runChain {r₀ : State} (s : State) (k : Nat) (c : Ctx) (vc : Vcore) (v : Nat) (ops : List Nat) (h₀ : Keeps r₀ s) : Keeps r₀ (runChain s k c vc v ops) := by
  unfold runChain
  try dsimp only
  repeat' first
    | with_reducible assumption
    | with_reducible apply keeps_fault1
    | with_reducible apply keeps_vFlagsInto
    | with_reducible apply keeps_vRun
    | with_reducible apply keeps_faultIf
    | with_reducible apply Keeps.ite
    | simp only [Keeps.litEq]
    | intro _
    | split

theorem keeps_doChainOp {r₀ : State} (s : State) (k : Nat) (c : Ctx) (vc : Vcore) (v : Nat) (op : BitVec 128) (h₀ : Keeps r₀ s) : Keeps r₀ (doChainOp s k c vc v op) := by
  unfold doChainOp
  try dsimp only
  repeat' first
    | with_reducible assumption
    | with_reducible apply keeps_modVc
    | with_reducible apply keeps_runChain
    | with_reducible apply Keeps.ite
    | simp only [Keeps.litEq]
    | intro _
    | split

theorem keeps_doAlone {r₀ s : State} {k : Nat} {c : Ctx} {vc : Vcore} {v : Nat} {op : BitVec 128} {f : State → State} (h : ∀ t, Keeps r₀ t → Keeps r₀ (f t)) (g : Keeps r₀ s) :
    Keeps r₀ (doAlone s k c vc v op f) := by
  unfold doAlone
  repeat' first | with_reducible assumption | apply h | with_reducible apply keeps_fault1 | split


theorem keeps_doVsdA {r₀ : State} (s : State) (k v : Nat) (op : BitVec 128) (h₀ : Keeps r₀ s) : Keeps r₀ (doVsdA s k v op) := by
  unfold doVsdA
  try dsimp only
  repeat' first
    | with_reducible assumption
    | with_reducible apply keeps_modVc
    | with_reducible apply Keeps.ite
    | simp only [Keeps.litEq]
    | intro _
    | split

theorem keeps_doVsdB {r₀ : State} (s : State) (k v : Nat) (op : BitVec 128) (h₀ : Keeps r₀ s) : Keeps r₀ (doVsdB s k v op) := by
  unfold doVsdB
  try dsimp only
  repeat' first
    | with_reducible assumption
    | with_reducible apply keeps_modVc
    | with_reducible apply Keeps.ite
    | simp only [Keeps.litEq]
    | intro _
    | split

theorem keeps_doVstat {r₀ : State} (s : State) (k : Nat) (c : Ctx) (vc : Vcore) (v : Nat) (op : BitVec 128) (h₀ : Keeps r₀ s) : Keeps r₀ (doVstat s k c vc v op) := by
  unfold doVstat
  try dsimp only
  repeat' first
    | with_reducible assumption
    | with_reducible apply keeps_devWrite
    | with_reducible apply keeps_modVc
    | with_reducible apply keeps_fault1
    | with_reducible apply Keeps.ite
    | simp only [Keeps.litEq]
    | intro _
    | split

theorem keeps_lagGroups {r₀ s : State} {lag : Nat} {groups : List (List (Nat × Nat))} {f : State → State → List (Nat × Nat) → State × Option Prob}
    (h : ∀ t u x, Keeps r₀ t → Keeps r₀ u → Keeps r₀ (f t u x).1) (g : Keeps r₀ s) : Keeps r₀ (lagGroups s lag groups f).1 := by
  have get : ∀ (l : List State) (i : Nat), (∀ u ∈ l, Keeps r₀ u) → Keeps r₀ (l.getD i s) := fun l i k => by
    rw [List.getD_eq_getElem?_getD]
    cases e : l[i]? with
    | none => exact g
    | some u => exact k u (List.mem_of_getElem? e)
  have all : ∀ (l : List (List (Nat × Nat))) (x : List State × Option Prob), (∀ u ∈ x.1, Keeps r₀ u) →
      ∀ u ∈ (l.foldl (fun (t : List State × Option Prob) x => if t.2.isSome then t else let y := f (t.1.getD lag s) (t.1.headD s) x; (y.1 :: t.1, y.2)) x).1, Keeps r₀ u := by
    intro l
    induction l with
    | nil => exact fun _ k => k
    | cons b l ih =>
      refine fun x k => ih _ ?_
      dsimp only
      by_cases hx : x.2.isSome = true
      · rw [if_pos hx]
        exact k
      · rw [if_neg hx]
        intro u m
        rcases List.mem_cons.1 m with rfl | m
        · refine h _ _ _ (get _ _ k) ?_
          rw [List.headD_eq_head?_getD, List.head?_eq_getElem?, ← List.getD_eq_getElem?_getD]
          exact get _ _ k
        · exact k u m
  unfold lagGroups
  dsimp only
  rw [List.headD_eq_head?_getD, List.head?_eq_getElem?, ← List.getD_eq_getElem?_getD]
  exact get _ _ (all groups ([s], none) (fun u m => by rw [List.mem_singleton.1 m]; exact g))


theorem keeps_vCommit {r₀ : State} (s : State) (k v pc : Nat) (vc : Vcore) (a : VAcc) (h₀ : Keeps r₀ s) : Keeps r₀ (vCommit s k v pc vc a) := by
  unfold vCommit
  try dsimp only
  repeat' first
    | with_reducible assumption
    | with_reducible apply keeps_vFlagsInto
    | with_reducible apply keeps_vWrite
    | with_reducible apply Keeps.ite
    | intro _
    | split

theorem keeps_doVgath {r₀ : State} (s : State) (k : Nat) (c : Ctx) (vc : Vcore) (v o : Nat) (h₀ : Keeps r₀ s) : Keeps r₀ (doVgath s k c vc v o) := by
  unfold doVgath
  try dsimp only
  repeat' first
    | with_reducible assumption
    | with_reducible apply keeps_fault1
    | with_reducible apply keeps_faultIf
    | with_reducible apply keeps_lagGroups
    | with_reducible apply keeps_vCommit
    | with_reducible apply Keeps.ite
    | simp only [Keeps.litEq]
    | intro _
    | split

theorem keeps_scatOne {r₀ : State} (s : State) (k : Nat) (pc v : Nat) (vc : Vcore) (o : Nat) (src : State) (e : Nat × Nat × Bool × Nat) (h₀ : Keeps r₀ s) : Keeps r₀ (scatOne s k pc v vc o src e) := by
  unfold scatOne
  try dsimp only
  repeat' first
    | with_reducible assumption
    | with_reducible apply keeps_devSeg
    | with_reducible apply keeps_vFlagsInto
    | with_reducible apply Keeps.ite
    | intro _
    | split

theorem keeps_doScat {r₀ : State} (s : State) (k : Nat) (c : Ctx) (vc : Vcore) (v o : Nat) (order : List (Nat × Nat × Bool × Nat) → List (Nat × Nat × Bool × Nat)) (h₀ : Keeps r₀ s) : Keeps r₀ (doScat s k c vc v o order) := by
  unfold doScat
  try dsimp only
  repeat' first
    | with_reducible assumption
    | with_reducible apply keeps_fault1
    | with_reducible apply keeps_faultIf
    | with_reducible apply keeps_lagGroups
    | with_reducible apply keeps_scatOne
    | with_reducible apply Keeps.foldl
    | with_reducible apply Keeps.foldl1
    | with_reducible apply Keeps.ite
    | simp only [Keeps.litEq]
    | intro _
    | split

theorem keeps_doScatFast {r₀ : State} (s : State) (k : Nat) (c : Ctx) (vc : Vcore) (v o : Nat) (h₀ : Keeps r₀ s) : Keeps r₀ (doScatFast s k c vc v o) := by
  unfold doScatFast
  try dsimp only
  repeat' first
    | with_reducible assumption
    | with_reducible apply keeps_recVar
    | with_reducible apply keeps_fault1
    | with_reducible apply keeps_doScat
    | with_reducible apply Keeps.ite
    | simp only [Keeps.litEq]
    | intro _
    | split

theorem keeps_execVsdA {r₀ : State} (p : Fin 8) (v : Fin 96) (op : BitVec 128) (s : State) (h₀ : Keeps r₀ s) : KeepsR r₀ (execVsdA p v op s) := by
  unfold execVsdA
  try dsimp only
  repeat' first
    | with_reducible assumption
    | with_reducible apply KeepsR.fault
    | with_reducible apply KeepsR.next
    | with_reducible apply keeps_onEngine
    | with_reducible apply keeps_doAlone
    | with_reducible apply keeps_doVsdA
    | with_reducible apply Keeps.ite
    | with_reducible apply KeepsR.ite
    | intro _
    | split

theorem keeps_execVsdB {r₀ : State} (p : Fin 8) (v : Fin 96) (op : BitVec 128) (s : State) (h₀ : Keeps r₀ s) : KeepsR r₀ (execVsdB p v op s) := by
  unfold execVsdB
  try dsimp only
  repeat' first
    | with_reducible assumption
    | with_reducible apply KeepsR.fault
    | with_reducible apply KeepsR.next
    | with_reducible apply keeps_onEngine
    | with_reducible apply keeps_doAlone
    | with_reducible apply keeps_doVsdB
    | with_reducible apply Keeps.ite
    | with_reducible apply KeepsR.ite
    | intro _
    | split

theorem keeps_execVstat {r₀ : State} (p : Fin 8) (v : Fin 96) (op : BitVec 128) (s : State) (h₀ : Keeps r₀ s) : KeepsR r₀ (execVstat p v op s) := by
  unfold execVstat
  try dsimp only
  repeat' first
    | with_reducible assumption
    | with_reducible apply KeepsR.fault
    | with_reducible apply KeepsR.next
    | with_reducible apply keeps_onEngine
    | with_reducible apply keeps_doAlone
    | with_reducible apply keeps_doVstat
    | with_reducible apply Keeps.ite
    | with_reducible apply KeepsR.ite
    | intro _
    | split

theorem keeps_execVgath {r₀ : State} (p : Fin 8) (v : Fin 96) (op : BitVec 128) (s : State) (h₀ : Keeps r₀ s) : KeepsR r₀ (execVgath p v op s) := by
  unfold execVgath
  try dsimp only
  repeat' first
    | with_reducible assumption
    | with_reducible apply KeepsR.fault
    | with_reducible apply KeepsR.next
    | with_reducible apply keeps_onEngine
    | with_reducible apply keeps_doAlone
    | with_reducible apply keeps_doVgath
    | with_reducible apply Keeps.ite
    | with_reducible apply KeepsR.ite
    | intro _
    | split

theorem keeps_execScatadd {r₀ : State} (p : Fin 8) (v : Fin 96) (op : BitVec 128) (s : State) (h₀ : Keeps r₀ s) : KeepsR r₀ (execScatadd p v op s) := by
  unfold execScatadd
  try dsimp only
  repeat' first
    | with_reducible assumption
    | with_reducible apply KeepsR.fault
    | with_reducible apply KeepsR.next
    | with_reducible apply keeps_onEngine
    | with_reducible apply keeps_doAlone
    | with_reducible apply keeps_doScat
    | with_reducible apply Keeps.ite
    | with_reducible apply KeepsR.ite
    | intro _
    | split

theorem keeps_execScataddFast {r₀ : State} (p : Fin 8) (v : Fin 96) (op : BitVec 128) (s : State) (h₀ : Keeps r₀ s) : KeepsR r₀ (execScataddFast p v op s) := by
  unfold execScataddFast
  try dsimp only
  repeat' first
    | with_reducible assumption
    | with_reducible apply KeepsR.fault
    | with_reducible apply KeepsR.next
    | with_reducible apply keeps_onEngine
    | with_reducible apply keeps_doAlone
    | with_reducible apply keeps_doScatFast
    | with_reducible apply Keeps.ite
    | with_reducible apply KeepsR.ite
    | intro _
    | split

theorem keeps_chainRow {r₀ : State} (p : Fin 8) (v : Fin 96) (op : BitVec 128) (c : Nat) (s : State) (h₀ : Keeps r₀ s) : KeepsR r₀ (chainRow p v op c s) := by
  unfold chainRow
  try dsimp only
  repeat' first
    | with_reducible assumption
    | with_reducible apply KeepsR.fault
    | with_reducible apply KeepsR.next
    | with_reducible apply keeps_onEngine
    | with_reducible apply keeps_doChainOp
    | with_reducible apply Keeps.ite
    | with_reducible apply KeepsR.ite
    | intro _
    | split

theorem keeps_execVadd {r₀ : State} (p : Fin 8) (v : Fin 96) (op : BitVec 128) (s : State) (h₀ : Keeps r₀ s) : KeepsR r₀ (execVadd p v op s) := by
  unfold execVadd
  try dsimp only
  repeat' first
    | with_reducible assumption
    | with_reducible apply KeepsR.fault
    | with_reducible apply KeepsR.next
    | with_reducible apply keeps_chainRow
    | with_reducible apply Keeps.ite
    | with_reducible apply KeepsR.ite
    | intro _
    | split

theorem keeps_execVsub {r₀ : State} (p : Fin 8) (v : Fin 96) (op : BitVec 128) (s : State) (h₀ : Keeps r₀ s) : KeepsR r₀ (execVsub p v op s) := by
  unfold execVsub
  try dsimp only
  repeat' first
    | with_reducible assumption
    | with_reducible apply KeepsR.fault
    | with_reducible apply KeepsR.next
    | with_reducible apply keeps_chainRow
    | with_reducible apply Keeps.ite
    | with_reducible apply KeepsR.ite
    | intro _
    | split

theorem keeps_execVmul {r₀ : State} (p : Fin 8) (v : Fin 96) (op : BitVec 128) (s : State) (h₀ : Keeps r₀ s) : KeepsR r₀ (execVmul p v op s) := by
  unfold execVmul
  try dsimp only
  repeat' first
    | with_reducible assumption
    | with_reducible apply KeepsR.fault
    | with_reducible apply KeepsR.next
    | with_reducible apply keeps_chainRow
    | with_reducible apply Keeps.ite
    | with_reducible apply KeepsR.ite
    | intro _
    | split

theorem keeps_execVfma {r₀ : State} (p : Fin 8) (v : Fin 96) (op : BitVec 128) (s : State) (h₀ : Keeps r₀ s) : KeepsR r₀ (execVfma p v op s) := by
  unfold execVfma
  try dsimp only
  repeat' first
    | with_reducible assumption
    | with_reducible apply KeepsR.fault
    | with_reducible apply KeepsR.next
    | with_reducible apply keeps_chainRow
    | with_reducible apply Keeps.ite
    | with_reducible apply KeepsR.ite
    | intro _
    | split

theorem keeps_execVmax {r₀ : State} (p : Fin 8) (v : Fin 96) (op : BitVec 128) (s : State) (h₀ : Keeps r₀ s) : KeepsR r₀ (execVmax p v op s) := by
  unfold execVmax
  try dsimp only
  repeat' first
    | with_reducible assumption
    | with_reducible apply KeepsR.fault
    | with_reducible apply KeepsR.next
    | with_reducible apply keeps_chainRow
    | with_reducible apply Keeps.ite
    | with_reducible apply KeepsR.ite
    | intro _
    | split

theorem keeps_execVmin {r₀ : State} (p : Fin 8) (v : Fin 96) (op : BitVec 128) (s : State) (h₀ : Keeps r₀ s) : KeepsR r₀ (execVmin p v op s) := by
  unfold execVmin
  try dsimp only
  repeat' first
    | with_reducible assumption
    | with_reducible apply KeepsR.fault
    | with_reducible apply KeepsR.next
    | with_reducible apply keeps_chainRow
    | with_reducible apply Keeps.ite
    | with_reducible apply KeepsR.ite
    | intro _
    | split

theorem keeps_execVabs {r₀ : State} (p : Fin 8) (v : Fin 96) (op : BitVec 128) (s : State) (h₀ : Keeps r₀ s) : KeepsR r₀ (execVabs p v op s) := by
  unfold execVabs
  try dsimp only
  repeat' first
    | with_reducible assumption
    | with_reducible apply KeepsR.fault
    | with_reducible apply KeepsR.next
    | with_reducible apply keeps_chainRow
    | with_reducible apply Keeps.ite
    | with_reducible apply KeepsR.ite
    | intro _
    | split

theorem keeps_execVneg {r₀ : State} (p : Fin 8) (v : Fin 96) (op : BitVec 128) (s : State) (h₀ : Keeps r₀ s) : KeepsR r₀ (execVneg p v op s) := by
  unfold execVneg
  try dsimp only
  repeat' first
    | with_reducible assumption
    | with_reducible apply KeepsR.fault
    | with_reducible apply KeepsR.next
    | with_reducible apply keeps_chainRow
    | with_reducible apply Keeps.ite
    | with_reducible apply KeepsR.ite
    | intro _
    | split

theorem keeps_execVcvt {r₀ : State} (p : Fin 8) (v : Fin 96) (op : BitVec 128) (s : State) (h₀ : Keeps r₀ s) : KeepsR r₀ (execVcvt p v op s) := by
  unfold execVcvt
  try dsimp only
  repeat' first
    | with_reducible assumption
    | with_reducible apply KeepsR.fault
    | with_reducible apply KeepsR.next
    | with_reducible apply keeps_chainRow
    | with_reducible apply Keeps.ite
    | with_reducible apply KeepsR.ite
    | intro _
    | split

theorem keeps_execVcmp {r₀ : State} (p : Fin 8) (v : Fin 96) (op : BitVec 128) (s : State) (h₀ : Keeps r₀ s) : KeepsR r₀ (execVcmp p v op s) := by
  unfold execVcmp
  try dsimp only
  repeat' first
    | with_reducible assumption
    | with_reducible apply KeepsR.fault
    | with_reducible apply KeepsR.next
    | with_reducible apply keeps_chainRow
    | with_reducible apply Keeps.ite
    | with_reducible apply KeepsR.ite
    | intro _
    | split

theorem keeps_execVexp2 {r₀ : State} (p : Fin 8) (v : Fin 96) (op : BitVec 128) (s : State) (h₀ : Keeps r₀ s) : KeepsR r₀ (execVexp2 p v op s) := by
  unfold execVexp2
  try dsimp only
  repeat' first
    | with_reducible assumption
    | with_reducible apply KeepsR.fault
    | with_reducible apply KeepsR.next
    | with_reducible apply keeps_chainRow
    | with_reducible apply Keeps.ite
    | with_reducible apply KeepsR.ite
    | intro _
    | split

theorem keeps_execVlog2 {r₀ : State} (p : Fin 8) (v : Fin 96) (op : BitVec 128) (s : State) (h₀ : Keeps r₀ s) : KeepsR r₀ (execVlog2 p v op s) := by
  unfold execVlog2
  try dsimp only
  repeat' first
    | with_reducible assumption
    | with_reducible apply KeepsR.fault
    | with_reducible apply KeepsR.next
    | with_reducible apply keeps_chainRow
    | with_reducible apply Keeps.ite
    | with_reducible apply KeepsR.ite
    | intro _
    | split

theorem keeps_execVrcp {r₀ : State} (p : Fin 8) (v : Fin 96) (op : BitVec 128) (s : State) (h₀ : Keeps r₀ s) : KeepsR r₀ (execVrcp p v op s) := by
  unfold execVrcp
  try dsimp only
  repeat' first
    | with_reducible assumption
    | with_reducible apply KeepsR.fault
    | with_reducible apply KeepsR.next
    | with_reducible apply keeps_chainRow
    | with_reducible apply Keeps.ite
    | with_reducible apply KeepsR.ite
    | intro _
    | split

theorem keeps_execVrsq {r₀ : State} (p : Fin 8) (v : Fin 96) (op : BitVec 128) (s : State) (h₀ : Keeps r₀ s) : KeepsR r₀ (execVrsq p v op s) := by
  unfold execVrsq
  try dsimp only
  repeat' first
    | with_reducible assumption
    | with_reducible apply KeepsR.fault
    | with_reducible apply KeepsR.next
    | with_reducible apply keeps_chainRow
    | with_reducible apply Keeps.ite
    | with_reducible apply KeepsR.ite
    | intro _
    | split

theorem keeps_execVtanh {r₀ : State} (p : Fin 8) (v : Fin 96) (op : BitVec 128) (s : State) (h₀ : Keeps r₀ s) : KeepsR r₀ (execVtanh p v op s) := by
  unfold execVtanh
  try dsimp only
  repeat' first
    | with_reducible assumption
    | with_reducible apply KeepsR.fault
    | with_reducible apply KeepsR.next
    | with_reducible apply keeps_chainRow
    | with_reducible apply Keeps.ite
    | with_reducible apply KeepsR.ite
    | intro _
    | split

theorem keeps_execVerf {r₀ : State} (p : Fin 8) (v : Fin 96) (op : BitVec 128) (s : State) (h₀ : Keeps r₀ s) : KeepsR r₀ (execVerf p v op s) := by
  unfold execVerf
  try dsimp only
  repeat' first
    | with_reducible assumption
    | with_reducible apply KeepsR.fault
    | with_reducible apply KeepsR.next
    | with_reducible apply keeps_chainRow
    | with_reducible apply Keeps.ite
    | with_reducible apply KeepsR.ite
    | intro _
    | split

theorem keeps_execVrsum {r₀ : State} (p : Fin 8) (v : Fin 96) (op : BitVec 128) (s : State) (h₀ : Keeps r₀ s) : KeepsR r₀ (execVrsum p v op s) := by
  unfold execVrsum
  try dsimp only
  repeat' first
    | with_reducible assumption
    | with_reducible apply KeepsR.fault
    | with_reducible apply KeepsR.next
    | with_reducible apply keeps_chainRow
    | with_reducible apply Keeps.ite
    | with_reducible apply KeepsR.ite
    | intro _
    | split

theorem keeps_execVrmax {r₀ : State} (p : Fin 8) (v : Fin 96) (op : BitVec 128) (s : State) (h₀ : Keeps r₀ s) : KeepsR r₀ (execVrmax p v op s) := by
  unfold execVrmax
  try dsimp only
  repeat' first
    | with_reducible assumption
    | with_reducible apply KeepsR.fault
    | with_reducible apply KeepsR.next
    | with_reducible apply keeps_chainRow
    | with_reducible apply Keeps.ite
    | with_reducible apply KeepsR.ite
    | intro _
    | split

theorem keeps_execVrmin {r₀ : State} (p : Fin 8) (v : Fin 96) (op : BitVec 128) (s : State) (h₀ : Keeps r₀ s) : KeepsR r₀ (execVrmin p v op s) := by
  unfold execVrmin
  try dsimp only
  repeat' first
    | with_reducible assumption
    | with_reducible apply KeepsR.fault
    | with_reducible apply KeepsR.next
    | with_reducible apply keeps_chainRow
    | with_reducible apply Keeps.ite
    | with_reducible apply KeepsR.ite
    | intro _
    | split

theorem keeps_execVmask {r₀ : State} (p : Fin 8) (v : Fin 96) (op : BitVec 128) (s : State) (h₀ : Keeps r₀ s) : KeepsR r₀ (execVmask p v op s) := by
  unfold execVmask
  try dsimp only
  repeat' first
    | with_reducible assumption
    | with_reducible apply KeepsR.fault
    | with_reducible apply KeepsR.next
    | with_reducible apply keeps_chainRow
    | with_reducible apply Keeps.ite
    | with_reducible apply KeepsR.ite
    | intro _
    | split

end Sys2Proof.Machine
end

