-- ==== Sys2Proof/Laws/Keeps/Wayst.lean ====
section
/-! SUPPORT. What each operation of Machine/Wayst.lean keeps: the queue and the invariant. -/

namespace Sys2Proof.Machine

theorem keeps_inSegment {r₀ s f : State} {k : Nat} {c : Ctx} {vc : Vcore} {v unit q : Nat} {ok : List Nat} (h : Keeps r₀ f) (g : Keeps r₀ s) :
    Keeps r₀ (inSegment s k c vc v unit q ok f) := by
  unfold inSegment
  exact Keeps.ite (fun _ => h) (fun _ => keeps_fault1 (h₀ := g) ..)


theorem keeps_modWay {r₀ : State} (s : State) (k v : Nat) (f : WayArea → WayArea) (h₀ : Keeps r₀ s) : Keeps r₀ (modWay s k v f) := by
  unfold modWay
  try dsimp only
  repeat' first
    | with_reducible assumption
    | with_reducible apply keeps_modVc
    | with_reducible apply Keeps.ite
    | simp only [Keeps.litEq]
    | intro _
    | split

theorem keeps_putBlock {r₀ : State} (s : State) (pc o b dst : Nat) (h₀ : Keeps r₀ s) : Keeps r₀ (putBlock s pc o b dst) := by
  unfold putBlock
  try dsimp only
  repeat' first
    | with_reducible assumption
    | with_reducible apply keeps_devSeg
    | with_reducible apply Keeps.ite
    | intro _
    | split

theorem keeps_spill {r₀ : State} (s : State) (k : Nat) (c : Ctx) (v o d : Nat) (rd_ : Bool) (h₀ : Keeps r₀ s) : Keeps r₀ (spill s k c v o d rd_) := by
  unfold spill
  try dsimp only
  repeat' first
    | with_reducible assumption
    | with_reducible apply keeps_hbmUse
    | with_reducible apply keeps_modWay
    | with_reducible apply Keeps.ite
    | simp only [Keeps.litEq]
    | intro _
    | split

theorem keeps_wsPutOne {r₀ : State} (s : State) (k : Nat) (c : Ctx) (v o b : Nat) (h₀ : Keeps r₀ s) (t : State) (e : wsPutOne s k c v o b = .ok t) : Keeps r₀ t := by
  unfold wsPutOne at e
  dsimp only at e
  repeat' first
    | with_reducible assumption
    | (cases e; done)
    | (obtain rfl : _ = t := by injection e)
    | with_reducible apply keeps_modWay
    | with_reducible apply keeps_spill
    | with_reducible apply keeps_setFld
    | with_reducible apply keeps_putBlock
    | with_reducible apply keeps_devCopy
    | split at e
    | split


theorem keeps_wsGetOne {r₀ : State} (s : State) (k : Nat) (c : Ctx) (v o b : Nat) (h₀ : Keeps r₀ s) (t : State) (e : wsGetOne s k c v o b = .ok t) : Keeps r₀ t := by
  unfold wsGetOne at e
  dsimp only at e
  repeat' first
    | with_reducible assumption
    | (cases e; done)
    | (obtain rfl : _ = t := by injection e)
    | with_reducible apply keeps_modWay
    | with_reducible apply keeps_spill
    | with_reducible apply keeps_devCopy
    | split at e
    | split


theorem keeps_wsCheckOne {r₀ : State} (s : State) (k : Nat) (c : Ctx) (v o b : Nat) (h₀ : Keeps r₀ s) (t : State) (e : wsCheckOne s k c v o b = .ok t) : Keeps r₀ t := by
  unfold wsCheckOne at e
  dsimp only at e
  repeat' first
    | with_reducible assumption
    | (cases e; done)
    | (obtain rfl : _ = t := by injection e)
    | with_reducible apply keeps_modWay
    | split at e
    | split


theorem keeps_wsRun {r₀ : State} {f : State → Nat → Except Prob State} (h : ∀ s b t, Keeps r₀ s → f s b = .ok t → Keeps r₀ t) (l : List Nat) (s : State) (h₀ : Keeps r₀ s) :
    Keeps r₀ (wsRun f l s).1 := by
  induction l generalizing s with
  | nil => exact h₀
  | cons b r ih =>
    simp only [wsRun]
    split
    · exact ih _ (h _ _ _ h₀ ‹_›)
    · exact h₀


theorem keeps_doWs {r₀ : State} {f : State → Nat → Except Prob State} (h : ∀ s b t, Keeps r₀ s → f s b = .ok t → Keeps r₀ t) {s : State} {k : Nat} {c : Ctx} {vc : Vcore} {v o : Nat}
    (h₀ : Keeps r₀ s) : Keeps r₀ (doWs s k c vc v o f) := by
  have blocks := fun l => keeps_wsRun h l (modWay s k v (fun w => { w with spilt := tdel w.spilt o })) (keeps_modWay _ _ _ _ h₀)
  unfold doWs
  split
  · exact keeps_fault1 (h₀ := h₀) ..
  · refine keeps_inSegment ?_ h₀
    split
    · exact keeps_fault1 (h₀ := h₀) ..
    · dsimp only
      split
      · exact keeps_fault1 (h₀ := blocks _) ..
      · exact blocks _


theorem keeps_execWsput {r₀ : State} (p : Fin 8) (v : Fin 96) (op : BitVec 128) (s : State) (h₀ : Keeps r₀ s) : KeepsR r₀ (execWsput p v op s) := by
  unfold execWsput
  try dsimp only
  repeat' first
    | with_reducible assumption
    | with_reducible apply KeepsR.fault
    | with_reducible apply KeepsR.next
    | with_reducible apply keeps_onEngine
    | exact fun _ _ _ g e => keeps_wsPutOne _ _ _ _ _ _ g _ e
    | with_reducible apply keeps_doWs
    | with_reducible apply Keeps.ite
    | with_reducible apply KeepsR.ite
    | intro _
    | split

theorem keeps_execWsget {r₀ : State} (p : Fin 8) (v : Fin 96) (op : BitVec 128) (s : State) (h₀ : Keeps r₀ s) : KeepsR r₀ (execWsget p v op s) := by
  unfold execWsget
  try dsimp only
  repeat' first
    | with_reducible assumption
    | with_reducible apply KeepsR.fault
    | with_reducible apply KeepsR.next
    | with_reducible apply keeps_onEngine
    | exact fun _ _ _ g e => keeps_wsGetOne _ _ _ _ _ _ g _ e
    | with_reducible apply keeps_doWs
    | with_reducible apply Keeps.ite
    | with_reducible apply KeepsR.ite
    | intro _
    | split

theorem keeps_execWscheck {r₀ : State} (p : Fin 8) (v : Fin 96) (op : BitVec 128) (s : State) (h₀ : Keeps r₀ s) : KeepsR r₀ (execWscheck p v op s) := by
  unfold execWscheck
  try dsimp only
  repeat' first
    | with_reducible assumption
    | with_reducible apply KeepsR.fault
    | with_reducible apply KeepsR.next
    | with_reducible apply keeps_onEngine
    | exact fun _ _ _ g e => keeps_wsCheckOne _ _ _ _ _ _ g _ e
    | with_reducible apply keeps_doWs
    | with_reducible apply Keeps.ite
    | with_reducible apply KeepsR.ite
    | intro _
    | split

theorem keeps_execWsSpillDone {r₀ : State} (p : Fin 8) (v : Fin 96) (s : State) (h₀ : Keeps r₀ s) : KeepsR r₀ (execWsSpillDone p v s) := by
  unfold execWsSpillDone
  try dsimp only
  repeat' first
    | with_reducible assumption
    | with_reducible apply KeepsR.fault
    | with_reducible apply KeepsR.next
    | with_reducible apply keeps_onVcore
    | with_reducible apply keeps_modWay
    | with_reducible apply Keeps.ite
    | with_reducible apply KeepsR.ite
    | simp only [Keeps.litEq]
    | intro _
    | split

theorem keeps_wsStepEnd {r₀ : State} (s : State) (k : Nat) (h₀ : Keeps r₀ s) : Keeps r₀ (wsStepEnd s k) := by
  unfold wsStepEnd
  try dsimp only
  repeat' first
    | with_reducible assumption
    | with_reducible apply keeps_setFld
    | with_reducible apply keeps_modCtx
    | with_reducible apply Keeps.foldl
    | with_reducible apply Keeps.foldl1
    | with_reducible apply Keeps.ite
    | simp only [Keeps.litEq]
    | intro _
    | split

end Sys2Proof.Machine
end

