-- ==== Sys2Proof/Laws/Keeps/Sdm.lean ====
section
/-! SUPPORT. What each operation of Machine/Sdm.lean keeps: the queue and the invariant. -/

namespace Sys2Proof.Machine

theorem keeps_sdmChecked {r₀ s f : State} {k : Nat} {vc : Vcore} {v : Nat} {bad : Option Nat} (h : Keeps r₀ f) (g : Keeps r₀ s) :
    Keeps r₀ (sdmChecked s k vc v bad f) := by
  unfold sdmChecked
  split
  · exact keeps_fault1 (h₀ := g) ..
  · exact h


theorem keeps_moveBytes {r₀ : State} (s : State) (p src dst n : Nat) (h₀ : Keeps r₀ s) : Keeps r₀ (moveBytes s p src dst n) := by
  unfold moveBytes
  try dsimp only
  repeat' first
    | with_reducible assumption
    | with_reducible apply keeps_devWrite
    | with_reducible apply keeps_devCopy
    | with_reducible apply keeps_hbmMove
    | with_reducible apply Keeps.ite
    | simp only [Keeps.litEq]
    | intro _
    | split

theorem keeps_feedDig {r₀ : State} (s : State) (k v ch : Nat) (b : Bytes) (h₀ : Keeps r₀ s) : Keeps r₀ (feedDig s k v ch b) := by
  unfold feedDig
  try dsimp only
  repeat' first
    | with_reducible assumption
    | with_reducible apply keeps_modVc
    | with_reducible apply Keeps.ite
    | simp only [Keeps.litEq]
    | intro _
    | split

theorem keeps_doCopy {r₀ : State} (s : State) (k : Nat) (c : Ctx) (vc : Vcore) (v o : Nat) (h₀ : Keeps r₀ s) : Keeps r₀ (doCopy s k c vc v o) := by
  unfold doCopy
  try dsimp only
  repeat' first
    | with_reducible assumption
    | with_reducible apply keeps_fault1
    | with_reducible apply keeps_sdmChecked
    | with_reducible apply keeps_moveBytes
    | with_reducible apply keeps_feedDig
    | with_reducible apply Keeps.ite
    | simp only [Keeps.litEq]
    | intro _
    | split

theorem keeps_execCopy {r₀ : State} (p : Fin 8) (v : Fin 96) (op : BitVec 128) (s : State) (h₀ : Keeps r₀ s) : KeepsR r₀ (execCopy p v op s) := by
  unfold execCopy
  try dsimp only
  repeat' first
    | with_reducible assumption
    | with_reducible apply KeepsR.fault
    | with_reducible apply KeepsR.next
    | with_reducible apply keeps_onEngine
    | with_reducible apply keeps_doCopy
    | with_reducible apply Keeps.ite
    | with_reducible apply KeepsR.ite
    | intro _
    | split

theorem keeps_doSend {r₀ : State} (s : State) (k : Nat) (c : Ctx) (vc : Vcore) (v o : Nat) (h₀ : Keeps r₀ s) : Keeps r₀ (doSend s k c vc v o) := by
  unfold doSend
  try dsimp only
  repeat' first
    | with_reducible assumption
    | with_reducible apply keeps_queueFrames
    | with_reducible apply keeps_modVc
    | with_reducible apply keeps_faultCtx
    | with_reducible apply keeps_fault1
    | with_reducible apply keeps_sdmChecked
    | with_reducible apply Keeps.ite
    | simp only [Keeps.litEq]
    | intro _
    | split

theorem keeps_execSend {r₀ : State} (p : Fin 8) (v : Fin 96) (op : BitVec 128) (s : State) (h₀ : Keeps r₀ s) : KeepsR r₀ (execSend p v op s) := by
  unfold execSend
  try dsimp only
  repeat' first
    | with_reducible assumption
    | with_reducible apply KeepsR.fault
    | with_reducible apply KeepsR.next
    | with_reducible apply keeps_onEngine
    | with_reducible apply keeps_doSend
    | with_reducible apply Keeps.ite
    | with_reducible apply KeepsR.ite
    | intro _
    | split

theorem keeps_doChime {r₀ : State} (s : State) (k : Nat) (c : Ctx) (vc : Vcore) (v o : Nat) (h₀ : Keeps r₀ s) : Keeps r₀ (doChime s k c vc v o) := by
  unfold doChime
  try dsimp only
  repeat' first
    | with_reducible assumption
    | with_reducible apply keeps_queueFrames
    | with_reducible apply keeps_fault1
    | with_reducible apply keeps_sdmChecked
    | with_reducible apply Keeps.ite
    | simp only [Keeps.litEq]
    | intro _
    | split

theorem keeps_execChime {r₀ : State} (p : Fin 8) (v : Fin 96) (op : BitVec 128) (s : State) (h₀ : Keeps r₀ s) : KeepsR r₀ (execChime p v op s) := by
  unfold execChime
  try dsimp only
  repeat' first
    | with_reducible assumption
    | with_reducible apply KeepsR.fault
    | with_reducible apply KeepsR.next
    | with_reducible apply keeps_onEngine
    | with_reducible apply keeps_doChime
    | with_reducible apply Keeps.ite
    | with_reducible apply KeepsR.ite
    | intro _
    | split

theorem keeps_doCdigStart {r₀ : State} (s : State) (k : Nat) (vc : Vcore) (v o : Nat) (h₀ : Keeps r₀ s) : Keeps r₀ (doCdigStart s k vc v o) := by
  unfold doCdigStart
  try dsimp only
  repeat' first
    | with_reducible assumption
    | with_reducible apply keeps_modVc
    | with_reducible apply keeps_sdmChecked
    | with_reducible apply Keeps.ite
    | simp only [Keeps.litEq]
    | intro _
    | split

theorem keeps_doCdigFold {r₀ : State} (s : State) (k : Nat) (c : Ctx) (vc : Vcore) (v o : Nat) (h₀ : Keeps r₀ s) : Keeps r₀ (doCdigFold s k c vc v o) := by
  unfold doCdigFold
  try dsimp only
  repeat' first
    | with_reducible assumption
    | with_reducible apply keeps_devWrite
    | with_reducible apply keeps_modVc
    | with_reducible apply keeps_modRec
    | with_reducible apply keeps_faultCtx
    | with_reducible apply keeps_fault1
    | with_reducible apply keeps_sdmChecked
    | with_reducible apply Keeps.ite
    | simp only [Keeps.litEq]
    | intro _
    | split

theorem keeps_execCdigStart {r₀ : State} (p : Fin 8) (v : Fin 96) (op : BitVec 128) (s : State) (h₀ : Keeps r₀ s) : KeepsR r₀ (execCdigStart p v op s) := by
  unfold execCdigStart
  try dsimp only
  repeat' first
    | with_reducible assumption
    | with_reducible apply KeepsR.fault
    | with_reducible apply KeepsR.next
    | with_reducible apply keeps_onEngine
    | with_reducible apply keeps_doCdigStart
    | with_reducible apply Keeps.ite
    | with_reducible apply KeepsR.ite
    | intro _
    | split

theorem keeps_execCdigFold {r₀ : State} (p : Fin 8) (v : Fin 96) (op : BitVec 128) (s : State) (h₀ : Keeps r₀ s) : KeepsR r₀ (execCdigFold p v op s) := by
  unfold execCdigFold
  try dsimp only
  repeat' first
    | with_reducible assumption
    | with_reducible apply KeepsR.fault
    | with_reducible apply KeepsR.next
    | with_reducible apply keeps_onEngine
    | with_reducible apply keeps_doCdigFold
    | with_reducible apply Keeps.ite
    | with_reducible apply KeepsR.ite
    | intro _
    | split

theorem keeps_addBlock {r₀ : State} (s : State) (dst src : Nat) (h₀ : Keeps r₀ s) : Keeps r₀ (addBlock s dst src) := by
  unfold addBlock
  try dsimp only
  repeat' first
    | with_reducible assumption
    | with_reducible apply keeps_devSeg
    | with_reducible apply Keeps.foldl
    | with_reducible apply Keeps.foldl1
    | with_reducible apply Keeps.ite
    | intro _
    | split

theorem keeps_doGathacc {r₀ : State} (s : State) (k : Nat) (c : Ctx) (vc : Vcore) (v o : Nat) (h₀ : Keeps r₀ s) : Keeps r₀ (doGathacc s k c vc v o) := by
  unfold doGathacc
  try dsimp only
  repeat' first
    | with_reducible assumption
    | with_reducible apply keeps_hbmUse
    | with_reducible apply keeps_recVar
    | with_reducible apply keeps_faultCtx
    | with_reducible apply keeps_fault1
    | with_reducible apply keeps_sdmChecked
    | with_reducible apply keeps_addBlock
    | with_reducible apply Keeps.foldl
    | with_reducible apply Keeps.foldl1
    | with_reducible apply Keeps.ite
    | simp only [Keeps.litEq]
    | intro _
    | split

theorem keeps_execGathaccUnord {r₀ : State} (p : Fin 8) (v : Fin 96) (op : BitVec 128) (s : State) (h₀ : Keeps r₀ s) : KeepsR r₀ (execGathaccUnord p v op s) := by
  unfold execGathaccUnord
  try dsimp only
  repeat' first
    | with_reducible assumption
    | with_reducible apply KeepsR.fault
    | with_reducible apply KeepsR.next
    | with_reducible apply keeps_onEngine
    | with_reducible apply keeps_doGathacc
    | with_reducible apply Keeps.ite
    | with_reducible apply KeepsR.ite
    | intro _
    | split

theorem keeps_doCexp {r₀ : State} (s : State) (k : Nat) (vc : Vcore) (v o : Nat) (h₀ : Keeps r₀ s) : Keeps r₀ (doCexp s k vc v o) := by
  unfold doCexp
  try dsimp only
  repeat' first
    | with_reducible assumption
    | with_reducible apply keeps_modVc
    | with_reducible apply keeps_sdmChecked
    | with_reducible apply Keeps.ite
    | simp only [Keeps.litEq]
    | intro _
    | split

theorem keeps_execCexp {r₀ : State} (p : Fin 8) (v : Fin 96) (op : BitVec 128) (s : State) (h₀ : Keeps r₀ s) : KeepsR r₀ (execCexp p v op s) := by
  unfold execCexp
  try dsimp only
  repeat' first
    | with_reducible assumption
    | with_reducible apply KeepsR.fault
    | with_reducible apply KeepsR.next
    | with_reducible apply keeps_onEngine
    | with_reducible apply keeps_doCexp
    | with_reducible apply Keeps.ite
    | with_reducible apply KeepsR.ite
    | intro _
    | split

theorem keeps_execCexpDue {r₀ : State} (p : Fin 8) (v : Fin 96) (s : State) (h₀ : Keeps r₀ s) : KeepsR r₀ (execCexpDue p v s) := by
  unfold execCexpDue
  try dsimp only
  repeat' first
    | with_reducible assumption
    | with_reducible apply KeepsR.fault
    | with_reducible apply KeepsR.next
    | with_reducible apply keeps_modCtx
    | with_reducible apply keeps_modVc
    | with_reducible apply keeps_onGate
    | with_reducible apply Keeps.ite
    | with_reducible apply KeepsR.ite
    | simp only [Keeps.litEq]
    | intro _
    | split

theorem keeps_doRfill {r₀ : State} (s : State) (k : Nat) (c : Ctx) (vc : Vcore) (v o : Nat) (h₀ : Keeps r₀ s) : Keeps r₀ (doRfill s k c vc v o) := by
  unfold doRfill
  try dsimp only
  repeat' first
    | with_reducible assumption
    | with_reducible apply keeps_devSegs
    | with_reducible apply keeps_faultCtx
    | with_reducible apply keeps_sdmChecked
    | with_reducible apply Keeps.ite
    | simp only [Keeps.litEq]
    | intro _
    | split

theorem keeps_execRfill {r₀ : State} (p : Fin 8) (v : Fin 96) (op : BitVec 128) (s : State) (h₀ : Keeps r₀ s) : KeepsR r₀ (execRfill p v op s) := by
  unfold execRfill
  try dsimp only
  repeat' first
    | with_reducible assumption
    | with_reducible apply KeepsR.fault
    | with_reducible apply KeepsR.next
    | with_reducible apply keeps_onEngine
    | with_reducible apply keeps_doRfill
    | with_reducible apply Keeps.ite
    | with_reducible apply KeepsR.ite
    | intro _
    | split

theorem keeps_snapDrop {r₀ : State} (s : State) (p : Nat) (h₀ : Keeps r₀ s) : Keeps r₀ (snapDrop s p) := by
  unfold snapDrop
  try dsimp only
  repeat' first
    | with_reducible assumption
    | with_reducible apply keeps_satFld
    | with_reducible apply Keeps.ite
    | intro _
    | split

theorem keeps_snapPlace {r₀ : State} (s : State) (k : Nat) (c : Ctx) (p n : Nat) (rec_ : Nat → Nat → Bytes) (h₀ : Keeps r₀ s) : Keeps r₀ (snapPlace s k c p n rec_) := by
  unfold snapPlace
  try dsimp only
  repeat' first
    | with_reducible assumption
    | with_reducible apply keeps_setFld
    | with_reducible apply keeps_devWrite
    | with_reducible apply keeps_modPart
    | with_reducible apply keeps_snapDrop
    | with_reducible apply Keeps.ite
    | simp only [Keeps.litEq]
    | intro _
    | split

theorem keeps_doSnap {r₀ : State} (s : State) (k : Nat) (c : Ctx) (vc : Vcore) (v o : Nat) (h₀ : Keeps r₀ s) : Keeps r₀ (doSnap s k c vc v o) := by
  unfold doSnap
  try dsimp only
  repeat' first
    | with_reducible assumption
    | with_reducible apply keeps_drawn
    | with_reducible apply keeps_hbmUse
    | with_reducible apply keeps_fault1
    | with_reducible apply keeps_inSegment
    | with_reducible apply keeps_sdmChecked
    | with_reducible apply keeps_snapDrop
    | with_reducible apply keeps_snapPlace
    | with_reducible apply Keeps.ite
    | simp only [Keeps.litEq]
    | intro _
    | split

theorem keeps_execSnap {r₀ : State} (p : Fin 8) (v : Fin 96) (op : BitVec 128) (s : State) (h₀ : Keeps r₀ s) : KeepsR r₀ (execSnap p v op s) := by
  unfold execSnap
  try dsimp only
  repeat' first
    | with_reducible assumption
    | with_reducible apply KeepsR.fault
    | with_reducible apply KeepsR.next
    | with_reducible apply keeps_onEngine
    | with_reducible apply keeps_doSnap
    | with_reducible apply Keeps.ite
    | with_reducible apply KeepsR.ite
    | intro _
    | split

end Sys2Proof.Machine
end

