-- ==== Sys2Proof/Laws/Keeps/Collect.lean ====
section
/-! SUPPORT. What each operation of Machine/Collect.lean keeps: the queue and the invariant. -/

namespace Sys2Proof.Machine

theorem keeps_takeOrd {r₀ : State} (s : State) (k v : Nat) (h₀ : Keeps r₀ s) : Keeps r₀ (takeOrd s k v) := by
  unfold takeOrd
  try dsimp only
  repeat' first
    | with_reducible assumption
    | with_reducible apply keeps_modVc
    | with_reducible apply Keeps.ite
    | simp only [Keeps.litEq]
    | intro _
    | split

theorem keeps_doAgather {r₀ : State} (s : State) (k : Nat) (c : Ctx) (vc : Vcore) (v o : Nat) (h₀ : Keeps r₀ s) : Keeps r₀ (doAgather s k c vc v o) := by
  unfold doAgather
  try dsimp only
  repeat' first
    | with_reducible assumption
    | with_reducible apply keeps_modCtx
    | with_reducible apply keeps_fault1
    | with_reducible apply keeps_versionStep
    | with_reducible apply keeps_partSend
    | with_reducible apply keeps_drainParts
    | with_reducible apply keeps_sdmChecked
    | with_reducible apply keeps_moveBytes
    | with_reducible apply keeps_takeOrd
    | with_reducible apply Keeps.ite
    | simp only [Keeps.litEq]
    | intro _
    | split

theorem keeps_execAgather {r₀ : State} (p : Fin 8) (v : Fin 96) (op : BitVec 128) (s : State) (h₀ : Keeps r₀ s) : KeepsR r₀ (execAgather p v op s) := by
  unfold execAgather
  try dsimp only
  repeat' first
    | with_reducible assumption
    | with_reducible apply KeepsR.fault
    | with_reducible apply KeepsR.next
    | with_reducible apply keeps_onEngine
    | with_reducible apply keeps_doAgather
    | with_reducible apply Keeps.ite
    | with_reducible apply KeepsR.ite
    | intro _
    | split

theorem keeps_execAgatherPartTimeout {r₀ : State} (p : Fin 8) (v : Fin 96) (s : State) (h₀ : Keeps r₀ s) : KeepsR r₀ (execAgatherPartTimeout p v s) := by
  unfold execAgatherPartTimeout
  try dsimp only
  repeat' first
    | with_reducible assumption
    | with_reducible apply KeepsR.fault
    | with_reducible apply KeepsR.next
    | with_reducible apply keeps_fault1
    | with_reducible apply keeps_onVcore
    | with_reducible apply Keeps.ite
    | with_reducible apply KeepsR.ite
    | simp only [Keeps.litEq]
    | intro _
    | split

theorem keeps_doPermute {r₀ : State} (s : State) (k : Nat) (c : Ctx) (vc : Vcore) (v o : Nat) (h₀ : Keeps r₀ s) : Keeps r₀ (doPermute s k c vc v o) := by
  unfold doPermute
  try dsimp only
  repeat' first
    | with_reducible assumption
    | with_reducible apply keeps_queueFrames
    | with_reducible apply keeps_modCtx
    | with_reducible apply keeps_faultCtx
    | with_reducible apply keeps_fault1
    | with_reducible apply keeps_permuteArrive
    | with_reducible apply keeps_sdmChecked
    | with_reducible apply keeps_moveBytes
    | with_reducible apply keeps_takeOrd
    | with_reducible apply Keeps.foldl
    | with_reducible apply Keeps.foldl1
    | with_reducible apply Keeps.ite
    | simp only [Keeps.litEq]
    | intro _
    | split

theorem keeps_execPermute {r₀ : State} (p : Fin 8) (v : Fin 96) (op : BitVec 128) (s : State) (h₀ : Keeps r₀ s) : KeepsR r₀ (execPermute p v op s) := by
  unfold execPermute
  try dsimp only
  repeat' first
    | with_reducible assumption
    | with_reducible apply KeepsR.fault
    | with_reducible apply KeepsR.next
    | with_reducible apply keeps_onEngine
    | with_reducible apply keeps_doPermute
    | with_reducible apply Keeps.ite
    | with_reducible apply KeepsR.ite
    | intro _
    | split

theorem keeps_permuteFinish {r₀ : State} (s : State) (k b : Nat) (h₀ : Keeps r₀ s) : Keeps r₀ (permuteFinish s k b) := by
  unfold permuteFinish
  try dsimp only
  repeat' first
    | with_reducible assumption
    | with_reducible apply keeps_modCtx
    | with_reducible apply keeps_moveBytes
    | with_reducible apply Keeps.foldl
    | with_reducible apply Keeps.foldl1
    | with_reducible apply Keeps.ite
    | simp only [Keeps.litEq]
    | intro _
    | split

theorem keeps_execBellRelease {r₀ : State} (b : Fin 64) (s : State) (h₀ : Keeps r₀ s) : KeepsR r₀ (execBellRelease b s) := by
  unfold execBellRelease
  try dsimp only
  repeat' first
    | with_reducible assumption
    | with_reducible apply KeepsR.fault
    | with_reducible apply KeepsR.next
    | with_reducible apply keeps_releaseBell
    | with_reducible apply keeps_permuteFinish
    | with_reducible apply Keeps.ite
    | with_reducible apply KeepsR.ite
    | simp only [Keeps.litEq]
    | intro _
    | split

theorem keeps_execMusterArrive {r₀ : State} (p : Fin 8) (s : State) (h₀ : Keeps r₀ s) : KeepsR r₀ (execMusterArrive p s) := by
  unfold execMusterArrive
  try dsimp only
  repeat' first
    | with_reducible assumption
    | with_reducible apply KeepsR.fault
    | with_reducible apply KeepsR.next
    | with_reducible apply keeps_modCtx
    | with_reducible apply keeps_modBell
    | with_reducible apply keeps_musterRelease
    | with_reducible apply keeps_musterStep
    | with_reducible apply Keeps.ite
    | with_reducible apply KeepsR.ite
    | simp only [Keeps.litEq]
    | intro _
    | split

theorem keeps_execMusterTimeout {r₀ : State} (p : Fin 8) (s : State) (h₀ : Keeps r₀ s) : KeepsR r₀ (execMusterTimeout p s) := by
  unfold execMusterTimeout
  try dsimp only
  repeat' first
    | with_reducible assumption
    | with_reducible apply KeepsR.fault
    | with_reducible apply KeepsR.next
    | with_reducible apply keeps_fault1
    | with_reducible apply Keeps.foldl
    | with_reducible apply Keeps.foldl1
    | with_reducible apply Keeps.ite
    | with_reducible apply KeepsR.ite
    | intro _
    | split

theorem keeps_mapStepEnd {r₀ : State} (s : State) (k : Nat) (h₀ : Keeps r₀ s) : Keeps r₀ (mapStepEnd s k) := by
  unfold mapStepEnd
  try dsimp only
  repeat' first
    | with_reducible assumption
    | with_reducible apply keeps_modCtx
    | with_reducible apply keeps_summaryStep
    | with_reducible apply keeps_openInstalled
    | with_reducible apply keeps_closeColl
    | with_reducible apply Keeps.ite
    | simp only [Keeps.litEq]
    | intro _
    | split

end Sys2Proof.Machine
end

