-- ==== Sys2Proof/Laws/Keeps/Ports.lean ====
section
/-! SUPPORT. What each operation of Machine/Ports.lean keeps: the queue and the invariant. -/

namespace Sys2Proof.Machine

theorem keeps_portDown {r₀ : State} (s : State) (n : Nat) (h₀ : Keeps r₀ s) : Keeps r₀ (portDown s n) := by
  unfold portDown
  try dsimp only
  repeat' first
    | with_reducible assumption
    | with_reducible apply keeps_setFld
    | with_reducible apply keeps_satFld
    | with_reducible apply keeps_modPort
    | with_reducible apply keeps_clearRoutes
    | with_reducible apply Keeps.ite
    | intro _
    | split

theorem keeps_sendHello {r₀ : State} (s : State) (n : Nat) (h₀ : Keeps r₀ s) : Keeps r₀ (sendHello s n) := by
  unfold sendHello
  try dsimp only
  repeat' first
    | with_reducible assumption
    | with_reducible apply keeps_queueCtl
    | with_reducible apply Keeps.ite
    | intro _
    | split

theorem keeps_execPortLinkUp {r₀ : State} (n : Fin 32) (s : State) (h₀ : Keeps r₀ s) : KeepsR r₀ (execPortLinkUp n s) := by
  unfold execPortLinkUp
  try dsimp only
  repeat' first
    | with_reducible assumption
    | with_reducible apply KeepsR.fault
    | with_reducible apply KeepsR.next
    | with_reducible apply keeps_setFld
    | with_reducible apply keeps_modPort
    | with_reducible apply keeps_sendHello
    | with_reducible apply Keeps.ite
    | with_reducible apply KeepsR.ite
    | simp only [Keeps.litEq]
    | intro _
    | split

theorem keeps_execPortLinkDown {r₀ : State} (n : Fin 32) (s : State) (h₀ : Keeps r₀ s) : KeepsR r₀ (execPortLinkDown n s) := by
  unfold execPortLinkDown
  try dsimp only
  repeat' first
    | with_reducible assumption
    | with_reducible apply KeepsR.fault
    | with_reducible apply KeepsR.next
    | with_reducible apply keeps_portDown
    | with_reducible apply Keeps.ite
    | with_reducible apply KeepsR.ite
    | intro _
    | split

theorem keeps_execLlrHello {r₀ : State} (n : Fin 32) (node : Fin 1048576) (peer : Fin 32) (fcsOk : Bool) (s : State) (h₀ : Keeps r₀ s) : KeepsR r₀ (execLlrHello n node peer fcsOk s) := by
  unfold execLlrHello
  try dsimp only
  repeat' first
    | with_reducible assumption
    | with_reducible apply KeepsR.fault
    | with_reducible apply KeepsR.next
    | with_reducible apply keeps_setFld
    | with_reducible apply keeps_satFld
    | with_reducible apply keeps_modPort
    | with_reducible apply keeps_sendHello
    | with_reducible apply Keeps.ite
    | with_reducible apply KeepsR.ite
    | simp only [Keeps.litEq]
    | intro _
    | split

theorem keeps_execLlrHelloTimer {r₀ : State} (n : Fin 32) (s : State) (h₀ : Keeps r₀ s) : KeepsR r₀ (execLlrHelloTimer n s) := by
  unfold execLlrHelloTimer
  try dsimp only
  repeat' first
    | with_reducible assumption
    | with_reducible apply KeepsR.fault
    | with_reducible apply KeepsR.next
    | with_reducible apply keeps_setFld
    | with_reducible apply keeps_sendHello
    | with_reducible apply Keeps.ite
    | with_reducible apply KeepsR.ite
    | intro _
    | split

theorem keeps_takeLack {r₀ : State} (s : State) (n lack : Nat) (h₀ : Keeps r₀ s) : Keeps r₀ (takeLack s n lack) := by
  unfold takeLack
  try dsimp only
  repeat' first
    | with_reducible assumption
    | with_reducible apply keeps_modPort
    | with_reducible apply Keeps.ite
    | simp only [Keeps.litEq]
    | intro _
    | split

theorem keeps_linkReplay {r₀ : State} (s : State) (n : Nat) (h₀ : Keeps r₀ s) : Keeps r₀ (linkReplay s n) := by
  unfold linkReplay
  try dsimp only
  repeat' first
    | with_reducible assumption
    | with_reducible apply keeps_satFld
    | with_reducible apply keeps_modPort
    | with_reducible apply keeps_emit
    | with_reducible apply keeps_portDown
    | with_reducible apply Keeps.foldl
    | with_reducible apply Keeps.foldl1
    | with_reducible apply Keeps.ite
    | simp only [Keeps.litEq]
    | intro _
    | split

theorem keeps_execLlrFrame {r₀ : State} (n : Fin 32) (lseq lack : BitVec 16) (flags : BitVec 8) (fcsOk : Bool) (s : State) (h₀ : Keeps r₀ s) : KeepsR r₀ (execLlrFrame n lseq lack flags fcsOk s) := by
  unfold execLlrFrame
  try dsimp only
  repeat' first
    | with_reducible assumption
    | with_reducible apply KeepsR.fault
    | with_reducible apply KeepsR.next
    | with_reducible apply keeps_satFld
    | with_reducible apply keeps_modPort
    | with_reducible apply keeps_discard
    | with_reducible apply keeps_nakPort
    | with_reducible apply keeps_takeLack
    | with_reducible apply keeps_linkReplay
    | with_reducible apply Keeps.ite
    | with_reducible apply KeepsR.ite
    | simp only [Keeps.litEq]
    | intro _
    | split

theorem keeps_execLlrNak {r₀ : State} (n : Fin 32) (lack : BitVec 16) (s : State) (h₀ : Keeps r₀ s) : KeepsR r₀ (execLlrNak n lack s) := by
  unfold execLlrNak
  try dsimp only
  repeat' first
    | with_reducible assumption
    | with_reducible apply KeepsR.fault
    | with_reducible apply KeepsR.next
    | with_reducible apply keeps_takeLack
    | with_reducible apply keeps_linkReplay
    | with_reducible apply Keeps.ite
    | with_reducible apply KeepsR.ite
    | intro _
    | split

theorem keeps_execLlrCtrlTimer {r₀ : State} (n : Fin 32) (s : State) (h₀ : Keeps r₀ s) : KeepsR r₀ (execLlrCtrlTimer n s) := by
  unfold execLlrCtrlTimer
  try dsimp only
  repeat' first
    | with_reducible assumption
    | with_reducible apply KeepsR.fault
    | with_reducible apply KeepsR.next
    | with_reducible apply keeps_queueCtl
    | with_reducible apply Keeps.ite
    | with_reducible apply KeepsR.ite
    | intro _
    | split

theorem keeps_execLlrAckTimeout {r₀ : State} (n : Fin 32) (s : State) (h₀ : Keeps r₀ s) : KeepsR r₀ (execLlrAckTimeout n s) := by
  unfold execLlrAckTimeout
  try dsimp only
  repeat' first
    | with_reducible assumption
    | with_reducible apply KeepsR.fault
    | with_reducible apply KeepsR.next
    | with_reducible apply keeps_linkReplay
    | with_reducible apply Keeps.ite
    | with_reducible apply KeepsR.ite
    | intro _
    | split

theorem keeps_sendProbe {r₀ : State} (s : State) (n node type : Nat) (payload : Bytes) (h₀ : Keeps r₀ s) : Keeps r₀ (sendProbe s n node type payload) := by
  unfold sendProbe
  try dsimp only
  repeat' first
    | with_reducible assumption
    | with_reducible apply keeps_queueAck
    | with_reducible apply Keeps.ite
    | intro _
    | split

theorem keeps_execProbeTimer {r₀ : State} (n : Fin 32) (dest : Fin 1048576) (s : State) (h₀ : Keeps r₀ s) : KeepsR r₀ (execProbeTimer n dest s) := by
  unfold execProbeTimer
  try dsimp only
  repeat' first
    | with_reducible assumption
    | with_reducible apply KeepsR.fault
    | with_reducible apply KeepsR.next
    | with_reducible apply keeps_sendProbe
    | with_reducible apply Keeps.ite
    | with_reducible apply KeepsR.ite
    | intro _
    | split

theorem keeps_execCvtProbe {r₀ : State} (port : Fin 32) (f : CvtFrame) (s : State) (h₀ : Keeps r₀ s) : KeepsR r₀ (execCvtProbe port f s) := by
  unfold execCvtProbe
  try dsimp only
  repeat' first
    | with_reducible assumption
    | with_reducible apply KeepsR.fault
    | with_reducible apply KeepsR.next
    | with_reducible apply keeps_rxChecked
    | with_reducible apply keeps_sendProbe
    | with_reducible apply Keeps.ite
    | with_reducible apply KeepsR.ite
    | intro _
    | split

theorem keeps_execCvtProbeReply {r₀ : State} (port : Fin 32) (f : CvtFrame) (s : State) (h₀ : Keeps r₀ s) : KeepsR r₀ (execCvtProbeReply port f s) := by
  unfold execCvtProbeReply
  try dsimp only
  repeat' first
    | with_reducible assumption
    | with_reducible apply KeepsR.fault
    | with_reducible apply KeepsR.next
    | with_reducible apply keeps_setFld
    | with_reducible apply keeps_rxChecked
    | with_reducible apply Keeps.ite
    | with_reducible apply KeepsR.ite
    | intro _
    | split

theorem keeps_queueTransit {r₀ : State} (s : State) (n : Nat) (pkt : Bytes) (h₀ : Keeps r₀ s) : Keeps r₀ (queueTransit s n pkt) := by
  unfold queueTransit
  try dsimp only
  repeat' first
    | with_reducible assumption
    | with_reducible apply keeps_satFld
    | with_reducible apply keeps_modPort
    | with_reducible apply Keeps.ite
    | simp only [Keeps.litEq]
    | intro _
    | split

theorem keeps_execTransitFrame {r₀ : State} (port : Fin 32) (pkt : Bytes) (fcsOk : Bool) (s : State) (h₀ : Keeps r₀ s) : KeepsR r₀ (execTransitFrame port pkt fcsOk s) := by
  unfold execTransitFrame
  try dsimp only
  repeat' first
    | with_reducible assumption
    | with_reducible apply KeepsR.fault
    | with_reducible apply KeepsR.next
    | with_reducible apply keeps_satFld
    | with_reducible apply keeps_discard
    | with_reducible apply keeps_nakPort
    | with_reducible apply keeps_shimTaken
    | with_reducible apply keeps_queueTransit
    | with_reducible apply Keeps.ite
    | with_reducible apply KeepsR.ite
    | simp only [Keeps.litEq]
    | intro _
    | split

theorem keeps_execNeighborDiscovery {r₀ : State} (n : Fin 32) (ra : Bool) (mac : BitVec 48) (src target : Bytes) (s : State) (h₀ : Keeps r₀ s) : KeepsR r₀ (execNeighborDiscovery n ra mac src target s) := by
  unfold execNeighborDiscovery
  try dsimp only
  repeat' first
    | with_reducible assumption
    | with_reducible apply KeepsR.fault
    | with_reducible apply KeepsR.next
    | with_reducible apply keeps_modPort
    | with_reducible apply keeps_emit
    | with_reducible apply Keeps.ite
    | with_reducible apply KeepsR.ite
    | simp only [Keeps.litEq]
    | intro _
    | split

theorem keeps_execPortEnable {r₀ : State} (n : Fin 32) (v : BitVec 32) (w : Writer) (s : State) (h₀ : Keeps r₀ s) : KeepsR r₀ (execPortEnable n v w s) := by
  unfold execPortEnable
  try dsimp only
  repeat' first
    | with_reducible assumption
    | with_reducible apply KeepsR.fault
    | with_reducible apply KeepsR.next
    | with_reducible apply keeps_setReg
    | with_reducible apply keeps_reject
    | with_reducible apply keeps_gate
    | with_reducible apply Keeps.ite
    | with_reducible apply KeepsR.ite
    | intro _
    | split

theorem keeps_execPortDisable {r₀ : State} (n : Fin 32) (v : BitVec 32) (w : Writer) (s : State) (h₀ : Keeps r₀ s) : KeepsR r₀ (execPortDisable n v w s) := by
  unfold execPortDisable
  try dsimp only
  repeat' first
    | with_reducible assumption
    | with_reducible apply KeepsR.fault
    | with_reducible apply KeepsR.next
    | with_reducible apply keeps_setFld
    | with_reducible apply keeps_reject
    | with_reducible apply keeps_gate
    | with_reducible apply keeps_portDown
    | with_reducible apply Keeps.ite
    | with_reducible apply KeepsR.ite
    | intro _
    | split

theorem keeps_setCvu {r₀ : State} (s : State) (d c v : Nat) (h₀ : Keeps r₀ s) : Keeps r₀ (setCvu s d c v) := by
  unfold setCvu
  try dsimp only
  repeat' first
    | with_reducible assumption
    | with_reducible apply Keeps.ite
    | simp only [Keeps.litEq]
    | intro _
    | split

theorem keeps_cvuInit {r₀ : State} (s : State) (d c : Nat) (h₀ : Keeps r₀ s) : Keeps r₀ (cvuInit s d c) := by
  unfold cvuInit
  try dsimp only
  repeat' first
    | with_reducible assumption
    | with_reducible apply keeps_setCvu
    | with_reducible apply Keeps.ite
    | intro _
    | split

theorem keeps_execCvuFeed {r₀ : State} (d : Fin 2) (c : Fin 4) (data : Bytes) (w : Writer) (s : State) (h₀ : Keeps r₀ s) : KeepsR r₀ (execCvuFeed d c data w s) := by
  unfold execCvuFeed
  try dsimp only
  repeat' first
    | with_reducible assumption
    | with_reducible apply KeepsR.fault
    | with_reducible apply KeepsR.next
    | with_reducible apply keeps_gate
    | with_reducible apply keeps_setCvu
    | with_reducible apply Keeps.foldl
    | with_reducible apply Keeps.foldl1
    | with_reducible apply Keeps.ite
    | with_reducible apply KeepsR.ite
    | intro _
    | split

theorem keeps_execCvuInit {r₀ : State} (d : Fin 2) (v : BitVec 32) (w : Writer) (s : State) (h₀ : Keeps r₀ s) : KeepsR r₀ (execCvuInit d v w s) := by
  unfold execCvuInit
  try dsimp only
  repeat' first
    | with_reducible assumption
    | with_reducible apply KeepsR.fault
    | with_reducible apply KeepsR.next
    | with_reducible apply keeps_writeThen
    | with_reducible apply keeps_gate
    | with_reducible apply keeps_cvuInit
    | with_reducible apply Keeps.foldl
    | with_reducible apply Keeps.foldl1
    | with_reducible apply Keeps.ite
    | with_reducible apply KeepsR.ite
    | intro _
    | split

theorem keeps_execCvuModeChange {r₀ : State} (d : Fin 2) (v : BitVec 32) (w : Writer) (s : State) (h₀ : Keeps r₀ s) : KeepsR r₀ (execCvuModeChange d v w s) := by
  unfold execCvuModeChange
  try dsimp only
  repeat' first
    | with_reducible assumption
    | with_reducible apply KeepsR.fault
    | with_reducible apply KeepsR.next
    | with_reducible apply keeps_writeThen
    | with_reducible apply keeps_gate
    | with_reducible apply keeps_cvuInit
    | with_reducible apply Keeps.foldl
    | with_reducible apply Keeps.foldl1
    | with_reducible apply Keeps.ite
    | with_reducible apply KeepsR.ite
    | intro _
    | split

theorem keeps_execCvuRunLoad {r₀ : State} (d : Fin 2) (v : BitVec 64) (w : Writer) (s : State) (h₀ : Keeps r₀ s) : KeepsR r₀ (execCvuRunLoad d v w s) := by
  unfold execCvuRunLoad
  try dsimp only
  repeat' first
    | with_reducible assumption
    | with_reducible apply KeepsR.fault
    | with_reducible apply KeepsR.next
    | with_reducible apply keeps_gate
    | with_reducible apply keeps_setCvu
    | with_reducible apply Keeps.ite
    | with_reducible apply KeepsR.ite
    | intro _
    | split

end Sys2Proof.Machine
end

