-- ==== Sys2Proof/Laws/Keeps/Reset.lean ====
section
/-! SUPPORT. What each operation of Machine/Reset.lean keeps: the queue and the invariant. -/

namespace Sys2Proof.Machine

theorem keeps_stopAll {r₀ : State} (s : State) (h₀ : Keeps r₀ s) : Keeps r₀ (stopAll s) := by
  unfold stopAll
  try dsimp only
  repeat' first
    | with_reducible assumption
    | with_reducible apply keeps_endStreams
    | with_reducible apply keeps_dropSeal
    | with_reducible apply keeps_freeBells
    | with_reducible apply keeps_letIn
    | with_reducible apply Keeps.foldl
    | with_reducible apply Keeps.foldl1
    | with_reducible apply Keeps.ite
    | simp only [Keeps.litEq]
    | intro _
    | split

theorem keeps_resetBase {r s : State} (p : Pins) (b : Boot) (h : Keeps r s) :
    Keeps r { pending := s.pending, out := s.out, hostMem := s.hostMem, draws := s.draws, pins := p, boot := b } :=
  h.trans ⟨rfl, fun i => ⟨rfl, i.2.1, rfl⟩⟩

theorem keeps_fullReset {r₀ : State} (s : State) (por : Bool) (h₀ : Keeps r₀ s) : Keeps r₀ (fullReset s por) := by
  unfold fullReset
  dsimp only
  repeat' first
    | with_reducible assumption
    | with_reducible apply keeps_setReg
    | with_reducible apply keeps_setFld
    | with_reducible apply keeps_resetBase
    | split


theorem keeps_tryBoot {r₀ : State} (s : State) (h₀ : Keeps r₀ s) : Keeps r₀ (tryBoot s) := by
  unfold tryBoot
  try dsimp only
  repeat' first
    | with_reducible assumption
    | with_reducible apply Keeps.ite
    | simp only [Keeps.litEq]
    | intro _
    | split

theorem keeps_resetNow {r₀ : State} (s : State) (por : Bool) (h₀ : Keeps r₀ s) : Keeps r₀ (resetNow s por) := by
  unfold resetNow
  try dsimp only
  repeat' first
    | with_reducible assumption
    | with_reducible apply keeps_fullReset
    | with_reducible apply Keeps.ite
    | simp only [Keeps.litEq]
    | intro _
    | split

theorem keeps_sampleStraps {r₀ : State} (s : State) (straps : BitVec 4) (h₀ : Keeps r₀ s) : Keeps r₀ (sampleStraps s straps) := by
  unfold sampleStraps
  try dsimp only
  repeat' first
    | with_reducible assumption
    | with_reducible apply keeps_setReg
    | with_reducible apply Keeps.ite
    | simp only [Keeps.litEq]
    | intro _
    | split

theorem keeps_releaseInput {r₀ : State} (s : State) (straps : BitVec 4) (tj : Nat) (h₀ : Keeps r₀ s) : Keeps r₀ (releaseInput s straps tj) := by
  unfold releaseInput
  try dsimp only
  repeat' first
    | with_reducible assumption
    | with_reducible apply keeps_tryBoot
    | with_reducible apply keeps_sampleStraps
    | with_reducible apply Keeps.ite
    | simp only [Keeps.litEq]
    | intro _
    | split

theorem keeps_execPorN {r₀ : State} (low : Bool) (straps : BitVec 4) (tj : Nat) (s : State) (h₀ : Keeps r₀ s) : KeepsR r₀ (execPorN low straps tj s) := by
  unfold execPorN
  try dsimp only
  repeat' first
    | with_reducible assumption
    | with_reducible apply KeepsR.fault
    | with_reducible apply KeepsR.next
    | with_reducible apply keeps_resetNow
    | with_reducible apply keeps_releaseInput
    | with_reducible apply Keeps.ite
    | with_reducible apply KeepsR.ite
    | simp only [Keeps.litEq]
    | intro _
    | split

theorem keeps_execRstN {r₀ : State} (low : Bool) (straps : BitVec 4) (tj : Nat) (s : State) (h₀ : Keeps r₀ s) : KeepsR r₀ (execRstN low straps tj s) := by
  unfold execRstN
  try dsimp only
  repeat' first
    | with_reducible assumption
    | with_reducible apply KeepsR.fault
    | with_reducible apply KeepsR.next
    | with_reducible apply keeps_resetNow
    | with_reducible apply keeps_releaseInput
    | with_reducible apply Keeps.ite
    | with_reducible apply KeepsR.ite
    | simp only [Keeps.litEq]
    | intro _
    | split

theorem keeps_execPerstN {r₀ : State} (hot low : Bool) (s : State) (h₀ : Keeps r₀ s) : KeepsR r₀ (execPerstN hot low s) := by
  unfold execPerstN
  try dsimp only
  repeat' first
    | with_reducible assumption
    | with_reducible apply KeepsR.fault
    | with_reducible apply KeepsR.next
    | with_reducible apply keeps_tryBoot
    | with_reducible apply keeps_resetNow
    | with_reducible apply Keeps.ite
    | with_reducible apply KeepsR.ite
    | simp only [Keeps.litEq]
    | intro _
    | split

theorem keeps_railCheck {r₀ : State} (s : State) (h₀ : Keeps r₀ s) : Keeps r₀ (railCheck s) := by
  unfold railCheck
  try dsimp only
  repeat' first
    | with_reducible assumption
    | with_reducible apply keeps_resetNow
    | with_reducible apply Keeps.ite
    | simp only [Keeps.litEq]
    | intro _
    | split

theorem keeps_execSupplyFault {r₀ : State} (hbmRail out : Bool) (s : State) (h₀ : Keeps r₀ s) : KeepsR r₀ (execSupplyFault hbmRail out s) := by
  unfold execSupplyFault
  try dsimp only
  repeat' first
    | with_reducible assumption
    | with_reducible apply KeepsR.fault
    | with_reducible apply KeepsR.next
    | with_reducible apply keeps_tryBoot
    | with_reducible apply keeps_resetNow
    | with_reducible apply Keeps.ite
    | with_reducible apply KeepsR.ite
    | simp only [Keeps.litEq]
    | intro _
    | split

theorem keeps_drumLoss {r₀ : State} (s : State) (h₀ : Keeps r₀ s) : Keeps r₀ (drumLoss s) := by
  unfold drumLoss
  try dsimp only
  repeat' first
    | with_reducible assumption
    | with_reducible apply keeps_orReg
    | with_reducible apply keeps_fullReset
    | with_reducible apply Keeps.ite
    | simp only [Keeps.litEq]
    | intro _
    | split

theorem keeps_execDrumRefLoss {r₀ : State} (s : State) (h₀ : Keeps r₀ s) : KeepsR r₀ (execDrumRefLoss s) := by
  unfold execDrumRefLoss
  try dsimp only
  repeat' first
    | with_reducible assumption
    | with_reducible apply KeepsR.fault
    | with_reducible apply KeepsR.next
    | with_reducible apply keeps_drumLoss
    | with_reducible apply Keeps.ite
    | with_reducible apply KeepsR.ite
    | simp only [Keeps.litEq]
    | intro _
    | split

theorem keeps_execDrumRefReturn {r₀ : State} (s : State) (h₀ : Keeps r₀ s) : KeepsR r₀ (execDrumRefReturn s) := by
  unfold execDrumRefReturn
  try dsimp only
  repeat' first
    | with_reducible assumption
    | with_reducible apply KeepsR.fault
    | with_reducible apply KeepsR.next
    | with_reducible apply keeps_tryBoot
    | with_reducible apply Keeps.ite
    | with_reducible apply KeepsR.ite
    | simp only [Keeps.litEq]
    | intro _
    | split

theorem keeps_execThermalTrip {r₀ : State} (s : State) (h₀ : Keeps r₀ s) : KeepsR r₀ (execThermalTrip s) := by
  unfold execThermalTrip
  try dsimp only
  repeat' first
    | with_reducible assumption
    | with_reducible apply KeepsR.fault
    | with_reducible apply KeepsR.next
    | with_reducible apply keeps_orReg
    | with_reducible apply keeps_fullReset
    | with_reducible apply Keeps.ite
    | with_reducible apply KeepsR.ite
    | simp only [Keeps.litEq]
    | intro _
    | split

end Sys2Proof.Machine
end

