-- ==== Sys2Proof/Laws/Keeps/Power.lean ====
section
/-! SUPPORT. What each operation of Machine/Power.lean keeps: the queue and the invariant. -/

namespace Sys2Proof.Machine

theorem keeps_requestState {r₀ : State} (s : State) (target : Nat) (h₀ : Keeps r₀ s) : Keeps r₀ (requestState s target) := by
  unfold requestState
  try dsimp only
  repeat' first
    | with_reducible assumption
    | with_reducible apply keeps_setFld
    | with_reducible apply keeps_syncPower
    | with_reducible apply keeps_wake
    | with_reducible apply Keeps.ite
    | simp only [Keeps.litEq]
    | intro _
    | split

theorem keeps_execPowerTarget {r₀ : State} (v : BitVec 32) (w : Writer) (s : State) (h₀ : Keeps r₀ s) : KeepsR r₀ (execPowerTarget v w s) := by
  unfold execPowerTarget
  try dsimp only
  repeat' first
    | with_reducible assumption
    | with_reducible apply KeepsR.fault
    | with_reducible apply KeepsR.next
    | with_reducible apply keeps_setReg
    | with_reducible apply keeps_reject
    | with_reducible apply keeps_refuseBar
    | with_reducible apply keeps_requestState
    | with_reducible apply Keeps.ite
    | with_reducible apply KeepsR.ite
    | intro _
    | split

theorem keeps_clearSrams {r₀ : State} (s : State) (h₀ : Keeps r₀ s) : Keeps r₀ (clearSrams s) := by
  unfold clearSrams
  try dsimp only
  repeat' first
    | with_reducible assumption
    | with_reducible apply keeps_devZero
    | with_reducible apply Keeps.ite
    | simp only [Keeps.litEq]
    | intro _
    | split

theorem keeps_newKeys {r₀ : State} (s : State) (p : Nat) (h₀ : Keeps r₀ s) : Keeps r₀ (newKeys s p) := by
  unfold newKeys
  try dsimp only
  repeat' first
    | with_reducible assumption
    | with_reducible apply keeps_drawn
    | with_reducible apply Keeps.ite
    | simp only [Keeps.litEq]
    | intro _
    | split

theorem keeps_rekeyPart {r₀ : State} (s : State) (p : Nat) (h₀ : Keeps r₀ s) : Keeps r₀ (rekeyPart s p) := by
  unfold rekeyPart
  try dsimp only
  repeat' first
    | with_reducible assumption
    | with_reducible apply keeps_poisonRange
    | with_reducible apply keeps_newKeys
    | with_reducible apply Keeps.ite
    | simp only [Keeps.litEq]
    | intro _
    | split

theorem keeps_rekeyLedger {r₀ : State} (s : State) (h₀ : Keeps r₀ s) : Keeps r₀ (rekeyLedger s) := by
  unfold rekeyLedger
  try dsimp only
  repeat' first
    | with_reducible assumption
    | with_reducible apply keeps_rekeyPart
    | with_reducible apply Keeps.foldl
    | with_reducible apply Keeps.foldl1
    | with_reducible apply Keeps.ite
    | intro _
    | split

theorem keeps_entryStep {r₀ : State} (s : State) (n : Nat) (lpi : BitVec 32) (pme : Bool) (h₀ : Keeps r₀ s) : Keeps r₀ (entryStep s n lpi pme) := by
  unfold entryStep
  try dsimp only
  repeat' first
    | with_reducible assumption
    | with_reducible apply keeps_devZero
    | with_reducible apply keeps_portDown
    | with_reducible apply keeps_clearSrams
    | with_reducible apply Keeps.foldl
    | with_reducible apply Keeps.foldl1
    | with_reducible apply Keeps.ite
    | simp only [Keeps.litEq]
    | intro _
    | split

theorem keeps_exitStep {r₀ : State} (s : State) (n : Nat) (h₀ : Keeps r₀ s) : Keeps r₀ (exitStep s n) := by
  unfold exitStep
  try dsimp only
  repeat' first
    | with_reducible assumption
    | with_reducible apply keeps_setFld
    | with_reducible apply keeps_clearSrams
    | with_reducible apply keeps_rekeyLedger
    | with_reducible apply Keeps.ite
    | simp only [Keeps.litEq]
    | intro _
    | split

theorem keeps_execPowerStepDone {r₀ : State} (lpi : BitVec 32) (pme : Bool) (s : State) (h₀ : Keeps r₀ s) : KeepsR r₀ (execPowerStepDone lpi pme s) := by
  unfold execPowerStepDone
  try dsimp only
  repeat' first
    | with_reducible assumption
    | with_reducible apply KeepsR.fault
    | with_reducible apply KeepsR.next
    | with_reducible apply keeps_syncPower
    | with_reducible apply keeps_drumLoss
    | with_reducible apply keeps_requestState
    | with_reducible apply keeps_entryStep
    | with_reducible apply keeps_exitStep
    | with_reducible apply Keeps.ite
    | with_reducible apply KeepsR.ite
    | simp only [Keeps.litEq]
    | intro _
    | split

theorem keeps_thermalWake {r₀ : State} (s : State) (h₀ : Keeps r₀ s) : Keeps r₀ (thermalWake s) := by
  unfold thermalWake
  try dsimp only
  repeat' first
    | with_reducible assumption
    | with_reducible apply keeps_wake
    | with_reducible apply Keeps.ite
    | intro _
    | split

theorem keeps_execPowerWake {r₀ : State} (kind : Fin 6) (s : State) (h₀ : Keeps r₀ s) : KeepsR r₀ (execPowerWake kind s) := by
  unfold execPowerWake
  try dsimp only
  repeat' first
    | with_reducible assumption
    | with_reducible apply KeepsR.fault
    | with_reducible apply KeepsR.next
    | with_reducible apply keeps_wake
    | with_reducible apply keeps_wakeUp
    | with_reducible apply keeps_frameWake
    | with_reducible apply keeps_thermalWake
    | with_reducible apply Keeps.ite
    | with_reducible apply KeepsR.ite
    | simp only [Keeps.litEq]
    | intro _
    | split

theorem keeps_execAutoRestTimer {r₀ : State} (s : State) (h₀ : Keeps r₀ s) : KeepsR r₀ (execAutoRestTimer s) := by
  unfold execAutoRestTimer
  try dsimp only
  repeat' first
    | with_reducible assumption
    | with_reducible apply KeepsR.fault
    | with_reducible apply KeepsR.next
    | with_reducible apply keeps_syncPower
    | with_reducible apply Keeps.ite
    | with_reducible apply KeepsR.ite
    | simp only [Keeps.litEq]
    | intro _
    | split

theorem keeps_execHbmRewriteDone {r₀ : State} (s : State) (h₀ : Keeps r₀ s) : KeepsR r₀ (execHbmRewriteDone s) := by
  unfold execHbmRewriteDone
  try dsimp only
  repeat' first
    | with_reducible assumption
    | with_reducible apply KeepsR.fault
    | with_reducible apply KeepsR.next
    | with_reducible apply keeps_setFld
    | with_reducible apply keeps_devZero
    | with_reducible apply Keeps.ite
    | with_reducible apply KeepsR.ite
    | intro _
    | split

theorem keeps_averageTenv {r₀ : State} (s : State) (hot p : Nat) (h₀ : Keeps r₀ s) : Keeps r₀ (averageTenv s hot p) := by
  unfold averageTenv
  try dsimp only
  repeat' first
    | with_reducible assumption
    | with_reducible apply keeps_setReg
    | with_reducible apply Keeps.ite
    | simp only [Keeps.litEq]
    | intro _
    | split

theorem keeps_raiseCadence {r₀ : State} (s : State) (p : Nat) (h₀ : Keeps r₀ s) : Keeps r₀ (raiseCadence s p) := by
  unfold raiseCadence
  try dsimp only
  repeat' first
    | with_reducible assumption
    | with_reducible apply keeps_modPart
    | with_reducible apply keeps_cadenceVote
    | with_reducible apply Keeps.ite
    | simp only [Keeps.litEq]
    | intro _
    | split

theorem keeps_sensorRegs {r₀ : State} (m : Sensors) (s : State) (h₀ : Keeps r₀ s) : Keeps r₀ (sensorRegs m s) := by
  unfold sensorRegs
  try dsimp only
  repeat' first
    | with_reducible assumption
    | with_reducible apply keeps_setReg
    | with_reducible apply keeps_setFld
    | with_reducible apply keeps_syncThrottle
    | with_reducible apply keeps_averageTenv
    | with_reducible apply Keeps.foldl
    | with_reducible apply Keeps.foldl1
    | with_reducible apply Keeps.ite
    | simp only [Keeps.litEq]
    | intro _
    | split

theorem keeps_execSensorPoll {r₀ : State} (m : Sensors) (s : State) (h₀ : Keeps r₀ s) : KeepsR r₀ (execSensorPoll m s) := by
  unfold execSensorPoll
  try dsimp only
  repeat' first
    | with_reducible assumption
    | with_reducible apply KeepsR.fault
    | with_reducible apply KeepsR.next
    | with_reducible apply keeps_thermalWake
    | with_reducible apply keeps_raiseCadence
    | with_reducible apply keeps_sensorRegs
    | with_reducible apply Keeps.foldl
    | with_reducible apply Keeps.foldl1
    | with_reducible apply Keeps.ite
    | with_reducible apply KeepsR.ite
    | simp only [Keeps.litEq]
    | intro _
    | split

theorem keeps_execCadenceRaise {r₀ : State} (p : Fin 8) (s : State) (h₀ : Keeps r₀ s) : KeepsR r₀ (execCadenceRaise p s) := by
  unfold execCadenceRaise
  try dsimp only
  repeat' first
    | with_reducible assumption
    | with_reducible apply KeepsR.fault
    | with_reducible apply KeepsR.next
    | with_reducible apply keeps_raiseCadence
    | with_reducible apply Keeps.ite
    | with_reducible apply KeepsR.ite
    | simp only [Keeps.litEq]
    | intro _
    | split

theorem keeps_execCadenceLower {r₀ : State} (p : Fin 8) (s : State) (h₀ : Keeps r₀ s) : KeepsR r₀ (execCadenceLower p s) := by
  unfold execCadenceLower
  try dsimp only
  repeat' first
    | with_reducible assumption
    | with_reducible apply KeepsR.fault
    | with_reducible apply KeepsR.next
    | with_reducible apply keeps_modPart
    | with_reducible apply keeps_cadenceVote
    | with_reducible apply Keeps.ite
    | with_reducible apply KeepsR.ite
    | simp only [Keeps.litEq]
    | intro _
    | split

theorem keeps_execThrottleDutyStep {r₀ : State} (s : State) (h₀ : Keeps r₀ s) : KeepsR r₀ (execThrottleDutyStep s) := by
  unfold execThrottleDutyStep
  try dsimp only
  repeat' first
    | with_reducible assumption
    | with_reducible apply KeepsR.fault
    | with_reducible apply KeepsR.next
    | with_reducible apply keeps_setFld
    | with_reducible apply Keeps.ite
    | with_reducible apply KeepsR.ite
    | simp only [Keeps.litEq]
    | intro _
    | split

theorem keeps_execThrottleWindow {r₀ : State} (s : State) (h₀ : Keeps r₀ s) : KeepsR r₀ (execThrottleWindow s) := by
  unfold execThrottleWindow
  try dsimp only
  repeat' first
    | with_reducible assumption
    | with_reducible apply KeepsR.fault
    | with_reducible apply KeepsR.next
    | with_reducible apply keeps_recFlag
    | with_reducible apply keeps_gateEval
    | with_reducible apply keeps_raiseHold
    | with_reducible apply Keeps.foldl
    | with_reducible apply Keeps.foldl1
    | with_reducible apply Keeps.ite
    | with_reducible apply KeepsR.ite
    | simp only [Keeps.litEq]
    | intro _
    | split

end Sys2Proof.Machine
end

