-- ==== Sys2Proof/Laws/Keeps/Boot.lean ====
section
/-! SUPPORT. What each operation of Machine/Boot.lean keeps: the queue and the invariant. -/

namespace Sys2Proof.Machine

theorem keeps_setStage {r₀ : State} (s : State) (v : Nat) (h₀ : Keeps r₀ s) : Keeps r₀ (setStage s v) := by
  unfold setStage
  try dsimp only
  repeat' first
    | with_reducible assumption
    | with_reducible apply keeps_setFld
    | with_reducible apply Keeps.ite
    | intro _
    | split

theorem keeps_execFwPushGo {r₀ : State} (w : Writer) (s : State) (h₀ : Keeps r₀ s) : KeepsR r₀ (execFwPushGo w s) := by
  unfold execFwPushGo
  try dsimp only
  repeat' first
    | with_reducible assumption
    | with_reducible apply KeepsR.fault
    | with_reducible apply KeepsR.next
    | with_reducible apply keeps_setReg
    | with_reducible apply keeps_gate
    | with_reducible apply keeps_tryBoot
    | with_reducible apply keeps_resetNow
    | with_reducible apply keeps_setStage
    | with_reducible apply Keeps.ite
    | with_reducible apply KeepsR.ite
    | simp only [Keeps.litEq]
    | intro _
    | split

theorem keeps_pushFailed {r₀ : State} (s : State) (result reason : Nat) (h₀ : Keeps r₀ s) : Keeps r₀ (pushFailed s result reason) := by
  unfold pushFailed
  try dsimp only
  repeat' first
    | with_reducible assumption
    | with_reducible apply keeps_setReg
    | with_reducible apply keeps_setFld
    | with_reducible apply keeps_setEvent
    | with_reducible apply keeps_setStage
    | with_reducible apply Keeps.ite
    | simp only [Keeps.litEq]
    | intro _
    | split

theorem keeps_firstImage {r₀ : State} (s : State) (ftl : Nat) (h₀ : Keeps r₀ s) : Keeps r₀ (firstImage s ftl) := by
  unfold firstImage
  try dsimp only
  repeat' first
    | with_reducible assumption
    | with_reducible apply keeps_setFld
    | with_reducible apply Keeps.ite
    | simp only [Keeps.litEq]
    | intro _
    | split

theorem keeps_loadFloor {r₀ : State} (s : State) (floor : Nat) (h₀ : Keeps r₀ s) : Keeps r₀ (loadFloor s floor) := by
  unfold loadFloor
  try dsimp only
  repeat' first
    | with_reducible assumption
    | with_reducible apply keeps_setReg
    | with_reducible apply Keeps.ite
    | simp only [Keeps.litEq]
    | intro _
    | split

theorem keeps_takePush {r₀ : State} (s : State) (x : FwPush) (h₀ : Keeps r₀ s) : Keeps r₀ (takePush s x) := by
  unfold takePush
  try dsimp only
  repeat' first
    | with_reducible assumption
    | with_reducible apply keeps_setReg
    | with_reducible apply keeps_setFld
    | with_reducible apply keeps_setEvent
    | with_reducible apply keeps_setStage
    | with_reducible apply keeps_firstImage
    | with_reducible apply keeps_loadFloor
    | with_reducible apply Keeps.ite
    | simp only [Keeps.litEq]
    | intro _
    | split

theorem keeps_execFwPushDone {r₀ : State} (x : FwPush) (s : State) (h₀ : Keeps r₀ s) : KeepsR r₀ (execFwPushDone x s) := by
  unfold execFwPushDone
  try dsimp only
  repeat' first
    | with_reducible assumption
    | with_reducible apply KeepsR.fault
    | with_reducible apply KeepsR.next
    | with_reducible apply keeps_pushFailed
    | with_reducible apply keeps_takePush
    | with_reducible apply Keeps.ite
    | with_reducible apply KeepsR.ite
    | simp only [Keeps.litEq]
    | intro _
    | split

theorem keeps_applyProfile {r₀ : State} (s : State) (rbgBad : List Nat) (h₀ : Keeps r₀ s) : Keeps r₀ (applyProfile s rbgBad) := by
  unfold applyProfile
  try dsimp only
  repeat' first
    | with_reducible assumption
    | with_reducible apply keeps_setReg
    | with_reducible apply keeps_setFld
    | with_reducible apply keeps_sparePc
    | with_reducible apply Keeps.foldl
    | with_reducible apply Keeps.foldl1
    | with_reducible apply Keeps.ite
    | simp only [Keeps.litEq]
    | intro _
    | split

theorem keeps_tunnelEntries {r₀ : State} (s : State) (h₀ : Keeps r₀ s) : Keeps r₀ (tunnelEntries s) := by
  unfold tunnelEntries
  try dsimp only
  repeat' first
    | with_reducible assumption
    | with_reducible apply keeps_openWith
    | with_reducible apply Keeps.foldl
    | with_reducible apply Keeps.foldl1
    | with_reducible apply Keeps.ite
    | simp only [Keeps.litEq]
    | intro _
    | split

theorem keeps_setPort {r₀ : State} (s : State) (n : Nat) (h₀ : Keeps r₀ s) : Keeps r₀ (setPort s n) := by
  unfold setPort
  try dsimp only
  repeat' first
    | with_reducible assumption
    | with_reducible apply keeps_setReg
    | with_reducible apply keeps_portDown
    | with_reducible apply Keeps.ite
    | intro _
    | split

theorem keeps_bootReady {r₀ : State} (s : State) (h₀ : Keeps r₀ s) : Keeps r₀ (bootReady s) := by
  unfold bootReady
  try dsimp only
  repeat' first
    | with_reducible assumption
    | with_reducible apply keeps_setFld
    | with_reducible apply keeps_tunnelEntries
    | with_reducible apply keeps_setPort
    | with_reducible apply Keeps.foldl
    | with_reducible apply Keeps.foldl1
    | with_reducible apply Keeps.ite
    | simp only [Keeps.litEq]
    | intro _
    | split

theorem keeps_execBootStepDone {r₀ : State} (ok : Bool) (bad : List Nat) (s : State) (h₀ : Keeps r₀ s) : KeepsR r₀ (execBootStepDone ok bad s) := by
  unfold execBootStepDone
  try dsimp only
  repeat' first
    | with_reducible assumption
    | with_reducible apply KeepsR.fault
    | with_reducible apply KeepsR.next
    | with_reducible apply keeps_setReg
    | with_reducible apply keeps_setFld
    | with_reducible apply keeps_devZero
    | with_reducible apply keeps_setStack
    | with_reducible apply keeps_newKeys
    | with_reducible apply keeps_setStage
    | with_reducible apply keeps_applyProfile
    | with_reducible apply keeps_bootReady
    | with_reducible apply Keeps.foldl
    | with_reducible apply Keeps.foldl1
    | with_reducible apply Keeps.ite
    | with_reducible apply KeepsR.ite
    | simp only [Keeps.litEq]
    | intro _
    | split

theorem keeps_setRefValid {r₀ : State} (s : State) (b : Bool) (h₀ : Keeps r₀ s) : Keeps r₀ (setRefValid s b) := by
  unfold setRefValid
  try dsimp only
  repeat' first
    | with_reducible assumption
    | with_reducible apply keeps_setFld
    | with_reducible apply Keeps.ite
    | intro _
    | split

theorem keeps_execIeee1588TimeUpdate {r₀ : State} (ns : BitVec 64) (s : State) (h₀ : Keeps r₀ s) : KeepsR r₀ (execIeee1588TimeUpdate ns s) := by
  unfold execIeee1588TimeUpdate
  try dsimp only
  repeat' first
    | with_reducible assumption
    | with_reducible apply KeepsR.fault
    | with_reducible apply KeepsR.next
    | with_reducible apply keeps_setRefValid
    | with_reducible apply Keeps.ite
    | with_reducible apply KeepsR.ite
    | simp only [Keeps.litEq]
    | intro _
    | split

theorem keeps_samplePulse {r₀ : State} (s : State) (h₀ : Keeps r₀ s) : Keeps r₀ (samplePulse s) := by
  unfold samplePulse
  try dsimp only
  repeat' first
    | with_reducible assumption
    | with_reducible apply Keeps.ite
    | simp only [Keeps.litEq]
    | intro _
    | split

theorem keeps_execDrumSyncPulse {r₀ : State} (s : State) (h₀ : Keeps r₀ s) : KeepsR r₀ (execDrumSyncPulse s) := by
  unfold execDrumSyncPulse
  try dsimp only
  repeat' first
    | with_reducible assumption
    | with_reducible apply KeepsR.fault
    | with_reducible apply KeepsR.next
    | with_reducible apply keeps_setRefValid
    | with_reducible apply keeps_samplePulse
    | with_reducible apply Keeps.ite
    | with_reducible apply KeepsR.ite
    | simp only [Keeps.litEq]
    | intro _
    | split

theorem keeps_execDrumSyncSilence {r₀ : State} (s : State) (h₀ : Keeps r₀ s) : KeepsR r₀ (execDrumSyncSilence s) := by
  unfold execDrumSyncSilence
  try dsimp only
  repeat' first
    | with_reducible assumption
    | with_reducible apply KeepsR.fault
    | with_reducible apply KeepsR.next
    | with_reducible apply keeps_setRefValid
    | with_reducible apply Keeps.ite
    | with_reducible apply KeepsR.ite
    | simp only [Keeps.litEq]
    | intro _
    | split

theorem keeps_execSerdesRefLoss {r₀ : State} (d : Fin 2) (s : State) (h₀ : Keeps r₀ s) : KeepsR r₀ (execSerdesRefLoss d s) := by
  unfold execSerdesRefLoss
  try dsimp only
  repeat' first
    | with_reducible assumption
    | with_reducible apply KeepsR.fault
    | with_reducible apply KeepsR.next
    | with_reducible apply keeps_portDown
    | with_reducible apply Keeps.foldl
    | with_reducible apply Keeps.foldl1
    | with_reducible apply Keeps.ite
    | with_reducible apply KeepsR.ite
    | intro _
    | split

theorem keeps_execRefclkLoss {r₀ : State} (s : State) (h₀ : Keeps r₀ s) : KeepsR r₀ (execRefclkLoss s) := by
  unfold execRefclkLoss
  try dsimp only
  repeat' first
    | with_reducible assumption
    | with_reducible apply KeepsR.fault
    | with_reducible apply KeepsR.next
    | with_reducible apply Keeps.ite
    | with_reducible apply KeepsR.ite
    | simp only [Keeps.litEq]
    | intro _
    | split

theorem keeps_dropTunnels {r₀ : State} (s : State) (h₀ : Keeps r₀ s) : Keeps r₀ (dropTunnels s) := by
  unfold dropTunnels
  try dsimp only
  repeat' first
    | with_reducible assumption
    | with_reducible apply keeps_failStream
    | with_reducible apply Keeps.foldl
    | with_reducible apply Keeps.foldl1
    | with_reducible apply Keeps.ite
    | simp only [Keeps.litEq]
    | intro _
    | split

theorem keeps_romRecovery {r₀ : State} (s : State) (h₀ : Keeps r₀ s) : Keeps r₀ (romRecovery s) := by
  unfold romRecovery
  try dsimp only
  repeat' first
    | with_reducible assumption
    | with_reducible apply keeps_setFld
    | with_reducible apply keeps_stopAll
    | with_reducible apply keeps_setStage
    | with_reducible apply keeps_dropTunnels
    | with_reducible apply Keeps.ite
    | simp only [Keeps.litEq]
    | intro _
    | split

theorem keeps_restartDie1 {r₀ : State} (s : State) (h₀ : Keeps r₀ s) : Keeps r₀ (restartDie1 s) := by
  unfold restartDie1
  try dsimp only
  repeat' first
    | with_reducible assumption
    | with_reducible apply Keeps.ite
    | simp only [Keeps.litEq]
    | intro _
    | split

theorem keeps_execWatchdogKick {r₀ : State} (d : Fin 2) (v : BitVec 32) (w : Writer) (s : State) (h₀ : Keeps r₀ s) : KeepsR r₀ (execWatchdogKick d v w s) := by
  unfold execWatchdogKick
  try dsimp only
  repeat' first
    | with_reducible assumption
    | with_reducible apply KeepsR.fault
    | with_reducible apply KeepsR.next
    | with_reducible apply keeps_writeThen
    | with_reducible apply keeps_gate
    | with_reducible apply Keeps.ite
    | with_reducible apply KeepsR.ite
    | simp only [Keeps.litEq]
    | intro _
    | split

theorem keeps_execWatchdogExpire {r₀ : State} (d : Fin 2) (s : State) (h₀ : Keeps r₀ s) : KeepsR r₀ (execWatchdogExpire d s) := by
  unfold execWatchdogExpire
  try dsimp only
  repeat' first
    | with_reducible assumption
    | with_reducible apply KeepsR.fault
    | with_reducible apply KeepsR.next
    | with_reducible apply keeps_orReg
    | with_reducible apply keeps_romRecovery
    | with_reducible apply keeps_restartDie1
    | with_reducible apply Keeps.ite
    | with_reducible apply KeepsR.ite
    | simp only [Keeps.litEq]
    | intro _
    | split

theorem keeps_resumePasses {r₀ : State} (s : State) (h₀ : Keeps r₀ s) : Keeps r₀ (resumePasses s) := by
  unfold resumePasses
  try dsimp only
  repeat' first
    | with_reducible assumption
    | with_reducible apply Keeps.ite
    | simp only [Keeps.litEq]
    | intro _
    | split

theorem keeps_execDie1Heartbeat {r₀ : State} (s : State) (h₀ : Keeps r₀ s) : KeepsR r₀ (execDie1Heartbeat s) := by
  unfold execDie1Heartbeat
  try dsimp only
  repeat' first
    | with_reducible assumption
    | with_reducible apply KeepsR.fault
    | with_reducible apply KeepsR.next
    | with_reducible apply keeps_resumePasses
    | with_reducible apply Keeps.ite
    | with_reducible apply KeepsR.ite
    | simp only [Keeps.litEq]
    | intro _
    | split

theorem keeps_execDie1HeartbeatLoss {r₀ : State} (s : State) (h₀ : Keeps r₀ s) : KeepsR r₀ (execDie1HeartbeatLoss s) := by
  unfold execDie1HeartbeatLoss
  try dsimp only
  repeat' first
    | with_reducible assumption
    | with_reducible apply KeepsR.fault
    | with_reducible apply KeepsR.next
    | with_reducible apply keeps_restartDie1
    | with_reducible apply Keeps.ite
    | with_reducible apply KeepsR.ite
    | intro _
    | split

theorem keeps_execDie1ReportTimeout {r₀ : State} (s : State) (h₀ : Keeps r₀ s) : KeepsR r₀ (execDie1ReportTimeout s) := by
  unfold execDie1ReportTimeout
  try dsimp only
  repeat' first
    | with_reducible assumption
    | with_reducible apply KeepsR.fault
    | with_reducible apply KeepsR.next
    | with_reducible apply keeps_romRecovery
    | with_reducible apply Keeps.ite
    | with_reducible apply KeepsR.ite
    | intro _
    | split

theorem keeps_faultRunning {r₀ : State} (s : State) (pr : Prob) (h₀ : Keeps r₀ s) : Keeps r₀ (faultRunning s pr) := by
  unfold faultRunning
  try dsimp only
  repeat' first
    | with_reducible assumption
    | with_reducible apply keeps_fault1
    | with_reducible apply Keeps.foldl
    | with_reducible apply Keeps.foldl1
    | with_reducible apply Keeps.ite
    | simp only [Keeps.litEq]
    | intro _
    | split

theorem keeps_execBridgeReplay {r₀ : State} (dir : Fin 2) (again : Bool) (miss : Option (Fin 8 × Nat)) (s : State) (h₀ : Keeps r₀ s) : KeepsR r₀ (execBridgeReplay dir again miss s) := by
  unfold execBridgeReplay
  try dsimp only
  repeat' first
    | with_reducible assumption
    | with_reducible apply KeepsR.fault
    | with_reducible apply KeepsR.next
    | with_reducible apply keeps_gateEval
    | with_reducible apply keeps_raiseHold
    | with_reducible apply keeps_faultRunning
    | with_reducible apply Keeps.ite
    | with_reducible apply KeepsR.ite
    | simp only [Keeps.litEq]
    | intro _
    | split

theorem keeps_execJtagInstruction {r₀ : State} (i : Fin 3) (s : State) (h₀ : Keeps r₀ s) : KeepsR r₀ (execJtagInstruction i s) := by
  unfold execJtagInstruction
  try dsimp only
  repeat' first
    | with_reducible assumption
    | with_reducible apply KeepsR.fault
    | with_reducible apply KeepsR.next
    | with_reducible apply Keeps.ite
    | with_reducible apply KeepsR.ite
    | simp only [Keeps.litEq]
    | intro _
    | split

end Sys2Proof.Machine
end

