-- ==== Sys2Proof/Laws/Keeps/Sec.lean ====
section
/-! SUPPORT. What each operation of Machine/Sec.lean keeps: the queue and the invariant. -/

namespace Sys2Proof.Machine

theorem keeps_setRegion {r₀ : State} (s : State) (p v : Nat) (h₀ : Keeps r₀ s) : Keeps r₀ (setRegion s p v) := by
  unfold setRegion
  try dsimp only
  repeat' first
    | with_reducible assumption
    | with_reducible apply keeps_setReg
    | with_reducible apply keeps_poisonRange
    | with_reducible apply keeps_newKeys
    | with_reducible apply Keeps.ite
    | intro _
    | split

theorem keeps_answer {r₀ : State} (s : State) (f code : Nat) (b : Bytes) (h₀ : Keeps r₀ s) : Keeps r₀ (answer s f code b) := by
  unfold answer
  try dsimp only
  repeat' first
    | with_reducible assumption
    | with_reducible apply keeps_toTunnel
    | with_reducible apply Keeps.ite
    | simp only [Keeps.litEq]
    | intro _
    | split

theorem keeps_signedAnswer {r₀ : State} (s : State) (f code : Nat) (b msg : Bytes) (h₀ : Keeps r₀ s) : Keeps r₀ (signedAnswer s f code b msg) := by
  unfold signedAnswer
  try dsimp only
  repeat' first
    | with_reducible assumption
    | with_reducible apply keeps_drawn
    | with_reducible apply keeps_answer
    | with_reducible apply Keeps.ite
    | intro _
    | split

theorem keeps_doAsk {r₀ : State} (s : State) (f : Nat) (a : Ask) (h₀ : Keeps r₀ s) : Keeps r₀ (doAsk s f a) := by
  unfold doAsk
  try dsimp only
  repeat' first
    | with_reducible assumption
    | with_reducible apply keeps_drawn
    | with_reducible apply keeps_answer
    | with_reducible apply keeps_signedAnswer
    | with_reducible apply Keeps.ite
    | simp only [Keeps.litEq]
    | intro _
    | split

theorem keeps_ask {r₀ : State} (s : State) (f : Nat) (a : Ask) (h₀ : Keeps r₀ s) : Keeps r₀ (ask s f a) := by
  unfold ask
  try dsimp only
  repeat' first
    | with_reducible assumption
    | with_reducible apply keeps_doAsk
    | with_reducible apply Keeps.ite
    | simp only [Keeps.litEq]
    | intro _
    | split

theorem keeps_beatSession {r₀ : State} (s : State) (f n : Nat) (h₀ : Keeps r₀ s) : Keeps r₀ (beatSession s f n) := by
  unfold beatSession
  try dsimp only
  repeat' first
    | with_reducible assumption
    | with_reducible apply keeps_answer
    | with_reducible apply Keeps.ite
    | intro _
    | split

theorem keeps_spdm {r₀ s : State} {f code : Nat} {req : Bytes} {k : State → State} (h : ∀ t, Keeps r₀ t → Keeps r₀ (k t)) (g : Keeps r₀ s) : Keeps r₀ (spdm s f code req k) := by
  unfold spdm
  repeat' first | with_reducible assumption | with_reducible exact h _ g | with_reducible apply keeps_toTunnel | split


theorem keeps_execSpdmGetCertificate {r₀ : State} (f : Fin 64) (off len : Nat) (s : State) (h₀ : Keeps r₀ s) : KeepsR r₀ (execSpdmGetCertificate f off len s) := by
  unfold execSpdmGetCertificate
  try dsimp only
  repeat' first
    | with_reducible assumption
    | with_reducible apply KeepsR.fault
    | with_reducible apply KeepsR.next
    | with_reducible apply keeps_answer
    | with_reducible apply keeps_spdm
    | with_reducible apply Keeps.ite
    | with_reducible apply KeepsR.ite
    | intro _
    | split

theorem keeps_execSpdmChallenge {r₀ : State} (f : Fin 64) (nonce : Bytes) (s : State) (h₀ : Keeps r₀ s) : KeepsR r₀ (execSpdmChallenge f nonce s) := by
  unfold execSpdmChallenge
  try dsimp only
  repeat' first
    | with_reducible assumption
    | with_reducible apply KeepsR.fault
    | with_reducible apply KeepsR.next
    | with_reducible apply keeps_ask
    | with_reducible apply keeps_spdm
    | with_reducible apply Keeps.ite
    | with_reducible apply KeepsR.ite
    | intro _
    | split

theorem keeps_execSpdmGetMeasurements {r₀ : State} (f : Fin 64) (i : BitVec 8) (nonce : Bytes) (s : State) (h₀ : Keeps r₀ s) : KeepsR r₀ (execSpdmGetMeasurements f i nonce s) := by
  unfold execSpdmGetMeasurements
  try dsimp only
  repeat' first
    | with_reducible assumption
    | with_reducible apply KeepsR.fault
    | with_reducible apply KeepsR.next
    | with_reducible apply keeps_ask
    | with_reducible apply keeps_spdm
    | with_reducible apply Keeps.ite
    | with_reducible apply KeepsR.ite
    | intro _
    | split

theorem keeps_execSpdmKeyExchange {r₀ : State} (f : Fin 64) (req : Bytes) (s : State) (h₀ : Keeps r₀ s) : KeepsR r₀ (execSpdmKeyExchange f req s) := by
  unfold execSpdmKeyExchange
  try dsimp only
  repeat' first
    | with_reducible assumption
    | with_reducible apply KeepsR.fault
    | with_reducible apply KeepsR.next
    | with_reducible apply keeps_ask
    | with_reducible apply keeps_spdm
    | with_reducible apply Keeps.ite
    | with_reducible apply KeepsR.ite
    | intro _
    | split

theorem keeps_endSession {r₀ : State} (s : State) (f n : Nat) (h₀ : Keeps r₀ s) : Keeps r₀ (endSession s f n) := by
  unfold endSession
  try dsimp only
  repeat' first
    | with_reducible assumption
    | with_reducible apply Keeps.ite
    | simp only [Keeps.litEq]
    | intro _
    | split

theorem keeps_execSpdmHeartbeat {r₀ : State} (f : Fin 64) (n : Nat) (expired : Bool) (s : State) (h₀ : Keeps r₀ s) : KeepsR r₀ (execSpdmHeartbeat f n expired s) := by
  unfold execSpdmHeartbeat
  try dsimp only
  repeat' first
    | with_reducible assumption
    | with_reducible apply KeepsR.fault
    | with_reducible apply KeepsR.next
    | with_reducible apply keeps_beatSession
    | with_reducible apply keeps_spdm
    | with_reducible apply keeps_endSession
    | with_reducible apply Keeps.ite
    | with_reducible apply KeepsR.ite
    | intro _
    | split

theorem keeps_spdmMessage {r₀ : State} (s : State) (b : Bytes) (h₀ : Keeps r₀ s) : Keeps r₀ (spdmMessage s b) := by
  unfold spdmMessage
  try dsimp only
  repeat' first
    | with_reducible assumption
    | with_reducible apply keeps_answer
    | with_reducible apply keeps_ask
    | with_reducible apply keeps_beatSession
    | with_reducible apply Keeps.ite
    | simp only [Keeps.litEq]
    | intro _
    | split

theorem keeps_spdmFrom {r₀ : State} (s : State) (n : Nat) (b : Bytes) (h₀ : Keeps r₀ s) : Keeps r₀ (spdmFrom s n b) := by
  unfold spdmFrom
  try dsimp only
  repeat' first
    | with_reducible assumption
    | with_reducible apply Keeps.ite
    | simp only [Keeps.litEq]
    | intro _
    | split

theorem keeps_execEntropyFail {r₀ : State} (s : State) (h₀ : Keeps r₀ s) : KeepsR r₀ (execEntropyFail s) := by
  unfold execEntropyFail
  try dsimp only
  repeat' first
    | with_reducible assumption
    | with_reducible apply KeepsR.fault
    | with_reducible apply KeepsR.next
    | with_reducible apply keeps_orReg
    | with_reducible apply Keeps.ite
    | with_reducible apply KeepsR.ite
    | simp only [Keeps.litEq]
    | intro _
    | split

theorem keeps_execEntropyReseed {r₀ : State} (s : State) (h₀ : Keeps r₀ s) : KeepsR r₀ (execEntropyReseed s) := by
  unfold execEntropyReseed
  try dsimp only
  repeat' first
    | with_reducible assumption
    | with_reducible apply KeepsR.fault
    | with_reducible apply KeepsR.next
    | with_reducible apply keeps_setFld
    | with_reducible apply keeps_openWith
    | with_reducible apply keeps_setRegion
    | with_reducible apply keeps_doAsk
    | with_reducible apply Keeps.foldl
    | with_reducible apply Keeps.foldl1
    | with_reducible apply Keeps.ite
    | with_reducible apply KeepsR.ite
    | simp only [Keeps.litEq]
    | intro _
    | split

theorem keeps_setTdi {r₀ : State} (s : State) (f v : Nat) (h₀ : Keeps r₀ s) : Keeps r₀ (setTdi s f v) := by
  unfold setTdi
  try dsimp only
  repeat' first
    | with_reducible assumption
    | with_reducible apply keeps_setFld
    | with_reducible apply Keeps.ite
    | intro _
    | split

theorem keeps_toVf {r₀ s : State} {f off : Nat} {t : Option (Fin 8)} {k : State → State} (h : ∀ u, Keeps r₀ u → Keeps r₀ (k u)) (g : Keeps r₀ s) : Keeps r₀ (toVf s f off t k) := by
  unfold toVf
  repeat' first | with_reducible assumption | apply h | simp only [Keeps.litEq] | split


theorem keeps_scrubContexts {r₀ : State} (s : State) (status : Nat) (h₀ : Keeps r₀ s) : Keeps r₀ (scrubContexts s status) := by
  unfold scrubContexts
  try dsimp only
  repeat' first
    | with_reducible assumption
    | with_reducible apply keeps_dropSeal
    | with_reducible apply keeps_endCtx
    | with_reducible apply keeps_flushQp
    | with_reducible apply keeps_settleFaults
    | with_reducible apply Keeps.foldl
    | with_reducible apply Keeps.foldl1
    | with_reducible apply Keeps.ite
    | intro _
    | split

theorem keeps_scrubEnables {r₀ : State} (s : State) (h₀ : Keeps r₀ s) : Keeps r₀ (scrubEnables s) := by
  unfold scrubEnables
  try dsimp only
  repeat' first
    | with_reducible assumption
    | with_reducible apply keeps_setFld
    | with_reducible apply keeps_letIn
    | with_reducible apply Keeps.foldl
    | with_reducible apply Keeps.foldl1
    | with_reducible apply Keeps.ite
    | simp only [Keeps.litEq]
    | intro _
    | split

theorem keeps_scrubMemory {r₀ : State} (s : State) (h₀ : Keeps r₀ s) : Keeps r₀ (scrubMemory s) := by
  unfold scrubMemory
  try dsimp only
  repeat' first
    | with_reducible assumption
    | with_reducible apply keeps_devZero
    | with_reducible apply keeps_clearSrams
    | with_reducible apply keeps_rekeyLedger
    | with_reducible apply Keeps.foldl
    | with_reducible apply Keeps.foldl1
    | with_reducible apply Keeps.ite
    | simp only [Keeps.litEq]
    | intro _
    | split

theorem keeps_startScrub {r₀ : State} (s : State) (f status : Nat) (h₀ : Keeps r₀ s) : Keeps r₀ (startScrub s f status) := by
  unfold startScrub
  try dsimp only
  repeat' first
    | with_reducible assumption
    | with_reducible apply keeps_toTunnel
    | with_reducible apply keeps_setTdi
    | with_reducible apply keeps_scrubContexts
    | with_reducible apply keeps_scrubEnables
    | with_reducible apply keeps_scrubMemory
    | with_reducible apply Keeps.ite
    | intro _
    | split

theorem keeps_tdiError {r₀ : State} (s : State) (f : Nat) (h₀ : Keeps r₀ s) : Keeps r₀ (tdiError s f) := by
  unfold tdiError
  try dsimp only
  repeat' first
    | with_reducible assumption
    | with_reducible apply keeps_satFld
    | with_reducible apply keeps_startScrub
    | with_reducible apply Keeps.ite
    | intro _
    | split

theorem keeps_execIdeKmKeySetGo {r₀ : State} (f : Fin 64) (st : Fin 9) (keySet : Bool) (key : Option Bytes) (s : State) (h₀ : Keeps r₀ s) : KeepsR r₀ (execIdeKmKeySetGo f st keySet key s) := by
  unfold execIdeKmKeySetGo
  try dsimp only
  repeat' first
    | with_reducible assumption
    | with_reducible apply KeepsR.fault
    | with_reducible apply KeepsR.next
    | with_reducible apply Keeps.ite
    | with_reducible apply KeepsR.ite
    | simp only [Keeps.litEq]
    | intro _
    | split

theorem keeps_execIdeTlpFail {r₀ : State} (st : Fin 9) (s : State) (h₀ : Keeps r₀ s) : KeepsR r₀ (execIdeTlpFail st s) := by
  unfold execIdeTlpFail
  try dsimp only
  repeat' first
    | with_reducible assumption
    | with_reducible apply KeepsR.fault
    | with_reducible apply KeepsR.next
    | with_reducible apply keeps_tdiError
    | with_reducible apply Keeps.foldl
    | with_reducible apply Keeps.foldl1
    | with_reducible apply Keeps.ite
    | with_reducible apply KeepsR.ite
    | simp only [Keeps.litEq]
    | intro _
    | split

theorem keeps_execTdispLockInterface {r₀ : State} (f : Fin 64) (st : Fin 8) (s : State) (h₀ : Keeps r₀ s) : KeepsR r₀ (execTdispLockInterface f st s) := by
  unfold execTdispLockInterface
  try dsimp only
  repeat' first
    | with_reducible assumption
    | with_reducible apply KeepsR.fault
    | with_reducible apply KeepsR.next
    | with_reducible apply keeps_setFld
    | with_reducible apply keeps_setTdi
    | with_reducible apply Keeps.ite
    | with_reducible apply KeepsR.ite
    | simp only [Keeps.litEq]
    | intro _
    | split

theorem keeps_execTdispStartInterface {r₀ : State} (f : Fin 64) (s : State) (h₀ : Keeps r₀ s) : KeepsR r₀ (execTdispStartInterface f s) := by
  unfold execTdispStartInterface
  try dsimp only
  repeat' first
    | with_reducible assumption
    | with_reducible apply KeepsR.fault
    | with_reducible apply KeepsR.next
    | with_reducible apply keeps_setTdi
    | with_reducible apply Keeps.ite
    | with_reducible apply KeepsR.ite
    | intro _
    | split

theorem keeps_execTdispStopInterface {r₀ : State} (f : Fin 64) (s : State) (h₀ : Keeps r₀ s) : KeepsR r₀ (execTdispStopInterface f s) := by
  unfold execTdispStopInterface
  try dsimp only
  repeat' first
    | with_reducible assumption
    | with_reducible apply KeepsR.fault
    | with_reducible apply KeepsR.next
    | with_reducible apply keeps_setFld
    | with_reducible apply keeps_setTdi
    | with_reducible apply keeps_startScrub
    | with_reducible apply Keeps.ite
    | with_reducible apply KeepsR.ite
    | intro _
    | split

theorem keeps_execTdiScrubDone {r₀ : State} (f : Fin 64) (s : State) (h₀ : Keeps r₀ s) : KeepsR r₀ (execTdiScrubDone f s) := by
  unfold execTdiScrubDone
  try dsimp only
  repeat' first
    | with_reducible assumption
    | with_reducible apply KeepsR.fault
    | with_reducible apply KeepsR.next
    | with_reducible apply keeps_setFld
    | with_reducible apply keeps_setTdi
    | with_reducible apply Keeps.ite
    | with_reducible apply KeepsR.ite
    | intro _
    | split

theorem keeps_writeVector {r₀ : State} (s : State) (f n w : Nat) (v : Nat) (h₀ : Keeps r₀ s) : Keeps r₀ (writeVector s f n w v) := by
  unfold writeVector
  try dsimp only
  repeat' first
    | with_reducible assumption
    | with_reducible apply keeps_sendMsixOf
    | with_reducible apply Keeps.ite
    | simp only [Keeps.litEq]
    | intro _
    | split

theorem keeps_execConfigurationRequest {r₀ : State} (f : Fin 64) (i : CfgItem) (v : BitVec 32) (s : State) (h₀ : Keeps r₀ s) : KeepsR r₀ (execConfigurationRequest f i v s) := by
  unfold execConfigurationRequest
  try dsimp only
  repeat' first
    | with_reducible assumption
    | with_reducible apply KeepsR.fault
    | with_reducible apply KeepsR.next
    | with_reducible apply keeps_tdiError
    | with_reducible apply keeps_writeVector
    | with_reducible apply Keeps.foldl
    | with_reducible apply Keeps.foldl1
    | with_reducible apply Keeps.ite
    | with_reducible apply KeepsR.ite
    | simp only [Keeps.litEq]
    | intro _
    | split

theorem keeps_setSealStatus {r₀ : State} (s : State) (p v : Nat) (h₀ : Keeps r₀ s) : Keeps r₀ (setSealStatus s p v) := by
  unfold setSealStatus
  try dsimp only
  repeat' first
    | with_reducible assumption
    | with_reducible apply keeps_setFld
    | with_reducible apply Keeps.ite
    | intro _
    | split

theorem keeps_execSealInstall {r₀ : State} (p : Fin 8) (v : BitVec 32) (w : Writer) (s : State) (h₀ : Keeps r₀ s) : KeepsR r₀ (execSealInstall p v w s) := by
  unfold execSealInstall
  try dsimp only
  repeat' first
    | with_reducible assumption
    | with_reducible apply KeepsR.fault
    | with_reducible apply KeepsR.next
    | with_reducible apply keeps_setFld
    | with_reducible apply keeps_rejectOff
    | with_reducible apply keeps_writeThen
    | with_reducible apply keeps_gate
    | with_reducible apply keeps_dropSeal
    | with_reducible apply keeps_setSealStatus
    | with_reducible apply Keeps.ite
    | with_reducible apply KeepsR.ite
    | intro _
    | split

theorem keeps_execSealClear {r₀ : State} (p : Fin 8) (v : BitVec 32) (w : Writer) (s : State) (h₀ : Keeps r₀ s) : KeepsR r₀ (execSealClear p v w s) := by
  unfold execSealClear
  try dsimp only
  repeat' first
    | with_reducible assumption
    | with_reducible apply KeepsR.fault
    | with_reducible apply KeepsR.next
    | with_reducible apply keeps_writeThen
    | with_reducible apply keeps_gate
    | with_reducible apply keeps_dropSeal
    | with_reducible apply Keeps.ite
    | with_reducible apply KeepsR.ite
    | intro _
    | split

theorem keeps_execSealInstallDone {r₀ : State} (p : Fin 8) (blob : Option Bytes) (s : State) (h₀ : Keeps r₀ s) : KeepsR r₀ (execSealInstallDone p blob s) := by
  unfold execSealInstallDone
  try dsimp only
  repeat' first
    | with_reducible assumption
    | with_reducible apply KeepsR.fault
    | with_reducible apply KeepsR.next
    | with_reducible apply keeps_setFld
    | with_reducible apply keeps_setSealStatus
    | with_reducible apply Keeps.ite
    | with_reducible apply KeepsR.ite
    | simp only [Keeps.litEq]
    | intro _
    | split

end Sys2Proof.Machine
end

