-- ==== Sys2Proof/Laws/Keeps/Ward.lean ====
section
/-! SUPPORT. What each operation of Machine/Ward.lean keeps: the queue and the invariant. -/

namespace Sys2Proof.Machine

theorem keeps_sendWard {r₀ : State} (s : State) (op : Nat) (path : List Nat) (target counter : Nat) (arg tunnel : Bytes) (h₀ : Keeps r₀ s) : Keeps r₀ (sendWard s op path target counter arg tunnel) := by
  unfold sendWard
  try dsimp only
  repeat' first
    | with_reducible assumption
    | with_reducible apply keeps_queueLocal
    | with_reducible apply keeps_routeBody
    | with_reducible apply Keeps.ite
    | simp only [Keeps.litEq]
    | intro _
    | split

theorem keeps_rejectWard {r₀ : State} (s : State) (h₀ : Keeps r₀ s) : Keeps r₀ (rejectWard s) := by
  unfold rejectWard
  try dsimp only
  repeat' first
    | with_reducible assumption
    | with_reducible apply keeps_satFld
    | with_reducible apply Keeps.ite
    | intro _
    | split

theorem keeps_wardWake {r₀ : State} (s : State) (port : Nat) (h₀ : Keeps r₀ s) : Keeps r₀ (wardWake s port) := by
  unfold wardWake
  try dsimp only
  repeat' first
    | with_reducible assumption
    | with_reducible apply keeps_wake
    | with_reducible apply keeps_frameWake
    | with_reducible apply Keeps.ite
    | intro _
    | split

theorem keeps_onWard {r₀ s : State} {port op : Nat} {w : WardFrame} {k : State → State} (h : ∀ t, Keeps r₀ t → Keeps r₀ (k t)) (g : Keeps r₀ s) :
    Keeps r₀ (onWard s port op w k) := by
  unfold onWard
  refine keeps_rxChecked (fun _ _ => ?_) g
  dsimp only
  repeat' first | with_reducible assumption | apply h | with_reducible apply keeps_rejectWard | with_reducible apply keeps_wardWake | with_reducible apply keeps_queueLocal | split


theorem keeps_takeVerdict {r₀ : State} (s : State) (k : Nat) (step code : Nat) (stop : Bool) (equal : Nat) (h₀ : Keeps r₀ s) : Keeps r₀ (takeVerdict s k step code stop equal) := by
  unfold takeVerdict
  try dsimp only
  repeat' first
    | with_reducible assumption
    | with_reducible apply keeps_setFld
    | with_reducible apply keeps_satFld
    | with_reducible apply keeps_modCtx
    | with_reducible apply keeps_fault1
    | with_reducible apply keeps_gateEval
    | with_reducible apply keeps_returnHolds
    | with_reducible apply Keeps.ite
    | simp only [Keeps.litEq]
    | intro _
    | split

theorem keeps_landVerdict {r₀ : State} (s : State) (k : Nat) (c : Ctx) (step code : Nat) (stop : Bool) (equal : Nat) (h₀ : Keeps r₀ s) : Keeps r₀ (landVerdict s k c step code stop equal) := by
  unfold landVerdict
  try dsimp only
  repeat' first
    | with_reducible assumption
    | with_reducible apply keeps_modCtx
    | with_reducible apply keeps_takeVerdict
    | with_reducible apply Keeps.ite
    | simp only [Keeps.litEq]
    | intro _
    | split

theorem keeps_sendVerdict {r₀ : State} (s : State) (k : Nat) (c : Ctx) (ts : Tbl Nat) (step r : Nat) (h₀ : Keeps r₀ s) : Keeps r₀ (sendVerdict s k c ts step r) := by
  unfold sendVerdict
  try dsimp only
  repeat' first
    | with_reducible assumption
    | with_reducible apply keeps_sendWard
    | with_reducible apply keeps_landVerdict
    | with_reducible apply Keeps.ite
    | simp only [Keeps.litEq]
    | intro _
    | split

theorem keeps_rootToll {r₀ : State} (s : State) (k step r t : Nat) (h₀ : Keeps r₀ s) : Keeps r₀ (rootToll s k step r t) := by
  unfold rootToll
  try dsimp only
  repeat' first
    | with_reducible assumption
    | with_reducible apply keeps_modCtx
    | with_reducible apply keeps_sendVerdict
    | with_reducible apply Keeps.foldl
    | with_reducible apply Keeps.foldl1
    | with_reducible apply Keeps.ite
    | simp only [Keeps.litEq]
    | intro _
    | split

theorem keeps_sendToll {r₀ : State} (s : State) (k : Nat) (c : Ctx) (t : Toll) (h₀ : Keeps r₀ s) : Keeps r₀ (sendToll s k c t) := by
  unfold sendToll
  try dsimp only
  repeat' first
    | with_reducible assumption
    | with_reducible apply keeps_modCtx
    | with_reducible apply keeps_sendWard
    | with_reducible apply keeps_rootToll
    | with_reducible apply Keeps.ite
    | simp only [Keeps.litEq]
    | intro _
    | split

theorem keeps_tollBoundary {r₀ : State} (s : State) (k : Nat) (ls : List LayerEnt) (h₀ : Keeps r₀ s) : Keeps r₀ (tollBoundary s k ls) := by
  unfold tollBoundary
  try dsimp only
  repeat' first
    | with_reducible assumption
    | with_reducible apply keeps_modCtx
    | with_reducible apply keeps_sendToll
    | with_reducible apply Keeps.ite
    | simp only [Keeps.litEq]
    | intro _
    | split

theorem keeps_execWardToll {r₀ : State} (port : Fin 32) (w : WardFrame) (s : State) (h₀ : Keeps r₀ s) : KeepsR r₀ (execWardToll port w s) := by
  unfold execWardToll
  try dsimp only
  repeat' first
    | with_reducible assumption
    | with_reducible apply KeepsR.fault
    | with_reducible apply KeepsR.next
    | with_reducible apply keeps_rejectWard
    | with_reducible apply keeps_onWard
    | with_reducible apply keeps_rootToll
    | with_reducible apply Keeps.ite
    | with_reducible apply KeepsR.ite
    | simp only [Keeps.litEq]
    | intro _
    | split

theorem keeps_execTollResend {r₀ : State} (p : Fin 8) (s : State) (h₀ : Keeps r₀ s) : KeepsR r₀ (execTollResend p s) := by
  unfold execTollResend
  try dsimp only
  repeat' first
    | with_reducible assumption
    | with_reducible apply KeepsR.fault
    | with_reducible apply KeepsR.next
    | with_reducible apply keeps_sendToll
    | with_reducible apply Keeps.ite
    | with_reducible apply KeepsR.ite
    | simp only [Keeps.litEq]
    | intro _
    | split

theorem keeps_execWardVerdict {r₀ : State} (port : Fin 32) (w : WardFrame) (s : State) (h₀ : Keeps r₀ s) : KeepsR r₀ (execWardVerdict port w s) := by
  unfold execWardVerdict
  try dsimp only
  repeat' first
    | with_reducible assumption
    | with_reducible apply KeepsR.fault
    | with_reducible apply KeepsR.next
    | with_reducible apply keeps_rejectWard
    | with_reducible apply keeps_onWard
    | with_reducible apply keeps_landVerdict
    | with_reducible apply Keeps.ite
    | with_reducible apply KeepsR.ite
    | simp only [Keeps.litEq]
    | intro _
    | split

theorem keeps_execTollVerdictTimeout {r₀ : State} (p : Fin 8) (s : State) (h₀ : Keeps r₀ s) : KeepsR r₀ (execTollVerdictTimeout p s) := by
  unfold execTollVerdictTimeout
  try dsimp only
  repeat' first
    | with_reducible assumption
    | with_reducible apply KeepsR.fault
    | with_reducible apply KeepsR.next
    | with_reducible apply keeps_fault1
    | with_reducible apply Keeps.ite
    | with_reducible apply KeepsR.ite
    | simp only [Keeps.litEq]
    | intro _
    | split

theorem keeps_execWardReset {r₀ : State} (port : Fin 32) (w : WardFrame) (s : State) (h₀ : Keeps r₀ s) : KeepsR r₀ (execWardReset port w s) := by
  unfold execWardReset
  try dsimp only
  repeat' first
    | with_reducible assumption
    | with_reducible apply KeepsR.fault
    | with_reducible apply KeepsR.next
    | with_reducible apply keeps_setReg
    | with_reducible apply keeps_tryBoot
    | with_reducible apply keeps_resetNow
    | with_reducible apply keeps_rejectWard
    | with_reducible apply keeps_onWard
    | with_reducible apply Keeps.ite
    | with_reducible apply KeepsR.ite
    | intro _
    | split

theorem keeps_execWardTunnel {r₀ : State} (port : Fin 32) (w : WardFrame) (s : State) (h₀ : Keeps r₀ s) : KeepsR r₀ (execWardTunnel port w s) := by
  unfold execWardTunnel
  try dsimp only
  repeat' first
    | with_reducible assumption
    | with_reducible apply KeepsR.fault
    | with_reducible apply KeepsR.next
    | with_reducible apply keeps_gate
    | with_reducible apply keeps_fromTunnel
    | with_reducible apply keeps_onWard
    | with_reducible apply Keeps.ite
    | with_reducible apply KeepsR.ite
    | simp only [Keeps.litEq]
    | intro _
    | split

theorem keeps_wardTunnelOut {r₀ : State} (s : State) (n : Nat) (o : TunOp) (h₀ : Keeps r₀ s) : Keeps r₀ (wardTunnelOut s n o) := by
  unfold wardTunnelOut
  try dsimp only
  repeat' first
    | with_reducible assumption
    | with_reducible apply keeps_queueLocal
    | with_reducible apply keeps_sendWard
    | with_reducible apply Keeps.ite
    | simp only [Keeps.litEq]
    | intro _
    | split

theorem keeps_sendTunnel {r₀ : State} (s : State) (e : Nat × TunOp) (h₀ : Keeps r₀ s) : Keeps r₀ (sendTunnel s e) := by
  unfold sendTunnel
  try dsimp only
  repeat' first
    | with_reducible assumption
    | with_reducible apply keeps_queueFrames
    | with_reducible apply keeps_wardTunnelOut
    | with_reducible apply Keeps.ite
    | simp only [Keeps.litEq]
    | intro _
    | split

theorem keeps_tunnelsOut {r₀ : State} (s : State) (h₀ : Keeps r₀ s) : Keeps r₀ (tunnelsOut s) := by
  unfold tunnelsOut
  try dsimp only
  repeat' first
    | with_reducible assumption
    | with_reducible apply keeps_sendTunnel
    | with_reducible apply Keeps.foldl
    | with_reducible apply Keeps.foldl1
    | with_reducible apply Keeps.ite
    | simp only [Keeps.litEq]
    | intro _
    | split

theorem keeps_resetPeer {r₀ : State} (s : State) (n : Nat) (h₀ : Keeps r₀ s) : Keeps r₀ (resetPeer s n) := by
  unfold resetPeer
  try dsimp only
  repeat' first
    | with_reducible assumption
    | with_reducible apply keeps_sendWard
    | with_reducible apply Keeps.ite
    | simp only [Keeps.litEq]
    | intro _
    | split

theorem keeps_execPeerReset {r₀ : State} (n : Fin 64) (w : Writer) (s : State) (h₀ : Keeps r₀ s) : KeepsR r₀ (execPeerReset n w s) := by
  unfold execPeerReset
  try dsimp only
  repeat' first
    | with_reducible assumption
    | with_reducible apply KeepsR.fault
    | with_reducible apply KeepsR.next
    | with_reducible apply keeps_gate
    | with_reducible apply keeps_resetPeer
    | with_reducible apply Keeps.ite
    | with_reducible apply KeepsR.ite
    | intro _
    | split

theorem keeps_execVfFlr {r₀ : State} (n : Fin 64) (t : Option (Fin 8)) (s : State) (h₀ : Keeps r₀ s) : KeepsR r₀ (execVfFlr n t s) := by
  unfold execVfFlr
  try dsimp only
  repeat' first
    | with_reducible assumption
    | with_reducible apply KeepsR.fault
    | with_reducible apply KeepsR.next
    | with_reducible apply keeps_tdiError
    | with_reducible apply keeps_resetPeer
    | with_reducible apply Keeps.ite
    | with_reducible apply KeepsR.ite
    | intro _
    | split

theorem keeps_execPeerReadTimeout {r₀ : State} (n : Fin 64) (off : BitVec 32) (wide : Bool) (s : State) (h₀ : Keeps r₀ s) : KeepsR r₀ (execPeerReadTimeout n off wide s) := by
  unfold execPeerReadTimeout
  try dsimp only
  repeat' first
    | with_reducible assumption
    | with_reducible apply KeepsR.fault
    | with_reducible apply KeepsR.next
    | with_reducible apply keeps_setFld
    | with_reducible apply keeps_toTunnel
    | with_reducible apply keeps_setEvent
    | with_reducible apply Keeps.ite
    | with_reducible apply KeepsR.ite
    | simp only [Keeps.litEq]
    | intro _
    | split

end Sys2Proof.Machine
end

