-- ==== Sys2Proof/Laws/Keeps/Host.lean ====
section
/-! SUPPORT. What each operation of Machine/Host.lean keeps: the queue and the invariant. -/

namespace Sys2Proof.Machine

theorem keeps_qpError {r₀ : State} (s : State) (q e : Nat) (h₀ : Keeps r₀ s) : Keeps r₀ (qpError s q e) := by
  unfold qpError
  try dsimp only
  repeat' first
    | with_reducible assumption
    | with_reducible apply keeps_setEvent
    | with_reducible apply keeps_modQp
    | with_reducible apply Keeps.ite
    | simp only [Keeps.litEq]
    | intro _
    | split

theorem keeps_execDoorbell {r₀ : State} (vf : Fin 64) (q : Fin 64) (off : Fin 4096) (width : Fin 9) (v : BitVec 64) (t : Option (Fin 8)) (s : State) (h₀ : Keeps r₀ s) : KeepsR r₀ (execDoorbell vf q off width v t s) := by
  unfold execDoorbell
  try dsimp only
  repeat' first
    | with_reducible assumption
    | with_reducible apply KeepsR.fault
    | with_reducible apply KeepsR.next
    | with_reducible apply keeps_toTunnel
    | with_reducible apply keeps_setEvent
    | with_reducible apply keeps_gate
    | with_reducible apply keeps_modQp
    | with_reducible apply keeps_toVf
    | with_reducible apply keeps_qpError
    | with_reducible apply Keeps.ite
    | with_reducible apply KeepsR.ite
    | simp only [Keeps.litEq]
    | intro _
    | split

theorem keeps_execManifestFetch {r₀ : State} (q : Fin 64) (slot : Option Bytes) (s : State) (h₀ : Keeps r₀ s) : KeepsR r₀ (execManifestFetch q slot s) := by
  unfold execManifestFetch
  try dsimp only
  repeat' first
    | with_reducible assumption
    | with_reducible apply KeepsR.fault
    | with_reducible apply KeepsR.next
    | with_reducible apply keeps_satFld
    | with_reducible apply keeps_modQp
    | with_reducible apply keeps_qpError
    | with_reducible apply Keeps.ite
    | with_reducible apply KeepsR.ite
    | simp only [Keeps.litEq]
    | intro _
    | split

theorem keeps_execCompletionWrite {r₀ : State} (q : Fin 64) (ok : Bool) (s : State) (h₀ : Keeps r₀ s) : KeepsR r₀ (execCompletionWrite q ok s) := by
  unfold execCompletionWrite
  try dsimp only
  repeat' first
    | with_reducible assumption
    | with_reducible apply KeepsR.fault
    | with_reducible apply KeepsR.next
    | with_reducible apply keeps_writeNext
    | with_reducible apply keeps_qpError
    | with_reducible apply Keeps.ite
    | with_reducible apply KeepsR.ite
    | intro _
    | split

theorem keeps_execMsixCoalTimer {r₀ : State} (q : Fin 64) (s : State) (h₀ : Keeps r₀ s) : KeepsR r₀ (execMsixCoalTimer q s) := by
  unfold execMsixCoalTimer
  try dsimp only
  repeat' first
    | with_reducible assumption
    | with_reducible apply KeepsR.fault
    | with_reducible apply KeepsR.next
    | with_reducible apply keeps_sendMsix
    | with_reducible apply keeps_modQp
    | with_reducible apply Keeps.ite
    | with_reducible apply KeepsR.ite
    | simp only [Keeps.litEq]
    | intro _
    | split

theorem keeps_execQpEnable {r₀ : State} (q : Fin 64) (v : BitVec 64) (w : Writer) (s : State) (h₀ : Keeps r₀ s) : KeepsR r₀ (execQpEnable q v w s) := by
  unfold execQpEnable
  try dsimp only
  repeat' first
    | with_reducible assumption
    | with_reducible apply KeepsR.fault
    | with_reducible apply KeepsR.next
    | with_reducible apply keeps_setReg
    | with_reducible apply keeps_reject
    | with_reducible apply keeps_gate
    | with_reducible apply Keeps.ite
    | with_reducible apply KeepsR.ite
    | simp only [Keeps.litEq]
    | intro _
    | split

theorem keeps_execQpDisable {r₀ : State} (q : Fin 64) (v : BitVec 64) (w : Writer) (s : State) (h₀ : Keeps r₀ s) : KeepsR r₀ (execQpDisable q v w s) := by
  unfold execQpDisable
  try dsimp only
  repeat' first
    | with_reducible assumption
    | with_reducible apply KeepsR.fault
    | with_reducible apply KeepsR.next
    | with_reducible apply keeps_setFld
    | with_reducible apply keeps_reject
    | with_reducible apply keeps_gate
    | with_reducible apply Keeps.ite
    | with_reducible apply KeepsR.ite
    | simp only [Keeps.litEq]
    | intro _
    | split

theorem keeps_setMan {r₀ : State} (s : State) (q seq : Nat) (f : Man → Man) (h₀ : Keeps r₀ s) : Keeps r₀ (setMan s q seq f) := by
  unfold setMan
  try dsimp only
  repeat' first
    | with_reducible assumption
    | with_reducible apply keeps_modQp
    | with_reducible apply Keeps.ite
    | simp only [Keeps.litEq]
    | intro _
    | split

theorem keeps_onMan {r₀ s : State} {q type lo : Nat} {k : State → Man → State} (h : ∀ t m, Keeps r₀ t → Keeps r₀ (k t m)) (g : Keeps r₀ s) : Keeps r₀ (onMan s q type lo k) := by
  unfold onMan
  dsimp only
  repeat' first
    | with_reducible assumption
    | apply h
    | with_reducible apply keeps_finishMan
    | with_reducible apply keeps_setMan
    | split


theorem keeps_execManifestNop {r₀ : State} (q : Fin 64) (s : State) (h₀ : Keeps r₀ s) : KeepsR r₀ (execManifestNop q s) := by
  unfold execManifestNop
  try dsimp only
  repeat' first
    | with_reducible assumption
    | with_reducible apply KeepsR.fault
    | with_reducible apply KeepsR.next
    | with_reducible apply keeps_finishMan
    | with_reducible apply keeps_setMan
    | with_reducible apply Keeps.ite
    | with_reducible apply KeepsR.ite
    | simp only [Keeps.litEq]
    | intro _
    | split

theorem keeps_openMan {r₀ : State} (s : State) (q : Nat) (m : Man) (h₀ : Keeps r₀ s) : Keeps r₀ (openMan s q m) := by
  unfold openMan
  try dsimp only
  repeat' first
    | with_reducible assumption
    | with_reducible apply keeps_finishMan
    | (refine keeps_openEntry _ _ _ _ ?_ (by assumption))
    | with_reducible apply Keeps.ite
    | simp only [Keeps.litEq]
    | intro _
    | split

theorem keeps_execStreamOpen {r₀ : State} (q : Fin 64) (s : State) (h₀ : Keeps r₀ s) : KeepsR r₀ (execStreamOpen q s) := by
  unfold execStreamOpen
  try dsimp only
  repeat' first
    | with_reducible assumption
    | with_reducible apply KeepsR.fault
    | with_reducible apply KeepsR.next
    | with_reducible apply keeps_onMan
    | with_reducible apply keeps_openMan
    | with_reducible apply Keeps.ite
    | with_reducible apply KeepsR.ite
    | intro _
    | split

theorem keeps_execStreamClose {r₀ : State} (q : Fin 64) (s : State) (h₀ : Keeps r₀ s) : KeepsR r₀ (execStreamClose q s) := by
  unfold execStreamClose
  try dsimp only
  repeat' first
    | with_reducible assumption
    | with_reducible apply KeepsR.fault
    | with_reducible apply KeepsR.next
    | with_reducible apply keeps_modStream
    | with_reducible apply keeps_closeStream
    | with_reducible apply keeps_finishMan
    | with_reducible apply keeps_onMan
    | with_reducible apply Keeps.ite
    | with_reducible apply KeepsR.ite
    | simp only [Keeps.litEq]
    | intro _
    | split

theorem keeps_execStreamFree {r₀ : State} (q : Fin 64) (s : State) (h₀ : Keeps r₀ s) : KeepsR r₀ (execStreamFree q s) := by
  unfold execStreamFree
  try dsimp only
  repeat' first
    | with_reducible assumption
    | with_reducible apply KeepsR.fault
    | with_reducible apply KeepsR.next
    | with_reducible apply keeps_finishMan
    | with_reducible apply keeps_onMan
    | with_reducible apply Keeps.ite
    | with_reducible apply KeepsR.ite
    | simp only [Keeps.litEq]
    | intro _
    | split

theorem keeps_landChunks {r₀ : State} (s : State) (p dev first : Nat) (k : Seal) (cs : List Bytes) (h₀ : Keeps r₀ s) : Keeps r₀ (landChunks s p dev first k cs).1 := by
  unfold landChunks
  try dsimp only
  repeat' first
    | with_reducible assumption
    | with_reducible apply keeps_satFld
    | with_reducible apply keeps_devWrite
    | with_reducible apply keeps_devTaint
    | with_reducible apply Keeps.foldl
    | with_reducible apply Keeps.foldl1
    | with_reducible apply Keeps.ite
    | simp only [Keeps.litEq]
    | intro _
    | split

theorem keeps_execCopyIn {r₀ : State} (q : Fin 64) (data : Option Bytes) (s : State) (h₀ : Keeps r₀ s) : KeepsR r₀ (execCopyIn q data s) := by
  unfold execCopyIn
  try dsimp only
  repeat' first
    | with_reducible assumption
    | with_reducible apply KeepsR.fault
    | with_reducible apply KeepsR.next
    | with_reducible apply keeps_devWrite
    | with_reducible apply keeps_hbmUse
    | with_reducible apply keeps_finishMan
    | with_reducible apply keeps_setMan
    | with_reducible apply keeps_onMan
    | with_reducible apply keeps_landChunks
    | with_reducible apply Keeps.ite
    | with_reducible apply KeepsR.ite
    | simp only [Keeps.litEq]
    | intro _
    | split

theorem keeps_execCopyInLand {r₀ : State} (q : Fin 64) (s : State) (h₀ : Keeps r₀ s) : KeepsR r₀ (execCopyInLand q s) := by
  unfold execCopyInLand
  try dsimp only
  repeat' first
    | with_reducible assumption
    | with_reducible apply KeepsR.fault
    | with_reducible apply KeepsR.next
    | with_reducible apply keeps_finishMan
    | with_reducible apply keeps_landSig
    | with_reducible apply Keeps.ite
    | with_reducible apply KeepsR.ite
    | simp only [Keeps.litEq]
    | intro _
    | split

theorem keeps_copyOut {r₀ : State} (s : State) (q : Nat) (m : Man) (h₀ : Keeps r₀ s) : Keeps r₀ (copyOut s q m) := by
  unfold copyOut
  try dsimp only
  repeat' first
    | with_reducible assumption
    | with_reducible apply keeps_drawn
    | with_reducible apply keeps_hbmUse
    | with_reducible apply keeps_hostWrite
    | with_reducible apply keeps_finishMan
    | with_reducible apply keeps_setMan
    | with_reducible apply Keeps.ite
    | simp only [Keeps.litEq]
    | intro _
    | split

theorem keeps_execCopyOut {r₀ : State} (q : Fin 64) (s : State) (h₀ : Keeps r₀ s) : KeepsR r₀ (execCopyOut q s) := by
  unfold execCopyOut
  try dsimp only
  repeat' first
    | with_reducible assumption
    | with_reducible apply KeepsR.fault
    | with_reducible apply KeepsR.next
    | with_reducible apply keeps_onMan
    | with_reducible apply keeps_copyOut
    | with_reducible apply Keeps.ite
    | with_reducible apply KeepsR.ite
    | simp only [Keeps.litEq]
    | intro _
    | split

theorem keeps_execSnapRead {r₀ : State} (q : Fin 64) (corr : Nat) (bad : List Nat) (s : State) (h₀ : Keeps r₀ s) : KeepsR r₀ (execSnapRead q corr bad s) := by
  unfold execSnapRead
  try dsimp only
  repeat' first
    | with_reducible assumption
    | with_reducible apply KeepsR.fault
    | with_reducible apply KeepsR.next
    | with_reducible apply keeps_hostWrite
    | with_reducible apply keeps_finishMan
    | with_reducible apply keeps_gddrReport
    | with_reducible apply keeps_onMan
    | with_reducible apply Keeps.foldl
    | with_reducible apply Keeps.foldl1
    | with_reducible apply Keeps.ite
    | with_reducible apply KeepsR.ite
    | simp only [Keeps.litEq]
    | intro _
    | split

end Sys2Proof.Machine
end

