-- ==== Sys2Proof/Laws/Keeps/Mxe.lean ====
section
/-! SUPPORT. What each operation of Machine/Mxe.lean keeps: the queue and the invariant. -/

namespace Sys2Proof.Machine

theorem keeps_doMma {r₀ : State} (s : State) (k : Nat) (c : Ctx) (vc : Vcore) (v o : Nat) (h₀ : Keeps r₀ s) : Keeps r₀ (doMma s k c vc v o) := by
  unfold doMma
  try dsimp only
  repeat' first
    | with_reducible assumption
    | with_reducible apply keeps_orReg
    | with_reducible apply keeps_fault1
    | with_reducible apply keeps_echoOpen
    | with_reducible apply keeps_echoBytes
    | with_reducible apply Keeps.ite
    | simp only [Keeps.litEq]
    | intro _
    | split

theorem keeps_execMma {r₀ : State} (p : Fin 8) (v : Fin 96) (op : BitVec 128) (s : State) (h₀ : Keeps r₀ s) : KeepsR r₀ (execMma p v op s) := by
  unfold execMma
  try dsimp only
  repeat' first
    | with_reducible assumption
    | with_reducible apply KeepsR.fault
    | with_reducible apply KeepsR.next
    | with_reducible apply keeps_onEngine
    | with_reducible apply keeps_doMma
    | with_reducible apply Keeps.ite
    | with_reducible apply KeepsR.ite
    | intro _
    | split

theorem keeps_doMdrain {r₀ : State} (s : State) (k : Nat) (c : Ctx) (vc : Vcore) (v o : Nat) (shadow : Option (List Bytes)) (h₀ : Keeps r₀ s) : Keeps r₀ (doMdrain s k c vc v o shadow) := by
  unfold doMdrain
  try dsimp only
  repeat' first
    | with_reducible assumption
    | with_reducible apply keeps_orReg
    | with_reducible apply keeps_satFld
    | with_reducible apply keeps_devSeg
    | with_reducible apply keeps_modCtx
    | with_reducible apply keeps_fault1
    | with_reducible apply Keeps.foldl
    | with_reducible apply Keeps.foldl1
    | with_reducible apply Keeps.ite
    | simp only [Keeps.litEq]
    | intro _
    | split

theorem keeps_execMdrain {r₀ : State} (p : Fin 8) (v : Fin 96) (op : BitVec 128) (shadow : Option (List Bytes)) (s : State) (h₀ : Keeps r₀ s) : KeepsR r₀ (execMdrain p v op shadow s) := by
  unfold execMdrain
  try dsimp only
  repeat' first
    | with_reducible assumption
    | with_reducible apply KeepsR.fault
    | with_reducible apply KeepsR.next
    | with_reducible apply keeps_onEngine
    | with_reducible apply keeps_doMdrain
    | with_reducible apply Keeps.ite
    | with_reducible apply KeepsR.ite
    | intro _
    | split

end Sys2Proof.Machine
end

