-- ==== Sys2Proof/Laws/Keeps/Upe.lean ====
section
/-! SUPPORT. What each operation of Machine/Upe.lean keeps: the queue and the invariant. -/

namespace Sys2Proof.Machine

theorem keeps_upeArr {r₀ : State} (s : State) (pc off k i : Nat) (l : List UElem) (f : UElem → Nat) (h₀ : Keeps r₀ s) : Keeps r₀ (upeArr s pc off k i l f) := by
  unfold upeArr
  try dsimp only
  repeat' first
    | with_reducible assumption
    | with_reducible apply keeps_devSeg
    | with_reducible apply Keeps.ite
    | intro _
    | split

theorem keeps_upeWrite {r₀ : State} (s : State) (pc o i : Nat) (l : List UElem) (h₀ : Keeps r₀ s) : Keeps r₀ (upeWrite s pc o i l) := by
  unfold upeWrite
  try dsimp only
  repeat' first
    | with_reducible assumption
    | with_reducible apply keeps_upeArr
    | with_reducible apply Keeps.ite
    | intro _
    | split

theorem keeps_upeLag {r₀ : State} (s : State) (c : Ctx) (pc o tid pos : Nat) (par : Nat → UVal) (lag : Nat) (h₀ : Keeps r₀ s) :
    Keeps r₀ (upeLag s c pc o tid pos par lag).2 := by
  have head : ∀ l : List State, (∀ u ∈ l, Keeps r₀ u) → Keeps r₀ (l.headD s) := fun l k => by
    cases l with
    | nil => exact h₀
    | cons a l => exact k a (List.mem_cons_self ..)
  have all : ∀ (m : List Nat) (x : List State × List UElem), (∀ u ∈ x.1, Keeps r₀ u) →
      ∀ u ∈ (m.foldl (fun (t : List State × List UElem) j =>
        let l := (upeElems (t.1.getD lag s) c pc o tid pos par (rangeFrom (64 * j) 64)).getD []
        (upeWrite (t.1.headD s) pc o (64 * j) l :: t.1, t.2 ++ l)) x).1, Keeps r₀ u := by
    intro m
    induction m with
    | nil => exact fun _ k => k
    | cons b m ih =>
      refine fun x k => ih _ fun u i => ?_
      rcases List.mem_cons.1 i with rfl | i
      · exact keeps_upeWrite _ _ _ _ _ (head _ k)
      · exact k u i
  exact head _ (all _ ([s], []) fun u i => by rw [List.mem_singleton.1 i]; exact h₀)


theorem keeps_doUpe {r₀ : State} (s : State) (k : Nat) (c : Ctx) (vc : Vcore) (v o : Nat) (h₀ : Keeps r₀ s) : Keeps r₀ (doUpe s k c vc v o) := by
  unfold doUpe
  try dsimp only
  repeat' first
    | with_reducible assumption
    | with_reducible apply keeps_orReg
    | with_reducible apply keeps_recLayer
    | with_reducible apply keeps_fault1
    | with_reducible apply keeps_inSegment
    | with_reducible apply keeps_upeWrite
    | with_reducible apply keeps_upeLag
    | with_reducible apply Keeps.foldl
    | with_reducible apply Keeps.foldl1
    | with_reducible apply Keeps.ite
    | simp only [Keeps.litEq]
    | intro _
    | split

theorem keeps_execUsgd {r₀ : State} (p : Fin 8) (v : Fin 96) (op : BitVec 128) (s : State) (h₀ : Keeps r₀ s) : KeepsR r₀ (execUsgd p v op s) := by
  unfold execUsgd
  try dsimp only
  repeat' first
    | with_reducible assumption
    | with_reducible apply KeepsR.fault
    | with_reducible apply KeepsR.next
    | with_reducible apply keeps_onEngine
    | with_reducible apply keeps_doUpe
    | with_reducible apply Keeps.ite
    | with_reducible apply KeepsR.ite
    | intro _
    | split

theorem keeps_execUadam {r₀ : State} (p : Fin 8) (v : Fin 96) (op : BitVec 128) (s : State) (h₀ : Keeps r₀ s) : KeepsR r₀ (execUadam p v op s) := by
  unfold execUadam
  try dsimp only
  repeat' first
    | with_reducible assumption
    | with_reducible apply KeepsR.fault
    | with_reducible apply KeepsR.next
    | with_reducible apply keeps_onEngine
    | with_reducible apply keeps_doUpe
    | with_reducible apply Keeps.ite
    | with_reducible apply KeepsR.ite
    | intro _
    | split

theorem keeps_execUlion {r₀ : State} (p : Fin 8) (v : Fin 96) (op : BitVec 128) (s : State) (h₀ : Keeps r₀ s) : KeepsR r₀ (execUlion p v op s) := by
  unfold execUlion
  try dsimp only
  repeat' first
    | with_reducible assumption
    | with_reducible apply KeepsR.fault
    | with_reducible apply KeepsR.next
    | with_reducible apply keeps_onEngine
    | with_reducible apply keeps_doUpe
    | with_reducible apply Keeps.ite
    | with_reducible apply KeepsR.ite
    | intro _
    | split

end Sys2Proof.Machine
end

