-- ==== Sys2Proof/Laws/Keeps/Conductor.lean ====
section
/-! SUPPORT. What each operation of Machine/Conductor.lean keeps: the queue and the invariant. -/

namespace Sys2Proof.Machine

theorem keeps_markDone {r₀ : State} (s : State) (k : Nat) (h₀ : Keeps r₀ s) : Keeps r₀ (markDone s k) := by
  unfold markDone
  try dsimp only
  repeat' first
    | with_reducible assumption
    | with_reducible apply keeps_modCtx
    | with_reducible apply Keeps.ite
    | simp only [Keeps.litEq]
    | intro _
    | split

theorem keeps_unstall {r₀ : State} (s : State) (k : Nat) (h₀ : Keeps r₀ s) : Keeps r₀ (unstall s k) := by
  unfold unstall
  try dsimp only
  repeat' first
    | with_reducible assumption
    | with_reducible apply keeps_modCtx
    | with_reducible apply Keeps.ite
    | simp only [Keeps.litEq]
    | intro _
    | split

theorem keeps_execInstrFetch {r₀ : State} (p : Fin 8) (v : Fin 96) (s : State) (h₀ : Keeps r₀ s) : KeepsR r₀ (execInstrFetch p v s) := by
  unfold execInstrFetch
  try dsimp only
  repeat' first
    | with_reducible assumption
    | with_reducible apply KeepsR.fault
    | with_reducible apply KeepsR.next
    | with_reducible apply keeps_hbmUse
    | with_reducible apply keeps_modVc
    | with_reducible apply keeps_fault1
    | with_reducible apply keeps_onVcore
    | with_reducible apply keeps_gateEval
    | with_reducible apply keeps_returnHolds
    | with_reducible apply Keeps.ite
    | with_reducible apply KeepsR.ite
    | simp only [Keeps.litEq]
    | intro _
    | split

theorem keeps_fetchHolds {r₀ : State} (s : State) (h₀ : Keeps r₀ s) : Keeps r₀ (fetchHolds s) := by
  unfold fetchHolds
  try dsimp only
  repeat' first
    | with_reducible assumption
    | with_reducible apply keeps_gateEval
    | with_reducible apply keeps_raiseHold
    | with_reducible apply Keeps.foldl
    | with_reducible apply Keeps.foldl1
    | with_reducible apply Keeps.ite
    | simp only [Keeps.litEq]
    | intro _
    | split

theorem keeps_issueVcore {r₀ : State} (s : State) (k v : Nat) (h₀ : Keeps r₀ s) : Keeps r₀ (issueVcore s k v) := by
  unfold issueVcore
  try dsimp only
  repeat' first
    | with_reducible assumption
    | with_reducible apply keeps_modVc
    | with_reducible apply keeps_fault1
    | with_reducible apply keeps_unstall
    | with_reducible apply Keeps.ite
    | simp only [Keeps.litEq]
    | intro _
    | split

theorem keeps_issueAll {r₀ : State} (s : State) (h₀ : Keeps r₀ s) : Keeps r₀ (issueAll s) := by
  unfold issueAll
  try dsimp only
  repeat' first
    | with_reducible assumption
    | with_reducible apply keeps_fetchHolds
    | with_reducible apply keeps_issueVcore
    | with_reducible apply Keeps.foldl
    | with_reducible apply Keeps.foldl1
    | with_reducible apply Keeps.ite
    | simp only [Keeps.litEq]
    | intro _
    | split

theorem keeps_onCond {r₀ s : State} {p v cop : Nat} {f : Nat → Ctx → Vcore → Nat → Vcore → State} (h : ∀ k c vc w x, Keeps r₀ (f k c vc w x)) (g : Keeps r₀ s) :
    Keeps r₀ (onCond s p v cop f) := by
  unfold onCond
  refine keeps_onVcore (fun _ _ _ => ?_) g
  dsimp only
  repeat' first | with_reducible assumption | apply h | with_reducible apply keeps_fault1 | split


theorem keeps_putVc {r₀ : State} (s : State) (k v : Nat) (vc : Vcore) (h₀ : Keeps r₀ s) : Keeps r₀ (putVc s k v vc) := by
  unfold putVc
  try dsimp only
  repeat' first
    | with_reducible assumption
    | with_reducible apply keeps_modVc
    | with_reducible apply keeps_unstall
    | with_reducible apply Keeps.ite
    | intro _
    | split

theorem keeps_execNop {r₀ : State} (p : Fin 8) (v : Fin 96) (s : State) (h₀ : Keeps r₀ s) : KeepsR r₀ (execNop p v s) := by
  unfold execNop
  try dsimp only
  repeat' first
    | with_reducible assumption
    | with_reducible apply KeepsR.fault
    | with_reducible apply KeepsR.next
    | with_reducible apply keeps_onCond
    | with_reducible apply keeps_putVc
    | with_reducible apply Keeps.ite
    | with_reducible apply KeepsR.ite
    | intro _
    | split

theorem keeps_execFend {r₀ : State} (p : Fin 8) (v : Fin 96) (s : State) (h₀ : Keeps r₀ s) : KeepsR r₀ (execFend p v s) := by
  unfold execFend
  try dsimp only
  repeat' first
    | with_reducible assumption
    | with_reducible apply KeepsR.fault
    | with_reducible apply KeepsR.next
    | with_reducible apply keeps_markDone
    | with_reducible apply keeps_onCond
    | with_reducible apply keeps_putVc
    | with_reducible apply Keeps.ite
    | with_reducible apply KeepsR.ite
    | simp only [Keeps.litEq]
    | intro _
    | split

theorem keeps_stepBoundary {r₀ : State} (s : State) (k : Nat) (h₀ : Keeps r₀ s) : Keeps r₀ (stepBoundary s k) := by
  unfold stepBoundary
  try dsimp only
  repeat' first
    | with_reducible assumption
    | with_reducible apply keeps_modCtx
    | with_reducible apply keeps_fault1
    | with_reducible apply keeps_clearVersions
    | with_reducible apply keeps_wsStepEnd
    | with_reducible apply keeps_mapStepEnd
    | with_reducible apply keeps_tollBoundary
    | with_reducible apply Keeps.ite
    | simp only [Keeps.litEq]
    | intro _
    | split

theorem keeps_execCondSend {r₀ : State} (p : Fin 8) (v : Fin 96) (s : State) (h₀ : Keeps r₀ s) : KeepsR r₀ (execCondSend p v s) := by
  unfold execCondSend
  try dsimp only
  repeat' first
    | with_reducible assumption
    | with_reducible apply KeepsR.fault
    | with_reducible apply KeepsR.next
    | with_reducible apply keeps_fault1
    | with_reducible apply keeps_markDone
    | with_reducible apply keeps_onCond
    | with_reducible apply keeps_putVc
    | with_reducible apply keeps_stepBoundary
    | with_reducible apply Keeps.ite
    | with_reducible apply KeepsR.ite
    | simp only [Keeps.litEq]
    | intro _
    | split

theorem keeps_execLoop {r₀ : State} (p : Fin 8) (v : Fin 96) (s : State) (h₀ : Keeps r₀ s) : KeepsR r₀ (execLoop p v s) := by
  unfold execLoop
  try dsimp only
  repeat' first
    | with_reducible assumption
    | with_reducible apply KeepsR.fault
    | with_reducible apply KeepsR.next
    | with_reducible apply keeps_onCond
    | with_reducible apply keeps_putVc
    | with_reducible apply Keeps.ite
    | with_reducible apply KeepsR.ite
    | simp only [Keeps.litEq]
    | intro _
    | split

theorem keeps_execHalt {r₀ : State} (p : Fin 8) (v : Fin 96) (s : State) (h₀ : Keeps r₀ s) : KeepsR r₀ (execHalt p v s) := by
  unfold execHalt
  try dsimp only
  repeat' first
    | with_reducible assumption
    | with_reducible apply KeepsR.fault
    | with_reducible apply KeepsR.next
    | with_reducible apply keeps_endCtx
    | with_reducible apply keeps_bookFrame
    | with_reducible apply keeps_markDone
    | with_reducible apply keeps_onCond
    | with_reducible apply keeps_putVc
    | with_reducible apply Keeps.ite
    | with_reducible apply KeepsR.ite
    | simp only [Keeps.litEq]
    | intro _
    | split

theorem keeps_execBell {r₀ : State} (p : Fin 8) (v : Fin 96) (s : State) (h₀ : Keeps r₀ s) : KeepsR r₀ (execBell p v s) := by
  unfold execBell
  try dsimp only
  repeat' first
    | with_reducible assumption
    | with_reducible apply KeepsR.fault
    | with_reducible apply KeepsR.next
    | with_reducible apply keeps_modVc
    | with_reducible apply keeps_arriveBell
    | with_reducible apply keeps_onCond
    | with_reducible apply keeps_putVc
    | with_reducible apply Keeps.ite
    | with_reducible apply KeepsR.ite
    | simp only [Keeps.litEq]
    | intro _
    | split

theorem keeps_execDsamp {r₀ : State} (p : Fin 8) (v : Fin 96) (s : State) (h₀ : Keeps r₀ s) : KeepsR r₀ (execDsamp p v s) := by
  unfold execDsamp
  try dsimp only
  repeat' first
    | with_reducible assumption
    | with_reducible apply KeepsR.fault
    | with_reducible apply KeepsR.next
    | with_reducible apply keeps_recVar
    | with_reducible apply keeps_fault1
    | with_reducible apply keeps_onCond
    | with_reducible apply keeps_putVc
    | with_reducible apply Keeps.ite
    | with_reducible apply KeepsR.ite
    | simp only [Keeps.litEq]
    | intro _
    | split

theorem keeps_execEntryStart {r₀ : State} (p : Fin 8) (v : Fin 96) (q : Fin 4) (s : State) (h₀ : Keeps r₀ s) : KeepsR r₀ (execEntryStart p v q s) := by
  unfold execEntryStart
  try dsimp only
  repeat' first
    | with_reducible assumption
    | with_reducible apply KeepsR.fault
    | with_reducible apply KeepsR.next
    | with_reducible apply keeps_onVcore
    | with_reducible apply keeps_putVc
    | with_reducible apply Keeps.ite
    | with_reducible apply KeepsR.ite
    | simp only [Keeps.litEq]
    | intro _
    | split

theorem keeps_dropOps {r₀ : State} (s : State) (k v q cia : Nat) (h₀ : Keeps r₀ s) : Keeps r₀ (dropOps s k v q cia) := by
  unfold dropOps
  try dsimp only
  repeat' first
    | with_reducible assumption
    | with_reducible apply keeps_modCtx
    | with_reducible apply Keeps.ite
    | simp only [Keeps.litEq]
    | intro _
    | split

theorem keeps_drainEnds {r₀ : State} (s : State) (c : Ctx) (vc : Vcore) (v q : Nat) (e : Entry) (h₀ : Keeps r₀ s) : Keeps r₀ (drainEnds s c vc v q e) := by
  unfold drainEnds
  try dsimp only
  repeat' first
    | with_reducible assumption
    | with_reducible apply keeps_echoEnd
    | with_reducible apply Keeps.ite
    | intro _
    | split

theorem keeps_execEntryComplete {r₀ : State} (p : Fin 8) (v : Fin 96) (q : Fin 4) (n : Nat) (s : State) (h₀ : Keeps r₀ s) : KeepsR r₀ (execEntryComplete p v q n s) := by
  unfold execEntryComplete
  try dsimp only
  repeat' first
    | with_reducible assumption
    | with_reducible apply KeepsR.fault
    | with_reducible apply KeepsR.next
    | with_reducible apply keeps_modCtx
    | with_reducible apply keeps_modVc
    | with_reducible apply keeps_onVcore
    | with_reducible apply keeps_countInst
    | with_reducible apply keeps_markDone
    | with_reducible apply keeps_unstall
    | with_reducible apply keeps_dropOps
    | with_reducible apply keeps_drainEnds
    | with_reducible apply Keeps.foldl
    | with_reducible apply Keeps.foldl1
    | with_reducible apply Keeps.ite
    | with_reducible apply KeepsR.ite
    | simp only [Keeps.litEq]
    | intro _
    | split

theorem keeps_execCoverViolation {r₀ : State} (p : Fin 8) (v : Fin 96) (q : Fin 5) (term : Fin 256) (tag : BitVec 16) (s : State) (h₀ : Keeps r₀ s) : KeepsR r₀ (execCoverViolation p v q term tag s) := by
  unfold execCoverViolation
  try dsimp only
  repeat' first
    | with_reducible assumption
    | with_reducible apply KeepsR.fault
    | with_reducible apply KeepsR.next
    | with_reducible apply keeps_fault1
    | with_reducible apply Keeps.ite
    | with_reducible apply KeepsR.ite
    | simp only [Keeps.litEq]
    | intro _
    | split

end Sys2Proof.Machine
end

