-- ==== Sys2Proof/Laws/Keeps/Place.lean ====
section
/-! SUPPORT. What each operation of Machine/Place.lean keeps: the queue and the invariant. -/

namespace Sys2Proof.Machine

theorem keeps_installCover {r₀ : State} (s : State) (p id : Nat) (h₀ : Keeps r₀ s) : Keeps r₀ (installCover s p id) := by
  unfold installCover
  try dsimp only
  repeat' first
    | with_reducible assumption
    | with_reducible apply keeps_setReg
    | with_reducible apply Keeps.ite
    | simp only [Keeps.litEq]
    | intro _
    | split

end Sys2Proof.Machine
end

