-- ==== Sys2Proof/Laws/Keeps/Loader.lean ====
section
/-! SUPPORT. What each operation of Machine/Loader.lean keeps: the queue and the invariant. -/

namespace Sys2Proof.Machine

theorem keeps_installBell {r₀ : State} (s : State) (k : Nat) (code : Bytes) (g : Prog) (b : Nat) (h₀ : Keeps r₀ s) : Keeps r₀ (installBell s k code g b) := by
  unfold installBell
  try dsimp only
  repeat' first
    | with_reducible assumption
    | with_reducible apply keeps_setFld
    | with_reducible apply keeps_modBell
    | with_reducible apply Keeps.ite
    | simp only [Keeps.litEq]
    | intro _
    | split

theorem keeps_installProg {r₀ : State} (s : State) (k : Nat) (c : Ctx) (code : Bytes) (h₀ : Keeps r₀ s) : Keeps r₀ (installProg s k c code) := by
  unfold installProg
  try dsimp only
  repeat' first
    | with_reducible assumption
    | with_reducible apply keeps_devWrite
    | with_reducible apply keeps_hbmUse
    | with_reducible apply keeps_installBell
    | with_reducible apply Keeps.foldl
    | with_reducible apply Keeps.foldl1
    | with_reducible apply Keeps.ite
    | intro _
    | split

theorem keeps_refuseLoad {r₀ : State} (s : State) (q : Nat) (m : Man) (k pl : Nat) (e : LoadErr) (h₀ : Keeps r₀ s) : Keeps r₀ (refuseLoad s q m k pl e) := by
  unfold refuseLoad
  try dsimp only
  repeat' first
    | with_reducible assumption
    | with_reducible apply keeps_complete
    | with_reducible apply keeps_finishMan
    | with_reducible apply Keeps.ite
    | intro _
    | split

theorem keeps_admitMuster {r₀ : State} (s : State) (p n : Nat) (h₀ : Keeps r₀ s) : Keeps r₀ (admitMuster s p n) := by
  unfold admitMuster
  try dsimp only
  repeat' first
    | with_reducible assumption
    | with_reducible apply keeps_modPart
    | with_reducible apply keeps_modCtx
    | with_reducible apply keeps_openColl
    | with_reducible apply keeps_letIn
    | with_reducible apply Keeps.ite
    | simp only [Keeps.litEq]
    | intro _
    | split

theorem keeps_startMan {r₀ : State} (s : State) (q : Nat) (m : Man) (bin : Option Bytes) (h₀ : Keeps r₀ s) : Keeps r₀ (startMan s q m bin) := by
  unfold startMan
  try dsimp only
  repeat' first
    | with_reducible assumption
    | with_reducible apply keeps_orReg
    | with_reducible apply keeps_devZero
    | with_reducible apply keeps_modPart
    | with_reducible apply keeps_setCtx
    | with_reducible apply keeps_finishMan
    | with_reducible apply keeps_installCover
    | with_reducible apply keeps_installProg
    | with_reducible apply keeps_refuseLoad
    | with_reducible apply keeps_admitMuster
    | with_reducible apply Keeps.ite
    | simp only [Keeps.litEq]
    | intro _
    | split

theorem keeps_execStart {r₀ : State} (q : Fin 64) (bin : Option Bytes) (s : State) (h₀ : Keeps r₀ s) : KeepsR r₀ (execStart q bin s) := by
  unfold execStart
  try dsimp only
  repeat' first
    | with_reducible assumption
    | with_reducible apply KeepsR.fault
    | with_reducible apply KeepsR.next
    | with_reducible apply keeps_onMan
    | with_reducible apply keeps_startMan
    | with_reducible apply Keeps.ite
    | with_reducible apply KeepsR.ite
    | intro _
    | split

theorem keeps_execEnd {r₀ : State} (q : Fin 64) (s : State) (h₀ : Keeps r₀ s) : KeepsR r₀ (execEnd q s) := by
  unfold execEnd
  try dsimp only
  repeat' first
    | with_reducible assumption
    | with_reducible apply KeepsR.fault
    | with_reducible apply KeepsR.next
    | with_reducible apply keeps_modCtx
    | with_reducible apply keeps_finishMan
    | with_reducible apply keeps_onMan
    | with_reducible apply Keeps.ite
    | with_reducible apply KeepsR.ite
    | simp only [Keeps.litEq]
    | intro _
    | split

end Sys2Proof.Machine
end

