-- ==== Sys2Proof/Laws/Keeps/Stow.lean ====
section
/-! SUPPORT. What each operation of Machine/Stow.lean keeps: the queue and the invariant. -/

namespace Sys2Proof.Machine

theorem keeps_devMove {r₀ : State} (s : State) (src dst n : Nat) (h₀ : Keeps r₀ s) : Keeps r₀ (devMove s src dst n) :=
  (keeps_devZero dst n h₀).trans ⟨rfl, fun i => ⟨wf_memPutCells _ _ _ _ i.1, i.2.1, rising_foldl_sput _ _ _ i.2.2⟩⟩


theorem keeps_writeVcore {r₀ : State} (c : Ctx) (s : State) (e : Nat × Vcore) (h₀ : Keeps r₀ s) : Keeps r₀ (writeVcore c s e) := by
  unfold writeVcore
  try dsimp only
  repeat' first
    | with_reducible assumption
    | with_reducible apply keeps_devWrite
    | with_reducible apply keeps_devMove
    | with_reducible apply Keeps.ite
    | intro _
    | split

theorem keeps_writeClusters {r₀ : State} (c : Ctx) (s : State) (vd : Nat) (h₀ : Keeps r₀ s) : Keeps r₀ (writeClusters c s vd) := by
  unfold writeClusters
  try dsimp only
  repeat' first
    | with_reducible assumption
    | with_reducible apply keeps_devWrite
    | with_reducible apply Keeps.foldl
    | with_reducible apply Keeps.foldl1
    | with_reducible apply Keeps.ite
    | intro _
    | split

theorem keeps_writeEarly {r₀ : State} (s : State) (a : Nat) (l : List (Nat × Nat × CteMsg)) (h₀ : Keeps r₀ s) : Keeps r₀ (writeEarly s a l) := by
  unfold writeEarly
  try dsimp only
  repeat' first
    | with_reducible assumption
    | with_reducible apply keeps_devTaint
    | with_reducible apply keeps_landData
    | with_reducible apply Keeps.foldl
    | with_reducible apply Keeps.foldl1
    | with_reducible apply Keeps.ite
    | intro _
    | split

theorem keeps_writeImage {r₀ : State} (s : State) (k : Nat) (c : Ctx) (h₀ : Keeps r₀ s) : Keeps r₀ (writeImage s k c) := by
  unfold writeImage
  try dsimp only
  repeat' first
    | with_reducible assumption
    | with_reducible apply keeps_devWrite
    | with_reducible apply keeps_devZero
    | with_reducible apply keeps_writeVcore
    | with_reducible apply keeps_writeClusters
    | with_reducible apply keeps_writeEarly
    | with_reducible apply Keeps.foldl
    | with_reducible apply Keeps.foldl1
    | with_reducible apply Keeps.ite
    | simp only [Keeps.litEq]
    | intro _
    | split

theorem keeps_readVcore {r₀ : State} (c : Ctx) (s : State) (v : Nat) (h₀ : Keeps r₀ s) : Keeps r₀ (readVcore c s v) := by
  unfold readVcore
  try dsimp only
  repeat' first
    | with_reducible assumption
    | with_reducible apply keeps_devMove
    | with_reducible apply Keeps.ite
    | intro _
    | split

theorem keeps_importBell {r₀ : State} (s : State) (c : Ctx) (b : Nat) (h₀ : Keeps r₀ s) : Keeps r₀ (importBell s c b) := by
  unfold importBell
  try dsimp only
  repeat' first
    | with_reducible assumption
    | with_reducible apply keeps_modBell
    | with_reducible apply Keeps.ite
    | simp only [Keeps.litEq]
    | intro _
    | split

end Sys2Proof.Machine
end

