-- ==== Sys2Proof/Laws/Keeps/Admit.lean ====
section
/-! SUPPORT. What each operation of Machine/Admit.lean keeps: the queue and the invariant. -/

namespace Sys2Proof.Machine

theorem keeps_turnStreams {r₀ : State} (s : State) (k : Nat) (from_ to_ : StreamSt) (h₀ : Keeps r₀ s) : Keeps r₀ (turnStreams s k from_ to_) := by
  unfold turnStreams
  try dsimp only
  repeat' first
    | with_reducible assumption
    | with_reducible apply keeps_modStream
    | with_reducible apply Keeps.foldl
    | with_reducible apply Keeps.foldl1
    | with_reducible apply Keeps.ite
    | simp only [Keeps.litEq]
    | intro _
    | split

theorem keeps_foldFlags {r₀ : State} (s : State) (k v pc : Nat) (h₀ : Keeps r₀ s) : Keeps r₀ (foldFlags s k v pc) := by
  unfold foldFlags
  try dsimp only
  repeat' first
    | with_reducible assumption
    | with_reducible apply keeps_setFld
    | with_reducible apply keeps_modVc
    | with_reducible apply Keeps.ite
    | simp only [Keeps.litEq]
    | intro _
    | split

theorem keeps_beginStow {r₀ : State} (s : State) (k : Nat) (h₀ : Keeps r₀ s) : Keeps r₀ (beginStow s k) := by
  unfold beginStow
  try dsimp only
  repeat' first
    | with_reducible assumption
    | with_reducible apply keeps_modPart
    | with_reducible apply keeps_modCtx
    | with_reducible apply keeps_turnStreams
    | with_reducible apply keeps_foldFlags
    | with_reducible apply Keeps.foldl
    | with_reducible apply Keeps.foldl1
    | with_reducible apply Keeps.ite
    | simp only [Keeps.litEq]
    | intro _
    | split

theorem keeps_refuseRestore {r₀ : State} (s : State) (k : Nat) (c : Ctx) (e : LoadErr) (h₀ : Keeps r₀ s) : Keeps r₀ (refuseRestore s k c e) := by
  unfold refuseRestore
  try dsimp only
  repeat' first
    | with_reducible assumption
    | with_reducible apply keeps_modPart
    | with_reducible apply keeps_modCtx
    | with_reducible apply keeps_complete
    | with_reducible apply keeps_finishMan
    | with_reducible apply keeps_endCtx
    | with_reducible apply keeps_letIn
    | with_reducible apply Keeps.ite
    | simp only [Keeps.litEq]
    | intro _
    | split

theorem keeps_startRestore {r₀ : State} (s : State) (k : Nat) (h₀ : Keeps r₀ s) : Keeps r₀ (startRestore s k) := by
  unfold startRestore
  try dsimp only
  repeat' first
    | with_reducible assumption
    | with_reducible apply keeps_modPart
    | with_reducible apply keeps_modCtx
    | with_reducible apply keeps_openColl
    | with_reducible apply keeps_refuseRestore
    | with_reducible apply keeps_letIn
    | with_reducible apply Keeps.ite
    | simp only [Keeps.litEq]
    | intro _
    | split

theorem keeps_stowMan {r₀ : State} (s : State) (q : Nat) (m : Man) (h₀ : Keeps r₀ s) : Keeps r₀ (stowMan s q m) := by
  unfold stowMan
  try dsimp only
  repeat' first
    | with_reducible assumption
    | with_reducible apply keeps_modPart
    | with_reducible apply keeps_modCtx
    | with_reducible apply keeps_finishMan
    | with_reducible apply keeps_letIn
    | with_reducible apply Keeps.ite
    | simp only [Keeps.litEq]
    | intro _
    | split

theorem keeps_execStow {r₀ : State} (q : Fin 64) (s : State) (h₀ : Keeps r₀ s) : KeepsR r₀ (execStow q s) := by
  unfold execStow
  try dsimp only
  repeat' first
    | with_reducible assumption
    | with_reducible apply KeepsR.fault
    | with_reducible apply KeepsR.next
    | with_reducible apply keeps_onMan
    | with_reducible apply keeps_stowMan
    | with_reducible apply Keeps.ite
    | with_reducible apply KeepsR.ite
    | intro _
    | split

theorem keeps_importMan {r₀ : State} (s : State) (q : Nat) (m : Man) (img bin : Option Bytes) (h₀ : Keeps r₀ s) : Keeps r₀ (importMan s q m img bin) := by
  unfold importMan
  try dsimp only
  repeat' first
    | with_reducible assumption
    | with_reducible apply keeps_orReg
    | with_reducible apply keeps_devWrite
    | with_reducible apply keeps_hbmUse
    | with_reducible apply keeps_modPart
    | with_reducible apply keeps_setCtx
    | with_reducible apply keeps_finishMan
    | with_reducible apply keeps_installProg
    | with_reducible apply keeps_refuseLoad
    | with_reducible apply keeps_importBell
    | with_reducible apply Keeps.foldl
    | with_reducible apply Keeps.foldl1
    | with_reducible apply Keeps.ite
    | simp only [Keeps.litEq]
    | intro _
    | split

theorem keeps_restoreMan {r₀ : State} (s : State) (q : Nat) (m : Man) (img bin : Option Bytes) (h₀ : Keeps r₀ s) : Keeps r₀ (restoreMan s q m img bin) := by
  unfold restoreMan
  try dsimp only
  repeat' first
    | with_reducible assumption
    | with_reducible apply keeps_modCtx
    | with_reducible apply keeps_finishMan
    | with_reducible apply keeps_importMan
    | with_reducible apply Keeps.ite
    | simp only [Keeps.litEq]
    | intro _
    | split

theorem keeps_execRestore {r₀ : State} (q : Fin 64) (img bin : Option Bytes) (s : State) (h₀ : Keeps r₀ s) : KeepsR r₀ (execRestore q img bin s) := by
  unfold execRestore
  try dsimp only
  repeat' first
    | with_reducible assumption
    | with_reducible apply KeepsR.fault
    | with_reducible apply KeepsR.next
    | with_reducible apply keeps_onMan
    | with_reducible apply keeps_restoreMan
    | with_reducible apply Keeps.ite
    | with_reducible apply KeepsR.ite
    | intro _
    | split

theorem keeps_execRunoutEnd {r₀ : State} (p : Fin 8) (s : State) (h₀ : Keeps r₀ s) : KeepsR r₀ (execRunoutEnd p s) := by
  unfold execRunoutEnd
  try dsimp only
  repeat' first
    | with_reducible assumption
    | with_reducible apply KeepsR.fault
    | with_reducible apply KeepsR.next
    | with_reducible apply keeps_modCtx
    | with_reducible apply keeps_turnStreams
    | with_reducible apply Keeps.ite
    | with_reducible apply KeepsR.ite
    | simp only [Keeps.litEq]
    | intro _
    | split

theorem wf_exportMem (mem : List Host.Cell) (l : List (Nat × Nat)) (m : List Host.Cell) (a : Nat) (h : Memory.wf m = true) :
    Memory.wf (l.foldl (fun (x : List Host.Cell × Nat) (a : Nat × Nat) => (memPutCells (memClear x.1 x.2 a.2) a.1 x.2 (memCells mem a.1 a.2), x.2 + a.2)) (m, a)).1 = true := by
  induction l generalizing m a with
  | nil => exact h
  | cons b l ih => exact ih _ _ (wf_memPutCells _ _ _ _ (wf_memClear _ _ _ h))

theorem keeps_hostMemCtxs {r s : State} (m : List Host.Cell) (x : List (Nat × Ctx)) (h : Keeps r s) (g : Memory.wf s.hostMem = true → Memory.wf m = true) :
    Keeps r { s with hostMem := m, ctxs := x } :=
  h.trans ⟨rfl, fun i => ⟨i.1, g i.2.1, i.2.2⟩⟩

theorem keeps_exportImage {r₀ : State} (s : State) (k : Nat) (c : Ctx) (r : StowReq) (h₀ : Keeps r₀ s) : Keeps r₀ (exportImage s k c r) := by
  unfold exportImage
  dsimp only
  repeat' first
    | with_reducible assumption
    | with_reducible apply keeps_fault1
    | with_reducible apply keeps_finishMan
    | with_reducible apply keeps_freeBells
    | with_reducible apply keeps_modPart
    | simp only [Keeps.litEq]
    | exact keeps_hostMemCtxs _ _ h₀ (wf_exportMem _ _ _ _)
    | split


theorem keeps_finishStow {r₀ : State} (s : State) (k : Nat) (c : Ctx) (h₀ : Keeps r₀ s) : Keeps r₀ (finishStow s k c) := by
  unfold finishStow
  try dsimp only
  repeat' first
    | with_reducible assumption
    | with_reducible apply keeps_satFld
    | with_reducible apply keeps_hbmUse
    | with_reducible apply keeps_modPart
    | with_reducible apply keeps_setCtx
    | with_reducible apply keeps_writeImage
    | with_reducible apply Keeps.foldl
    | with_reducible apply Keeps.foldl1
    | with_reducible apply Keeps.ite
    | simp only [Keeps.litEq]
    | intro _
    | split

theorem keeps_landFlights {r₀ : State} (s : State) (k : Nat) (h₀ : Keeps r₀ s) : Keeps r₀ (landFlights s k) := by
  unfold landFlights
  try dsimp only
  repeat' first
    | with_reducible assumption
    | with_reducible apply keeps_doAddend
    | with_reducible apply Keeps.foldl
    | with_reducible apply Keeps.foldl1
    | with_reducible apply Keeps.ite
    | simp only [Keeps.litEq]
    | intro _
    | split

theorem keeps_imageReport {r₀ : State} (s : State) (c : Ctx) (corr : Nat) (bad : List Nat) (h₀ : Keeps r₀ s) : Keeps r₀ (imageReport s c corr bad) := by
  unfold imageReport
  try dsimp only
  repeat' first
    | with_reducible assumption
    | with_reducible apply keeps_gddrReport
    | with_reducible apply Keeps.foldl
    | with_reducible apply Keeps.foldl1
    | with_reducible apply Keeps.ite
    | intro _
    | split

theorem keeps_execStowDone {r₀ : State} (p : Fin 8) (corr : Nat) (bad : List Nat) (s : State) (h₀ : Keeps r₀ s) : KeepsR r₀ (execStowDone p corr bad s) := by
  unfold execStowDone
  try dsimp only
  repeat' first
    | with_reducible assumption
    | with_reducible apply KeepsR.fault
    | with_reducible apply KeepsR.next
    | with_reducible apply keeps_finishMan
    | with_reducible apply keeps_exportImage
    | with_reducible apply keeps_finishStow
    | with_reducible apply keeps_landFlights
    | with_reducible apply keeps_imageReport
    | with_reducible apply Keeps.ite
    | with_reducible apply KeepsR.ite
    | simp only [Keeps.litEq]
    | intro _
    | split

theorem keeps_execZeroingDone {r₀ : State} (p : Fin 8) (s : State) (h₀ : Keeps r₀ s) : KeepsR r₀ (execZeroingDone p s) := by
  unfold execZeroingDone
  try dsimp only
  repeat' first
    | with_reducible assumption
    | with_reducible apply KeepsR.fault
    | with_reducible apply KeepsR.next
    | with_reducible apply keeps_setFld
    | with_reducible apply keeps_devZero
    | with_reducible apply keeps_modPart
    | with_reducible apply keeps_syncTstore
    | with_reducible apply Keeps.foldl
    | with_reducible apply Keeps.foldl1
    | with_reducible apply Keeps.ite
    | with_reducible apply KeepsR.ite
    | simp only [Keeps.litEq]
    | intro _
    | split

theorem keeps_heldVerdict {r₀ : State} (s : State) (k : Nat) (h₀ : Keeps r₀ s) : Keeps r₀ (heldVerdict s k) := by
  unfold heldVerdict
  try dsimp only
  repeat' first
    | with_reducible assumption
    | with_reducible apply keeps_takeVerdict
    | with_reducible apply Keeps.ite
    | simp only [Keeps.litEq]
    | intro _
    | split

theorem keeps_firstVote {r₀ : State} (s : State) (k : Nat) (fresh : Bool) (h₀ : Keeps r₀ s) : Keeps r₀ (firstVote s k fresh) := by
  unfold firstVote
  try dsimp only
  repeat' first
    | with_reducible assumption
    | with_reducible apply keeps_modPart
    | with_reducible apply keeps_cadenceVote
    | with_reducible apply Keeps.ite
    | simp only [Keeps.litEq]
    | intro _
    | split

theorem keeps_finishRestore {r₀ : State} (s : State) (k : Nat) (c : Ctx) (h₀ : Keeps r₀ s) : Keeps r₀ (finishRestore s k c) := by
  unfold finishRestore
  try dsimp only
  repeat' first
    | with_reducible assumption
    | with_reducible apply keeps_hbmUse
    | with_reducible apply keeps_modPart
    | with_reducible apply keeps_setCtx
    | with_reducible apply keeps_finishMan
    | with_reducible apply keeps_recFlag
    | with_reducible apply keeps_unpark
    | with_reducible apply keeps_installCover
    | with_reducible apply keeps_readVcore
    | with_reducible apply keeps_heldVerdict
    | with_reducible apply keeps_firstVote
    | with_reducible apply keeps_letIn
    | with_reducible apply Keeps.foldl
    | with_reducible apply Keeps.foldl1
    | with_reducible apply Keeps.ite
    | simp only [Keeps.litEq]
    | intro _
    | split

theorem keeps_execRestoreDone {r₀ : State} (p : Fin 8) (corr : Nat) (bad : List Nat) (s : State) (h₀ : Keeps r₀ s) : KeepsR r₀ (execRestoreDone p corr bad s) := by
  unfold execRestoreDone
  try dsimp only
  repeat' first
    | with_reducible assumption
    | with_reducible apply KeepsR.fault
    | with_reducible apply KeepsR.next
    | with_reducible apply keeps_fault1
    | with_reducible apply keeps_imageReport
    | with_reducible apply keeps_finishRestore
    | with_reducible apply Keeps.ite
    | with_reducible apply KeepsR.ite
    | simp only [Keeps.litEq]
    | intro _
    | split

end Sys2Proof.Machine
end

