-- ==== Sys2Proof/Laws/Keeps/Drum.lean ====
section
/-! SUPPORT. What each operation of Machine/Drum.lean keeps: the queue and the invariant. -/

namespace Sys2Proof.Machine

theorem keeps_commitReg {r₀ : State} (s : State) (p off v : Nat) (h₀ : Keeps r₀ s) : Keeps r₀ (commitReg s p off v) := by
  unfold commitReg
  try dsimp only
  repeat' first
    | with_reducible assumption
    | with_reducible apply keeps_setReg
    | with_reducible apply keeps_setFld
    | with_reducible apply keeps_rejectOff
    | with_reducible apply keeps_modPart
    | with_reducible apply Keeps.ite
    | simp only [Keeps.litEq]
    | intro _
    | split

theorem keeps_commitPair {r₀ : State} (s : State) (p : Nat) (h₀ : Keeps r₀ s) : Keeps r₀ (commitPair s p).1 := by
  unfold commitPair
  try dsimp only
  repeat' first
    | with_reducible assumption
    | with_reducible apply keeps_modCtx
    | with_reducible apply keeps_commitReg
    | with_reducible apply Keeps.ite
    | simp only [Keeps.litEq]
    | intro _
    | split

theorem keeps_commitShadow {r₀ : State} (s : State) (p : Nat) (h₀ : Keeps r₀ s) : Keeps r₀ (commitShadow s p).1 := by
  unfold commitShadow
  try dsimp only
  repeat' first
    | with_reducible assumption
    | with_reducible apply keeps_fault1
    | with_reducible apply keeps_commitReg
    | with_reducible apply keeps_commitPair
    | with_reducible apply Keeps.foldl
    | with_reducible apply Keeps.foldl1
    | with_reducible apply Keeps.ite
    | simp only [Keeps.litEq]
    | intro _
    | split

theorem keeps_moveCore {r₀ : State} (s : State) (p l e : Nat) (h₀ : Keeps r₀ s) : Keeps r₀ (moveCore s p l e).1 := by
  unfold moveCore
  try dsimp only
  repeat' first
    | with_reducible assumption
    | with_reducible apply keeps_modCtx
    | with_reducible apply keeps_devMove
    | with_reducible apply keeps_foldFlags
    | with_reducible apply Keeps.foldl
    | with_reducible apply Keeps.foldl1
    | with_reducible apply Keeps.ite
    | simp only [Keeps.litEq]
    | intro _
    | split

theorem keeps_abandonThirds {r₀ : State} (s : State) (e : Nat) (h₀ : Keeps r₀ s) : Keeps r₀ (abandonThirds s e) := by
  unfold abandonThirds
  try dsimp only
  repeat' first
    | with_reducible assumption
    | with_reducible apply keeps_underProbe
    | with_reducible apply Keeps.foldl
    | with_reducible apply Keeps.foldl1
    | with_reducible apply Keeps.ite
    | simp only [Keeps.litEq]
    | intro _
    | split

theorem keeps_enterService {r₀ : State} (s : State) (e : Nat) (h₀ : Keeps r₀ s) : Keeps r₀ (enterService s e) := by
  unfold enterService
  try dsimp only
  repeat' first
    | with_reducible assumption
    | with_reducible apply keeps_setFld
    | with_reducible apply keeps_marchOver
    | with_reducible apply keeps_abandonThirds
    | with_reducible apply Keeps.ite
    | simp only [Keeps.litEq]
    | intro _
    | split

theorem keeps_enterCore {r₀ : State} (s : State) (p l e : Nat) (h₀ : Keeps r₀ s) : Keeps r₀ (enterCore s p l e).1 := by
  unfold enterCore
  try dsimp only
  repeat' first
    | with_reducible assumption
    | with_reducible apply keeps_moveCore
    | with_reducible apply keeps_enterService
    | with_reducible apply Keeps.ite
    | intro _
    | split

theorem keeps_substitute {r₀ : State} (p : Nat) (r : State × Nat × Bool) (pc : Nat) (h₀ : Keeps r₀ r.1) : Keeps r₀ (substitute p r pc).1 := by
  unfold substitute
  dsimp only
  split
  · exact h₀
  · exact keeps_enterCore (h₀ := h₀) ..


theorem keeps_fillOne {r₀ : State} (r : State × Nat × Bool) (cl : Nat) (h₀ : Keeps r₀ r.1) : Keeps r₀ (fillOne r cl).1 := by
  unfold fillOne
  repeat' first | with_reducible assumption | with_reducible apply keeps_enterService | split


theorem keeps_fillIdle {r₀ : State} (r : State × Nat × Bool) (cl : Nat) (h₀ : Keeps r₀ r.1) : Keeps r₀ (fillIdle r cl).1 :=
  Keeps.foldl1 (fun x _ g => keeps_fillOne x cl g) h₀


theorem keeps_turnShort {r₀ : State} (s : State) (cl : Nat) (h₀ : Keeps r₀ s) : Keeps r₀ (turnShort s cl) := by
  unfold turnShort
  try dsimp only
  repeat' first
    | with_reducible assumption
    | with_reducible apply keeps_shortCluster
    | with_reducible apply Keeps.ite
    | simp only [Keeps.litEq]
    | intro _
    | split

theorem keeps_rotate {r₀ : State} (p : Nat) (r : State × Nat × Bool) (cl : Nat) (h₀ : Keeps r₀ r.1) : Keeps r₀ (rotate p r cl).1 := by
  unfold rotate
  dsimp only
  repeat' first
    | with_reducible assumption
    | with_reducible apply keeps_setFld
    | with_reducible apply keeps_enterCore
    | simp only [Keeps.litEq]
    | split


theorem keeps_moveCores {r₀ : State} (s : State) (p : Nat) (h₀ : Keeps r₀ s) : Keeps r₀ (moveCores s p).1 := by
  unfold moveCores
  try dsimp only
  repeat' first
    | with_reducible assumption
    | with_reducible apply keeps_raiseHold
    | with_reducible apply keeps_substitute
    | with_reducible apply keeps_fillIdle
    | with_reducible apply keeps_turnShort
    | with_reducible apply keeps_rotate
    | with_reducible apply Keeps.foldl
    | with_reducible apply Keeps.foldl1
    | with_reducible apply Keeps.ite
    | simp only [Keeps.litEq]
    | intro _
    | split

theorem keeps_execRotationCopyDone {r₀ : State} (s : State) (h₀ : Keeps r₀ s) : KeepsR r₀ (execRotationCopyDone s) := by
  unfold execRotationCopyDone
  try dsimp only
  repeat' first
    | with_reducible assumption
    | with_reducible apply KeepsR.fault
    | with_reducible apply KeepsR.next
    | with_reducible apply keeps_gateEval
    | with_reducible apply Keeps.ite
    | with_reducible apply KeepsR.ite
    | simp only [Keeps.litEq]
    | intro _
    | split

theorem keeps_endEchoes {r₀ : State} (s : State) (p : Nat) (h₀ : Keeps r₀ s) : Keeps r₀ (endEchoes s p) := by
  unfold endEchoes
  try dsimp only
  repeat' first
    | with_reducible assumption
    | with_reducible apply keeps_echoEnd
    | with_reducible apply Keeps.foldl
    | with_reducible apply Keeps.foldl1
    | with_reducible apply Keeps.ite
    | intro _
    | split

theorem keeps_emptyMxe {r₀ : State} (s : State) (p : Nat) (h₀ : Keeps r₀ s) : Keeps r₀ (emptyMxe s p) := by
  unfold emptyMxe
  try dsimp only
  repeat' first
    | with_reducible assumption
    | with_reducible apply Keeps.foldl
    | with_reducible apply Keeps.foldl1
    | with_reducible apply Keeps.ite
    | simp only [Keeps.litEq]
    | intro _
    | split

theorem keeps_endings {r₀ : State} (s : State) (p : Nat) (h₀ : Keeps r₀ s) : Keeps r₀ (endings s p) := by
  unfold endings
  try dsimp only
  repeat' first
    | with_reducible assumption
    | with_reducible apply keeps_endCtx
    | with_reducible apply keeps_bookFrame
    | with_reducible apply Keeps.foldl
    | with_reducible apply Keeps.foldl1
    | with_reducible apply Keeps.ite
    | simp only [Keeps.litEq]
    | intro _
    | split

theorem keeps_advance {r₀ : State} (s : State) (p : Nat) (h₀ : Keeps r₀ s) : Keeps r₀ (advance s p) := by
  unfold advance
  try dsimp only
  repeat' first
    | with_reducible assumption
    | with_reducible apply keeps_modCtx
    | with_reducible apply keeps_openRec
    | with_reducible apply keeps_bookFrame
    | with_reducible apply Keeps.ite
    | simp only [Keeps.litEq]
    | intro _
    | split

theorem keeps_letIn {r₀ : State} (s : State) (p n : Nat) (h₀ : Keeps r₀ s) : Keeps r₀ (letIn s p n) := by
  unfold letIn
  try dsimp only
  repeat' first
    | with_reducible assumption
    | with_reducible apply keeps_admitMuster
    | with_reducible apply keeps_startRestore
    | with_reducible apply Keeps.ite
    | simp only [Keeps.litEq]
    | intro _
    | split

theorem keeps_select {r₀ : State} (s : State) (p : Nat) (h₀ : Keeps r₀ s) : Keeps r₀ (select s p) := by
  unfold select
  try dsimp only
  repeat' first
    | with_reducible assumption
    | with_reducible apply keeps_modPart
    | with_reducible apply keeps_beginStow
    | with_reducible apply keeps_letIn
    | with_reducible apply Keeps.ite
    | simp only [Keeps.litEq]
    | intro _
    | split

theorem keeps_beginFrame {r₀ : State} (s : State) (p : Nat) (h₀ : Keeps r₀ s) : Keeps r₀ (beginFrame s p) := by
  unfold beginFrame
  try dsimp only
  repeat' first
    | with_reducible assumption
    | with_reducible apply keeps_modCtx
    | with_reducible apply keeps_modRec
    | with_reducible apply keeps_gateEval
    | with_reducible apply keeps_raiseHold
    | with_reducible apply Keeps.ite
    | simp only [Keeps.litEq]
    | intro _
    | split

theorem keeps_beatCounts {r₀ : State} (s : State) (p : Nat) (h₀ : Keeps r₀ s) : Keeps r₀ (beatCounts s p) := by
  unfold beatCounts
  try dsimp only
  repeat' first
    | with_reducible assumption
    | with_reducible apply keeps_setReg
    | with_reducible apply keeps_satFld
    | with_reducible apply keeps_modPart
    | with_reducible apply Keeps.ite
    | simp only [Keeps.litEq]
    | intro _
    | split

theorem keeps_takeBeat {r₀ : State} (s : State) (p : Nat) (sel : Bool) (h₀ : Keeps r₀ s) : Keeps r₀ (takeBeat s p sel) := by
  unfold takeBeat
  try dsimp only
  repeat' first
    | with_reducible assumption
    | with_reducible apply keeps_modRec
    | with_reducible apply keeps_settleFaults
    | with_reducible apply keeps_commitShadow
    | with_reducible apply keeps_moveCores
    | with_reducible apply keeps_endEchoes
    | with_reducible apply keeps_emptyMxe
    | with_reducible apply keeps_endings
    | with_reducible apply keeps_advance
    | with_reducible apply keeps_select
    | with_reducible apply keeps_beginFrame
    | with_reducible apply keeps_beatCounts
    | with_reducible apply Keeps.ite
    | simp only [Keeps.litEq]
    | intro _
    | split

theorem keeps_deadlock {r₀ : State} (s : State) (p k : Nat) (c : Ctx) (h₀ : Keeps r₀ s) : Keeps r₀ (deadlock s p k c) := by
  unfold deadlock
  try dsimp only
  repeat' first
    | with_reducible assumption
    | with_reducible apply keeps_faultCtx
    | with_reducible apply Keeps.foldl
    | with_reducible apply Keeps.foldl1
    | with_reducible apply Keeps.ite
    | simp only [Keeps.litEq]
    | intro _
    | split

theorem keeps_execDeadlockDetect {r₀ : State} (p : Fin 8) (s : State) (h₀ : Keeps r₀ s) : KeepsR r₀ (execDeadlockDetect p s) := by
  unfold execDeadlockDetect
  try dsimp only
  repeat' first
    | with_reducible assumption
    | with_reducible apply KeepsR.fault
    | with_reducible apply KeepsR.next
    | with_reducible apply keeps_deadlock
    | with_reducible apply Keeps.ite
    | with_reducible apply KeepsR.ite
    | simp only [Keeps.litEq]
    | intro _
    | split

theorem keeps_skipPoint {r₀ : State} (s : State) (p k : Nat) (c : Ctx) (h₀ : Keeps r₀ s) : Keeps r₀ (skipPoint s p k c) := by
  unfold skipPoint
  try dsimp only
  repeat' first
    | with_reducible assumption
    | with_reducible apply keeps_modPart
    | with_reducible apply keeps_modCtx
    | with_reducible apply keeps_modRec
    | with_reducible apply Keeps.ite
    | simp only [Keeps.litEq]
    | intro _
    | split

theorem keeps_execGridPoint {r₀ : State} (p : Fin 8) (s : State) (h₀ : Keeps r₀ s) : KeepsR r₀ (execGridPoint p s) := by
  unfold execGridPoint
  try dsimp only
  repeat' first
    | with_reducible assumption
    | with_reducible apply KeepsR.fault
    | with_reducible apply KeepsR.next
    | with_reducible apply keeps_modPart
    | with_reducible apply keeps_modCtx
    | with_reducible apply Keeps.ite
    | with_reducible apply KeepsR.ite
    | simp only [Keeps.litEq]
    | intro _
    | split

theorem keeps_decidePoint {r₀ : State} (s : State) (p : Nat) (h₀ : Keeps r₀ s) : Keeps r₀ (decidePoint s p) := by
  unfold decidePoint
  try dsimp only
  repeat' first
    | with_reducible assumption
    | with_reducible apply keeps_modPart
    | with_reducible apply keeps_faultCtx
    | with_reducible apply keeps_takeBeat
    | with_reducible apply keeps_deadlock
    | with_reducible apply keeps_skipPoint
    | with_reducible apply Keeps.ite
    | simp only [Keeps.litEq]
    | intro _
    | split

theorem keeps_decidePoints {r₀ : State} (s : State) (h₀ : Keeps r₀ s) : Keeps r₀ (decidePoints s) := by
  unfold decidePoints
  try dsimp only
  repeat' first
    | with_reducible assumption
    | with_reducible apply keeps_decidePoint
    | with_reducible apply Keeps.foldl
    | with_reducible apply Keeps.foldl1
    | with_reducible apply Keeps.ite
    | intro _
    | split

theorem keeps_passMuster {r₀ : State} (s : State) (k : Nat) (c : Ctx) (h₀ : Keeps r₀ s) : Keeps r₀ (passMuster s k c) := by
  unfold passMuster
  try dsimp only
  repeat' first
    | with_reducible assumption
    | with_reducible apply keeps_modCtx
    | with_reducible apply keeps_modBell
    | with_reducible apply Keeps.ite
    | simp only [Keeps.litEq]
    | intro _
    | split

theorem keeps_writeInit {r₀ : State} (s : State) (c : Ctx) (h₀ : Keeps r₀ s) : Keeps r₀ (writeInit s c) := by
  unfold writeInit
  try dsimp only
  repeat' first
    | with_reducible assumption
    | with_reducible apply keeps_devWrite
    | with_reducible apply Keeps.foldl
    | with_reducible apply Keeps.foldl1
    | with_reducible apply Keeps.ite
    | intro _
    | split

theorem keeps_execMusterAnchor {r₀ : State} (p : Fin 8) (s : State) (h₀ : Keeps r₀ s) : KeepsR r₀ (execMusterAnchor p s) := by
  unfold execMusterAnchor
  try dsimp only
  repeat' first
    | with_reducible assumption
    | with_reducible apply KeepsR.fault
    | with_reducible apply KeepsR.next
    | with_reducible apply keeps_modPart
    | with_reducible apply keeps_modCtx
    | with_reducible apply keeps_finishMan
    | with_reducible apply keeps_openRec
    | with_reducible apply keeps_unpark
    | with_reducible apply keeps_installCover
    | with_reducible apply keeps_firstVote
    | with_reducible apply keeps_letIn
    | with_reducible apply keeps_passMuster
    | with_reducible apply keeps_writeInit
    | with_reducible apply Keeps.ite
    | with_reducible apply KeepsR.ite
    | simp only [Keeps.litEq]
    | intro _
    | split

end Sys2Proof.Machine
end

