-- ==== Sys2Proof/Laws/Keeps/LedgerRows.lean ====
section
/-! SUPPORT. What each operation of Machine/LedgerRows.lean keeps: the queue and the invariant. -/

namespace Sys2Proof.Machine

theorem keeps_freeBackpressure {r₀ : State} (s : State) (p : Nat) (h₀ : Keeps r₀ s) : Keeps r₀ (freeBackpressure s p) := by
  unfold freeBackpressure
  try dsimp only
  repeat' first
    | with_reducible assumption
    | with_reducible apply keeps_setFld
    | with_reducible apply keeps_modPart
    | with_reducible apply keeps_gateEval
    | with_reducible apply keeps_returnHolds
    | with_reducible apply Keeps.ite
    | simp only [Keeps.litEq]
    | intro _
    | split

theorem keeps_execLedgerRecordWrite {r₀ : State} (p : Fin 8) (s : State) (h₀ : Keeps r₀ s) : KeepsR r₀ (execLedgerRecordWrite p s) := by
  unfold execLedgerRecordWrite
  try dsimp only
  repeat' first
    | with_reducible assumption
    | with_reducible apply KeepsR.fault
    | with_reducible apply KeepsR.next
    | with_reducible apply keeps_setFld
    | with_reducible apply keeps_modPart
    | with_reducible apply keeps_ringPut
    | with_reducible apply keeps_gateEval
    | with_reducible apply keeps_raiseHold
    | with_reducible apply keeps_freeBackpressure
    | with_reducible apply Keeps.ite
    | with_reducible apply KeepsR.ite
    | simp only [Keeps.litEq]
    | intro _
    | split

theorem keeps_passRecord {r₀ : State} (s : State) (p : Nat) (rest : List (Nat × Nat × Bool)) (h₀ : Keeps r₀ s) : Keeps r₀ (passRecord s p rest) := by
  unfold passRecord
  try dsimp only
  repeat' first
    | with_reducible assumption
    | with_reducible apply keeps_modPart
    | with_reducible apply keeps_syncPtr
    | with_reducible apply keeps_freeBackpressure
    | with_reducible apply Keeps.ite
    | simp only [Keeps.litEq]
    | intro _
    | split

theorem keeps_execLedgerStream {r₀ : State} (p : Fin 8) (corr : Nat) (bad : List Nat) (s : State) (h₀ : Keeps r₀ s) : KeepsR r₀ (execLedgerStream p corr bad s) := by
  unfold execLedgerStream
  try dsimp only
  repeat' first
    | with_reducible assumption
    | with_reducible apply KeepsR.fault
    | with_reducible apply KeepsR.next
    | with_reducible apply keeps_writeCompl
    | with_reducible apply keeps_fault1
    | with_reducible apply keeps_gddrReport
    | with_reducible apply keeps_passRecord
    | with_reducible apply Keeps.ite
    | with_reducible apply KeepsR.ite
    | simp only [Keeps.litEq]
    | intro _
    | split

theorem keeps_execLedgerOverrun {r₀ : State} (p : Fin 8) (s : State) (h₀ : Keeps r₀ s) : KeepsR r₀ (execLedgerOverrun p s) := by
  unfold execLedgerOverrun
  try dsimp only
  repeat' first
    | with_reducible assumption
    | with_reducible apply KeepsR.fault
    | with_reducible apply KeepsR.next
    | with_reducible apply keeps_setFld
    | with_reducible apply keeps_modPart
    | with_reducible apply keeps_fault1
    | with_reducible apply keeps_gateEval
    | with_reducible apply Keeps.foldl
    | with_reducible apply Keeps.foldl1
    | with_reducible apply Keeps.ite
    | with_reducible apply KeepsR.ite
    | simp only [Keeps.litEq]
    | intro _
    | split

theorem keeps_execLedgerEnable {r₀ : State} (p : Fin 8) (v : BitVec 32) (w : Writer) (s : State) (h₀ : Keeps r₀ s) : KeepsR r₀ (execLedgerEnable p v w s) := by
  unfold execLedgerEnable
  try dsimp only
  repeat' first
    | with_reducible assumption
    | with_reducible apply KeepsR.fault
    | with_reducible apply KeepsR.next
    | with_reducible apply keeps_setReg
    | with_reducible apply keeps_reject
    | with_reducible apply keeps_gate
    | with_reducible apply keeps_modPart
    | with_reducible apply Keeps.ite
    | with_reducible apply KeepsR.ite
    | simp only [Keeps.litEq]
    | intro _
    | split

theorem keeps_execLedgerDisable {r₀ : State} (p : Fin 8) (v : BitVec 32) (w : Writer) (s : State) (h₀ : Keeps r₀ s) : KeepsR r₀ (execLedgerDisable p v w s) := by
  unfold execLedgerDisable
  try dsimp only
  repeat' first
    | with_reducible assumption
    | with_reducible apply KeepsR.fault
    | with_reducible apply KeepsR.next
    | with_reducible apply keeps_setReg
    | with_reducible apply keeps_reject
    | with_reducible apply keeps_gate
    | with_reducible apply keeps_modPart
    | with_reducible apply keeps_syncPtr
    | with_reducible apply keeps_endBackpressure
    | with_reducible apply keeps_gateEval
    | with_reducible apply Keeps.ite
    | with_reducible apply KeepsR.ite
    | simp only [Keeps.litEq]
    | intro _
    | split

theorem keeps_execSnapRingEnable {r₀ : State} (p : Fin 8) (v : BitVec 32) (w : Writer) (s : State) (h₀ : Keeps r₀ s) : KeepsR r₀ (execSnapRingEnable p v w s) := by
  unfold execSnapRingEnable
  try dsimp only
  repeat' first
    | with_reducible assumption
    | with_reducible apply KeepsR.fault
    | with_reducible apply KeepsR.next
    | with_reducible apply keeps_setReg
    | with_reducible apply keeps_reject
    | with_reducible apply keeps_gate
    | with_reducible apply keeps_modPart
    | with_reducible apply Keeps.ite
    | with_reducible apply KeepsR.ite
    | simp only [Keeps.litEq]
    | intro _
    | split

theorem keeps_execSnapRptrWrite {r₀ : State} (p : Fin 8) (v : BitVec 64) (w : Writer) (s : State) (h₀ : Keeps r₀ s) : KeepsR r₀ (execSnapRptrWrite p v w s) := by
  unfold execSnapRptrWrite
  try dsimp only
  repeat' first
    | with_reducible assumption
    | with_reducible apply KeepsR.fault
    | with_reducible apply KeepsR.next
    | with_reducible apply keeps_setFld
    | with_reducible apply keeps_reject
    | with_reducible apply keeps_gate
    | with_reducible apply keeps_modPart
    | with_reducible apply Keeps.ite
    | with_reducible apply KeepsR.ite
    | simp only [Keeps.litEq]
    | intro _
    | split

theorem keeps_execLedgerRegionWrite {r₀ : State} (p : Fin 8) (v : BitVec 64) (w : Writer) (s : State) (h₀ : Keeps r₀ s) : KeepsR r₀ (execLedgerRegionWrite p v w s) := by
  unfold execLedgerRegionWrite
  try dsimp only
  repeat' first
    | with_reducible assumption
    | with_reducible apply KeepsR.fault
    | with_reducible apply KeepsR.next
    | with_reducible apply keeps_reject
    | with_reducible apply keeps_gate
    | with_reducible apply keeps_setRegion
    | with_reducible apply Keeps.ite
    | with_reducible apply KeepsR.ite
    | simp only [Keeps.litEq]
    | intro _
    | split

end Sys2Proof.Machine
end

