-- ==== Sys2Proof/Laws/Keeps/Owed.lean ====
section
/-! SUPPORT. What each operation of Machine/Owed.lean keeps: the queue and the invariant. -/

namespace Sys2Proof.Machine

theorem keeps_execResultReturn {r₀ : State} (id : Nat) (s : State) (h₀ : Keeps r₀ s) : KeepsR r₀ (execResultReturn id s) := by
  unfold execResultReturn
  try dsimp only
  repeat' first
    | with_reducible assumption
    | with_reducible apply KeepsR.fault
    | with_reducible apply KeepsR.next
    | with_reducible apply keeps_gateEval
    | with_reducible apply keeps_returnHolds
    | with_reducible apply Keeps.ite
    | with_reducible apply KeepsR.ite
    | intro _
    | split

theorem keeps_returnReady {r₀ : State} (s : State) (h₀ : Keeps r₀ s) : Keeps r₀ (returnReady s) := by
  unfold returnReady
  try dsimp only
  repeat' first
    | with_reducible assumption
    | with_reducible apply keeps_returnHolds
    | with_reducible apply Keeps.ite
    | intro _
    | split

theorem keeps_execHoldTest {r₀ : State} (p : Fin 8) (unit term cause obj u : Nat) (ready : Bool) (s : State) (h₀ : Keeps r₀ s) : KeepsR r₀ (execHoldTest p unit term cause obj u ready s) := by
  unfold execHoldTest
  try dsimp only
  repeat' first
    | with_reducible assumption
    | with_reducible apply KeepsR.fault
    | with_reducible apply KeepsR.next
    | with_reducible apply keeps_raiseHold
    | with_reducible apply Keeps.ite
    | with_reducible apply KeepsR.ite
    | simp only [Keeps.litEq]
    | intro _
    | split

end Sys2Proof.Machine
end

