-- ==== Sys2Proof/Laws/Keeps/RegWrite.lean ====
section
/-! SUPPORT. What each operation of Machine/RegWrite.lean keeps: the queue and the invariant. -/

namespace Sys2Proof.Machine

theorem keeps_shadowWrite {r₀ : State} (s : State) (p off v : Nat) (h₀ : Keeps r₀ s) : Keeps r₀ (shadowWrite s p off v) := by
  unfold shadowWrite
  try dsimp only
  repeat' first
    | with_reducible assumption
    | with_reducible apply keeps_setFld
    | with_reducible apply keeps_modPart
    | with_reducible apply keeps_commitReg
    | with_reducible apply Keeps.ite
    | simp only [Keeps.litEq]
    | intro _
    | split

theorem keeps_execShadowWrite {r₀ : State} (off : BitVec 32) (v : BitVec 64) (w : Writer) (s : State) (h₀ : Keeps r₀ s) : KeepsR r₀ (execShadowWrite off v w s) := by
  unfold execShadowWrite
  try dsimp only
  repeat' first
    | with_reducible assumption
    | with_reducible apply KeepsR.fault
    | with_reducible apply KeepsR.next
    | with_reducible apply keeps_rejectOff
    | with_reducible apply keeps_gate
    | with_reducible apply keeps_shadowWrite
    | with_reducible apply Keeps.foldl
    | with_reducible apply Keeps.foldl1
    | with_reducible apply Keeps.ite
    | with_reducible apply KeepsR.ite
    | simp only [Keeps.litEq]
    | intro _
    | split

theorem keeps_execDrumEnable {r₀ : State} (p : Fin 8) (v : BitVec 32) (w : Writer) (s : State) (h₀ : Keeps r₀ s) : KeepsR r₀ (execDrumEnable p v w s) := by
  unfold execDrumEnable
  try dsimp only
  repeat' first
    | with_reducible assumption
    | with_reducible apply KeepsR.fault
    | with_reducible apply KeepsR.next
    | with_reducible apply keeps_setReg
    | with_reducible apply keeps_reject
    | with_reducible apply keeps_gate
    | with_reducible apply keeps_modPart
    | with_reducible apply Keeps.ite
    | with_reducible apply KeepsR.ite
    | simp only [Keeps.litEq]
    | intro _
    | split

theorem keeps_execBellEnable {r₀ : State} (b : Fin 64) (v : BitVec 64) (w : Writer) (s : State) (h₀ : Keeps r₀ s) : KeepsR r₀ (execBellEnable b v w s) := by
  unfold execBellEnable
  try dsimp only
  repeat' first
    | with_reducible assumption
    | with_reducible apply KeepsR.fault
    | with_reducible apply KeepsR.next
    | with_reducible apply keeps_setReg
    | with_reducible apply keeps_reject
    | with_reducible apply keeps_gate
    | with_reducible apply keeps_modBell
    | with_reducible apply Keeps.ite
    | with_reducible apply KeepsR.ite
    | intro _
    | split

theorem keeps_execBellDisable {r₀ : State} (b : Fin 64) (v : BitVec 64) (w : Writer) (s : State) (h₀ : Keeps r₀ s) : KeepsR r₀ (execBellDisable b v w s) := by
  unfold execBellDisable
  try dsimp only
  repeat' first
    | with_reducible assumption
    | with_reducible apply KeepsR.fault
    | with_reducible apply KeepsR.next
    | with_reducible apply keeps_setFld
    | with_reducible apply keeps_reject
    | with_reducible apply keeps_gate
    | with_reducible apply Keeps.ite
    | with_reducible apply KeepsR.ite
    | intro _
    | split

theorem keeps_execCfgerrClear {r₀ : State} (mask : BitVec 17) (w : Writer) (s : State) (h₀ : Keeps r₀ s) : KeepsR r₀ (execCfgerrClear mask w s) := by
  unfold execCfgerrClear
  try dsimp only
  repeat' first
    | with_reducible assumption
    | with_reducible apply KeepsR.fault
    | with_reducible apply KeepsR.next
    | with_reducible apply keeps_setFld
    | with_reducible apply keeps_gate
    | with_reducible apply Keeps.ite
    | with_reducible apply KeepsR.ite
    | intro _
    | split

theorem keeps_execTstorePeakClear {r₀ : State} (k : Fin 12) (w : Writer) (s : State) (h₀ : Keeps r₀ s) : KeepsR r₀ (execTstorePeakClear k w s) := by
  unfold execTstorePeakClear
  try dsimp only
  repeat' first
    | with_reducible assumption
    | with_reducible apply KeepsR.fault
    | with_reducible apply KeepsR.next
    | with_reducible apply keeps_setFld
    | with_reducible apply keeps_gate
    | with_reducible apply Keeps.ite
    | with_reducible apply KeepsR.ite
    | intro _
    | split

theorem keeps_execPartitionEnable {r₀ : State} (p : Fin 8) (v : BitVec 64) (w : Writer) (s : State) (h₀ : Keeps r₀ s) : KeepsR r₀ (execPartitionEnable p v w s) := by
  unfold execPartitionEnable
  try dsimp only
  repeat' first
    | with_reducible assumption
    | with_reducible apply KeepsR.fault
    | with_reducible apply KeepsR.next
    | with_reducible apply keeps_setReg
    | with_reducible apply keeps_reject
    | with_reducible apply keeps_gate
    | with_reducible apply keeps_modPart
    | with_reducible apply Keeps.ite
    | with_reducible apply KeepsR.ite
    | simp only [Keeps.litEq]
    | intro _
    | split

theorem keeps_setDomain {r₀ : State} (s : State) (one : Bool) (h₀ : Keeps r₀ s) : Keeps r₀ (setDomain s one) := by
  unfold setDomain
  try dsimp only
  repeat' first
    | with_reducible assumption
    | with_reducible apply keeps_setRefValid
    | with_reducible apply Keeps.ite
    | simp only [Keeps.litEq]
    | intro _
    | split

theorem keeps_afterWrite {r₀ : State} (s0 s : State) (d : RegDesc) (i : Nat) (h₀ : Keeps r₀ s) : Keeps r₀ (afterWrite s0 s d i) := by
  unfold afterWrite
  repeat' first | with_reducible assumption | with_reducible apply keeps_passRecord | with_reducible apply keeps_setDomain | with_reducible apply keeps_syncThrottle | split


theorem keeps_plainWrite {r₀ : State} (off v : Nat) (s : State) (h₀ : Keeps r₀ s) : Keeps r₀ (plainWrite off v s) := by
  unfold plainWrite
  try dsimp only
  repeat' first
    | with_reducible assumption
    | with_reducible apply keeps_rejectOff
    | with_reducible apply keeps_regApply
    | with_reducible apply keeps_afterWrite
    | with_reducible apply Keeps.ite
    | simp only [Keeps.litEq]
    | intro _
    | split

theorem keeps_execRegWrite {r₀ : State} (vf : Fin 64) (off : BitVec 32) (width : Fin 9) (v : BitVec 64) (w : Writer) (s : State) (h₀ : Keeps r₀ s) : KeepsR r₀ (execRegWrite vf off width v w s) := by
  unfold execRegWrite
  try dsimp only
  repeat' first
    | with_reducible assumption
    | with_reducible apply KeepsR.fault
    | with_reducible apply KeepsR.next
    | with_reducible apply keeps_toTunnel
    | with_reducible apply keeps_gate
    | with_reducible apply keeps_toVf
    | with_reducible apply keeps_plainWrite
    | with_reducible apply Keeps.ite
    | with_reducible apply KeepsR.ite
    | simp only [Keeps.litEq]
    | intro _
    | split

end Sys2Proof.Machine
end

