-- ==== Sys2Proof/Laws/Keeps/Roce.lean ====
section
/-! SUPPORT. What each operation of Machine/Roce.lean keeps: the queue and the invariant. -/

namespace Sys2Proof.Machine

theorem keeps_modRoce {r₀ : State} (s : State) (n : Nat) (f : RoceQp → RoceQp) (h₀ : Keeps r₀ s) : Keeps r₀ (modRoce s n f) := by
  unfold modRoce
  try dsimp only
  repeat' first
    | with_reducible assumption
    | with_reducible apply Keeps.ite
    | simp only [Keeps.litEq]
    | intro _
    | split

theorem keeps_emitRoce {r₀ : State} (s : State) (x : RoceQp) (t : RoceTx) (h₀ : Keeps r₀ s) : Keeps r₀ (emitRoce s x t) := by
  unfold emitRoce
  try dsimp only
  repeat' first
    | with_reducible assumption
    | with_reducible apply keeps_queueLocal
    | with_reducible apply Keeps.ite
    | intro _
    | split

theorem keeps_roceQueue {r₀ : State} (s : State) (n : Nat) (l : List RoceTx) (h₀ : Keeps r₀ s) : Keeps r₀ (roceQueue s n l) := by
  unfold roceQueue
  try dsimp only
  repeat' first
    | with_reducible assumption
    | with_reducible apply keeps_modRoce
    | with_reducible apply Keeps.ite
    | simp only [Keeps.litEq]
    | intro _
    | split

theorem keeps_roceSend {r₀ : State} (s : State) (n : Nat) (h₀ : Keeps r₀ s) : Keeps r₀ (roceSend s n) := by
  unfold roceSend
  try dsimp only
  repeat' first
    | with_reducible assumption
    | with_reducible apply keeps_modRoce
    | with_reducible apply keeps_emitRoce
    | with_reducible apply Keeps.ite
    | simp only [Keeps.litEq]
    | intro _
    | split

theorem keeps_roceCycle {r₀ : State} (s : State) (h₀ : Keeps r₀ s) : Keeps r₀ (roceCycle s) := by
  unfold roceCycle
  try dsimp only
  repeat' first
    | with_reducible assumption
    | with_reducible apply keeps_roceSend
    | with_reducible apply Keeps.foldl
    | with_reducible apply Keeps.foldl1
    | with_reducible apply Keeps.ite
    | intro _
    | split

theorem keeps_onRoce {r₀ s : State} {q : Nat} {f : Nat → Nat → Bool} {k : State → Man → State} (h : ∀ t m, Keeps r₀ t → Keeps r₀ (k t m)) (g : Keeps r₀ s) :
    Keeps r₀ (onRoce s q f k) := by
  unfold onRoce
  repeat' first | with_reducible assumption | exact keeps_onMan h g | split


theorem keeps_execRoceCreate {r₀ : State} (q : Fin 64) (s : State) (h₀ : Keeps r₀ s) : KeepsR r₀ (execRoceCreate q s) := by
  unfold execRoceCreate
  try dsimp only
  repeat' first
    | with_reducible assumption
    | with_reducible apply KeepsR.fault
    | with_reducible apply KeepsR.next
    | with_reducible apply keeps_drawn
    | with_reducible apply keeps_finishMan
    | with_reducible apply keeps_onRoce
    | with_reducible apply Keeps.ite
    | with_reducible apply KeepsR.ite
    | simp only [Keeps.litEq]
    | intro _
    | split

theorem keeps_execRoceConnect {r₀ : State} (q : Fin 64) (s : State) (h₀ : Keeps r₀ s) : KeepsR r₀ (execRoceConnect q s) := by
  unfold execRoceConnect
  try dsimp only
  repeat' first
    | with_reducible assumption
    | with_reducible apply KeepsR.fault
    | with_reducible apply KeepsR.next
    | with_reducible apply keeps_finishMan
    | with_reducible apply keeps_modRoce
    | with_reducible apply keeps_onRoce
    | with_reducible apply Keeps.ite
    | with_reducible apply KeepsR.ite
    | simp only [Keeps.litEq]
    | intro _
    | split

theorem keeps_execRoceDestroy {r₀ : State} (q : Fin 64) (s : State) (h₀ : Keeps r₀ s) : KeepsR r₀ (execRoceDestroy q s) := by
  unfold execRoceDestroy
  try dsimp only
  repeat' first
    | with_reducible assumption
    | with_reducible apply KeepsR.fault
    | with_reducible apply KeepsR.next
    | with_reducible apply keeps_finishMan
    | with_reducible apply keeps_onRoce
    | with_reducible apply Keeps.foldl
    | with_reducible apply Keeps.foldl1
    | with_reducible apply Keeps.ite
    | with_reducible apply KeepsR.ite
    | simp only [Keeps.litEq]
    | intro _
    | split

theorem keeps_sendPost {r₀ : State} (s : State) (i : Nat) (x : RoceQp) (e : RocePost) (h₀ : Keeps r₀ s) : Keeps r₀ (sendPost s i x e) := by
  unfold sendPost
  try dsimp only
  repeat' first
    | with_reducible assumption
    | with_reducible apply keeps_hbmUse
    | with_reducible apply keeps_roceQueue
    | with_reducible apply Keeps.ite
    | intro _
    | split

theorem keeps_rocePost {r₀ : State} (s : State) (q verb : Nat) (m : Man) (h₀ : Keeps r₀ s) : Keeps r₀ (rocePost s q verb m) := by
  unfold rocePost
  try dsimp only
  repeat' first
    | with_reducible assumption
    | with_reducible apply keeps_finishMan
    | with_reducible apply keeps_modRoce
    | with_reducible apply keeps_sendPost
    | with_reducible apply Keeps.ite
    | simp only [Keeps.litEq]
    | intro _
    | split

theorem keeps_execRocePostSend {r₀ : State} (q : Fin 64) (s : State) (h₀ : Keeps r₀ s) : KeepsR r₀ (execRocePostSend q s) := by
  unfold execRocePostSend
  try dsimp only
  repeat' first
    | with_reducible assumption
    | with_reducible apply KeepsR.fault
    | with_reducible apply KeepsR.next
    | with_reducible apply keeps_onRoce
    | with_reducible apply keeps_rocePost
    | with_reducible apply Keeps.ite
    | with_reducible apply KeepsR.ite
    | intro _
    | split

theorem keeps_execRocePostRdmaWrite {r₀ : State} (q : Fin 64) (s : State) (h₀ : Keeps r₀ s) : KeepsR r₀ (execRocePostRdmaWrite q s) := by
  unfold execRocePostRdmaWrite
  try dsimp only
  repeat' first
    | with_reducible assumption
    | with_reducible apply KeepsR.fault
    | with_reducible apply KeepsR.next
    | with_reducible apply keeps_onRoce
    | with_reducible apply keeps_rocePost
    | with_reducible apply Keeps.ite
    | with_reducible apply KeepsR.ite
    | intro _
    | split

theorem keeps_execRocePostRdmaWriteImm {r₀ : State} (q : Fin 64) (s : State) (h₀ : Keeps r₀ s) : KeepsR r₀ (execRocePostRdmaWriteImm q s) := by
  unfold execRocePostRdmaWriteImm
  try dsimp only
  repeat' first
    | with_reducible assumption
    | with_reducible apply KeepsR.fault
    | with_reducible apply KeepsR.next
    | with_reducible apply keeps_onRoce
    | with_reducible apply keeps_rocePost
    | with_reducible apply Keeps.ite
    | with_reducible apply KeepsR.ite
    | intro _
    | split

theorem keeps_execRocePostRdmaRead {r₀ : State} (q : Fin 64) (s : State) (h₀ : Keeps r₀ s) : KeepsR r₀ (execRocePostRdmaRead q s) := by
  unfold execRocePostRdmaRead
  try dsimp only
  repeat' first
    | with_reducible assumption
    | with_reducible apply KeepsR.fault
    | with_reducible apply KeepsR.next
    | with_reducible apply keeps_onRoce
    | with_reducible apply keeps_rocePost
    | with_reducible apply Keeps.ite
    | with_reducible apply KeepsR.ite
    | intro _
    | split

theorem keeps_roceAck {r₀ : State} (s : State) (n psn : Nat) (x : RoceQp) (h₀ : Keeps r₀ s) : Keeps r₀ (roceAck s n psn x) := by
  unfold roceAck
  try dsimp only
  repeat' first
    | with_reducible assumption
    | with_reducible apply keeps_finishMan
    | with_reducible apply keeps_modRoce
    | with_reducible apply Keeps.foldl
    | with_reducible apply Keeps.foldl1
    | with_reducible apply Keeps.ite
    | simp only [Keeps.litEq]
    | intro _
    | split

theorem keeps_roceResponse {r₀ : State} (s : State) (n : Nat) (k : RocePkt) (x : RoceQp) (h₀ : Keeps r₀ s) : Keeps r₀ (roceResponse s n k x) := by
  unfold roceResponse
  try dsimp only
  repeat' first
    | with_reducible assumption
    | with_reducible apply keeps_devWrite
    | with_reducible apply keeps_hbmUse
    | with_reducible apply keeps_finishMan
    | with_reducible apply keeps_modRoce
    | with_reducible apply Keeps.ite
    | simp only [Keeps.litEq]
    | intro _
    | split

theorem keeps_roceLand {r₀ : State} (s : State) (n : Nat) (k : RocePkt) (x : RoceQp) (m : RoceMsg) (h₀ : Keeps r₀ s) : Keeps r₀ (roceLand s n k x m) := by
  unfold roceLand
  try dsimp only
  repeat' first
    | with_reducible assumption
    | with_reducible apply keeps_devWrite
    | with_reducible apply keeps_hbmUse
    | with_reducible apply keeps_complete
    | with_reducible apply keeps_modRoce
    | with_reducible apply keeps_roceQueue
    | with_reducible apply Keeps.ite
    | simp only [Keeps.litEq]
    | intro _
    | split

theorem keeps_roceRequest {r₀ : State} (s : State) (n : Nat) (k : RocePkt) (x : RoceQp) (h₀ : Keeps r₀ s) : Keeps r₀ (roceRequest s n k x) := by
  unfold roceRequest
  try dsimp only
  repeat' first
    | with_reducible assumption
    | with_reducible apply keeps_hbmUse
    | with_reducible apply keeps_modRoce
    | with_reducible apply keeps_roceQueue
    | with_reducible apply keeps_roceLand
    | with_reducible apply Keeps.ite
    | simp only [Keeps.litEq]
    | intro _
    | split

theorem keeps_roceChecked {r₀ s : State} {port : Nat} {k : RocePkt} {r : State → State} (h : ∀ t, Keeps r₀ t → Keeps r₀ (r t)) (g : Keeps r₀ s) : Keeps r₀ (roceChecked s port k r) :=
  keeps_rxChecked h g


theorem keeps_roceTake {r₀ : State} (port : Nat) (k : RocePkt) (s : State) (h₀ : Keeps r₀ s) : Keeps r₀ (roceTake port k s) := by
  unfold roceTake
  try dsimp only
  repeat' first
    | with_reducible assumption
    | with_reducible apply keeps_modRoce
    | with_reducible apply keeps_emitRoce
    | with_reducible apply keeps_sendPost
    | with_reducible apply keeps_roceAck
    | with_reducible apply keeps_roceResponse
    | with_reducible apply keeps_roceRequest
    | with_reducible apply Keeps.foldl
    | with_reducible apply Keeps.foldl1
    | with_reducible apply Keeps.ite
    | simp only [Keeps.litEq]
    | intro _
    | split

theorem keeps_execRocePacket {r₀ : State} (port : Fin 32) (k : RocePkt) (s : State) (h₀ : Keeps r₀ s) : KeepsR r₀ (execRocePacket port k s) := by
  unfold execRocePacket
  try dsimp only
  repeat' first
    | with_reducible assumption
    | with_reducible apply KeepsR.fault
    | with_reducible apply KeepsR.next
    | with_reducible apply keeps_roceChecked
    | with_reducible apply keeps_roceTake
    | with_reducible apply Keeps.ite
    | with_reducible apply KeepsR.ite
    | intro _
    | split

end Sys2Proof.Machine
end

