-- ==== Sys2Proof/Laws/Keeps/Tunnel.lean ====
section
/-! SUPPORT. What each operation of Machine/Tunnel.lean keeps: the queue and the invariant. -/

namespace Sys2Proof.Machine

theorem keeps_after {r₀ s : State} {r : State → Res} (h : ∀ t, Keeps r₀ t → KeepsR r₀ (r t)) (g : Keeps r₀ s) : Keeps r₀ (after r s) := by
  obtain ⟨t, e, k⟩ := h s g
  unfold after
  rw [e]
  exact k


/-- Every meaning of a list keeps. -/
def AllKeep (r₀ : State) (l : List (State → Res)) : Prop := ∀ r ∈ l, ∀ t, Keeps r₀ t → KeepsR r₀ (r t)
theorem AllKeep.ite {r₀ : State} {c : Prop} [Decidable c] {a b : List (State → Res)} (h : AllKeep r₀ a) (g : AllKeep r₀ b) : AllKeep r₀ (if c then a else b) := by
  split
  exacts [h, g]
theorem AllKeep.nil {r₀ : State} : AllKeep r₀ [] := fun _ m => nomatch m
theorem AllKeep.cons {r₀ : State} {r : State → Res} {l : List (State → Res)} (h : ∀ t, Keeps r₀ t → KeepsR r₀ (r t)) (g : AllKeep r₀ l) : AllKeep r₀ (r :: l) := by
  intro x m
  rcases List.mem_cons.1 m with rfl | m
  exacts [h, g x m]
theorem AllKeep.append {r₀ : State} {a b : List (State → Res)} (h : AllKeep r₀ a) (g : AllKeep r₀ b) : AllKeep r₀ (a ++ b) :=
  fun x m => (List.mem_append.1 m).elim (h x) (g x)
theorem AllKeep.map {α : Type} {r₀ : State} {l : List α} {f : α → State → Res} (h : ∀ a t, Keeps r₀ t → KeepsR r₀ (f a t)) : AllKeep r₀ (l.map f) := by
  intro x m
  obtain ⟨a, _, rfl⟩ := List.mem_map.1 m
  exact h a

theorem keeps_rowsOf (r₀ : State) (en : Bool) (f i j off width v : Nat) (w : Writer) : AllKeep r₀ (rowsOf en f i j off width v w) := by
  unfold rowsOf
  dsimp only
  repeat' first
    | with_reducible apply AllKeep.ite
    | with_reducible apply AllKeep.nil
    | with_reducible apply AllKeep.cons
    | with_reducible apply AllKeep.append
    | with_reducible apply AllKeep.map
    | intro _
    | with_reducible assumption
    | with_reducible apply keeps_execBellDisable
    | with_reducible apply keeps_execBellEnable
    | with_reducible apply keeps_execCfgerrClear
    | with_reducible apply keeps_execCvuFeed
    | with_reducible apply keeps_execCvuInit
    | with_reducible apply keeps_execCvuModeChange
    | with_reducible apply keeps_execCvuRunLoad
    | with_reducible apply keeps_execDrumEnable
    | with_reducible apply keeps_execEccLog
    | with_reducible apply keeps_execFwPushGo
    | with_reducible apply keeps_execHppr
    | with_reducible apply keeps_execLedgerDisable
    | with_reducible apply keeps_execLedgerEnable
    | with_reducible apply keeps_execLedgerRegionWrite
    | with_reducible apply keeps_execMbist
    | with_reducible apply keeps_execMboxRelease
    | with_reducible apply keeps_execMboxTake
    | with_reducible apply keeps_execPartitionEnable
    | with_reducible apply keeps_execPcSpare
    | with_reducible apply keeps_execPeerReset
    | with_reducible apply keeps_execPoisonlogClear
    | with_reducible apply keeps_execPortDisable
    | with_reducible apply keeps_execPortEnable
    | with_reducible apply keeps_execPowerTarget
    | with_reducible apply keeps_execQpDisable
    | with_reducible apply keeps_execQpEnable
    | with_reducible apply keeps_execReadMr
    | with_reducible apply keeps_execSealClear
    | with_reducible apply keeps_execSealInstall
    | with_reducible apply keeps_execShadowWrite
    | with_reducible apply keeps_execSnapRingEnable
    | with_reducible apply keeps_execSnapRptrWrite
    | with_reducible apply keeps_execSppr
    | with_reducible apply keeps_execTstorePeakClear
    | with_reducible apply keeps_execWatchdogKick

theorem keeps_barWrite {r₀ : State} (s : State) (off width v : Nat) (w : Writer) (h₀ : Keeps r₀ s) : Keeps r₀ (barWrite s off width v w) := by
  have all : ∀ (l : List (State → Res)), (∀ r ∈ l, ∀ t, Keeps r₀ t → KeepsR r₀ (r t)) → ∀ t, Keeps r₀ t → Keeps r₀ (l.foldl (fun s r => after r s) t) := by
    intro l
    induction l with
    | nil => exact fun _ _ g => g
    | cons r l ih => exact fun h t g => ih (fun x m => h x (List.mem_cons_of_mem _ m)) _ (keeps_after (h r (List.mem_cons_self ..)) g)
  unfold barWrite
  dsimp only
  repeat' first
    | with_reducible assumption
    | exact all _ (keeps_rowsOf _ _ _ _ _ _ _ _ _) _ h₀
    | exact keeps_after (fun _ g => keeps_execRegWrite (h₀ := g) ..) h₀
    | split


theorem keeps_peerOp {r₀ : State} (s : State) (o : TunOp) (h₀ : Keeps r₀ s) : Keeps r₀ (peerOp s o) := by
  unfold peerOp
  try dsimp only
  repeat' first
    | with_reducible assumption
    | with_reducible apply keeps_toTunnel
    | with_reducible apply keeps_spdmMessage
    | with_reducible apply keeps_scrubContexts
    | with_reducible apply keeps_scrubEnables
    | with_reducible apply keeps_scrubMemory
    | with_reducible apply keeps_execDoorbell
    | with_reducible apply keeps_after
    | with_reducible apply keeps_barWrite
    | with_reducible apply Keeps.ite
    | simp only [Keeps.litEq]
    | intro _
    | split

theorem keeps_gatewayOp {r₀ : State} (s : State) (n : Nat) (o : TunOp) (h₀ : Keeps r₀ s) : Keeps r₀ (gatewayOp s n o) := by
  unfold gatewayOp
  try dsimp only
  repeat' first
    | with_reducible assumption
    | with_reducible apply keeps_sendMsixOf
    | with_reducible apply keeps_hostWriteAs
    | with_reducible apply keeps_spdmFrom
    | with_reducible apply Keeps.ite
    | simp only [Keeps.litEq]
    | intro _
    | split

theorem keeps_tunnelsIn {r₀ : State} (s : State) (h₀ : Keeps r₀ s) : Keeps r₀ (tunnelsIn s) := by
  unfold tunnelsIn
  try dsimp only
  repeat' first
    | with_reducible assumption
    | with_reducible apply keeps_peerOp
    | with_reducible apply keeps_gatewayOp
    | with_reducible apply Keeps.foldl
    | with_reducible apply Keeps.foldl1
    | with_reducible apply Keeps.ite
    | simp only [Keeps.litEq]
    | intro _
    | split

end Sys2Proof.Machine
end

