-- ==== Sys2Proof/Laws/Keeps/Tick.lean ====
section
/-! SUPPORT. What each operation of Machine/Tick.lean keeps: the queue and the invariant. -/

namespace Sys2Proof.Machine

theorem keeps_refTick {r₀ : State} (s : State) (h₀ : Keeps r₀ s) : Keeps r₀ (refTick s) := by
  unfold refTick
  try dsimp only
  repeat' first
    | with_reducible assumption
    | with_reducible apply Keeps.ite
    | simp only [Keeps.litEq]
    | intro _
    | split

theorem keeps_endCycle {r₀ : State} (s : State) (h₀ : Keeps r₀ s) : Keeps r₀ (endCycle s) := by
  unfold endCycle
  try dsimp only
  repeat' first
    | with_reducible assumption
    | with_reducible apply keeps_settleFaults
    | with_reducible apply keeps_heldCycle
    | with_reducible apply keeps_overLimits
    | with_reducible apply keeps_serveEchoes
    | with_reducible apply keeps_countAll
    | with_reducible apply keeps_bellsDue
    | with_reducible apply keeps_issueAll
    | with_reducible apply keeps_decidePoints
    | with_reducible apply keeps_returnReady
    | with_reducible apply Keeps.ite
    | simp only [Keeps.litEq]
    | intro _
    | split

theorem keeps_joinShadow {r₀ : State} (s : State) (h₀ : Keeps r₀ s) : Keeps r₀ (joinShadow s) := by
  unfold joinShadow
  try dsimp only
  repeat' first
    | with_reducible assumption
    | with_reducible apply Keeps.foldl
    | with_reducible apply Keeps.foldl1
    | with_reducible apply Keeps.ite
    | simp only [Keeps.litEq]
    | intro _
    | split

/-- A tick has a next state but at the end of the range of the cycle count. -/
theorem keeps_tick (s t : State) (h : tick s = .next t) : Keeps s t := by
  unfold tick at h
  have r : ∀ u, Keeps s u → (Host.Outcome.next u : Res) = .next t → Keeps s t := fun u k e => by cases e; exact k
  split at h
  · exact r _ (.refl s) h
  · split at h
    · exact r _ (keeps_joinShadow s (.refl s)) h
    · split at h
      · exact r _ (keeps_railCheck _ (keeps_refTick _ (keeps_joinShadow s (.refl s)))) h
      · split at h
        · cases h
        · refine r _ (keeps_railCheck _ (keeps_gateEval _ ?_)) h
          simp only [Keeps.litEq]
          exact keeps_roceCycle _ (keeps_portsCycle _ (keeps_hbmCycle _ _ (keeps_hbmCycle _ _ (keeps_joinShadow _ (keeps_refTick _ (keeps_endCycle _ (keeps_tunnelsOut _ (keeps_tunnelsIn s (.refl s)))))))))


end Sys2Proof.Machine
end

