-- ==== Sys2Proof/Laws/PerInstr.lean ====
section
/-! SUPPORT. Per command: exec answers a next state whatever the state, and keeps the invariant's memories and the queue. -/

namespace Sys2Proof.Laws.Runs
open Sys2Proof.Machine

/-- On every state the command answers a next state, which keeps what `Keeps` names. -/
def Statement (i : Instr) : Prop := ∀ s : State, KeepsR s (exec i s)

theorem mma (p : Fin 8) (v : Fin 96) (op : BitVec 128) : Statement (.mma p v op) := fun s => keeps_execMma (h₀ := .refl s) ..
theorem mdrain (p : Fin 8) (v : Fin 96) (op : BitVec 128) (shadow : Option (List Bytes)) : Statement (.mdrain p v op shadow) := fun s => keeps_execMdrain (h₀ := .refl s) ..
theorem vsdA (p : Fin 8) (v : Fin 96) (op : BitVec 128) : Statement (.vsdA p v op) := fun s => keeps_execVsdA (h₀ := .refl s) ..
theorem vsdB (p : Fin 8) (v : Fin 96) (op : BitVec 128) : Statement (.vsdB p v op) := fun s => keeps_execVsdB (h₀ := .refl s) ..
theorem vstat (p : Fin 8) (v : Fin 96) (op : BitVec 128) : Statement (.vstat p v op) := fun s => keeps_execVstat (h₀ := .refl s) ..
theorem vadd (p : Fin 8) (v : Fin 96) (op : BitVec 128) : Statement (.vadd p v op) := fun s => keeps_execVadd (h₀ := .refl s) ..
theorem vsub (p : Fin 8) (v : Fin 96) (op : BitVec 128) : Statement (.vsub p v op) := fun s => keeps_execVsub (h₀ := .refl s) ..
theorem vmul (p : Fin 8) (v : Fin 96) (op : BitVec 128) : Statement (.vmul p v op) := fun s => keeps_execVmul (h₀ := .refl s) ..
theorem vfma (p : Fin 8) (v : Fin 96) (op : BitVec 128) : Statement (.vfma p v op) := fun s => keeps_execVfma (h₀ := .refl s) ..
theorem vmax (p : Fin 8) (v : Fin 96) (op : BitVec 128) : Statement (.vmax p v op) := fun s => keeps_execVmax (h₀ := .refl s) ..
theorem vmin (p : Fin 8) (v : Fin 96) (op : BitVec 128) : Statement (.vmin p v op) := fun s => keeps_execVmin (h₀ := .refl s) ..
theorem vabs (p : Fin 8) (v : Fin 96) (op : BitVec 128) : Statement (.vabs p v op) := fun s => keeps_execVabs (h₀ := .refl s) ..
theorem vneg (p : Fin 8) (v : Fin 96) (op : BitVec 128) : Statement (.vneg p v op) := fun s => keeps_execVneg (h₀ := .refl s) ..
theorem vcvt (p : Fin 8) (v : Fin 96) (op : BitVec 128) : Statement (.vcvt p v op) := fun s => keeps_execVcvt (h₀ := .refl s) ..
theorem vcmp (p : Fin 8) (v : Fin 96) (op : BitVec 128) : Statement (.vcmp p v op) := fun s => keeps_execVcmp (h₀ := .refl s) ..
theorem vexp2 (p : Fin 8) (v : Fin 96) (op : BitVec 128) : Statement (.vexp2 p v op) := fun s => keeps_execVexp2 (h₀ := .refl s) ..
theorem vlog2 (p : Fin 8) (v : Fin 96) (op : BitVec 128) : Statement (.vlog2 p v op) := fun s => keeps_execVlog2 (h₀ := .refl s) ..
theorem vrcp (p : Fin 8) (v : Fin 96) (op : BitVec 128) : Statement (.vrcp p v op) := fun s => keeps_execVrcp (h₀ := .refl s) ..
theorem vrsq (p : Fin 8) (v : Fin 96) (op : BitVec 128) : Statement (.vrsq p v op) := fun s => keeps_execVrsq (h₀ := .refl s) ..
theorem vtanh (p : Fin 8) (v : Fin 96) (op : BitVec 128) : Statement (.vtanh p v op) := fun s => keeps_execVtanh (h₀ := .refl s) ..
theorem verf (p : Fin 8) (v : Fin 96) (op : BitVec 128) : Statement (.verf p v op) := fun s => keeps_execVerf (h₀ := .refl s) ..
theorem vrsum (p : Fin 8) (v : Fin 96) (op : BitVec 128) : Statement (.vrsum p v op) := fun s => keeps_execVrsum (h₀ := .refl s) ..
theorem vrmax (p : Fin 8) (v : Fin 96) (op : BitVec 128) : Statement (.vrmax p v op) := fun s => keeps_execVrmax (h₀ := .refl s) ..
theorem vrmin (p : Fin 8) (v : Fin 96) (op : BitVec 128) : Statement (.vrmin p v op) := fun s => keeps_execVrmin (h₀ := .refl s) ..
theorem vgath (p : Fin 8) (v : Fin 96) (op : BitVec 128) : Statement (.vgath p v op) := fun s => keeps_execVgath (h₀ := .refl s) ..
theorem scatadd (p : Fin 8) (v : Fin 96) (op : BitVec 128) : Statement (.scatadd p v op) := fun s => keeps_execScatadd (h₀ := .refl s) ..
theorem scataddFast (p : Fin 8) (v : Fin 96) (op : BitVec 128) : Statement (.scataddFast p v op) := fun s => keeps_execScataddFast (h₀ := .refl s) ..
theorem vmask (p : Fin 8) (v : Fin 96) (op : BitVec 128) : Statement (.vmask p v op) := fun s => keeps_execVmask (h₀ := .refl s) ..
theorem rfill (p : Fin 8) (v : Fin 96) (op : BitVec 128) : Statement (.rfill p v op) := fun s => keeps_execRfill (h₀ := .refl s) ..
theorem wsput (p : Fin 8) (v : Fin 96) (op : BitVec 128) : Statement (.wsput p v op) := fun s => keeps_execWsput (h₀ := .refl s) ..
theorem wsget (p : Fin 8) (v : Fin 96) (op : BitVec 128) : Statement (.wsget p v op) := fun s => keeps_execWsget (h₀ := .refl s) ..
theorem wscheck (p : Fin 8) (v : Fin 96) (op : BitVec 128) : Statement (.wscheck p v op) := fun s => keeps_execWscheck (h₀ := .refl s) ..
theorem wsSpillDone (p : Fin 8) (v : Fin 96) : Statement (.wsSpillDone p v) := fun s => keeps_execWsSpillDone (h₀ := .refl s) ..
theorem usgd (p : Fin 8) (v : Fin 96) (op : BitVec 128) : Statement (.usgd p v op) := fun s => keeps_execUsgd (h₀ := .refl s) ..
theorem uadam (p : Fin 8) (v : Fin 96) (op : BitVec 128) : Statement (.uadam p v op) := fun s => keeps_execUadam (h₀ := .refl s) ..
theorem ulion (p : Fin 8) (v : Fin 96) (op : BitVec 128) : Statement (.ulion p v op) := fun s => keeps_execUlion (h₀ := .refl s) ..
theorem snap (p : Fin 8) (v : Fin 96) (op : BitVec 128) : Statement (.snap p v op) := fun s => keeps_execSnap (h₀ := .refl s) ..
theorem copy (p : Fin 8) (v : Fin 96) (op : BitVec 128) : Statement (.copy p v op) := fun s => keeps_execCopy (h₀ := .refl s) ..
theorem send (p : Fin 8) (v : Fin 96) (op : BitVec 128) : Statement (.send p v op) := fun s => keeps_execSend (h₀ := .refl s) ..
theorem chime (p : Fin 8) (v : Fin 96) (op : BitVec 128) : Statement (.chime p v op) := fun s => keeps_execChime (h₀ := .refl s) ..
theorem cdigStart (p : Fin 8) (v : Fin 96) (op : BitVec 128) : Statement (.cdigStart p v op) := fun s => keeps_execCdigStart (h₀ := .refl s) ..
theorem cdigFold (p : Fin 8) (v : Fin 96) (op : BitVec 128) : Statement (.cdigFold p v op) := fun s => keeps_execCdigFold (h₀ := .refl s) ..
theorem gathaccUnord (p : Fin 8) (v : Fin 96) (op : BitVec 128) : Statement (.gathaccUnord p v op) := fun s => keeps_execGathaccUnord (h₀ := .refl s) ..
theorem cexp (p : Fin 8) (v : Fin 96) (op : BitVec 128) : Statement (.cexp p v op) := fun s => keeps_execCexp (h₀ := .refl s) ..
theorem cexpDue (p : Fin 8) (v : Fin 96) : Statement (.cexpDue p v) := fun s => keeps_execCexpDue (h₀ := .refl s) ..
theorem tgroup (p : Fin 8) (v : Fin 96) (op : BitVec 128) : Statement (.tgroup p v op) := fun s => keeps_execTgroup (h₀ := .refl s) ..
theorem agather (p : Fin 8) (v : Fin 96) (op : BitVec 128) : Statement (.agather p v op) := fun s => keeps_execAgather (h₀ := .refl s) ..
theorem agatherPartTimeout (p : Fin 8) (v : Fin 96) : Statement (.agatherPartTimeout p v) := fun s => keeps_execAgatherPartTimeout (h₀ := .refl s) ..
theorem permute (p : Fin 8) (v : Fin 96) (op : BitVec 128) : Statement (.permute p v op) := fun s => keeps_execPermute (h₀ := .refl s) ..
theorem nop (p : Fin 8) (v : Fin 96) : Statement (.nop p v) := fun s => keeps_execNop (h₀ := .refl s) ..
theorem fend (p : Fin 8) (v : Fin 96) : Statement (.fend p v) := fun s => keeps_execFend (h₀ := .refl s) ..
theorem condSend (p : Fin 8) (v : Fin 96) : Statement (.condSend p v) := fun s => keeps_execCondSend (h₀ := .refl s) ..
theorem loop (p : Fin 8) (v : Fin 96) : Statement (.loop p v) := fun s => keeps_execLoop (h₀ := .refl s) ..
theorem halt (p : Fin 8) (v : Fin 96) : Statement (.halt p v) := fun s => keeps_execHalt (h₀ := .refl s) ..
theorem bell (p : Fin 8) (v : Fin 96) : Statement (.bell p v) := fun s => keeps_execBell (h₀ := .refl s) ..
theorem dsamp (p : Fin 8) (v : Fin 96) : Statement (.dsamp p v) := fun s => keeps_execDsamp (h₀ := .refl s) ..
theorem instrFetch (p : Fin 8) (v : Fin 96) : Statement (.instrFetch p v) := fun s => keeps_execInstrFetch (h₀ := .refl s) ..
theorem entryStart (p : Fin 8) (v : Fin 96) (q : Fin 4) : Statement (.entryStart p v q) := fun s => keeps_execEntryStart (h₀ := .refl s) ..
theorem entryComplete (p : Fin 8) (v : Fin 96) (q : Fin 4) (n : Nat) : Statement (.entryComplete p v q n) := fun s => keeps_execEntryComplete (h₀ := .refl s) ..
theorem chimeSignal (p : Fin 8) (v : Fin 96) (ch : Fin 48) (n : Nat) : Statement (.chimeSignal p v ch n) := fun s => keeps_execChimeSignal (h₀ := .refl s) ..
theorem coverViolation (p : Fin 8) (v : Fin 96) (q : Fin 5) (term : Fin 256) (tag : BitVec 16) : Statement (.coverViolation p v q term tag) := fun s => keeps_execCoverViolation (h₀ := .refl s) ..
theorem gridPoint (p : Fin 8) : Statement (.gridPoint p) := fun s => keeps_execGridPoint (h₀ := .refl s) ..
theorem rotationCopyDone : Statement (.rotationCopyDone) := fun s => keeps_execRotationCopyDone (h₀ := .refl s) ..
theorem holdTest (p : Fin 8) (unit term cause obj u : Nat) (ready : Bool) : Statement (.holdTest p unit term cause obj u ready) := fun s => keeps_execHoldTest (h₀ := .refl s) ..
theorem resultReturn (id : Nat) : Statement (.resultReturn id) := fun s => keeps_execResultReturn (h₀ := .refl s) ..
theorem holdGateClose : Statement (.holdGateClose) := fun s => keeps_execHoldGateClose (h₀ := .refl s) ..
theorem holdGateOpen : Statement (.holdGateOpen) := fun s => keeps_execHoldGateOpen (h₀ := .refl s) ..
theorem holdTolFault (id : Nat) : Statement (.holdTolFault id) := fun s => keeps_execHoldTolFault (h₀ := .refl s) ..
theorem bellRelease (b : Fin 64) : Statement (.bellRelease b) := fun s => keeps_execBellRelease (h₀ := .refl s) ..
theorem bellTimeout (b : Fin 64) : Statement (.bellTimeout b) := fun s => keeps_execBellTimeout (h₀ := .refl s) ..
theorem musterArrive (p : Fin 8) : Statement (.musterArrive p) := fun s => keeps_execMusterArrive (h₀ := .refl s) ..
theorem musterAnchor (p : Fin 8) : Statement (.musterAnchor p) := fun s => keeps_execMusterAnchor (h₀ := .refl s) ..
theorem musterTimeout (p : Fin 8) : Statement (.musterTimeout p) := fun s => keeps_execMusterTimeout (h₀ := .refl s) ..
theorem deadlockDetect (p : Fin 8) : Statement (.deadlockDetect p) := fun s => keeps_execDeadlockDetect (h₀ := .refl s) ..
theorem tallyAddend (p : Fin 8) (n : Nat) : Statement (.tallyAddend p n) := fun s => keeps_execTallyAddend (h₀ := .refl s) ..
theorem tallyExponentRound (p : Fin 8) (cl : Fin 12) (tag : BitVec 16) : Statement (.tallyExponentRound p cl tag) := fun s => keeps_execTallyExponentRound (h₀ := .refl s) ..
theorem tallyQuantise (p : Fin 8) (cl : Fin 12) (tag : BitVec 16) : Statement (.tallyQuantise p cl tag) := fun s => keeps_execTallyQuantise (h₀ := .refl s) ..
theorem tallyIntegerRound (p : Fin 8) (cl : Fin 12) (tag : BitVec 16) : Statement (.tallyIntegerRound p cl tag) := fun s => keeps_execTallyIntegerRound (h₀ := .refl s) ..
theorem tallyConvert (p : Fin 8) (cl : Fin 12) (tag : BitVec 16) : Statement (.tallyConvert p cl tag) := fun s => keeps_execTallyConvert (h₀ := .refl s) ..
theorem cteArrive (port : Fin 32) (f : CvtFrame) : Statement (.cteArrive port f) := fun s => keeps_execCteArrive (h₀ := .refl s) ..
theorem cteRelease (port : Fin 32) (f : CvtFrame) : Statement (.cteRelease port f) := fun s => keeps_execCteRelease (h₀ := .refl s) ..
theorem cteExpUp (port : Fin 32) (f : CvtFrame) : Statement (.cteExpUp port f) := fun s => keeps_execCteExpUp (h₀ := .refl s) ..
theorem cteExpDown (port : Fin 32) (f : CvtFrame) : Statement (.cteExpDown port f) := fun s => keeps_execCteExpDown (h₀ := .refl s) ..
theorem cteIntUp (port : Fin 32) (f : CvtFrame) : Statement (.cteIntUp port f) := fun s => keeps_execCteIntUp (h₀ := .refl s) ..
theorem cteIntDown (port : Fin 32) (f : CvtFrame) : Statement (.cteIntDown port f) := fun s => keeps_execCteIntDown (h₀ := .refl s) ..
theorem ctePart (port : Fin 32) (f : CvtFrame) : Statement (.ctePart port f) := fun s => keeps_execCtePart (h₀ := .refl s) ..
theorem cteCadence (port : Fin 32) (f : CvtFrame) : Statement (.cteCadence port f) := fun s => keeps_execCteCadence (h₀ := .refl s) ..
theorem cteMap (port : Fin 32) (f : CvtFrame) : Statement (.cteMap port f) := fun s => keeps_execCteMap (h₀ := .refl s) ..
theorem cteSummary (port : Fin 32) (f : CvtFrame) : Statement (.cteSummary port f) := fun s => keeps_execCteSummary (h₀ := .refl s) ..
theorem ledgerRecordWrite (p : Fin 8) : Statement (.ledgerRecordWrite p) := fun s => keeps_execLedgerRecordWrite (h₀ := .refl s) ..
theorem ledgerStream (p : Fin 8) (corr : Nat) (bad : List Nat) : Statement (.ledgerStream p corr bad) := fun s => keeps_execLedgerStream (h₀ := .refl s) ..
theorem ledgerOverrun (p : Fin 8) : Statement (.ledgerOverrun p) := fun s => keeps_execLedgerOverrun (h₀ := .refl s) ..
theorem cvtData (port : Fin 32) (f : CvtFrame) : Statement (.cvtData port f) := fun s => keeps_execCvtData (h₀ := .refl s) ..
theorem cvtChime (port : Fin 32) (f : CvtFrame) : Statement (.cvtChime port f) := fun s => keeps_execCvtChime (h₀ := .refl s) ..
theorem cvtAck (port : Fin 32) (f : CvtFrame) (rtt : Option Nat) : Statement (.cvtAck port f rtt) := fun s => keeps_execCvtAck (h₀ := .refl s) ..
theorem cvtSack (port : Fin 32) (f : CvtFrame) : Statement (.cvtSack port f) := fun s => keeps_execCvtSack (h₀ := .refl s) ..
theorem cvtOpen (port : Fin 32) (f : CvtFrame) : Statement (.cvtOpen port f) := fun s => keeps_execCvtOpen (h₀ := .refl s) ..
theorem cvtAccept (port : Fin 32) (f : CvtFrame) : Statement (.cvtAccept port f) := fun s => keeps_execCvtAccept (h₀ := .refl s) ..
theorem cvtRefuse (port : Fin 32) (f : CvtFrame) : Statement (.cvtRefuse port f) := fun s => keeps_execCvtRefuse (h₀ := .refl s) ..
theorem cvtClose (port : Fin 32) (f : CvtFrame) : Statement (.cvtClose port f) := fun s => keeps_execCvtClose (h₀ := .refl s) ..
theorem cvtProbe (port : Fin 32) (f : CvtFrame) : Statement (.cvtProbe port f) := fun s => keeps_execCvtProbe (h₀ := .refl s) ..
theorem cvtProbeReply (port : Fin 32) (f : CvtFrame) : Statement (.cvtProbeReply port f) := fun s => keeps_execCvtProbeReply (h₀ := .refl s) ..
theorem probeTimer (n : Fin 32) (dest : Fin 1048576) : Statement (.probeTimer n dest) := fun s => keeps_execProbeTimer (h₀ := .refl s) ..
theorem transitFrame (port : Fin 32) (pkt : Bytes) (fcsOk : Bool) : Statement (.transitFrame port pkt fcsOk) := fun s => keeps_execTransitFrame (h₀ := .refl s) ..
theorem ackDelayTimer (x : Fin 16384) : Statement (.ackDelayTimer x) := fun s => keeps_execAckDelayTimer (h₀ := .refl s) ..
theorem rtoExpiry (x : Fin 16384) (seq : BitVec 32) : Statement (.rtoExpiry x seq) := fun s => keeps_execRtoExpiry (h₀ := .refl s) ..
theorem openResend (x : Fin 16384) : Statement (.openResend x) := fun s => keeps_execOpenResend (h₀ := .refl s) ..
theorem streamOpenTimeout (x : Fin 16384) : Statement (.streamOpenTimeout x) := fun s => keeps_execStreamOpenTimeout (h₀ := .refl s) ..
theorem runoutEnd (p : Fin 8) : Statement (.runoutEnd p) := fun s => keeps_execRunoutEnd (h₀ := .refl s) ..
theorem llrHello (n : Fin 32) (node : Fin 1048576) (peer : Fin 32) (fcsOk : Bool) : Statement (.llrHello n node peer fcsOk) := fun s => keeps_execLlrHello (h₀ := .refl s) ..
theorem llrHelloTimer (n : Fin 32) : Statement (.llrHelloTimer n) := fun s => keeps_execLlrHelloTimer (h₀ := .refl s) ..
theorem llrFrame (n : Fin 32) (lseq lack : BitVec 16) (flags : BitVec 8) (fcsOk : Bool) : Statement (.llrFrame n lseq lack flags fcsOk) := fun s => keeps_execLlrFrame (h₀ := .refl s) ..
theorem llrNak (n : Fin 32) (lack : BitVec 16) : Statement (.llrNak n lack) := fun s => keeps_execLlrNak (h₀ := .refl s) ..
theorem llrCtrlTimer (n : Fin 32) : Statement (.llrCtrlTimer n) := fun s => keeps_execLlrCtrlTimer (h₀ := .refl s) ..
theorem llrAckTimeout (n : Fin 32) : Statement (.llrAckTimeout n) := fun s => keeps_execLlrAckTimeout (h₀ := .refl s) ..
theorem portLinkUp (n : Fin 32) : Statement (.portLinkUp n) := fun s => keeps_execPortLinkUp (h₀ := .refl s) ..
theorem portLinkDown (n : Fin 32) : Statement (.portLinkDown n) := fun s => keeps_execPortLinkDown (h₀ := .refl s) ..
theorem neighborDiscovery (n : Fin 32) (ra : Bool) (mac : BitVec 48) (src target : Bytes) : Statement (.neighborDiscovery n ra mac src target) := fun s => keeps_execNeighborDiscovery (h₀ := .refl s) ..
theorem rocePacket (port : Fin 32) (k : RocePkt) : Statement (.rocePacket port k) := fun s => keeps_execRocePacket (h₀ := .refl s) ..
theorem wardToll (port : Fin 32) (w : WardFrame) : Statement (.wardToll port w) := fun s => keeps_execWardToll (h₀ := .refl s) ..
theorem tollResend (p : Fin 8) : Statement (.tollResend p) := fun s => keeps_execTollResend (h₀ := .refl s) ..
theorem wardVerdict (port : Fin 32) (w : WardFrame) : Statement (.wardVerdict port w) := fun s => keeps_execWardVerdict (h₀ := .refl s) ..
theorem tollVerdictTimeout (p : Fin 8) : Statement (.tollVerdictTimeout p) := fun s => keeps_execTollVerdictTimeout (h₀ := .refl s) ..
theorem wardReset (port : Fin 32) (w : WardFrame) : Statement (.wardReset port w) := fun s => keeps_execWardReset (h₀ := .refl s) ..
theorem wardTunnel (port : Fin 32) (w : WardFrame) : Statement (.wardTunnel port w) := fun s => keeps_execWardTunnel (h₀ := .refl s) ..
theorem bridgeReplay (dir : Fin 2) (again : Bool) (miss : Option (Fin 8 × Nat)) : Statement (.bridgeReplay dir again miss) := fun s => keeps_execBridgeReplay (h₀ := .refl s) ..
theorem hbmSectorRead (a : BitVec 48) (err : Bytes) (pw : BitVec 32) (later : Bool) : Statement (.hbmSectorRead a err pw later) := fun s => keeps_execHbmSectorRead (h₀ := .refl s) ..
theorem scrubRead (h : Fin 8) (errs : List Bytes) (pw : BitVec 32) (later : List Bool) : Statement (.scrubRead h errs pw later) := fun s => keeps_execScrubRead (h₀ := .refl s) ..
theorem innerEccPoll (h : Fin 8) (n : Nat) : Statement (.innerEccPoll h n) := fun s => keeps_execInnerEccPoll (h₀ := .refl s) ..
theorem hbmStackFail (h : Fin 8) : Statement (.hbmStackFail h) := fun s => keeps_execHbmStackFail (h₀ := .refl s) ..
theorem sensorPoll (m : Sensors) : Statement (.sensorPoll m) := fun s => keeps_execSensorPoll (h₀ := .refl s) ..
theorem cadenceRaise (p : Fin 8) : Statement (.cadenceRaise p) := fun s => keeps_execCadenceRaise (h₀ := .refl s) ..
theorem cadenceLower (p : Fin 8) : Statement (.cadenceLower p) := fun s => keeps_execCadenceLower (h₀ := .refl s) ..
theorem throttleDutyStep : Statement (.throttleDutyStep) := fun s => keeps_execThrottleDutyStep (h₀ := .refl s) ..
theorem thermalTrip : Statement (.thermalTrip) := fun s => keeps_execThermalTrip (h₀ := .refl s) ..
theorem echoThirdRun (pc : Fin 108) (r3 : Option (BitVec 64)) : Statement (.echoThirdRun pc r3) := fun s => keeps_execEchoThirdRun (h₀ := .refl s) ..
theorem sentinelPassDone (pc : Fin 108) (ok kat : Bool) : Statement (.sentinelPassDone pc ok kat) := fun s => keeps_execSentinelPassDone (h₀ := .refl s) ..
theorem stowDone (p : Fin 8) (corr : Nat) (bad : List Nat) : Statement (.stowDone p corr bad) := fun s => keeps_execStowDone (h₀ := .refl s) ..
theorem restoreDone (p : Fin 8) (corr : Nat) (bad : List Nat) : Statement (.restoreDone p corr bad) := fun s => keeps_execRestoreDone (h₀ := .refl s) ..
theorem zeroingDone (p : Fin 8) : Statement (.zeroingDone p) := fun s => keeps_execZeroingDone (h₀ := .refl s) ..
theorem doorbell (vf : Fin 64) (q : Fin 64) (off : Fin 4096) (width : Fin 9) (v : BitVec 64) (t : Option (Fin 8)) : Statement (.doorbell vf q off width v t) := fun s => keeps_execDoorbell (h₀ := .refl s) ..
theorem manifestFetch (q : Fin 64) (slot : Option Bytes) : Statement (.manifestFetch q slot) := fun s => keeps_execManifestFetch (h₀ := .refl s) ..
theorem completionWrite (q : Fin 64) (ok : Bool) : Statement (.completionWrite q ok) := fun s => keeps_execCompletionWrite (h₀ := .refl s) ..
theorem msixCoalTimer (q : Fin 64) : Statement (.msixCoalTimer q) := fun s => keeps_execMsixCoalTimer (h₀ := .refl s) ..
theorem manifestNop (q : Fin 64) : Statement (.manifestNop q) := fun s => keeps_execManifestNop (h₀ := .refl s) ..
theorem start (q : Fin 64) (bin : Option Bytes) : Statement (.start q bin) := fun s => keeps_execStart (h₀ := .refl s) ..
theorem endCmd (q : Fin 64) : Statement (.endCmd q) := fun s => keeps_execEnd (h₀ := .refl s) ..
theorem streamOpen (q : Fin 64) : Statement (.streamOpen q) := fun s => keeps_execStreamOpen (h₀ := .refl s) ..
theorem streamClose (q : Fin 64) : Statement (.streamClose q) := fun s => keeps_execStreamClose (h₀ := .refl s) ..
theorem streamFree (q : Fin 64) : Statement (.streamFree q) := fun s => keeps_execStreamFree (h₀ := .refl s) ..
theorem copyIn (q : Fin 64) (data : Option Bytes) : Statement (.copyIn q data) := fun s => keeps_execCopyIn (h₀ := .refl s) ..
theorem copyInLand (q : Fin 64) : Statement (.copyInLand q) := fun s => keeps_execCopyInLand (h₀ := .refl s) ..
theorem copyOut (q : Fin 64) : Statement (.copyOut q) := fun s => keeps_execCopyOut (h₀ := .refl s) ..
theorem snapRead (q : Fin 64) (corr : Nat) (bad : List Nat) : Statement (.snapRead q corr bad) := fun s => keeps_execSnapRead (h₀ := .refl s) ..
theorem roceCreate (q : Fin 64) : Statement (.roceCreate q) := fun s => keeps_execRoceCreate (h₀ := .refl s) ..
theorem roceConnect (q : Fin 64) : Statement (.roceConnect q) := fun s => keeps_execRoceConnect (h₀ := .refl s) ..
theorem roceDestroy (q : Fin 64) : Statement (.roceDestroy q) := fun s => keeps_execRoceDestroy (h₀ := .refl s) ..
theorem rocePostSend (q : Fin 64) : Statement (.rocePostSend q) := fun s => keeps_execRocePostSend (h₀ := .refl s) ..
theorem rocePostRdmaWrite (q : Fin 64) : Statement (.rocePostRdmaWrite q) := fun s => keeps_execRocePostRdmaWrite (h₀ := .refl s) ..
theorem rocePostRdmaWriteImm (q : Fin 64) : Statement (.rocePostRdmaWriteImm q) := fun s => keeps_execRocePostRdmaWriteImm (h₀ := .refl s) ..
theorem rocePostRdmaRead (q : Fin 64) : Statement (.rocePostRdmaRead q) := fun s => keeps_execRocePostRdmaRead (h₀ := .refl s) ..
theorem stow (q : Fin 64) : Statement (.stow q) := fun s => keeps_execStow (h₀ := .refl s) ..
theorem restore (q : Fin 64) (img : Option Bytes) (bin : Option Bytes) : Statement (.restore q img bin) := fun s => keeps_execRestore (h₀ := .refl s) ..
theorem peerReadTimeout (n : Fin 64) (off : BitVec 32) (wide : Bool) : Statement (.peerReadTimeout n off wide) := fun s => keeps_execPeerReadTimeout (h₀ := .refl s) ..
theorem vfFlr (n : Fin 64) (t : Option (Fin 8)) : Statement (.vfFlr n t) := fun s => keeps_execVfFlr (h₀ := .refl s) ..
theorem regWrite (vf : Fin 64) (off : BitVec 32) (width : Fin 9) (v : BitVec 64) (w : Writer) : Statement (.regWrite vf off width v w) := fun s => keeps_execRegWrite (h₀ := .refl s) ..
theorem shadowWrite (off : BitVec 32) (v : BitVec 64) (w : Writer) : Statement (.shadowWrite off v w) := fun s => keeps_execShadowWrite (h₀ := .refl s) ..
theorem cfgerrClear (mask : BitVec 17) (w : Writer) : Statement (.cfgerrClear mask w) := fun s => keeps_execCfgerrClear (h₀ := .refl s) ..
theorem ledgerEnable (p : Fin 8) (v : BitVec 32) (w : Writer) : Statement (.ledgerEnable p v w) := fun s => keeps_execLedgerEnable (h₀ := .refl s) ..
theorem ledgerDisable (p : Fin 8) (v : BitVec 32) (w : Writer) : Statement (.ledgerDisable p v w) := fun s => keeps_execLedgerDisable (h₀ := .refl s) ..
theorem snapRingEnable (p : Fin 8) (v : BitVec 32) (w : Writer) : Statement (.snapRingEnable p v w) := fun s => keeps_execSnapRingEnable (h₀ := .refl s) ..
theorem snapRptrWrite (p : Fin 8) (v : BitVec 64) (w : Writer) : Statement (.snapRptrWrite p v w) := fun s => keeps_execSnapRptrWrite (h₀ := .refl s) ..
theorem ledgerRegionWrite (p : Fin 8) (v : BitVec 64) (w : Writer) : Statement (.ledgerRegionWrite p v w) := fun s => keeps_execLedgerRegionWrite (h₀ := .refl s) ..
theorem drumEnable (p : Fin 8) (v : BitVec 32) (w : Writer) : Statement (.drumEnable p v w) := fun s => keeps_execDrumEnable (h₀ := .refl s) ..
theorem bellEnable (b : Fin 64) (v : BitVec 64) (w : Writer) : Statement (.bellEnable b v w) := fun s => keeps_execBellEnable (h₀ := .refl s) ..
theorem bellDisable (b : Fin 64) (v : BitVec 64) (w : Writer) : Statement (.bellDisable b v w) := fun s => keeps_execBellDisable (h₀ := .refl s) ..
theorem tstorePeakClear (k : Fin 12) (w : Writer) : Statement (.tstorePeakClear k w) := fun s => keeps_execTstorePeakClear (h₀ := .refl s) ..
theorem poisonlogClear (d : Fin 2) (w : Writer) : Statement (.poisonlogClear d w) := fun s => keeps_execPoisonlogClear (h₀ := .refl s) ..
theorem mboxTake (d : Fin 2) (w : Writer) : Statement (.mboxTake d w) := fun s => keeps_execMboxTake (h₀ := .refl s) ..
theorem mboxRelease (d : Fin 2) (w : Writer) : Statement (.mboxRelease d w) := fun s => keeps_execMboxRelease (h₀ := .refl s) ..
theorem eccLog (d : Fin 2) (v : BitVec 64) (w : Writer) : Statement (.eccLog d v w) := fun s => keeps_execEccLog (h₀ := .refl s) ..
theorem sppr (d : Fin 2) (v : BitVec 64) (w : Writer) : Statement (.sppr d v w) := fun s => keeps_execSppr (h₀ := .refl s) ..
theorem hppr (d : Fin 2) (v : BitVec 64) (w : Writer) : Statement (.hppr d v w) := fun s => keeps_execHppr (h₀ := .refl s) ..
theorem pcSpare (d : Fin 2) (v : BitVec 64) (w : Writer) : Statement (.pcSpare d v w) := fun s => keeps_execPcSpare (h₀ := .refl s) ..
theorem mbist (d : Fin 2) (v : BitVec 64) (w : Writer) : Statement (.mbist d v w) := fun s => keeps_execMbist (h₀ := .refl s) ..
theorem readMr (d : Fin 2) (v : BitVec 64) (w : Writer) : Statement (.readMr d v w) := fun s => keeps_execReadMr (h₀ := .refl s) ..
theorem mboxCmdDone (d : Fin 2) (data : BitVec 64) (fail : Bool) : Statement (.mboxCmdDone d data fail) := fun s => keeps_execMboxCmdDone (h₀ := .refl s) ..
theorem portEnable (n : Fin 32) (v : BitVec 32) (w : Writer) : Statement (.portEnable n v w) := fun s => keeps_execPortEnable (h₀ := .refl s) ..
theorem portDisable (n : Fin 32) (v : BitVec 32) (w : Writer) : Statement (.portDisable n v w) := fun s => keeps_execPortDisable (h₀ := .refl s) ..
theorem cvuFeed (d : Fin 2) (c : Fin 4) (data : Bytes) (w : Writer) : Statement (.cvuFeed d c data w) := fun s => keeps_execCvuFeed (h₀ := .refl s) ..
theorem cvuInit (d : Fin 2) (v : BitVec 32) (w : Writer) : Statement (.cvuInit d v w) := fun s => keeps_execCvuInit (h₀ := .refl s) ..
theorem cvuModeChange (d : Fin 2) (v : BitVec 32) (w : Writer) : Statement (.cvuModeChange d v w) := fun s => keeps_execCvuModeChange (h₀ := .refl s) ..
theorem cvuRunLoad (d : Fin 2) (v : BitVec 64) (w : Writer) : Statement (.cvuRunLoad d v w) := fun s => keeps_execCvuRunLoad (h₀ := .refl s) ..
theorem qpEnable (q : Fin 64) (v : BitVec 64) (w : Writer) : Statement (.qpEnable q v w) := fun s => keeps_execQpEnable (h₀ := .refl s) ..
theorem qpDisable (q : Fin 64) (v : BitVec 64) (w : Writer) : Statement (.qpDisable q v w) := fun s => keeps_execQpDisable (h₀ := .refl s) ..
theorem fwPushGo (w : Writer) : Statement (.fwPushGo w) := fun s => keeps_execFwPushGo (h₀ := .refl s) ..
theorem fwPushDone (x : FwPush) : Statement (.fwPushDone x) := fun s => keeps_execFwPushDone (h₀ := .refl s) ..
theorem peerReset (n : Fin 64) (w : Writer) : Statement (.peerReset n w) := fun s => keeps_execPeerReset (h₀ := .refl s) ..
theorem partitionEnable (p : Fin 8) (v : BitVec 64) (w : Writer) : Statement (.partitionEnable p v w) := fun s => keeps_execPartitionEnable (h₀ := .refl s) ..
theorem sealInstall (p : Fin 8) (v : BitVec 32) (w : Writer) : Statement (.sealInstall p v w) := fun s => keeps_execSealInstall (h₀ := .refl s) ..
theorem sealClear (p : Fin 8) (v : BitVec 32) (w : Writer) : Statement (.sealClear p v w) := fun s => keeps_execSealClear (h₀ := .refl s) ..
theorem watchdogKick (d : Fin 2) (v : BitVec 32) (w : Writer) : Statement (.watchdogKick d v w) := fun s => keeps_execWatchdogKick (h₀ := .refl s) ..
theorem watchdogExpire (d : Fin 2) : Statement (.watchdogExpire d) := fun s => keeps_execWatchdogExpire (h₀ := .refl s) ..
theorem die1Heartbeat : Statement (.die1Heartbeat) := fun s => keeps_execDie1Heartbeat (h₀ := .refl s) ..
theorem die1HeartbeatLoss : Statement (.die1HeartbeatLoss) := fun s => keeps_execDie1HeartbeatLoss (h₀ := .refl s) ..
theorem powerTarget (v : BitVec 32) (w : Writer) : Statement (.powerTarget v w) := fun s => keeps_execPowerTarget (h₀ := .refl s) ..
theorem powerStepDone (lpi : BitVec 32) (pme : Bool) : Statement (.powerStepDone lpi pme) := fun s => keeps_execPowerStepDone (h₀ := .refl s) ..
theorem powerWake (kind : Fin 6) : Statement (.powerWake kind) := fun s => keeps_execPowerWake (h₀ := .refl s) ..
theorem autoRestTimer : Statement (.autoRestTimer) := fun s => keeps_execAutoRestTimer (h₀ := .refl s) ..
theorem porN (low : Bool) (straps : BitVec 4) (tj : Nat) : Statement (.porN low straps tj) := fun s => keeps_execPorN (h₀ := .refl s) ..
theorem rstN (low : Bool) (straps : BitVec 4) (tj : Nat) : Statement (.rstN low straps tj) := fun s => keeps_execRstN (h₀ := .refl s) ..
theorem perstN (hot low : Bool) : Statement (.perstN hot low) := fun s => keeps_execPerstN (h₀ := .refl s) ..
theorem supplyFault (hbmRail isOut : Bool) : Statement (.supplyFault hbmRail isOut) := fun s => keeps_execSupplyFault (h₀ := .refl s) ..
theorem bootStepDone (ok : Bool) (bad : List Nat) : Statement (.bootStepDone ok bad) := fun s => keeps_execBootStepDone (h₀ := .refl s) ..
theorem drumRefLoss : Statement (.drumRefLoss) := fun s => keeps_execDrumRefLoss (h₀ := .refl s) ..
theorem drumRefReturn : Statement (.drumRefReturn) := fun s => keeps_execDrumRefReturn (h₀ := .refl s) ..
theorem drumSyncPulse : Statement (.drumSyncPulse) := fun s => keeps_execDrumSyncPulse (h₀ := .refl s) ..
theorem drumSyncSilence : Statement (.drumSyncSilence) := fun s => keeps_execDrumSyncSilence (h₀ := .refl s) ..
theorem serdesRefLoss (d : Fin 2) : Statement (.serdesRefLoss d) := fun s => keeps_execSerdesRefLoss (h₀ := .refl s) ..
theorem refclkLoss : Statement (.refclkLoss) := fun s => keeps_execRefclkLoss (h₀ := .refl s) ..
theorem entropyFail : Statement (.entropyFail) := fun s => keeps_execEntropyFail (h₀ := .refl s) ..
theorem entropyReseed : Statement (.entropyReseed) := fun s => keeps_execEntropyReseed (h₀ := .refl s) ..
theorem spdmGetCertificate (f : Fin 64) (off len : Nat) : Statement (.spdmGetCertificate f off len) := fun s => keeps_execSpdmGetCertificate (h₀ := .refl s) ..
theorem spdmChallenge (f : Fin 64) (nonce : Bytes) : Statement (.spdmChallenge f nonce) := fun s => keeps_execSpdmChallenge (h₀ := .refl s) ..
theorem spdmGetMeasurements (f : Fin 64) (n : BitVec 8) (nonce : Bytes) : Statement (.spdmGetMeasurements f n nonce) := fun s => keeps_execSpdmGetMeasurements (h₀ := .refl s) ..
theorem spdmKeyExchange (f : Fin 64) (req : Bytes) : Statement (.spdmKeyExchange f req) := fun s => keeps_execSpdmKeyExchange (h₀ := .refl s) ..
theorem spdmHeartbeat (f : Fin 64) (n : Nat) (expired : Bool) : Statement (.spdmHeartbeat f n expired) := fun s => keeps_execSpdmHeartbeat (h₀ := .refl s) ..
theorem ideKmKeySetGo (f : Fin 64) (st : Fin 9) (keySet : Bool) (key : Option Bytes) : Statement (.ideKmKeySetGo f st keySet key) := fun s => keeps_execIdeKmKeySetGo (h₀ := .refl s) ..
theorem ideTlpFail (st : Fin 9) : Statement (.ideTlpFail st) := fun s => keeps_execIdeTlpFail (h₀ := .refl s) ..
theorem tdispLockInterface (f : Fin 64) (st : Fin 8) : Statement (.tdispLockInterface f st) := fun s => keeps_execTdispLockInterface (h₀ := .refl s) ..
theorem tdispStartInterface (f : Fin 64) : Statement (.tdispStartInterface f) := fun s => keeps_execTdispStartInterface (h₀ := .refl s) ..
theorem tdispStopInterface (f : Fin 64) : Statement (.tdispStopInterface f) := fun s => keeps_execTdispStopInterface (h₀ := .refl s) ..
theorem tdiScrubDone (f : Fin 64) : Statement (.tdiScrubDone f) := fun s => keeps_execTdiScrubDone (h₀ := .refl s) ..
theorem ieee1588TimeUpdate (ns : BitVec 64) : Statement (.ieee1588TimeUpdate ns) := fun s => keeps_execIeee1588TimeUpdate (h₀ := .refl s) ..
theorem throttleWindow : Statement (.throttleWindow) := fun s => keeps_execThrottleWindow (h₀ := .refl s) ..
theorem die1ReportTimeout : Statement (.die1ReportTimeout) := fun s => keeps_execDie1ReportTimeout (h₀ := .refl s) ..
theorem sealInstallDone (p : Fin 8) (blob : Option Bytes) : Statement (.sealInstallDone p blob) := fun s => keeps_execSealInstallDone (h₀ := .refl s) ..
theorem hbmRewriteDone : Statement (.hbmRewriteDone) := fun s => keeps_execHbmRewriteDone (h₀ := .refl s) ..
theorem configurationRequest (f : Fin 64) (n : CfgItem) (v : BitVec 32) : Statement (.configurationRequest f n v) := fun s => keeps_execConfigurationRequest (h₀ := .refl s) ..
theorem jtagInstruction (n : Fin 3) : Statement (.jtagInstruction n) := fun s => keeps_execJtagInstruction (h₀ := .refl s) ..

end Sys2Proof.Laws.Runs
end

