-- ==== Sys2Proof/Laws/Rows.lean ====
section
/-! SUPPORT. What opens a row: a vcore at work, a conductor word, a manifest, a ward frame or a CVT frame that passes its checks; searches that find nothing. -/

namespace Sys2Proof.Machine

theorem withOpc_toNat (op : BitVec 128) (n : Nat) : (withOpc op n).toNat = setBits op.toNat 5 0 n := by
  unfold withOpc
  rw [BitVec.toNat_ofNat, Nat.mod_eq_of_lt]
  exact setBits_lt _ _ _ _ 128 (by omega) (by omega) op.isLt

theorem onVcore_atWork {s p v k c vc f} (h : atWork s p v k c vc) : onVcore s p v f = f k c vc := by
  obtain ⟨h1, h2, h3⟩ := h
  simp [onVcore, h1, h2, h3]

theorem onGate_open {s p v k c vc f} (hg : stands s = false) (h : atWork s p v k c vc) : onGate s p v f = f k c vc := by
  rw [onGate, hg, if_neg Bool.false_ne_true, onVcore_atWork h]

theorem onEngine_atEngine {s p v q o k c vc f} (h : atEngine s p v k q o c vc) : onEngine s p v q o f = f k c vc := by
  obtain ⟨hg, y, -, hy, ht, rfl⟩ := h
  rw [onEngine, onGate_open hg hy, if_pos ht]

/-- An operation whose entry has not started has no effect yet. -/
theorem onEngine_waits {s p v q o k c y f} (hg : stands s = false) (hy : atWork s p v k c y) (ht : opTakes y q o = false) : onEngine s p v q o f = s := by
  rw [onEngine, onGate_open hg hy, if_neg (by rw [ht]; exact Bool.false_ne_true)]

theorem onEngine_stands {s : State} {p v q o : Nat} {f} (h : stands s = true) : onEngine s p v q o f = s := by
  rw [onEngine, onGate, if_pos h]

theorem onCru_resident {s : State} {p k : Nat} {c : Ctx} {f} (hg : stands s = false) (h : resident s p = some (k, c)) : onCru s p f = f k c := by
  simp [onCru, hg, h]

theorem vOpc_withOpc (op : BitVec 128) (n : Nat) (h : n < 64) : vOpc (withOpc op n).toNat = n := by
  rw [vOpc, withOpc_toNat, bits_setBits_same _ _ _ _ (by omega)]
  exact Nat.mod_eq_of_lt h

theorem bits_withOpc (op : BitVec 128) (n a b : Nat) (h : 5 < b) : bits (withOpc op n).toNat a b = bits op.toNat a b := by
  rw [withOpc_toNat, bits_setBits_other _ _ _ _ _ _ (by omega) (.inr h)]

theorem bit_withOpc (op : BitVec 128) (n b : Nat) (h : 5 < b) : bit (withOpc op n).toNat b = bit op.toNat b := by
  rw [bit, bit, bits_withOpc _ _ _ _ h]

theorem vChain_alone (op : BitVec 128) (n : Nat) (h : n < 8) : vChain (withOpc op n).toNat = false := by
  have h1 := vOpc_withOpc op n (by omega)
  simp only [vChain, h1]
  have h2 : n ≠ 48 := by omega
  have h3 : ¬ 8 ≤ n := by omega
  simp [h2, h3]

theorem onAlone {s : State} {k c vc v op f} (h1 : vc.chain = []) (h2 : vFieldProb c vc v op.toNat = none) (h3 : vChain op.toNat = false) : doAlone s k c vc v op f = f s := by
  simp [doAlone, h1, h2, h3]

theorem bits_bits (n a b c d : Nat) (h : c + b ≤ a) (hd : d ≤ c) : bits (bits n a b) c d = bits n (c + b) (d + b) := by
  apply Nat.eq_of_testBit_eq
  intro i
  rw [testBit_bits, testBit_bits, testBit_bits]
  have width : c + b + 1 - (d + b) = c + 1 - d := by omega
  rw [width, Nat.add_comm d b, Nat.add_assoc]
  by_cases inside : i < c + 1 - d
  · rw [decide_eq_true (show d + i < a + 1 - b by omega)]; simp [inside]
  · simp [inside]

theorem vRead_modVc (s : State) (k v' : Nat) (f) (pc vc rel o r i x) : vRead (modVc s k v' f) pc vc rel o r i x = vRead s pc vc rel o r i x := rfl

theorem cfBits_lt (f : CFlags) : cfBits f < 16 := by
  obtain ⟨a, b, c, d⟩ := f
  cases a <;> cases b <;> cases c <;> cases d <;> decide

theorem vExact_lt (c : Nat) (x y z : FVal) : (vExact c x y z).2 < 32 := by
  unfold vExact
  dsimp only
  split <;> try split <;> try omega
  all_goals try omega
  rename_i r _ _ _ _ _ _ _ _ _
  have h1 := cfBits_lt (refFun c x).flags
  have h2 : b2n (refFun c x).divzero ≤ 1 := by cases (refFun c x).divzero <;> decide
  show cfBits (refFun c x).flags + 16 * b2n (refFun c x).divzero < 32
  omega

theorem ctxOf_resident {s : State} {p k : Nat} {c : Ctx} (h : resident s p = some (k, c)) : ctxOf s k = some c := by
  unfold resident at h
  split at h
  · cases h
  · rw [Option.map_eq_some_iff] at h
    obtain ⟨x, hx, he⟩ := h
    cases he
    exact hx

theorem find_none {n : Nat} {f : Nat → Bool} (h : ∀ i < n, f i = false) : (List.range n).find? f = none := by
  rw [List.find?_eq_none]
  intro x hx
  rw [h x (List.mem_range.1 hx)]; simp

theorem findSome_none {β : Type} {n : Nat} {f : Nat → Option β} (h : ∀ i < n, f i = none) : (List.range n).findSome? f = none := by
  rw [List.findSome?_eq_none_iff]
  intro x hx
  exact h x (List.mem_range.1 hx)

theorem filterMap_ok {β : Type} {n : Nat} {f : Nat → Option β} {g : Nat → β} (h : ∀ i < n, f i = some (g i)) : (List.range n).filterMap f = (List.range n).map g := by
  have : ∀ l : List Nat, (∀ i ∈ l, i < n) → l.filterMap f = l.map g := by
    intro l
    induction l with
    | nil => intro _; rfl
    | cons a l ih =>
      intro hl
      rw [List.filterMap_cons, h a (hl a (by simp)), ih (fun i hi => hl i (by simp [hi]))]; rfl
  exact this _ (fun i hi => List.mem_range.1 hi)

theorem onCond_atWord {s p v k c vc w cop f} (h : atWord s p v k c vc w cop) : onCond s p v cop f = f k c vc w (stepCia s vc w) := by
  obtain ⟨h0, h1, h2, h3, h4, h5, h6, h7, h8⟩ := h
  obtain ⟨b, hb, rfl⟩ := Option.map_eq_some_iff.1 h4
  have e : ¬ s.run < vc.issueAt := by omega
  simp [onCond, onVcore_atWork h0, h1, h2, e, hb, h5, h6, h7, h8]

theorem onMan_up {s q type lo m u f} (h : manUp s q type lo m u) : onMan s q type lo f = f u m := by
  obtain ⟨h1, h2, h3, h4, h5⟩ := h
  simp [onMan, h1, h2, h3, h4, h5]

theorem onRoce_up {s q m u f g} (h : manUp s q 9 0x50 m u) (hf : f (fieldB m.slot 0x10 1) (fieldB m.slot 0x13 1) = true) : onRoce s q f g = g u m := by
  have h1 := h.1
  have h2 := h.2.1
  simp only [onRoce, h1, h2, hf, onMan_up h]
  rfl

theorem shimTaken_keyed (s : State) (n : Nat) : keyed (shimTaken s n) = keyed s := by unfold shimTaken; split <;> rfl
theorem shimTaken_prof (s : State) (n : Nat) : (shimTaken s n).prof = s.prof := by unfold shimTaken; split <;> rfl
theorem shimTaken_streams (s : State) (n : Nat) : (shimTaken s n).streams = s.streams := by unfold shimTaken; split <;> rfl
theorem shimTaken_llr {s : State} {n : Nat} (h : llrOn s n = false) : shimTaken s n = s := by simp [shimTaken, h]
theorem frameWake_streams (s : State) : (frameWake s).streams = s.streams := by unfold frameWake; split <;> rfl
theorem frameWake_cycle (s : State) : (frameWake s).cycle = s.cycle := by unfold frameWake; split <;> rfl
theorem frameWake_awake {s : State} (h : begunState s.power ≠ 1) : frameWake s = s := by simp [frameWake, h]
theorem arrived_streams (s : State) (n : Nat) : (arrived s n).streams = s.streams := (frameWake_streams _).trans (shimTaken_streams s n)
theorem shimOk_llr {s : State} {n : Nat} (h : llrOn s n = false) : shimOk s n = true := by simp [shimOk, h]

theorem rxChecked_ok {s : State} {port f k} (h : frameIn s port f.fcsOk f.ipOk f.icrcOk f.ver f.type) : rxChecked s port f k = k (arrived s port) := by
  obtain ⟨h1, h2, h3, h4, h5, h6, h7⟩ := h
  have h8 : ¬ 12 ≤ f.type := by omega
  simp [rxChecked, arrived, h1, h2, h3, h4, h5, h6, h8]

theorem onWard_at {s : State} {port op w k} (h : frameIn s port w.fcsOk w.ipOk w.icrcOk 1 11) (ho : 1 ≤ w.op ∧ w.op ≤ 4) (h5 : keyed (arrived s port) = true)
    (h6 : tagFits (arrived s port) w op = true) (h7 : w.path.length ≤ w.pidx) (h8 : w.target = (arrived s port).prof.node) :
    onWard s port op w k = k (wardWake (arrived s port) port) := by
  have e : ¬ w.pidx < w.path.length := by omega
  have o0 : w.op ≠ 0 := by omega
  have o4 : ¬ 4 < w.op := by omega
  unfold onWard
  rw [rxChecked_ok h]
  simp [h5, h6, e, h8, o0, o4]

theorem rxChecked_bad {s : State} {port f k} (h1 : portUp s port = true) (h2 : f.fcsOk = true) (h3 : shimOk s port = true) (h4 : f.ipOk = false ∨ f.ver = 1 ∧ f.type < 12 ∧ f.icrcOk = false) :
    rxChecked s port f k = satFld (shimTaken s port) (rNetPorterr port) 47 32 1 := by
  rcases h4 with h4 | ⟨h4, h5, h6⟩
  · simp [rxChecked, h1, h2, h3, h4]
  · have h7 : ¬ 12 ≤ f.type := by omega
    simp [rxChecked, h1, h2, h3, h4, h6, h7]

theorem rxStream_meets {s : State} {port f k st} (h : meetsStream s port f st) : rxStream s port f k = k (heard s port f.dsidx) st := by
  obtain ⟨h, h5, h6, h7, h8, h9⟩ := h
  have h10 : stream (arrived s port) f.dsidx = some st := by rw [stream, arrived_streams]; exact h5
  have h11 : (arrived s port).cycle = s.cycle := by rw [arrived, frameWake_cycle]; unfold shimTaken; split <;> rfl
  simp only [rxStream, rxChecked_ok h, h10, h11]
  rcases h8 with h8 | h8 | h8 | h8 <;> simp [heard, h6, h7, h8, h9]

theorem rxOrdered_meets {s : State} {port f st} (h : meetsStream s port f st) :
    rxOrdered s port f = rxSeq (takeAck (heard s port f.dsidx) f.dsidx f none) port f.dsidx f := by
  unfold rxOrdered; exact rxStream_meets h

/-- A frame of a row's type that is no reserved one meets its stream as the frame that came does. -/
theorem typed_ok {f : CvtFrame} (h : f.type < 12) (t : Nat) : typed f t = { f with type := t } := by
  have e : ¬ 12 ≤ f.type := by omega
  simp [typed, e]

theorem meetsStream_typed {s : State} {port f st} (h : meetsStream s port f st) {t : Nat} (ht : t < 12) : meetsStream s port (typed f t) st := by
  obtain ⟨⟨h1, h2, h3, h4, h5, h6, h7⟩, h8⟩ := h
  rw [typed_ok h7]
  exact ⟨⟨h1, h2, h3, h4, h5, h6, ht⟩, h8⟩

theorem rxCte_meets {s : State} {port kind f st} (h : meetsStream s port f st) :
    rxCte s port kind f = rxSeq (takeAck (heard s port f.dsidx) f.dsidx { f with type := 10, kind := kind } none) port f.dsidx { f with type := 10, kind := kind } := by
  have e := typed_ok h.1.2.2.2.2.2.2 10
  have h' : meetsStream s port { typed f 10 with kind := kind } st := meetsStream_typed h (by decide)
  unfold rxCte
  rw [rxOrdered_meets h', e]

theorem rxStream_bad {s : State} {port f k} (h' : frameIn s port f.fcsOk f.ipOk f.icrcOk f.ver f.type)
    (h : stream s f.dsidx = none ∨ ∃ st, stream s f.dsidx = some st ∧ (dieOfSidx f.dsidx ≠ port / 16 ∨ st.peer ≠ f.node ∨ st.peerIdx ≠ f.ssidx)) :
    rxStream s port f k = discard (arrived s port) port := by
  have same : stream (arrived s port) f.dsidx = stream s f.dsidx := by rw [stream, arrived_streams]; rfl
  simp only [rxStream, rxChecked_ok h', same]
  rcases h with h | ⟨st, h, h5⟩
  · simp only [h]
  · simp only [h]
    rcases h5 with h5 | h5 | h5 <;> simp [h5]

theorem finishMan_ctxs (s : State) (q seq st : Nat) (b : Bytes) : (finishMan s q seq st b).ctxs = s.ctxs := by
  unfold finishMan complete
  repeat (first | rfl | split | dsimp only)

theorem hbmUse_mem (s : State) (p a n : Nat) : (hbmUse s p a n).mem = s.mem := by unfold hbmUse; split <;> rfl
theorem hbmUse_regs (s : State) (p a n : Nat) : (hbmUse s p a n).regs = s.regs := by unfold hbmUse; split <;> rfl
theorem spill_mem (s : State) (k : Nat) (c : Ctx) (v o d : Nat) (r : Bool) : (spill s k c v o d r).mem = s.mem := by
  unfold spill modWay
  rw [modVc_mem, hbmUse_mem]
theorem spill_regs (s : State) (k : Nat) (c : Ctx) (v o d : Nat) (r : Bool) : (spill s k c v o d r).regs = s.regs := by
  unfold spill modWay
  rw [modVc_regs, hbmUse_regs]

/-- Status flags leave the faults of a context alone. -/
theorem vFlagsInto_probs (s : State) (k v pc : Nat) (fl : Tbl Nat) : probsOf (vFlagsInto s k v pc fl) k = probsOf s k := by
  unfold vFlagsInto probsOf ctxOf modVc modCtx
  dsimp only
  rw [tget_tmod_same]
  change (match (tget s.ctxs k).map _ with | some (c : Ctx) => c.probs | none => []) = match tget s.ctxs k with | some c => c.probs | none => []
  cases tget s.ctxs k <;> rfl

theorem firstImage_same (s : State) (n : Nat) : (firstImage s n).fw = s.fw ∧ (firstImage s n).prof = s.prof ∧ (firstImage s n).boot.step = s.boot.step := by
  unfold firstImage; split <;> exact ⟨rfl, rfl, rfl⟩
theorem loadFloor_same (s : State) (n : Nat) : (loadFloor s n).fw = s.fw ∧ (loadFloor s n).prof = s.prof ∧ (loadFloor s n).boot.step = s.boot.step := by
  unfold loadFloor; split <;> exact ⟨rfl, rfl, rfl⟩
/-- What a taken push installs. -/
theorem takePush_same (s : State) (x : FwPush) : (takePush s x).fw = installFw x ∧ (takePush s x).prof = x.prof ∧ (takePush s x).boot.step = 5 := by
  unfold takePush
  simp [setEvent_same, setStage, loadFloor_same, firstImage_same]

theorem mem_sput_self (l : List Nat) (k : Nat) : k ∈ sput l k := (mem_sput l k k).2 (.inl rfl)

end Sys2Proof.Machine
end

