-- ==== Sys2Proof/WellFormed.lean ====
section
/-! DEFINITION. Well-formed commands: the lengths and ranges that the manual gives what a command carries. The machine runs every command; a well-formed one is one that the part can meet. -/

namespace Sys2Proof

/-- Whether a byte string has a length of the list. -/
def lenIn (b : Bytes) (l : List Nat) : Bool := l.contains b.length

/-- An optional byte string, of a given length where it is there. -/
def optLen (o : Option Bytes) (n : Nat) : Bool := match o with | some b => decide (b.length = n) | none => true

/-- A CVT frame (13 R310, R314): field widths, and a payload of at most 4,096 bytes. -/
def CvtFrame.wf (f : CvtFrame) : Bool :=
  decide (f.ver < 16) && decide (f.kind < 256) && decide (f.node < 2 ^ 20) && decide (f.flags < 256) && decide (f.dsidx < 65536) && decide (f.ssidx < 65536) && decide (f.seq < 2 ^ 32)
    && decide (f.ack < 2 ^ 32) && decide (f.daddr < 2 ^ 64) && decide (f.pmask < 2 ^ 64) && decide (f.payload.length ≤ 4096)
    && (match f.xck with | some x => decide (x < 2 ^ 64) | none => true)

/-- A ward frame (17 R438): a path of at most eight ports, a TAG of 16 bytes. -/
def WardFrame.wf (w : WardFrame) : Bool :=
  decide (w.path.length ≤ 8) && w.path.all (fun n => decide (n < 32)) && decide (w.target < 2 ^ 20) && decide (w.source < 2 ^ 20) && lenIn w.tag [0, 16]

/-- A poll of the sensors: eight stacks and sixteen die sensors (12 R295, 19 R482). -/
def Sensors.wf (m : Sensors) : Bool := decide (m.hbm.length = 8) && decide (m.dies.length = 16)

/-- What each command carries. -/
def Instr.wf : Instr → Bool
  | .mdrain _ _ _ (some rows) => decide (rows.length ≤ 256)
  | .cvuFeed _ _ data _ => lenIn data [1, 2, 4]
  | .manifestFetch _ slot => optLen slot 128
  | .sealInstallDone _ blob => optLen blob 432
  | .spdmChallenge _ nonce => lenIn nonce [32]
  | .spdmGetMeasurements _ _ nonce => lenIn nonce [32]
  | .doorbell _ _ _ width _ _ => [1, 2, 4, 8].contains width.val
  | .hbmSectorRead _ err _ _ => lenIn err [68]
  | .scrubRead _ errs _ later => decide (errs.length = 15) && errs.all (fun b => lenIn b [68]) && decide (later.length = 15)
  | .neighborDiscovery _ _ _ src target => lenIn src [16] && lenIn target [16]
  | .transitFrame _ pkt _ => decide (40 ≤ pkt.length)
  | .sensorPoll m => m.wf
  | .holdTest _ unit term cause _ _ _ => decide (unit < 16) && decide (term < 256) && decide (cause ≤ 7)
  | .bootStepDone _ bad => bad.all (fun n => decide (n < 108))
  | .cteExpUp _ f | .cteExpDown _ f | .cteIntUp _ f | .cteIntDown _ f | .cteArrive _ f | .cteRelease _ f | .cteCadence _ f | .cteMap _ f
  | .cteSummary _ f | .ctePart _ f
  | .cvtData _ f | .cvtChime _ f | .cvtClose _ f | .cvtSack _ f | .cvtOpen _ f | .cvtAccept _ f | .cvtRefuse _ f | .cvtProbe _ f => f.wf
  | .cvtProbeReply _ f => f.wf
  | .cvtAck _ f _ => f.wf
  | .wardToll _ w | .wardVerdict _ w | .wardReset _ w | .wardTunnel _ w => w.wf
  | _ => true

end Sys2Proof
end

