-- ==== Sys2Proof/Tests/Slice0.lean ====
section
/-! SUPPORT. Tests: states that meet the hypotheses of the statements, worked examples of the manual, single steps, ill-formed commands. -/

namespace Sys2Proof.Tests
open Sys2Proof Sys2Proof.Machine
set_option Elab.async false

/-! ### Small states -/

/-- A number with the given fields: place and value. -/
def flds (l : List (Nat × Nat)) : Nat := l.foldl (fun a x => a + x.2 * 2 ^ x.1) 0
/-- A 128-bit operation with the given fields. -/
def op (l : List (Nat × Nat)) : BitVec 128 := BitVec.ofNat 128 (flds l)
/-- The words of a VSE slot: base, format, INNER, OUTER, tensor. -/
def slot (base fmt inner outer tid : Nat) : BitVec 128 × BitVec 128 :=
  (op [(12, base), (34, fmt), (38, inner - 1), (54, outer - 1), (70, 1)], op [(12, tid)])
/-- A tensor of 64 FP32 elements of no layer. -/
def ten : Tensor := { vt := 1, lotShift := 0, fmt := 0, elems := 64, layer := 0xFFFFFFFF, role := 0, gradOf := 0 }
/-- A program of three frames, one of each segment, on one vcore. -/
def pr : Prog := { frames := 3, fb := 1, ft := 2, tensors := [ten], dir := [(0, 4)], plan := { streams := 4, ways := [⟨2, 1, 4⟩] } }
/-- A running context in frame f with one vcore. -/
def cx (vc : Vcore) (f : Nat := 0) : Ctx :=
  { st := 2, began := true, vtab := [0], prog := pr, hbmMib := 1, frame := f, vc := [(0, vc)], seed := List.replicate 16 0, open_ := some {}, ranks := [0, 1] }
/-- Context 0 of partition 0 is resident, 100 run cycles after boot. -/
def at0 (c : Ctx) : State := { run := 100, parts := [(0, { resident := some 0 })], ctxs := [(0, c)] }
/-- A state with registers set. -/
def regs (l : List (Nat × Nat)) (s : State) : State := l.foldl (fun s x => setReg s x.1 x.2) s

/-! ### The hypotheses of the statements are met -/

/-- Two slots of one element, the second with a tensor. -/
def vs : Vcore := { slots := [(0, slot 0 0 1 1 1), (1, slot 64 0 1 1 1), (2, slot 128 5 1 1 0)] }
/-- VADD of slot 0 and slot 0 into slot 1. -/
def opAdd : BitVec 128 := op [(15, 0), (23, 0), (31, 0xC0), (39, 1), (47, 0xC0)]
/-- The same with CHAIN and relay 0 as destination. -/
def opAddChain : BitVec 128 := op [(14, 1), (15, 0), (23, 0), (31, 0xC0), (39, 0x40), (47, 0xC0)]

theorem test_met_VseSlotRows : (∀ o ∈ [(withOpc (slot 0 0 1 1 0).1 1).toNat, (withOpc (slot 0 0 1 1 1).2 2).toNat, (withOpc (op [(6, 1), (7, 49151)]) 3).toNat], atEngine (at0 (cx vs)) 0 0 0 1 o (cx vs) vs) ∧ vs.chain = []
    ∧ vseBad 1 (withOpc (slot 0 0 1 1 0).1 1).toNat = none ∧ vseBad 1 (withOpc (slot 0 0 1 1 1).2 2).toNat = none
    ∧ vseBad 1 (withOpc (op [(6, 1), (7, 49151)]) 3).toNat = none ∧ bits (op [(6, 1), (7, 49151)]).toNat 22 7 * 64 + 8 ≤ spLimit := by
  unfold atEngine atWork; decide +kernel

theorem test_met_VseChainRows : (∀ o ∈ [(withOpc opAdd 0x08).toNat, (withOpc opAddChain 0x08).toNat], atEngine (at0 (cx vs)) 0 0 0 1 o (cx vs) vs) ∧ ((Instr.vadd : OpRow), 0x08) ∈ chainRows
    ∧ (vChain (withOpc opAddChain 0x08).toNat = true ∧ vs.chain.length < 15)
    ∧ (vChain (withOpc opAdd 0x08).toNat = false ∧ vChainProb (cx vs) vs 0 [(withOpc opAdd 0x08).toNat] = none
      ∧ chainGeom vs [(withOpc opAdd 0x08).toNat] = some (1, 1)
      ∧ (vRun (modVc (at0 (cx vs)) 0 0 (fun x => { x with chain := [] })) (cx vs) 0 0 vs [(withOpc opAdd 0x08).toNat] 1 1).prob = none) := by
  refine ⟨?_, List.mem_of_getElem? (i := 0) rfl, ?_⟩
  · unfold atEngine atWork; decide +kernel
  · decide +kernel
/-- A slot whose elements lie past the generator's range. -/
def vsFar : Vcore := { slots := [(0, slot 0 0 1 1 1), (1, ((slot 64 0 1 1 1).1, op [(12, 1), (64, 2 ^ 33)]))] }
/-- VCVT of slot 0 into slot 1 with stochastic rounding. -/
def opSr : BitVec 128 := op [(6, 1), (15, 0), (23, 0xC0), (31, 0xC0), (39, 1), (47, 0xC0)]

theorem test_met_VseChainRows_fault : atEngine (at0 (cx vsFar)) 0 0 0 1 (withOpc opSr 0x10).toNat (cx vsFar) vsFar ∧ vChain (withOpc opSr 0x10).toNat = false
    ∧ vChainProb (cx vsFar) vsFar 0 [(withOpc opSr 0x10).toNat] = none ∧ chainGeom vsFar [(withOpc opSr 0x10).toNat] = some (1, 1)
    ∧ (vRun (modVc (at0 (cx vsFar)) 0 0 (fun x => { x with chain := [] })) (cx vsFar) 0 0 vsFar [(withOpc opSr 0x10).toNat] 1 1).prob.isSome = true := by
  unfold atEngine atWork; decide +kernel

theorem test_met_VseElementRows : atEngine (at0 (cx vs)) 0 0 0 1 (withOpc opAdd 0x08).toNat (cx vs) vs ∧ Machine.Inv (at0 (cx vs)) ∧ vs.chain = []
    ∧ ∀ o, o = (withOpc opAdd 0x08).toNat → vChain o = false ∧ vChainProb (cx vs) vs 0 [o] = none ∧ chainGeom vs [o] = some (1, 1) ∧ bits o 13 12 = 0 ∧ bits o 7 6 ≠ 1 ∧ vD o = .slot 1 := by
  refine ⟨?_, ?_, rfl, ?_⟩
  · unfold atEngine atWork; decide +kernel
  · unfold Machine.Inv; decide +kernel
  · rintro o rfl; decide +kernel

/-- VGATH: indices in slot 0, table row in slot 1, destination slot 2 (SCATADD: values in slot 2, table in slot 1). -/
def opGath : BitVec 128 := op [(15, 0), (23, 1), (31, 0xC0), (39, 2), (47, 0xC0)]
def opScat : BitVec 128 := op [(15, 0), (23, 2), (31, 0xC0), (39, 1), (47, 0xC0)]
def vg : Vcore := { slots := [(0, slot 0 0 1 1 0), (1, slot 64 0 1 1 1), (2, slot 128 0 1 1 1)] }
def cxg : Ctx := cx vg

theorem test_met_VseIndexRows : (∀ o ∈ [(withOpc opGath 0x28).toNat, (withOpc opScat 0x29).toNat, (withOpc opScat 0x2A).toNat], atEngine (at0 cxg) 0 0 0 1 o cxg vg) ∧ vg.chain = []
    ∧ (∀ o, o = (withOpc opGath 0x28).toNat → gathOverlap vg o = false ∧ vseBad 1 o = none ∧ vChain o = false ∧ gathProb vg 0 o = none
      ∧ (gathElems (at0 cxg) cxg vg 0 o (slotNum (vB o))).2 = none ∧ (gathAcc (at0 cxg) cxg vg 0 o (gathElems (at0 cxg) cxg vg 0 o (slotNum (vB o))).1).prob = none)
    ∧ (∀ o, o = (withOpc opScat 0x29).toNat → gathOverlap vg o = false ∧ vseBad 1 o = none ∧ vChain o = false ∧ gathProb vg 0 o = none
      ∧ (gathElems (at0 cxg) cxg vg 0 o (slotNum (vD o))).2 = none) := by
  refine ⟨?_, rfl, ?_, ?_⟩
  · unfold atEngine atWork; decide +kernel
  · rintro o rfl; decide +kernel
  · rintro o rfl; decide +kernel

/-- The same with a destination that is the table row itself, and values that are. -/
def opGathIn : BitVec 128 := op [(15, 0), (23, 1), (31, 0xC0), (39, 1), (47, 0xC0)]
def opScatIn : BitVec 128 := op [(15, 0), (23, 1), (31, 0xC0), (39, 1), (47, 0xC0)]

theorem test_met_VseIndexRows_overlap : (∀ o ∈ [(withOpc opGathIn 0x28).toNat, (withOpc opScatIn 0x29).toNat], atEngine (at0 cxg) 0 0 0 1 o cxg vg ∧ gathOverlap vg o = true ∧ vseBad 1 o = none
    ∧ vChain o = false ∧ gathProb vg 0 o = none) := by
  unfold atEngine atWork; decide +kernel

theorem test_met_VseIndexRows_fast (o : Nat) (h : o = (withOpc opScat 0x2A).toNat) : gathOverlap vg o = false ∧ vseBad 1 o = none ∧ vChain o = false ∧ gathProb vg 0 o = none
    ∧ (cxg.prog.canon = true → bit cxg.prog.varGrant 0 = true)
    ∧ (∀ r, r = gathElems { at0 cxg with draws := 1 } cxg vg 0 o (slotNum (vD o)) → r.2 = none
      ∧ ∀ i, i < sgInner (slotA vg 1) → devPoison ((arrivalOrder 0 r.1).foldl (fun t e => scatOne t 0 0 0 vg o { at0 cxg with draws := 1 } e) { at0 cxg with draws := 1 })
          (spBase 0 + 64 + i * 4) 4 = false) := by
  subst h
  and_intros <;> first | decide +kernel | (rintro r rfl; decide +kernel)

/-- MMA of one BF16 element pair, closing region 0: FMT 1 and 1, one tile of one K, M and N of one. -/
def opMma : BitVec 128 := op [(4, 1), (8, 1), (21, 1), (26, 1), (80, 1)]
def vd : Vcore := { cond := .issuing }
def cm : Ctx := cx vd

theorem test_met_MmaAccumulates (o : Nat) (h : o = setBits opMma.toNat 3 0 1) : atEngine (at0 cm) 0 0 0 0 o cm vd ∧ mmaBad o = none
    ∧ pairOf (bits o 7 4) (bits o 11 8) (bits o 13 12) = some .bf16 ∧ cursorBad (region (at0 cm) 0 0) o .bf16 = none
    ∧ (∀ x ∈ mmaReach o .bf16, x.2 ≤ spLimit) ∧ badScale (at0 cm) 0 o = none := by
  subst h; unfold atEngine atWork; decide +kernel

/-- The second tile of the K-block, while a shadow echoes the region. -/
def opMma2 : BitVec 128 := op [(4, 1), (8, 1), (17, 1), (21, 1), (26, 1), (80, 1)]
def se : State := { at0 cm with mxe := [(0, { st := .opened, nextTile := 1, m := 1, n := 1, cls := .bf16, passes := 0, acc := [[(0, false)]] })], echo := [(0, { ctx := 0, v := 0, shadow := 3 })] }

theorem test_met_MmaAccumulates_echo (o : Nat) (h : o = setBits opMma2.toNat 3 0 1) : atEngine se 0 0 0 0 o cm vd ∧ mmaBad o = none
    ∧ pairOf (bits o 7 4) (bits o 11 8) (bits o 13 12) = some .bf16 ∧ cursorBad (region se 0 0) o .bf16 = none ∧ (∀ x ∈ mmaReach o .bf16, x.2 ≤ spLimit) ∧ badScale se 0 o = none
    ∧ bits o 20 17 ≠ 0 ∧ (tget se.echo 0).isSome = true := by
  subst h; unfold atEngine atWork; decide +kernel

/-- A closed region of one entry, and MDRAIN of it as FP32 to offset 64, and to tally tag 5. -/
def sd : State := { at0 cm with mxe := [(0, { st := .closed, m := 1, n := 1, acc := [[(0x3F800000, false)]] })] }
def opDrain : BitVec 128 := op [(16, 1), (80, 1)]
def opDrainTally : BitVec 128 := op [(14, 1), (80, 1), (96, 5)]

theorem test_met_MdrainWrites (o : Nat) (h : o = setBits opDrain.toNat 3 0 2) : atEngine sd 0 0 0 0 o cm vd ∧ mdrainBad o = none ∧ (region sd 0 0).st = .closed ∧ lotSplit cm 0 o = false ∧ (bit o 12 = true → bits o 47 32 * 64 + 4 * 1 ≤ spLimit)
    ∧ tget sd.echo 0 = none ∧ (∃ es : List (List (Bytes × Bool × Nat)), drainRows sd cm vd 0 o (region sd 0 0) = es.map (·.map some)) ∧ bit o 14 = false ∧ bits o 9 8 ≠ 1
    ∧ 4 ≤ bits o 95 80 * 64 ∧ (∀ m < 1, bits o 31 16 * 64 + m * (bits o 95 80 * 64) + 4 ≤ spLimit) := by
  subst h
  unfold atEngine atWork
  and_intros <;> first | decide +kernel | exact ⟨[[(leBytes 4 0x3F800000, false, 0)]], by decide +kernel⟩

theorem test_met_MdrainWrites_tally (o : Nat) (h : o = setBits opDrainTally.toNat 3 0 2) : atEngine sd 0 0 0 0 o cm vd ∧ mdrainBad o = none ∧ lotSplit cm 0 o = false
    ∧ (∃ es : List (List (Bytes × Bool × Nat)), drainRows sd cm vd 0 o (region sd 0 0) = es.map (·.map some)) ∧ bit o 14 = true := by
  subst h
  unfold atEngine atWork
  and_intros <;> first | decide +kernel | exact ⟨[[(leBytes 4 0x3F800000, false, 0)]], by decide +kernel⟩

/-- USGD of 256 elements of a tensor of as many, without a stored copy. -/
def opU : BitVec 128 := op [(21, 1), (32, 64), (48, 128), (64, 192)]
def vu : Vcore := { slots := [(1, (0, op [(12, 1)]))] }
def cu (f : Nat) : Ctx := { cx vu f with prog := { pr with tensors := [{ ten with elems := 256 }] } }

theorem test_met_UpeRows (o : Nat) (h : o = setBits opU.toNat 5 0 1) : atEngine (at0 (cu 0)) 0 0 0 2 o (cu 0) vu ∧ upeBad o = none ∧ segmentOf (cu 0) = 0
    ∧ atEngine (at0 (cu 2)) 0 0 0 2 o (cu 2) vu ∧ segmentOf (cu 2) ≠ 0 ∧ sgBits (slotA vu (bits o 26 21)) = false ∧ tensorOf (cu 2) (slotTid vu (bits o 26 21)) = some { ten with elems := 256 }
    ∧ upeOverlap o = false ∧ slotPos vu (bits o 26 21) 0 0 + upeCount o ≤ 256 ∧ (∀ x ∈ upeArrays o, x.1 + x.2 ≤ spLimit) ∧ devPoison (at0 (cu 2)) (spBase 0 + bits o 127 112 * 64) 64 = false
    ∧ (upeElems (at0 (cu 2)) (cu 2) 0 o 1 0 (fun i => let x := f32 (fieldB (devRead (at0 (cu 2)) (spBase 0 + bits o 127 112 * 64) 64) (4 * i) 4); (x, if x = .nan then 32 else 0))
        (List.range (upeCount o))).isSome = true := by
  subst h; unfold atEngine atWork; decide +kernel

/-- The same with the moment where the gradient stands, of a tensor of no layer. -/
def opUIn : BitVec 128 := op [(21, 1), (32, 64), (48, 128), (64, 65)]
def cuf : Ctx := { cx vu 2 with prog := { pr with tensors := [{ ten with elems := 256, layer := 0xFFFFFFFF }] } }

theorem test_met_UpeRows_overlap (o : Nat) (h : o = setBits opUIn.toNat 5 0 1) : atEngine (at0 cuf) 0 0 0 2 o cuf vu ∧ upeBad o = none ∧ upeOverlap o = true ∧ segmentOf cuf ≠ 0
    ∧ tensorOf cuf (slotTid vu (bits o 26 21)) = some { ten with elems := 256, layer := 0xFFFFFFFF } ∧ slotPos vu (bits o 26 21) 0 0 + upeCount o ≤ 256 ∧ (∀ x ∈ upeArrays o, x.1 + x.2 ≤ spLimit)
    ∧ (upeElems (at0 cuf) cuf 0 o 1 0 (fun i => let x := f32 (fieldB (devRead (at0 cuf) (spBase 0 + bits o 127 112 * 64) 64) (4 * i) 4); (x, if x = .nan then 32 else 0))
        (List.range (upeCount o))).isSome = true := by
  subst h; unfold atEngine atWork; decide +kernel

/-- One block of layer 0 at stash index 0; a tag of it that carries poison. -/
def opWs : BitVec 128 := op []
def vw : Vcore := { ws := { nextSidx := 1, nextDord := 1, owner := [(0, 0)], tags := [(0, { crc := 0, layer := 0, flags := 8, dord := 0 })] } }

theorem test_met_WaystationRows : atEngine (at0 (cx vd 0)) 0 0 0 3 (sdmWord opWs 0x31) (cx vd 0) vd ∧ (∀ c ∈ [0x32, 0x33], atEngine (at0 (cx vw 1)) 0 0 0 3 (sdmWord opWs c) (cx vw 1) vw) ∧ atEngine (at0 (cx vw 1)) 0 0 0 3 (sdmWord opWs 0x31) (cx vw 1) vw ∧ segmentOf (cx vd 0) = 0 ∧ segmentOf (cx vw 1) = 1
    ∧ atWork (at0 (cx vd 0)) 0 0 0 (cx vd 0) vd
    ∧ (∀ c ∈ [0x31, 0x32, 0x33], wsBad (sdmWord opWs c) = none ∧ wsReach (sdmWord opWs c) = none)
    ∧ (wsRun (fun s b => wsPutOne s 0 (cx vd 0) 0 (sdmWord opWs 0x31) b) (List.range 1) (modWay (at0 (cx vd 0)) 0 0 (fun w => { w with spilt := tdel w.spilt (sdmWord opWs 0x31) }))).2 = none
    ∧ (wsRun (fun s b => wsGetOne s 0 (cx vw 1) 0 (sdmWord opWs 0x32) b) (List.range 1) (modWay (at0 (cx vw 1)) 0 0 (fun w => { w with spilt := tdel w.spilt (sdmWord opWs 0x32) }))).2 = none
    ∧ (wsRun (fun s b => wsCheckOne s 0 (cx vw 1) 0 (sdmWord opWs 0x33) b) (List.range 1) (modWay (at0 (cx vw 1)) 0 0 (fun w => { w with spilt := tdel w.spilt (sdmWord opWs 0x33) }))).2 = none := by
  unfold atEngine atWork; decide +kernel

/-- A resident tag with a CRC of n. -/
def tagZ (n : Nat) : WayTag := { crc := n, layer := 0, flags := 0, dord := 0 }
def vz (n : Nat) : Vcore := { ws := { tags := [(0, tagZ n)] } }

theorem test_met_WaystationBlockReadBack (n z : Nat) (hz : z = crc32c (devRead State.reset (wayBase 0) 16384)) :
    Machine.Inv (at0 (cx (vz n) 1)) ∧ ctxOf (at0 (cx (vz n) 1)) 0 = some (cx (vz n) 1) ∧ vcoreOf (cx (vz n) 1) 0 = some (vz n)
    ∧ readableTag (vz n).ws 0 0 true = some (tagZ n) ∧ blockAddr (cx (vz n) 1) 0 (tagZ n) = (wayBase 0, false) ∧ bit (tagZ n).flags 3 = false
    ∧ devPoison (at0 (cx (vz n) 1)) (wayBase 0) 16384 = false
    ∧ crc32c (devRead (at0 (cx (vz (z + 1)) 1)) (wayBase 0) 16384) ≠ (tagZ (z + 1)).crc ∧ crc32c (devRead (at0 (cx (vz z) 1)) (wayBase 0) 16384) = (tagZ z).crc := by
  have h : ∀ m, devRead (at0 (cx (vz m) 1)) (wayBase 0) 16384 = devRead State.reset (wayBase 0) 16384 := fun _ => by unfold devRead; rfl
  have hb : bit 0 0 = false ∧ bit 0 1 = false ∧ bit 0 2 = false ∧ bit 0 3 = false := by decide
  have hs : slotAddr (cx {} 1) 0 0 = wayBase 0 := by decide +kernel
  refine ⟨⟨rfl, rfl, rfl⟩, rfl, rfl, ?_, ?_, hb.2.2.2, ?_, ?_, ?_⟩
  · show (if bit 0 2 || decide ((0 : Nat) ≠ 0) || (true && bit 0 0) then none else some (tagZ n)) = _
    simp [hb]
  · show (if bit 0 1 then _ else (slotAddr (cx {} 1) 0 (0 % max 1 2), false)) = _
    simp [hb, hs]
  · unfold devPoison; simp [at0]
  · rw [h, ← hz]; exact Nat.ne_of_lt (Nat.lt_succ_self z)
  · rw [h, ← hz]; rfl

/-- Tally sum 5 of one block: n addends in cluster 0, of a scope. -/
def td (scope n : Nat) : TallyDesc :=
  { tag := 5, fmt := 0, blocks := 0, nAdd := 1, scope := scope, bell := 0, dest := 0, hasGroup := false, outerTag := 0, outerIdx := 0, dVcore := 0, dOff := 0, chime := 0, plan := [flds [(0, n), (25, 100)]] }
def fl : Flight := { cluster := 0, tag := 5, block := 0, elems := [(0x3F800000, false)], sender := 0 }
def ctl (scope : Nat) (x : TSum) (l : List Flight := []) : Ctx := { cx vd with prog := { pr with tallies := [td scope 1] }, sums := [(5, x)], flights := l }

/-- The sum with an addend in each of clusters 0 and 1, beside a sum 6 with the same lines; and with one in cluster 1 alone, n lines at its owner 0. -/
def td2 (tag : Nat) : TallyDesc := { td 1 1 with tag := tag, plan := [flds [(0, 1), (25, 100)], flds [(0, 1), (25, 100)]] }
def ct2 : Ctx := { cx vd with prog := { pr with tallies := [td2 5, td2 6] }, sums := [(6, {}), (65541, { stage := 2 })] }
def td3 (n : Nat) : TallyDesc := { td 1 1 with plan := [flds [(25, n)], flds [(0, 1), (25, 100)]] }
def ct3 (n : Nat) : Ctx := { cx vd with prog := { pr with tallies := [td3 n] }, sums := [(5, { stage := 3 }), (65541, { stage := 4 })] }

theorem test_met_TallyAddendStages : (∀ f ∈ [fl, { fl with block := 1 }], resident (at0 (ctl 0 {} [f])) 0 = some (0, ctl 0 {} [f]) ∧ (ctl 0 {} [f]).flights[0]? = some f ∧ tDesc (ctl 0 {} [f]) f.tag = some (td 0 1))
    ∧ stands (at0 cm) = false ∧ addendBad (ctl 0 {} [fl]) fl = none ∧ (addendBad (ctl 0 {} [{ fl with block := 1 }]) { fl with block := 1 }).isSome = true := by decide +kernel

theorem test_met_TallyStages : (∀ x ∈ [({ stage := 3 } : TSum), { stage := 5 }, { stage := 2 }, { stage := 4 }], ∀ sc ∈ [1, 3],
      resident (at0 (ctl sc x)) 0 = some (0, ctl sc x) ∧ tDesc (ctl sc x) 5 = some (td sc 1) ∧ sumOf (ctl sc x) 0 5 = some x)
    ∧ tLocalN (td 1 1) 0 ≠ 0 ∧ accOver (td 1 1) { stage := 3 } 0 = none
    ∧ (accOver (td 1 1) { stage := 3, blks := [(0, { staged := List.replicate 5 [] })] } 0).isSome = true
    ∧ ((sumOf (ctl 1 { stage := 2 }) (tOwnerOf (td 1 1) 0) 5).getD {}).expFrom.contains 0 = false
    ∧ sumOf (ctl 1 { stage := 4 }) (tOwnerOf (td 1 1) 0) 5 = some { stage := 4 } := by decide +kernel

/-- The clauses on an owner that another cluster's part makes live, or that has no addends of its own. -/
theorem test_met_TallyStages_owner : resident (at0 ct2) 0 = some (0, ct2) ∧ tDesc ct2 5 = some (td2 5) ∧ tOwnerOf (td2 5) 1 = 0
    ∧ sumOf ct2 0 5 = none ∧ sumOf ct2 1 5 = some { stage := 2 } ∧ overlapLive ct2 (td2 5) 0 = true
    ∧ (∀ n ∈ [1, 100], resident (at0 (ct3 n)) 0 = some (0, ct3 n) ∧ tDesc (ct3 n) 5 = some (td3 n) ∧ tOwnerOf (td3 n) 1 = 0 ∧ tLocalN (td3 n) 0 = 0 ∧ tLocalN (td3 n) 1 ≠ 0
      ∧ sumOf (ct3 n) 0 5 = some { stage := 3 } ∧ sumOf (ct3 n) 1 5 = some { stage := 4 } ∧ (accOver (td3 n) {} 0).isSome = decide (n = 1)) := by decide +kernel

def cm5 : CteMsg := { node := 0, rank := 1, id := 5, data := [byte 3], count := 1, addends := 1 }
/-- An open stream of context 0 under PSN 2, on port 0 of a die, and a frame that meets it. -/
def sx : Stream := { st := .opened, part := 0, ctx := 0, psn := 2, credit := 4, peer := 9, peerIdx := 3 }
def portOn (s : State) : State := regs [(rNetPortstat 0, 1)] { s with streams := [(5, sx)] }
def fr : CvtFrame := { node := 9, dsidx := 5, ssidx := 3 }

theorem test_met_CteTallyMessages_frame (s : State) (h : s = portOn (at0 cm)) : meetsStream s 0 fr sx ∧ ((Instr.cteArrive : Fin 32 → CvtFrame → Instr), 1) ∈ cteRows := by
  subst h
  refine ⟨?_, List.mem_of_getElem? (i := 0) rfl⟩
  unfold meetsStream frameIn; decide +kernel

theorem test_met_CteTallyMessages :
    (∀ x ∈ [({ stage := 2, expFrom := [0] } : TSum), { stage := 4, intFrom := [0], cnt := 1 }, { stage := 4, intFrom := [0], cnt := 2 }, {}],
      ctxOf (at0 (ctl 3 x)) 0 = some (ctl 3 x) ∧ tDesc (ctl 3 x) 5 = some (td 3 1) ∧ sumOf (ctl 3 x) (ownerCluster (td 3 1)) 5 = some x
      ∧ cteAlien (ctl 3 x) cm5 = false ∧ cteBad (ctl 3 x) (td 3 1) cm5 = false ∧ cteBad (ctl 3 x) (td 3 1) { cm5 with fmt := 1 } = true ∧ cteAlien (ctl 3 x) { cm5 with first := 1 } = true
      ∧ cteEarly (ctl 3 x) 4 cm5 = false ∧ cteEarly (ctl 3 x) 6 cm5 = false ∧ x.kidsInt.contains (2 ^ 40) = false)
    ∧ cteEarly (ctl 3 {}) 3 cm5 = true ∧ cteEarly (ctl 3 {}) 5 cm5 = true
    ∧ (∀ x ∈ [({ stage := 2, expFrom := [0] } : TSum)], expBegun (ctl 3 x) (td 3 1) 0 0 = true ∧ cteEarly (ctl 3 x) 3 cm5 = false) ∧ cm5.data.contains (byte 0xFF) = false
    ∧ (∀ x ∈ [({ stage := 4, intFrom := [0], cnt := 1 } : TSum), { stage := 4, intFrom := [0], cnt := 2 }],
      intBegun (ctl 3 x) (td 3 1) 0 0 = true ∧ cteEarly (ctl 3 x) 5 cm5 = false ∧ (cm5.addends = x.cnt ↔ x.cnt = 1)) := by
  decide +kernel

def opTg : BitVec 128 := op [(8, 5), (6, 1)]
def ctg (l : Tbl (Nat × Nat × Nat)) : Ctx := { ctl 3 {} with tgroups := l }

theorem test_met_TgroupSets : (∀ l ∈ [([] : Tbl (Nat × Nat × Nat)), [(5, (0, 2, 0))]], atEngine (at0 (ctg l)) 0 0 0 3 (setBits opTg.toNat 5 0 0x20) (ctg l) vd
      ∧ tgroupBad (ctg l) (setBits opTg.toNat 5 0 0x20) = none ∧ tDesc (ctg l) (bits (setBits opTg.toNat 5 0 0x20) 23 8) = some (td 3 1))
    ∧ (∃ cl, cl < 12 ∧ tLocalN (td 3 1) cl ≠ 0 ∧ (∀ x, sumOf (ctg []) cl 5 = some x → x.stage < 2))
    ∧ (∀ h, tget (ctg []).tgroups 5 = some h → False) ∧ (ctg []).finals.contains 5 = false ∧ ({ ctg [] with finals := [5] }).finals.contains 5 = true ∧ tget (ctg [(5, (0, 2, 0))]).tgroups 5 = some (0, 2, 0)
    ∧ ((0, 2, 0) : Nat × Nat × Nat) ≠ (0, bits (setBits opTg.toNat 5 0 0x20) 7 6, bits (setBits opTg.toNat 5 0 0x20) 24 24) := by
  unfold atEngine atWork
  and_intros <;> decide +kernel

/-- A sentinel whose pass may end. -/
def stl : State := { sentinels := [60], cycle := 4194304 }

theorem test_met_EchoAndSentinelRows : tgetD ({ thirds := [(3, [⟨4, 5, 3, 1, 2, 0⟩])] } : State).thirds 3 [] = [⟨4, 5, 3, 1, 2, 0⟩]
    ∧ (1 : BitVec 64).toNat = 1 ∧ (2 : BitVec 64).toNat = 2 ∧ (∀ w : BitVec 64, none = some w → (w.toNat = 1 ↔ w.toNat = 2))
    ∧ stl.sentinels.contains 60 = true ∧ spareFree stl 60 = true ∧ stl.chain.die1Bad = false ∧ tgetD stl.passAt 60 0 + 4194304 ≤ stl.cycle := by
  refine ⟨by decide, by decide, by decide, nofun, by decide +kernel⟩

def hd (x : Option Nat) : Hold := { id := 7, unit := 1, term := 2, cause := 3, ctx := some 0, u := 100, endAt := x, held := 9, tol := 8 }

/-- A vcore that expects two landings at chime 4, which are there. -/
def ve : Vcore := { cexps := [⟨4, 2, 90, 0⟩], land := [(4, 2)], chime := [(4, 65533)] }
/-- The same with one of the two there. -/
def ve1 : Vcore := { ve with land := [(4, 1)] }
/-- The hold for that expectation, and a vcore with an entry in its SDM queue. -/
def hc : Hold := { id := 8, unit := 13, term := 4, cause := 1, obj := 4, ctx := some 0, u := 90, endAt := none, held := 0, tol := 0 }
def vqs : Vcore := { queues := [(3, [{ word := 0, cia := 0, frame := 0, issued := 0, started := 0 }])] }

theorem test_met_HoldRows : resident (at0 (cx ve)) 0 = some (0, cx ve) ∧ owedResult (at0 (cx ve)) 0 (cx ve) 13 4 1 4 90 = some (4, 90) ∧ 90 ≤ (at0 (cx ve)).run + 96
    ∧ resident (at0 (cx ve1)) 0 = some (0, cx ve1) ∧ owedResult (at0 (cx ve1)) 0 (cx ve1) 13 4 1 4 90 = some (4, 90)
    ∧ resultIn (at0 (cx ve)) 0 (cx ve) 13 4 4 90 = some true ∧ resultIn (at0 (cx ve1)) 0 (cx ve1) 13 4 4 90 = some false
    ∧ hc ∈ ({ at0 (cx ve) with holds := [hc] }).holds ∧ hc.id = 8 ∧ hc.endAt = none ∧ holdIn { at0 (cx ve) with holds := [hc] } hc = some true ∧ holdIn { at0 (cx ve1) with holds := [hc] } hc = some false
    ∧ stands { at0 cm with gate := true } = true ∧ atWork (at0 (cx vqs)) 0 0 0 (cx vqs) vqs ∧ opTakes vqs 3 0 = false
    ∧ ({ at0 cm with holds := [hd none] }).holds.any (holdActs { at0 cm with holds := [hd none] }) = true
    ∧ ({ at0 cm with holds := [hd (some 0)] }).holds.any (holdActs { at0 cm with holds := [hd (some 0)] }) = false
    ∧ ({ holds := [hd none] } : State).holds.find? (fun h => h.id = 7) = some (hd none) ∧ 0 < (hd none).tol ∧ (hd none).tol < (hd none).held := by
  unfold atWork; decide +kernel

/-- A context whose chime 4 stands at n, with a signal of 3 on its way, and with it counted in the cycle. -/
def csg (n : Nat) : Ctx := { cx { vd with chime := [(4, n)] } with sigs := [⟨0, 4, 3, 0, 0⟩] }
def cct (n : Nat) : Ctx := { cx { vd with chime := [(4, n)] } with counted := [⟨0, 4, 3, 0, 0⟩] }
/-- Bell 2 of scope JOB whose due cycle was 10 grid points ago, and a sum of bell 0 of scope 3. -/
def bl (n : Nat) : State :=
  regs [(rBelCfg 2, flds [(4, 1), (36, 10)]), (rBelCfg 0, flds [(36, 10)])]
    { at0 (ctl 3 { stage := 2, dueCount := some n }) with parts := [(0, { resident := some 0, points := 20 })], bells := [(2, { ctx := some 0, due := some 50, dueCount := some n }), (0, { ctx := some 0 })] }

theorem test_met_ChimesAndTimeouts : resident (at0 (csg 0)) 0 = some (0, csg 0) ∧ takeSigs 0 4 (at0 (csg 0)).cycle 1 (csg 0).sigs = ([⟨0, 4, 3, 0, 0⟩], [])
    ∧ (∀ n ∈ [65532, 65533], ctxOf (at0 (cct n)) 0 = some (cct n) ∧ vcoreOf (cct n) 0 = some { vd with chime := [(4, n)] } ∧ (cct n).landed = [] ∧ (65535 < n + 3 ↔ n = 65533))
    ∧ (bell (bl 10) 2).ctx = some 0 ∧ belScope (bl 10) 2 = 1 ∧ (bell (bl 10) 2).jobRel = false ∧ bellOver (bl 10) 0 2 (bell (bl 10) 2).dueCount = true
    ∧ (bell (bl 10) 0).ctx = some 0 ∧ belScope (bl 10) 0 ≠ 1 ∧ (match ctxOf (bl 10) 0 with | some c => sumOver (bl 10) 0 c 0 | none => false) = true
    ∧ bellOver (bl 11) 0 2 (bell (bl 11) 2).dueCount = false := by decide +kernel

theorem test_met_ChimesAndTimeouts_cexp : atEngine (at0 (cx ve)) 0 0 0 3 (sdmWord (op [(6, 47), (12, 1), (32, 5)]) 0x35) (cx ve) ve ∧ cexpBad (sdmWord (op [(6, 47), (12, 1), (32, 5)]) 0x35) = none
    ∧ cexpReady (at0 (cx ve)) ve = some 0 ∧ ve.cexps[0]? = some ⟨4, 2, 90, 0⟩ := by
  unfold atEngine atWork; decide +kernel

/-- COPY of 64 bytes from HBM 0 to HBM 64, without a digest channel and with channel 3. -/
def opCopy (ch : Nat) : BitVec 128 := op [(6, ch), (71, 1)]

theorem test_met_CopyMoves (o : Nat) (h : o = sdmWord (opCopy 0) 0x01 ∨ o = sdmWord (opCopy 4) 0x01) : atEngine (at0 cm) 0 0 0 3 o cm vd ∧ Machine.Inv (at0 cm) ∧ copyBad o = none
    ∧ (∃ a, mapRange (at0 cm) 0 cm (64 * bits o 70 29) (64 * (bits o 28 9 + 1)) = .ok a ∧ a + 64 ≤ 64 ∧ devPoison (at0 cm) a 64 = false)
    ∧ mapRange (at0 cm) 0 cm (64 * bits o 112 71) (64 * (bits o 28 9 + 1)) = .ok 64 ∧ (copyCh o = none ∨ copyCh o = some 3) := by
  unfold atEngine atWork Machine.Inv
  rcases h with rfl | rfl <;> (and_intros <;> first | decide +kernel | exact ⟨0, by decide +kernel, by decide, by decide +kernel⟩)

def opSend : BitVec 128 := op [(8, 2), (84, 1)]
def opChime : BitVec 128 := op [(8, 2), (35, 1)]

theorem test_met_StreamSends (s : State) (h : s = { at0 cm with streams := [(5, sx)] }) : (∀ x ∈ [sdmWord opSend 0x02, sdmWord opChime 0x03], atEngine s 0 0 0 3 x cm vd) ∧ psnStream s 0 0 2 = some (5, sx) ∧ sx.st = .opened ∧ mayStart sx = true
    ∧ bits (sdmWord opSend 0x02) 21 8 = 2 ∧ bits (sdmWord opChime 0x03) 21 8 = 2 ∧ sendBad cm (sdmWord opSend 0x02) = none
    ∧ (∃ a, mapRange s 0 cm (64 * bits (sdmWord opSend 0x02) 83 42) 64 = .ok a)
    ∧ chimeBad { cm with prog := { pr with plan := { pr.plan with vcores := 1 } } } (sdmWord opChime 0x03) = none := by
  subst h; unfold atEngine atWork
  and_intros <;> first | decide +kernel | exact ⟨0, by decide +kernel⟩

theorem test_met_DigestChannels : (∀ f ∈ [0, 1], atEngine (at0 cm) 0 0 0 3 (setBits (sdmWord (op [(64, 128)]) 0x04) 6 6 f) cm vd ∧ cdigBad (setBits (sdmWord (op [(64, 128)]) 0x04) 6 6 f) = none)
    ∧ (tgetD vd.dig 0 {}).fed ≤ (tgetD vd.dig 0 {}).endLen
    ∧ (∀ d ∈ [0, 1, 2], atEngine (at0 cm) 0 0 0 3 (setBits (sdmWord (op [(9, d)]) 0x04) 6 6 1) cm vd ∧ cdigBad (setBits (sdmWord (op [(9, d)]) 0x04) 6 6 1) = none ∧ bits (setBits (sdmWord (op [(9, d)]) 0x04) 6 6 1) 10 9 = d)
    ∧ 64 * bits (setBits (sdmWord (op [(9, 2)]) 0x04) 6 6 1) 26 11 < spLimit ∧ devPoison (at0 cm) (spBase 0) 8 = false := by
  unfold atEngine atWork; decide +kernel

/-- GATHACC.UNORD of one block: the index at SP 0, the table at HBM 0, the destination at SP 64. -/
def opGa : BitVec 128 := op [(38, 1)]

theorem test_met_GathaccAddsBlocks (o : Nat) (h : o = sdmWord opGa 0x05) : atEngine (at0 cm) 0 0 0 3 o cm vd ∧ bits o 127 96 = 0 ∧ (cm.prog.canon = true → bit cm.prog.varGrant 1 = true)
    ∧ 64 * bits o 21 6 + 4 * (bits o 37 22 + 1) ≤ spLimit ∧ 64 * bits o 53 38 + 1024 ≤ spLimit ∧ (∀ i < 1, devPoison (at0 cm) (spBase 0 + 4 * i) 4 = false)
    ∧ (∀ i < 1, mapRange (at0 cm) 0 cm (64 * bits o 95 54 + 1024 * leNat (devRead (at0 cm) (spBase 0 + 4 * i) 4)) 1024 = .ok 0)
    ∧ (∀ i < 16, devPoison ((arrivalOrder 0 [0]).foldl (fun t a => addBlock (hbmUse t 0 a 1024) (spBase 0 + 64) a) { at0 cm with draws := 1 }) (spBase 0 + 64 + 64 * i) 64 = false) := by
  subst h; unfold atEngine atWork
  decide +kernel

/-- RFILL of slot 0, as uniform bytes and as a mask. -/
def vr (b : Nat) : Vcore := { slots := [(0, (op [(12, 0), (34, if b = 0 then 5 else 0), (38, 1), (87, b)], op [(12, 1)]))] }
def opRf (m : Nat) : BitVec 128 := op [(12, m), (24, 0x100)]

theorem test_met_RfillDraws : ∀ b ∈ [0, 1], ∀ o, o = sdmWord (opRf (4 * b)) 0x30 → atEngine (at0 (cx (vr b))) 0 0 0 3 o (cx (vr b)) (vr b) ∧ rfillBad o = none ∧ rfillSlotBad (vr b) o = false
    ∧ slotReach (setBits (slotA (vr b) 0) 86 86 0) 1 = none ∧ tensorOf (cx (vr b)) (slotTid (vr b) 0) = some ten ∧ sgBits (setBits (slotA (vr b) 0) 86 86 0) = decide (b = 1)
    ∧ (∀ r < 1, ∀ i < 2, (drawAt (cx (vr b)).seed (cx (vr b)).gen ten (bits o 39 24) (if bits o 14 12 = 0 || bits o 14 12 = 3 then 0 else 1) (bits o 23 16) (slotPos (vr b) 0 r i)).isSome = true) := by
  intro b hb o h; subst h; unfold atEngine atWork
  simp only [List.mem_cons, List.not_mem_nil, or_false] at hb
  rcases hb with rfl | rfl <;> decide +kernel

/-- A snapshot descriptor at SP 0: 64 bytes from HBM 0, the whole of an image of 64 bytes; the ring off, and on with one unit. -/
def sn (en : Nat) : State :=
  devWrite (regs [(rSnapCtrl 0, en), (rSnapSize 0, 1)] (at0 cm)) (spBase 0) (leBytes 8 0 ++ leBytes 8 64 ++ leBytes 8 0 ++ leBytes 8 64)

theorem test_met_SnapRecords : ∀ e ∈ [0, 1], atEngine (sn e) 0 0 0 3 (sdmWord (op []) 0x34) cm vd ∧ bits (sdmWord (op []) 0x34) 127 22 = 0 ∧ segmentOf cm = 0 ∧ 64 * bits (sdmWord (op []) 0x34) 21 6 < spLimit ∧ tget (sn e).seals 0 = none
    ∧ devPoison (sn e) (spBase 0) 64 = false ∧ fieldB (devRead (sn e) (spBase 0) 64) 8 8 = 64 ∧ fieldB (devRead (sn e) (spBase 0) 64) 0 8 = 0
    ∧ fieldB (devRead (sn e) (spBase 0) 64) 0x10 8 + 64 ≤ fieldB (devRead (sn e) (spBase 0) 64) 0x18 8 ∧ mapRange (sn e) 0 cm 0 64 = .ok 0
    ∧ bit (rd (sn e) (rSnapCtrl 0)) 0 = decide (e = 1) ∧ snapFits (sn e) 0 (128 + roundUp 64 64) = true ∧ devPoison (sn e) 0 64 = false := by
  unfold atEngine atWork; decide +kernel

/-- The same in a partition with a key, which seals one chunk. -/
def sns : State := { regs [(rSnapCtrl 0, 1), (rSnapSize 0, 1)] (sn 1) with seals := [(0, { ctx := 0, setId := [], key := [] })] }

theorem test_met_SnapRecords_sealed : atEngine sns 0 0 0 3 (sdmWord (op []) 0x34) cm vd ∧ sns.sec.entWait = false ∧ (tget sns.seals 0).isSome = true ∧ bit (rd sns (rSnapCtrl 0)) 0 = true
    ∧ snapFits sns 0 (128 + 1 * 4160) = true ∧ mapRange sns 0 cm 0 64 = .ok 0 ∧ devPoison sns 0 64 = false ∧ devPoison sns (spBase 0) 64 = false ∧ fieldB (devRead sns (spBase 0) 64) 8 8 = 64 := by
  unfold atEngine atWork; decide +kernel

/-- A conductor word: operation, wait for one of chime 4, BELL 2, and the fields of DSAMP. -/
def cw (cop : Nat) : BitVec 256 := BitVec.ofNat 256 (flds [(2, 1), (4, 4), (10, 1), (128, cop), (136, if cop = 5 then 2 else 0)])
/-- A vcore at that word. -/
def vw1 (cop : Nat) (out : List Nat := []) : Vcore := { buf := [(0, cw cop)], chime := [(4, 1)], bellOut := out }
def cc (cop f : Nat) (out : List Nat := []) : Ctx := { cx (vw1 cop out) f with prog := { pr with plan := { pr.plan with bells := 4 } } }

theorem test_met_ConductorRows : (∀ cop ∈ [0, 1, 2, 3, 4, 5, 6], ∀ f ∈ [0, 2], atWord (at0 (cc cop f)) 0 0 0 (cc cop f) (vw1 cop) (cw cop).toNat cop)
    ∧ atWord (at0 (cc 5 0 [2])) 0 0 0 (cc 5 0 [2]) (vw1 5 [2]) (cw 5).toNat 5
    ∧ (cc 2 2).frame + 1 = (cc 2 2).prog.frames ∧ (cc 2 0).frame + 1 ≠ (cc 2 0).prog.frames ∧ (∀ cop ∈ [2, 4], queuesEmpty (vw1 cop) = true)
    ∧ (ctxOf (markDone (putVc (at0 (cc 2 2)) 0 0 { stepCia (at0 (cc 2 2)) (vw1 2) (cw 2).toNat with cond := .atSend }) 0) 0).isSome = true
    ∧ (ctxOf (markDone (putVc (at0 (cc 4 0)) 0 0 { stepCia (at0 (cc 4 0)) (vw1 4) (cw 4).toNat with cond := .halted }) 0) 0).isSome = true
    ∧ (vw1 5).bellOut.contains (bits (cw 5).toNat 141 136) = false ∧ (vw1 5 [2]).bellOut.contains (bits (cw 5).toNat 141 136) = true
    ∧ bits (cw 6).toNat 207 192 * 64 + (bits (cw 6).toNat 223 208 + 1) * 64 ≤ spLimit := by
  unfold atWord atWork; decide +kernel

theorem test_met_WaitsAreConsumed : atWord (at0 (cc 0 0)) 0 0 0 (cc 0 0) (vw1 0) (cw 0).toNat 0 ∧ (4, 1) ∈ wWaits (cw 0).toNat ∧ ((wWaits (cw 0).toNat).map (·.1)).Nodup := by
  unfold atWord atWork; decide +kernel

/-- An entry of the MXE queue: MDRAIN. -/
def en : Entry := { word := BitVec.ofNat 256 (flds [(128, 2), (144, 1), (208, 1)]), cia := 0, frame := 0, issued := 10, started := 20 }
def vq : Vcore := { queues := [(0, [en])] }
def vrun : Vcore := { running := [(0, [en])] }

theorem test_met_QueueRows : (∀ v ∈ [vd, vq, vrun], atWork (at0 (cx v)) 0 0 0 (cx v) v) ∧ nextFetch cm vd = some 0 ∧ devPoison (at0 cm) (wordAddr cm 0 0) 32 = false
    ∧ devPoison { at0 cm with poison := [0] } (wordAddr cm 0 0) 32 = true ∧ atWork { at0 cm with poison := [0] } 0 0 0 cm vd
    ∧ stands (at0 (cx vq)) = false ∧ (cx vq).began = true ∧ (cx vq).st = 2 ∧ startable vq 0 = true ∧ startedNow (at0 (cx vq)) vq 0 = false ∧ tgetD vq.queues 0 [] = [en]
    ∧ givesWay (at0 (cx vq)) vq 0 en.word.toNat = false ∧ stands (at0 (cx vrun)) = false ∧ (tgetD vrun.running 0 [])[0]? = some en ∧ entryBusy (cx vrun) vrun 0 0 en = false := by
  unfold atWork; decide +kernel

def clt : Ctx := ctl 0 { stage := 2, lastAt := 10 }

theorem test_met_CoverViolations : resident (at0 (cx vrun)) 0 = some (0, cx vrun) ∧ vcoreOf (cx vrun) 0 = some vrun ∧ (overdue (at0 (cx vrun)) (cx vrun) vrun 0 0).isSome = true
    ∧ resident (at0 clt) 0 = some (0, clt) ∧ tDesc clt 5 = some (td 0 1) ∧ sumOf clt 0 5 = some { stage := 2, lastAt := 10 }
    ∧ sumClock clt (td 0 1) { stage := 2, lastAt := 10 } 0 = some (10, cruCover (td 0 1) 1) ∧ 10 + cruCover (td 0 1) 1 < (at0 clt).run := by decide +kernel

/-- Partition 0 at a grid point of period 4,096, with or without a resident context; and in a cycle whose point is still to be decided. -/
def gp (r : Option Nat) (c : Ctx) (pt : Option Bool := none) (run : Nat := 100) : State :=
  regs [(rDbtPeriod 0, 1 + 12 * 16)] { run := run, cycle := 4096, parts := [(0, { anchor := some 0, resident := r, point := pt })], ctxs := [(0, c)] }
def gpu (r : Option Nat) : State :=
  modPart (gp r cm) 0 (fun x => { x with count := if x.anchor = some 4096 then x.count else x.count + 1, points := x.points + 1, lastPoint := some 4096, point := some true })
def gpw (c : Ctx) (run : Nat := 100) : State := modPart (gp (some 0) c (some true) run) 0 (fun x => { x with point := none })
/-- A complete frame, and one that a chain is still open in. -/
def vend : Vcore := { cond := .halted }
def vopen : Vcore := { cond := .halted, chain := [0] }
/-- A context stalled twice, at a deadlock threshold of two. -/
def cdl : Ctx := { cx { cond := .bellStop } with stall := 2 }
def sdl : State := regs [(rBelDeadlock 0, 2)] { at0 cdl with parts := [(0, { resident := some 0, point := some true })] }
def hrot : Hold := { hd none with unit := 15, term := 1, obj := 0 }

theorem test_met_GridPoints : (∀ r ∈ [none, some 0], atGrid (gp r cm) 0 = true) ∧ resident (gpu none) 0 = none ∧ resident (gpu (some 0)) 0 = some (0, cm)
    ∧ (∀ sel ∈ [true, false], (part (gp none cm (some sel)) 0).point = some sel ∧ (part (gp (some 0) cm (some sel)) 0).point = some sel)
    ∧ resident (modPart (gp none cm (some true)) 0 (fun x => { x with point := none })) 0 = none
    ∧ (∀ v ∈ [vd, vend, vopen], resident (gpw (cx v)) 0 = some (0, cx v) ∧ (cx v).began = true ∧ (cx v).probs = [])
    ∧ resident (gpw { cm with began := false }) 0 = some (0, { cm with began := false })
    ∧ frameComplete (cx vend) = true ∧ openChainProbs (cx vend) = [] ∧ frameComplete (cx vopen) = true ∧ openChainProbs (cx vopen) ≠ [] ∧ frameComplete cm = false
    ∧ cm.stall < stallThresh (gpw cm) 0 ∧ frameRun (gpw cm) cm < 2 ^ ptnK (gpw cm) 0 ∧ resident (gpw cm 5000) 0 = some (0, cm) ∧ 2 ^ ptnK (gpw cm 5000) 0 ≤ frameRun (gpw cm 5000) cm
    ∧ resident sdl 0 = some (0, cdl) ∧ (part sdl 0).point = some true ∧ 0 < stallThresh sdl 0 ∧ stallThresh sdl 0 ≤ cdl.stall ∧ stalledNow sdl 0 cdl = true
    ∧ deadlocked (modPart sdl 0 (fun x => { x with point := none })) 0 0 cdl = true ∧ frameComplete cdl = false ∧ cdl.probs = [] ∧ deadlocked (gpw cm) 0 0 cm = false
    ∧ hrot ∈ ({ cycle := 6344, holds := [hrot] } : State).holds ∧ hrot.endAt = none ∧ hrot.obj + 6344 ≤ 6344 := by decide +kernel

/-- A context of a job of two devices with bell 2, at some point of its muster. -/
def cmu (m : MusterSt) (st : Nat) (bells : Nat) (rank : Nat := 0) : Ctx :=
  { cx vd with st := st, began := false, muster := m, rank := rank, ranks := [7, 8], prog := { pr with plan := { pr.plan with bells := bells, devices := 2 } } }
def smu (c : Ctx) : State :=
  regs [(rBelMuster, 2 ^ 17)] { refcnt := 64, cycle := 2 ^ 40, parts := [(0, { letIn := some 0 })], ctxs := [(0, c)], bells := [(2, { ctx := some 0 })] }
/-- The root, with a bell in use, and a leaf. -/
def cb (rank : Nat) : Ctx := cmu .none 2 4 rank
def sb (rank : Nat) : State := { at0 (cb rank) with bells := [(2, { ctx := some 0, node0 := [rank] })] }
/-- ARRIVE of rank 1 at the root, and RELEASE of rank 0 at the leaf. -/
def mar : CteMsg := { node := 8, rank := 1, id := 2 }
def mre : CteMsg := { node := 7, rank := 0, id := 2 }
def sdue : State := { at0 cm with bells := [(2, { ctx := some 0, due := some 100 })] }

theorem test_met_BellAndMusterRows : (bell sdue 2).ctx = some 0 ∧ (bell sdue 2).due = some 100 ∧ 100 ≤ sdue.run ∧ belScope sdue 2 = 0
    ∧ (∀ bl ∈ [0, 4], (part (smu (cmu .waiting 1 bl)) 0).letIn = some 0 ∧ ctxOf (smu (cmu .waiting 1 bl)) (ctxKey 0 0) = some (cmu .waiting 1 bl) ∧ (part (smu (cmu .waiting 1 bl)) 0).zeroing = false
      ∧ (part (smu (cmu .waiting 1 bl)) 0).resident = none ∧ (∀ e ∈ (smu (cmu .waiting 1 bl)).ctxs, e.1 / 16 = 0 → e.2.st ≠ 3 ∧ e.2.st ≠ 6) ∧ bit (rd (smu (cmu .waiting 1 bl)) rBelMuster) 17 = true
      ∧ musterBell (cmu .waiting 1 bl) = (if bl = 0 then none else some 2) ∧ 1 < (cmu .waiting 1 bl).prog.plan.devices
      ∧ (smu (cmu .waiting 1 bl)).ctxs.filter (fun e => e.1 / 16 = 0 && musterLate (smu (cmu .waiting 1 bl)) e.1 e.2) = [(0, cmu .waiting 1 bl)])
    ∧ (∀ c ∈ [cmu (.released 64) 1 4], (part (smu c) 0).letIn = some 0 ∧ ctxOf (smu c) (ctxKey 0 0) = some c ∧ c.muster = .released 64 ∧ 64 ≤ (smu c).refcnt) := by decide +kernel

theorem test_met_BellAndMusterRows_messages : (∀ r ∈ [0, 1], ctxOf (sb r) 0 = some (cb r) ∧ (bell (sb r) 2).ctx = some 0 ∧ (cb r).muster ≠ .waiting ∧ (cb r).muster ≠ .arrived)
    ∧ (treeKids (cb 0) mar.step 0).contains mar.rank = true ∧ nodeOfRank (cb 0) mar.rank = mar.node ∧ (nodeOf (bell (sb 0) 2) mar.parity).contains mar.rank = false
    ∧ (treeKids (cb 0) mre.step 0).contains mre.rank = false
    ∧ ctxOf (smu (cmu .waiting 1 4)) 0 = some (cmu .waiting 1 4) ∧ (bell (smu (cmu .waiting 1 4)) 2).ctx = some 0 ∧ musterBell (cmu .waiting 1 4) = some 2
    ∧ (treeKids (cmu .waiting 1 4) mar.step 0).contains mar.rank = true ∧ (nodeOf (bell (smu (cmu .waiting 1 4)) 2) mar.parity).contains mar.rank = false
    ∧ treeParent (cb 1) mre.step 0 = some mre.rank ∧ mre.parity = (bell (sb 1) 2).parity ∧ (bell (sb 1) 2).jobRel = false ∧ (nodeOf (bell (sb 1) 2) (bell (sb 1) 2).parity).contains (cb 1).rank = true
    ∧ treeParent (cmu .arrived 1 4 1) mre.step 0 = some mre.rank ∧ ctxOf (smu (cmu .arrived 1 4 1)) 0 = some (cmu .arrived 1 4 1) ∧ musterBell (cmu .arrived 1 4 1) = some 2 := by decide +kernel

/-- A job of two devices; AGATHER of 64 bytes from HBM 0 to HBM 4,096, its descriptor at SP 0. -/
def cg (l : List Gather) : Ctx := { cb 0 with gathers := l }
def sg (l : List Gather) : State := devWrite (at0 (cg l)) (spBase 0) (leBytes 8 0 ++ leBytes 8 4096 ++ leBytes 8 64 ++ leBytes 4 1 ++ leBytes 4 0)
/-- A gather of n bytes from each of two members, and a piece of 64 bytes of part 1. -/
def ga (n : Nat) : Gather := { v := 0, ord := 0, gmode := 0, own := 0, g := 2, dst := 4096, len := n, layer := 1, vidx := 0, vmode := 0, got := [0], count := 0 }
def cp : CteMsg := { node := 8, rank := 1, id := 0, inst := 0, first := 1, count := 1, data := List.replicate 64 0 }
def opAg : Nat := sdmWord (op []) 0x21
def sga : State := { at0 (cg [ga 64]) with parts := [(0, { resident := some 0, points := 2000 })] }

theorem test_met_GatherRows : atEngine (sg []) 0 0 0 3 opAg (cg []) vd ∧ agatherBad opAg = none ∧ 64 * bits opAg 23 8 < spLimit ∧ devPoison (sg []) (spBase 0) 64 = false
    ∧ gatherDescBad (devRead (sg []) (spBase 0) 64) = false ∧ fieldB (devRead (sg []) (spBase 0) 64) 0x10 8 = 64 ∧ fieldB (devRead (sg []) (spBase 0) 64) 0x20 1 = 0
    ∧ mapRange (sg []) 0 (cg []) 0 64 = .ok 0 ∧ mapRange (sg []) 0 (cg []) 4096 128 = .ok 4096 ∧ devPoison (sg []) 0 64 = false
    ∧ atWork sga 0 0 0 (cg [ga 64]) vd
    ∧ (cg [ga 64]).gathers.find? (fun x => x.v = 0 && decide (x.got.length < x.g) && decide ((part sga 0).points ≥ x.count + musterTimeout sga (cg [ga 64]))) = some (ga 64) := by
  unfold atEngine atWork; decide +kernel

theorem test_met_GatherRows_part : (∀ n ∈ [64, 128], ctxOf (at0 (cg [ga n])) 0 = some (cg [ga n]) ∧ (cg [ga n]).gathers.find? (fun x => x.v = cp.id && x.ord = cp.inst) = some (ga n)
      ∧ cp.gmode = (ga n).gmode ∧ cp.first < (ga n).g ∧ (ga n).got.contains cp.first = false ∧ (tgetD (ga n).fill cp.first (0, 0)).1 + cp.data.length ≤ n)
    ∧ 0 < cp.data.length ∧ cp.count * 64 = cp.data.length ∧ (ga 64).g ≤ ({ cp with first := 2 }).first
    ∧ ctxOf (at0 (cg [])) 0 = some (cg []) ∧ (cg []).gathers.find? (fun x => x.v = cp.id && x.ord = cp.inst) = none ∧ cteEarly (cg []) 7 cp = true := by decide +kernel

/-- PERMUTE of one local entry of 64 bytes and one incoming one, with the source of the out and of the in entry. -/
def spm (srcO srcI : Nat) : State :=
  devWrite (at0 (cb 0)) (spBase 0) (leBytes 4 1 ++ leBytes 4 1 ++ leBytes 8 8192 ++ leBytes 8 64 ++ leBytes 40 0
    ++ (leBytes 8 srcO ++ leBytes 8 64 ++ leBytes 8 4096 ++ leBytes 8 0xFFFF) ++ (leBytes 8 srcI ++ leBytes 8 64 ++ leBytes 8 12288 ++ leBytes 8 0))
def opPm : Nat := sdmWord (op [(6, 2)]) 0x22
def pmProbs (s : State) : List Prob := oneEach (permuteDesc (cb 0) vd 0 (devRead s (spBase 0) 64) [devRead s (spBase 0 + 64) 32] [devRead s (spBase 0 + 96) 32]
  ++ errs [outEntry s 0 (cb 0) vd 0 (devRead s (spBase 0 + 64) 32)] ++ errs [inEntry s 0 (cb 0) vd 0 8192 64 (devRead s (spBase 0 + 96) 32)])

theorem test_met_PermuteRow : (∀ x ∈ [(0, 0), (2 ^ 40, 0), (0, 64)], atEngine (spm x.1 x.2) 0 0 0 3 opPm (cb 0) vd ∧ permuteBad (cb 0) opPm = none
      ∧ fieldB (devRead (spm x.1 x.2) (spBase 0) 64) 0 4 = 1 ∧ fieldB (devRead (spm x.1 x.2) (spBase 0) 64) 4 4 = 1
      ∧ 64 * bits opPm 27 12 + 128 ≤ spLimit ∧ devPoison (spm x.1 x.2) (spBase 0) 64 = false ∧ devPoison (spm x.1 x.2) (spBase 0 + 64) 64 = false)
    ∧ pmProbs (spm 0 0) = [] ∧ pmProbs (spm (2 ^ 40) 0) ≠ [] ∧ pmProbs (spm 0 64) ≠ [] := by
  unfold atEngine atWork; decide +kernel

/-- A device that runs without a tree. -/
def calone : Ctx := { cb 0 with prog := pr }

theorem test_met_TreeMessageRows : (∀ r ∈ [0, 1], ctxOf (sb r) 0 = some (cb r) ∧ votesAlone (cb r) = false) ∧ treeParent (cb 1) 0 0 = some 0 ∧ treeParent (cb 0) 0 0 ≠ some 1
    ∧ (treeKids (cb 0) 0 0).contains 1 = true ∧ treeParent (cb 0) 0 0 ≠ some 0 ∧ (treeKids (cb 0) 0 0).contains 0 = false ∧ votesAlone calone = true := by decide +kernel

/-- Queue pair 0 holds one manifest, the slot given. -/
def qm (slot : Bytes) (s : State) : State := { s with qps := [(0, { st := 1, mans := [{ seq := 3, slot := padTo 128 slot }], nextSeq := 4 })] }
def man (slot : Bytes) : Man := { seq := 3, slot := padTo 128 slot }
def up (slot : Bytes) (s : State) : State := setMan (qm slot s) 0 3 (fun x => { x with stage := 1 })

/-- A small binary: one plan of one vcore, two frames of nothing, STEP, WAYST; no tensors, layers or sums. -/
def binHead : Bytes := leBytes 4 0x50374E46 ++ leBytes 2 1 ++ leBytes 2 0x100 ++ leBytes 4 0 ++ leBytes 1 0 ++ leBytes 1 0 ++ leBytes 2 7 ++ leBytes 4 0x5D2E0001 ++ leBytes 4 0
  ++ leBytes 8 1 ++ leBytes 8 908 ++ leBytes 8 256
def secRow (t n e off len : Nat) : Bytes := leBytes 2 t ++ leBytes 2 e ++ leBytes 4 n ++ leBytes 8 off ++ leBytes 8 len ++ leBytes 8 0
def binSecs : Bytes := secRow 1 1 64 512 128 ++ secRow 2 1 16 640 192 ++ secRow 3 0 32 832 0 ++ secRow 4 0 16 832 0 ++ secRow 5 1 64 832 64 ++ secRow 6 0 32 896 0 ++ secRow 7 1 12 896 12
def binPlan : Bytes := leBytes 1 0 ++ leBytes 1 1 ++ leBytes 1 1 ++ leBytes 1 1 ++ leBytes 2 1 ++ leBytes 2 0 ++ leBytes 4 1 ++ leBytes 4 1 ++ leBytes 8 0 ++ leBytes 4 0 ++ leBytes 4 1
  ++ leBytes 4 64 ++ leBytes 4 0 ++ leBytes 4 0 ++ leBytes 4 0 ++ leBytes 16 0 ++ leBytes 2 0
def binWord (cop : Nat) : Bytes := leBytes 32 (flds [(2, 1), (128, cop)])
def bin : Bytes := padTo 256 binHead ++ padTo 256 binSecs ++ padTo 128 binPlan ++ padTo 64 (leBytes 8 64 ++ leBytes 8 4) ++ [1, 2, 3, 4].flatMap binWord
  ++ padTo 64 (leBytes 4 2 ++ leBytes 4 1 ++ leBytes 4 2 ++ leBytes 1 12) ++ List.replicate 12 0
/-- A device whose partition 0 has cluster 0 and 16 MiB, with a cover table of no entries for both steppings. -/
def dev : State := regs [(rPtnCfg 0, 3), (rPtnHbm 0, 2 ^ 48), (rPtnStow 0 0, 16 * 2 ^ 20 + 2 ^ 48), (rDbtPeriod 0, 1 + 12 * 16)] { fw := { covers := [⟨1, 3, []⟩] } }
def startSlot : Bytes := leBytes 1 1 ++ leBytes 23 0 ++ leBytes 8 908 ++ List.replicate 56 0 ++ leBytes 8 0 ++ leBytes 4 1 ++ leBytes 1 0 ++ leBytes 1 12 ++ leBytes 1 1
def ask : LoadAsk := { p := 0, k := 0, pl := 0, kMan := 12, roster := 0, base := 0, mib := 1 }

/-- Manifests that do not wait for a half of HBM in MAINT. -/
def free (slot : Bytes) (s : State) : Prop := [1, 6, 7, 9, 11].contains (fieldB (man slot).slot 0 1) = false ∨ ptnMaint (qm slot s) (qpPtn (qm slot s) 0) = false

theorem up_ok (slot : Bytes) (s : State) (type lo : Nat) (w : free slot s) (h : fieldB (man slot).slot 0 1 = type ∧ manHeadBad (man slot).slot = false ∧ zeroB (man slot).slot lo 128 = true) :
    manUp (qm slot s) 0 type lo (man slot) (up slot s) := by
  refine ⟨?_, h.1, h.2.1, h.2.2, rfl⟩
  have hw : manWaits (qm slot s) 0 (man slot) = false := by
    show ([1, 6, 7, 9, 11].contains _ && ptnMaint _ _) = false
    rcases w with w | w <;> rw [w] <;> simp
  show (if manWaits (qm slot s) 0 (man slot) || (bit (fieldB (man slot).slot 1 1) 0 && decide (some 3 ≠ some 3)) then none else some (man slot)) = _
  rw [hw]; simp

theorem test_met_ContextManifests_start : manUp (qm startSlot dev) 0 1 0x67 (man startSlot) (up startSlot dev) ∧ fieldB (man startSlot).slot 0x18 8 = bin.length
    ∧ fieldB (man startSlot).slot 0x66 1 ≤ 3 ∧ 12 ≤ fieldB (man startSlot).slot 0x65 1 ∧ fieldB (man startSlot).slot 0x65 1 ≤ 26 ∧ hostBad (fieldB (man startSlot).slot 0x10 8) = false
    ∧ ctxOf (up startSlot dev) 0 = none ∧ regionOk (up startSlot dev) (qpPtn (up startSlot dev) 0) (fieldB (man startSlot).slot 0x58 8) (fieldB (man startSlot).slot 0x60 4) = true
    ∧ bit (fieldB (man startSlot).slot 0x66 1) 0 = true := by
  exact ⟨up_ok _ _ _ _ (.inr (by decide +kernel)) (by decide +kernel), by decide +kernel⟩

theorem test_met_ContextManifests_load : (match loadCheck (up startSlot dev) ask bin with
    | .ok x => (imageArea (up startSlot dev) 0 (startCtx 0 (man startSlot) x (up startSlot dev) 0)).isSome
    | .error _ => false) = true := by
  unfold loadCheck coverBad
  generalize Config.stepB0 = b
  cases b <;> decide +kernel

def endSlot : Bytes := leBytes 1 2
def stowSlot (next : Bool) (exp : Nat) : Bytes :=
  leBytes 1 10 ++ leBytes 15 0 ++ leBytes 8 (if next then 2 ^ 64 - 1 else 5) ++ leBytes 4 0 ++ leBytes 1 exp ++ leBytes 3 0 ++ leBytes 8 (exp * 4096) ++ leBytes 8 0
def restSlot (host : Nat) : Bytes := leBytes 1 11 ++ leBytes 15 0 ++ leBytes 8 host
def cst (st : Nat) (e : Option (Nat × Nat)) : Ctx := { cm with st := st, ending := e }

theorem test_met_ContextManifests_end : (∀ e ∈ [none, some (0, 1)], manUp (qm endSlot (at0 (cst 2 e))) 0 2 0x10 (man endSlot) (up endSlot (at0 (cst 2 e))) ∧ ctxOf (up endSlot (at0 (cst 2 e))) 0 = some (cst 2 e))
    ∧ manUp (qm endSlot dev) 0 2 0x10 (man endSlot) (up endSlot dev) ∧ ctxOf (up endSlot dev) 0 = none :=
  ⟨fun _ _ => ⟨up_ok _ _ _ _ (.inl (by decide +kernel)) (by decide +kernel), rfl⟩, up_ok _ _ _ _ (.inl (by decide +kernel)) (by decide +kernel), rfl⟩

theorem test_met_ContextManifests_stow : (∀ n ∈ [true, false], ∀ e ∈ [0, 1], manUp (qm (stowSlot n e) (at0 cm)) 0 10 0x30 (man (stowSlot n e)) (up (stowSlot n e) (at0 cm)))
    ∧ (∀ n ∈ [true, false], ∀ e ∈ [0, 1], n = decide (fieldB (man (stowSlot n e)).slot 0x10 8 = 2 ^ 64 - 1) ∧ fieldB (man (stowSlot n e)).slot 0x1C 1 = e ∧ zeroB (man (stowSlot n e)).slot 0x1D 0x20 = true
      ∧ fieldB (man (stowSlot n e)).slot 0x20 8 = 4096 * e ∧ fieldB (man (stowSlot n e)).slot 0x28 8 = 0 ∧ hostBad (fieldB (man (stowSlot n e)).slot 0x20 8) = false
      ∧ fieldB (man (stowSlot n e)).slot 0x18 4 < cm.prog.frames ∧ pointPassed cm (5, fieldB (man (stowSlot n e)).slot 0x18 4) = false)
    ∧ ctxOf (up (stowSlot true 0) (at0 cm)) 0 = some cm ∧ cm.st = 2 ∧ cm.stow = none := by
  refine ⟨?_, by decide +kernel, rfl, rfl, rfl⟩
  intro n hn e he
  have h : ∀ n ∈ [true, false], ∀ e ∈ [0, 1], fieldB (man (stowSlot n e)).slot 0 1 = 10 ∧ manHeadBad (man (stowSlot n e)).slot = false ∧ zeroB (man (stowSlot n e)).slot 0x30 128 = true := by decide +kernel
  exact up_ok _ _ _ _ (.inl (by rw [(h n hn e he).1]; rfl)) (h n hn e he)

/-- STOW of a context that waits for its RESTORE, and RESTORE of a stowed one. -/
theorem test_met_ContextManifests_restore : manUp (qm (stowSlot true 0) (at0 (cst 4 none))) 0 10 0x30 (man (stowSlot true 0)) (up (stowSlot true 0) (at0 (cst 4 none)))
    ∧ ctxOf (up (stowSlot true 0) (at0 (cst 4 none))) 0 = some (cst 4 none) ∧ (cst 4 none).stow = none
    ∧ manUp (qm (restSlot 0) (at0 (cst 5 none))) 0 11 0x44 (man (restSlot 0)) (up (restSlot 0) (at0 (cst 5 none))) ∧ fieldB (man (restSlot 0)).slot 0x10 8 = 0 ∧ zeroB (man (restSlot 0)).slot 0x18 128 = true
    ∧ ctxOf (up (restSlot 0) (at0 (cst 5 none))) 0 = some (cst 5 none) ∧ (cst 5 none).rman = none
    ∧ manUp (qm (restSlot 64) dev) 0 11 0x44 (man (restSlot 64)) (up (restSlot 64) dev) ∧ fieldB (man (restSlot 64)).slot 0x10 8 ≠ 0 := by
  have h : ∀ n ∈ [0, 64], fieldB (man (restSlot n)).slot 0 1 = 11 ∧ manHeadBad (man (restSlot n)).slot = false ∧ zeroB (man (restSlot n)).slot 0x44 128 = true := by decide +kernel
  exact ⟨up_ok _ _ _ _ (.inl (by decide +kernel)) (by decide +kernel), rfl, rfl, up_ok _ _ _ _ (.inr (by decide +kernel)) (h 0 (by simp)), by decide +kernel, by decide +kernel, rfl, rfl,
    up_ok _ _ _ _ (.inr (by decide +kernel)) (h 64 (by simp)), by decide +kernel⟩

/-- A context that drains, or has drained, with or without a STOW manifest, and with no image to write. -/
def cdr (st : Nat) (dr : Bool) (r : Option StowReq) : Ctx := { st := st, draining := dr, drainAt := 0, stow := r }
def sdr (c : Ctx) (cyc : Nat) (z : Bool := false) : State := { cycle := cyc, parts := [(0, { zeroing := z })], ctxs := [(0, c)], streams := [(5, { st := .draining, part := 0, ctx := 0, psn := 0, peer := 0, srtt := 100 })] }
def sr (e : Bool) : StowReq := { point := none, exp := e, host := 4096, hlen := 2 ^ 24, qp := 0, seq := 3 }

theorem test_met_StowAndRestoreEnds : ctxIn (sdr (cdr 3 true none) 1000) 0 3 = some (0, cdr 3 true none) ∧ (cdr 3 true none).draining = true ∧ copying (sdr (cdr 3 true none) 1000) 0 = false
    ∧ (ctxStreams (sdr (cdr 3 true none) 1000) 0).length = 1 ∧ (∀ e ∈ ctxStreams (sdr (cdr 3 true none) 1000) 0, streamQuiet (sdr (cdr 3 true none) 1000) e.2 = true)
    ∧ (∀ e ∈ ctxStreams (sdr (cdr 3 true none) 1) 0, streamQuiet (sdr (cdr 3 true none) 1) e.2 = false)
    ∧ (cdr 3 true none).drainAt + max (rd (sdr (cdr 3 true none) (2 ^ 40)) (rNetRunout 0)) (rd (sdr (cdr 3 true none) (2 ^ 40)) (rNetRunout 1)) ≤ (sdr (cdr 3 true none) (2 ^ 40)).cycle
    ∧ (∀ r ∈ [none, some (sr false), some (sr true)], ctxIn (sdr (cdr 3 false r) 0) 0 3 = some (0, cdr 3 false r) ∧ (cdr 3 false r).draining = false)
    ∧ (ctxOf (finishStow (sdr (cdr 3 false (some (sr true))) 0) 0 (cdr 3 false (some (sr true)))) 0).isSome = true
    ∧ ctxIn (sdr (cdr 6 false none) 0) 0 6 = some (0, cdr 6 false none) ∧ (part (sdr (cdr 6 false none) 0) 0).zeroing = false ∧ steering (sdr (cdr 6 false none) 0) (cdr 6 false none) = none
    ∧ (part (sdr (cdr 6 false none) 0 true) 0).zeroing = true := by
  decide +kernel

/-- Queue pair 0 enabled, of a kind, with 16 slots and 512 completion slots; the host link up. -/
def sqp (kind : Nat) (x : Qp) (tmr : Nat := 0) : State := { regs [(rHifQpcfg 0, flds [(0, 1), (1, kind), (6, 4), (11, 9), (32, tmr)]), (rHifStatus, 1)] {} with qps := [(0, x)], cycle := 2 ^ 40 }
def qn : Qp := { st := 1 }
def qw : Qp := { st := 1, waiting := [({ kind := 1, status := 0, ctx := 0, id := 0 }, none)] }
/-- One completion not announced, with a coalescing time. -/
def squ : State := sqp 0 { st := 1, unann := 1 } 5
/-- No queue pair; and a gateway with an enabled function 2. -/
def sq0 : State := regs [(rHifStatus, 1)] {}
def sgw : State := { sq0 with prof := { role := 1, peers := 3 }, sec := { cfg := [(7, 2)] } }
def qcfg : Nat := flds [(0, 1), (1, 1), (6, 4), (11, 9)] &&& qpcfgMask

theorem test_met_QueuePairRows : (∀ k ∈ [0, 1], accepts (sqp k qn) (.host none) = true ∧ barWake (sqp k qn) (.host none) = sqp k qn ∧ qpEn (sqp k qn) 0 = true ∧ (qp (sqp k qn) 0).st = 1 ∧ qpKind (sqp k qn) 0 = k)
    ∧ (∀ n ∈ [16, 17], ((n / 2 ^ 32 + 2 ^ 32 - (qp (sqp 0 qn) 0).cqHead) % 2 ^ 32 ≤ ((qp (sqp 0 qn) 0).cqTail + 2 ^ 32 - (qp (sqp 0 qn) 0).cqHead) % 2 ^ 32)
      ∧ decide ((n + 2 ^ 32 - (qp (sqp 0 qn) 0).sqHead) % 2 ^ 32 ≤ 2 ^ fld (sqp 0 qn) (rHifQpcfg 0) 10 6) = decide (n = 16))
    ∧ accepts sgw (.host none) = true ∧ barWake sgw (.host none) = sgw ∧ vfOn sgw 2 = true ∧ tdiTakes sgw 2 none = true ∧ sgw.chain.cut.contains 2 = false
    ∧ vfOn (regs [(rSecTdi 2, 1)] sgw) 2 = true ∧ tdiTakes (regs [(rSecTdi 2, 1)] sgw) 2 none = false ∧ barWake (regs [(rSecTdi 2, 1)] sgw) (.host none) = regs [(rSecTdi 2, 1)] sgw
    ∧ accepts (regs [(rSecTdi 0, 1)] sq0) (.host none) = false
    ∧ (qp (sqp 0 { qn with sqTail := 1 }) 0).sqHead ≠ (qp (sqp 0 { qn with sqTail := 1 }) 0).sqTail ∧ qpEn (sqp 0 { qn with sqTail := 1 }) 0 = true
    ∧ qpEn (sqp 0 qw) 0 = true ∧ (qp (sqp 0 qw) 0).st = 1 ∧ (qp (sqp 0 qw) 0).waiting ≠ []
    ∧ qpEn squ 0 = true ∧ (qp squ 0).unann ≠ 0 ∧ fld squ (rHifQpcfg 0) 47 32 ≠ 0 ∧ (qp squ 0).unannAt * 1000 + fld squ (rHifQpcfg 0) 47 32 * msCycles squ ≤ squ.cycle * 1000
    ∧ accepts sq0 (.host none) = true ∧ barWake sq0 (.host none) = sq0 ∧ qpEn sq0 0 = false ∧ bit (rd sq0 rHifStatus) 0 = true ∧ bit qcfg 0 = true ∧ 4 ≤ bits qcfg 10 6 ∧ bits qcfg 10 6 ≤ 16 ∧ 9 ≤ bits qcfg 15 11 ∧ bits qcfg 15 11 ≤ 20
    ∧ ledgerQpTaken sq0 0 (bits qcfg 4 2) = false
    ∧ bit (rd (sqp 0 qn) rHifStatus) 0 = true ∧ (∀ m ∈ (qp (sqp 0 qn) 0).mans, m.stage = 0) ∧ (∀ e ∈ (qp (sqp 0 qn) 0).waiting, e.1.kind = 4) ∧ (∀ e ∈ (sqp 0 qn).ctxs, e.2.qp = 0 → qpPtn (sqp 0 qn) 0 ≠ e.1 / 16)
    ∧ (∃ m ∈ (qp (sqp 0 { qn with mans := [{ seq := 3, slot := [], stage := 1 }] }) 0).mans, m.stage = 1) := by
  and_intros <;> decide +kernel

def nopSlot (t : Nat) : Bytes := leBytes 1 t
def openSlot : Bytes := leBytes 1 3
def clSlot (t : Nat) : Bytes := leBytes 1 t ++ leBytes 15 0 ++ leBytes 2 2
def sst (st : StreamSt) : State := { dev with streams := [(5, { sx with st := st })] }
def copySlot (t : Nat) : Bytes := leBytes 1 t ++ leBytes 15 0 ++ leBytes 8 4096 ++ leBytes 8 1048576 ++ leBytes 8 128
def snrSlot : Bytes := leBytes 1 8 ++ leBytes 15 0 ++ leBytes 8 4096 ++ leBytes 8 4096

theorem copyWay_plain {s : State} {p a n : Nat} (h : tget s.seals p = none) : ∀ z f, copyWay s p a n ≠ .sealed z f := by
  intro z f; unfold copyWay; rw [h]; exact fun e => by cases e

theorem test_met_StreamManifests : (∀ t ∈ [0, 12], nextMan (qm (nopSlot t) dev) 0 = some (man (nopSlot t)) ∧ fieldB (man (nopSlot t)).slot 0 1 = t)
    ∧ manUp (qm openSlot dev) 0 3 0x24 (man openSlot) (up openSlot dev)
    ∧ manUp (qm (clSlot 4) (sst .opened)) 0 4 0x12 (man (clSlot 4)) (up (clSlot 4) (sst .opened)) ∧ psnStream (up (clSlot 4) (sst .opened)) 0 0 (fieldB (man (clSlot 4)).slot 0x10 2) = some (5, { sx with st := .opened })
    ∧ manUp (qm (clSlot 5) (sst .failed)) 0 5 0x12 (man (clSlot 5)) (up (clSlot 5) (sst .failed)) ∧ psnStream (up (clSlot 5) (sst .failed)) 0 0 (fieldB (man (clSlot 5)).slot 0x10 2) = some (5, { sx with st := .failed }) := by
  have h : ∀ t ∈ [4, 5], fieldB (man (clSlot t)).slot 0 1 = t ∧ manHeadBad (man (clSlot t)).slot = false ∧ zeroB (man (clSlot t)).slot 0x12 128 = true := by decide +kernel
  exact ⟨by decide +kernel, up_ok _ _ _ _ (.inl (by decide +kernel)) (by decide +kernel), up_ok _ _ _ _ (.inl (by decide +kernel)) (h 4 (by simp)), by decide +kernel,
    up_ok _ _ _ _ (.inl (by decide +kernel)) (h 5 (by simp)), by decide +kernel⟩

theorem test_met_CopyManifests : (∀ t ∈ [6, 7], manUp (qm (copySlot t) dev) 0 t 0x2C (man (copySlot t)) (up (copySlot t) dev) ∧ ∀ z f, copyWay (up (copySlot t) dev) 0 1048576 128 ≠ .sealed z f)
    ∧ (∀ t ∈ [6, 7], copyCheck (up (copySlot t) dev) 0 (man (copySlot t)) (decide (t = 6)) = 0) ∧ ((qp (up (copySlot 6) dev) 0).mans.find? (fun m => m.stage = 1 && fieldB m.slot 0 1 = 6)).isSome = true
    ∧ dev.sec.entWait = false ∧ (∀ i < 2, (up (copySlot 7) dev).poison.contains (16384 + i) = false)
    ∧ manUp (qm snrSlot dev) 0 8 0x20 (man snrSlot) (up snrSlot dev) ∧ hostBad (fieldB (man snrSlot).slot 0x10 8) = false := by
  have h : ∀ t ∈ [6, 7], ptnMaint (qm (copySlot t) dev) (qpPtn (qm (copySlot t) dev) 0) = false
      ∧ fieldB (man (copySlot t)).slot 0 1 = t ∧ manHeadBad (man (copySlot t)).slot = false ∧ zeroB (man (copySlot t)).slot 0x2C 128 = true := by decide +kernel
  exact ⟨fun t ht => ⟨up_ok _ _ _ _ (.inr (h t ht).1) (h t ht).2, copyWay_plain rfl⟩, by decide +kernel, by decide +kernel, by decide +kernel, by decide +kernel,
    up_ok _ _ _ _ (.inl (by decide +kernel)) (by decide +kernel), by decide +kernel⟩

def rqp (conn : Bool) : RoceQp := { qp := 0, part := 0, port := 0, mtu := 0, base := 0, len := 4096, rkey := 1, conn := conn }
/-- The device with port 0 enabled for RoCE, and perhaps a RoCE queue pair 7. -/
def rdev (l : Tbl RoceQp) : State := { regs [(rNetPortcfg 0, 17), (rNetPortstat 0, 1)] dev with roce := l }
def rcSlot : Bytes := leBytes 1 9 ++ leBytes 15 0 ++ leBytes 8 0 ++ leBytes 8 0 ++ leBytes 8 64
def rxSlot (o : Nat) : Bytes := leBytes 1 9 ++ leBytes 15 0 ++ leBytes 1 o ++ leBytes 3 0 ++ leBytes 4 7
def rpSlot (verb : Nat) : Bytes := leBytes 1 9 ++ leBytes 15 0 ++ leBytes 1 3 ++ leBytes 2 0 ++ leBytes 1 verb ++ leBytes 4 7 ++ leBytes 8 0 ++ leBytes 8 64

theorem test_met_RoceRows_create : manUp (qm rcSlot (rdev [])) 0 9 0x50 (man rcSlot) (up rcSlot (rdev []))
    ∧ fieldB (man rcSlot).slot 0x10 1 = 0 ∧ fieldB (man rcSlot).slot 0x11 1 = 0 ∧ fieldB (man rcSlot).slot 0x12 1 ≤ 2 ∧ fieldB (man rcSlot).slot 0x13 1 = 0 ∧ fieldB (man rcSlot).slot 0x14 4 = 0
    ∧ zeroB (man rcSlot).slot 0x28 0x50 = true ∧ bit (rd (up rcSlot (rdev [])) (rNetPortcfg 0)) 4 = true ∧ fieldB (man rcSlot).slot 0x20 8 ≠ 0 ∧ (ptnHbm (up rcSlot (rdev [])) 0).1 ≤ fieldB (man rcSlot).slot 0x18 8
    ∧ fieldB (man rcSlot).slot 0x18 8 + fieldB (man rcSlot).slot 0x20 8 ≤ (ptnHbm (up rcSlot (rdev [])) 0).2 ∧ inSeal (up rcSlot (rdev [])) 0 0 64 = false
    ∧ (rangeFrom 0 256).find? (fun i => !thas (up rcSlot (rdev [])).roce i) = some 0 :=
  ⟨up_ok _ _ _ _ (.inr (by decide +kernel)) (by decide +kernel), by decide +kernel⟩

theorem test_met_RoceRows_connect : ∀ o ∈ [1, 2], fieldB (man (rxSlot o)).slot 0x10 1 = o ∧ zeroB (man (rxSlot o)).slot 0x11 0x14 = true ∧ zeroB (man (rxSlot o)).slot 0x18 0x50 = true
    ∧ zeroB (man (rxSlot o)).slot 0x18 0x28 = true ∧ zeroB (man (rxSlot o)).slot 0x40 0x50 = true ∧ fieldB (man (rxSlot o)).slot 0x38 4 < 2 ^ 24 ∧ fieldB (man (rxSlot o)).slot 0x3C 4 < 2 ^ 24
    ∧ manRoce (up (rxSlot o) (rdev [(7, rqp false)])) 0 (man (rxSlot o)) = some (7, rqp false) := by decide +kernel

theorem test_met_RoceRows_post : (∀ v ∈ [0, 1, 2, 3], fieldB (man (rpSlot v)).slot 0x10 1 = 3 ∧ fieldB (man (rpSlot v)).slot 0x13 1 = v ∧ zeroB (man (rpSlot v)).slot 0x11 0x13 = true
      ∧ zeroB (man (rpSlot v)).slot 0x28 0x40 = true ∧ zeroB (man (rpSlot v)).slot 0x40 0x4C = true ∧ zeroB (man (rpSlot v)).slot 0x4C 0x50 = true
      ∧ manRoce (up (rpSlot v) (rdev [(7, rqp true)])) 0 (man (rpSlot v)) = some (7, rqp true) ∧ (ptnHbm (up (rpSlot v) (rdev [(7, rqp true)])) 0).1 ≤ fieldB (man (rpSlot v)).slot 0x18 8
      ∧ fieldB (man (rpSlot v)).slot 0x18 8 + fieldB (man (rpSlot v)).slot 0x20 8 ≤ (ptnHbm (up (rpSlot v) (rdev [(7, rqp true)])) 0).2 ∧ devPoison (up (rpSlot v) (rdev [(7, rqp true)])) 0 64 = false)
    ∧ tget (rdev [(7, rqp true)]).roce 7 = some (rqp true) ∧ (frameIn (rdev [(7, rqp true)]) 0 true true true 1 0 ∧ arrived (rdev [(7, rqp true)]) 0 = rdev [(7, rqp true)]) ∧ bit (rd (rdev [(7, rqp true)]) (rNetPortcfg 0)) 4 = true
    ∧ ({ kind := 0, qpn := 7 } : RocePkt).udp = 4791 ∧ (rqp true).conn = true := by
  unfold frameIn; decide +kernel

/-- A job of two replicas whose root is this device, with toll checks of every step, keyed and on port 0. -/
def ctoll (rank : Nat) (t : Option Toll) (i : Tbl (Tbl Nat)) : Ctx := { cb rank with prog := { pr with plan := { pr.plan with devices := 2, replicas := 2, bells := 4 } }, toll := t, tollIn := i }
def stoll (c : Ctx) (node role : Nat) : State :=
  { regs [(rNetPortstat 0, 1), (rWardstat, 1), (rPtnToll 0, 1 + 2 ^ 16), (rWard, 5)] (at0 c) with prof := { node := node, role := role, paths := [(3, 8, [0])] } }
def wf0 (op source target n : Nat) : WardFrame := { op := op, target := target, source := source, counter := n }
def wf (op source target n : Nat) : WardFrame := { wf0 op source target n with tag := (hmac384 [] ((bodyAt (wf0 op source target n) op 0).take 48)).take 16 }

/-- The first two are this device as root of a job, as a plain device and as a gateway; the third a leaf's. -/
def sroot : State := stoll (ctoll 0 none []) 7 0
def sgate : State := stoll (ctoll 0 none []) 7 1
def sleaf : State := stoll (ctoll 1 (some { step := 0, t := 0 }) []) 8 0
def ctl1 : Ctx := ctoll 1 (some { step := 0, t := 0, dueCount := some 1 }) []
def stl1 : State := { at0 ctl1 with parts := [(0, { resident := some 0, points := 1025 })], cycle := 2 ^ 30 }

theorem test_met_WardRows : (∀ s ∈ [sroot, sgate], frameIn s 0 true true true 1 11 ∧ arrived s 0 = s ∧ wardWake s 0 = s ∧ keyed s = true ∧ (wf0 1 8 7 6).path.length ≤ (wf0 1 8 7 6).pidx ∧ (wf0 1 8 7 6).target = s.prof.node)
    ∧ frameIn sleaf 0 true true true 1 11 ∧ arrived sleaf 0 = sleaf ∧ wardWake sleaf 0 = sleaf ∧ keyed sleaf = true ∧ (wf0 2 7 8 6).target = sleaf.prof.node
    ∧ (sroot.ctxs.find? (fun e => tollRuns e.2 && e.2.rank = 0 && e.2.ranks.contains 8 && tollStep sroot e.1 e.2 0 && ((0 : Nat) = e.2.step || thas e.2.tollIn 0))).isSome = true
    ∧ (sleaf.ctxs.find? (fun e => tollRuns e.2 && e.2.ranks.getD 0 0 = 7 && (match e.2.toll with | some t => (t.step : Nat) = 0 && t.verdict.isNone | none => false))).isSome = true
    ∧ rd sroot rWard < (wf0 3 8 7 6).counter ∧ (wf0 3 8 7 5).counter ≤ rd sroot rWard ∧ sgate.prof.role = 1 ∧ sroot.prof.role ≠ 1 ∧ peerOfNode sgate 8 = some 3
    ∧ resident stl1 0 = some (0, ctl1) ∧ tollDue stl1 0 = some (0, ctl1, { step := 0, t := 0, dueCount := some 1 }) ∧ 1 + musterTimeout stl1 ctl1 ≤ (part stl1 0).points := by
  unfold frameIn; decide +kernel

/-- The tags of the four kinds, with their counters, and a frame without one. -/
theorem test_met_WardRows_tags : tagFits sroot (wf 1 8 7 6) 1 = true ∧ tagFits sleaf (wf 2 7 8 6) 2 = true ∧ tagFits sroot (wf 3 8 7 6) 3 = true ∧ tagFits sroot (wf 3 8 7 5) 3 = true
    ∧ tagFits sgate (wf 4 8 7 6) 4 = true ∧ tagFits sroot (wf0 1 8 7 6) 1 = false ∧ tagFits sroot (wf0 3 8 7 6) 3 = false := by
  and_intros <;> decide +kernel

theorem test_met_PeerRows : accepts sgw (.host none) = true ∧ barWake sgw (.host none) = sgw ∧ sgw.prof.role = 1 ∧ bit (rd sgw rHifStatus) 0 = true ∧ (2 : Fin 64).val ≠ 0 ∧ vfOn sgw 2 = true := by decide +kernel

/-- Port 0 up, with stream 5. -/
def sp0 (st : StreamSt) (l : Bool := false) : State :=
  { regs [(rNetPortcfg 0, 1), (rNetPortstat 0, if l then 3 else 1)] {} with streams := [(5, { sx with st := st, jobkey := 0, psn := 0 })], ports := [(0, { link := true })] }
def frp (pl : Bytes) (d : Nat := 5) : CvtFrame := { node := 9, dsidx := d, ssidx := 3, payload := pl }
/-- A partition's open stream that meets a frame, with n frames not acknowledged. -/
def sin (n : Nat) : State := { portOn (at0 cm) with streams := [(5, { sx with unacked := n })] }
def uin (n : Nat) : State := applyHeld 256 (applyFrame (sin n) 0 5 fr) 0 5

theorem test_met_CvtStreamFrames : meetsStream (portOn (at0 cm)) 0 fr sx ∧ frameIn (portOn (at0 cm)) 0 true true true 1 0 ∧ stream (portOn (at0 cm)) 6 = none
    ∧ (List.range 256).filter (fun i => bit (fieldB (frp []).payload (i / 8) 1) (i % 8)) = []
    ∧ ((List.range 256).filter (fun i => bit (fieldB (frp [byte 2]).payload (i / 8) 1) (i % 8))).getLast? = some 1
    ∧ portUp (portOn (at0 cm)) 0 = true ∧ shimOk (portOn (at0 cm)) 0 = true ∧ ({ fr with ver := 2 }).ver ≠ 1 ∧ 12 ≤ ({ fr with type := 13 }).type ∧ ({ fr with icrcOk := false }).ver = 1 := by
  unfold meetsStream frameIn; decide +kernel

theorem test_met_CvtStreamFrames_order : ∀ n ∈ [0, 7], stream (sin n) 5 = some { sx with unacked := n } ∧ fr.type ≠ 7 ∧ fr.seq = ({ sx with unacked := n } : Stream).rcvNxt ∧ rxReady (sin n) { sx with unacked := n } = true
    ∧ cteStops (sin n) { sx with unacked := n } fr = false ∧ heldClose (uin n) 5 = false
    ∧ (match stream (uin n) 5 with | some y => decide (y.st ≠ .failed) && decide (8 ≤ y.unacked) == decide (n = 7) | none => false) = true := by decide +kernel

/-- The frame of an OPEN, ACCEPT or REFUSE. -/
def fop : CvtFrame := frp (List.replicate 32 0)
def fex (n : Nat) : TxFrame := { seq := 2, type := 0, sent := true, tries := n }

theorem test_met_StreamOpening : (∀ st ∈ [StreamSt.listen, .opening], frameIn (sp0 st) 0 true true true 1 0 ∧ arrived (sp0 st) 0 = sp0 st ∧ tunReset (sp0 st) 0 fop = sp0 st ∧ (sp0 st).sec.entWait = false)
    ∧ ((sp0 .listen).streams.find? (fun e => (dieOfSidx e.1 = 0 && e.2.jobkey = beNat (sliceB fop.payload 0 8) && e.2.psn = beNat (sliceB fop.payload 8 2) && e.2.peer = 9) && e.2.st = .listen)).isSome = true
    ∧ (match stream (sp0 .opening) 5 with
      | some st => decide (st.peer = 9) && st.st = .opening && st.jobkey = beNat (sliceB fop.payload 0 8) && st.psn = beNat (sliceB fop.payload 8 2) && st.coll.isNone
      | none => false) = true
    ∧ (∀ n ∈ [1, 3], 1 ≤ fieldB (frp [byte n]).payload 0 1 ∧ fieldB (frp [byte n]).payload 0 1 ≤ 3) ∧ 0 < ({ sx with unacked := 1 } : Stream).unacked
    ∧ (∀ n ∈ [0, 11], [fex n].find? (fun f => f.seq = 2 && f.sent) = some (fex n))
    ∧ (fex 0).tries + 1 < fld (sp0 .opened) (rNetCvtcfg 0) 55 48 ∧ fld (sp0 .opened) (rNetCvtcfg 0) 55 48 ≤ (fex 11).tries + 1 := by
  unfold frameIn; decide +kernel

/-- A packet to node 1 from node 2 with a hop limit of 2, on port 0 of node 0 with a default route through port 0. -/
def pkt : Bytes := List.replicate 7 0 ++ [byte 2] ++ List.replicate 8 0 ++ beBytes 8 64 ++ List.replicate 8 0 ++ beBytes 8 32
def sport (cfg stat : Nat) (link : Bool) : State := { regs [(rNetPortcfg 0, cfg), (rNetPortstat 0, stat), (rNetDefroute 0, 1)] {} with ports := [(0, { link := link })] }

theorem test_met_PortRows : (∀ c ∈ [1, 9], portEn (sport c 0 false) 0 = true ∧ portPowered (sport c 0 false) 0 = true ∧ (portSt (sport c 0 false) 0).link = false ∧ bit (rd (sport c 0 false) (rNetPortcfg 0)) 3 = decide (c = 9))
    ∧ (portSt (sport 1 1 true) 0).link = true ∧ bit (rd (sport 9 0 true) (rNetPortcfg 0)) 3 = true ∧ (portSt (sport 9 0 true) 0).link = true ∧ llrOn (sport 9 0 true) 0 = false
    ∧ llrOn (sport 9 3 true) 0 = true ∧ (portSt (sport 9 3 true) 0).expect = 0 ∧ bit (0x40 : BitVec 8).toNat 6 = true ∧ bit (0 : BitVec 8).toNat 6 = false
    ∧ portUp (sport 1 1 true) 0 = true ∧ llrOn (sport 1 1 true) 0 = false
    ∧ beNat (sliceB pkt 32 8) / 32 ≠ (sport 1 1 true).prof.node ∧ beNat (sliceB pkt 24 8) = rd (sport 1 1 true) (rNetPrefix 0) ∧ 1 < fieldB pkt 7 1 ∧ fld (sport 1 1 true) rPwrStat 2 0 < 2
    ∧ accepts (sport 0 0 false) (.host none) = true ∧ barWake (sport 0 0 false) (.host none) = sport 0 0 false ∧ portEn (sport 0 0 false) 0 = false ∧ portCfgOk (sport 0 0 false) 0 1 = true ∧ portEn (sport 1 1 true) 0 = true
    ∧ bits (0 : BitVec 32).toNat 4 1 = fld (sport 1 1 true) (rNetPortcfg 0) 4 1 := by decide +kernel

theorem test_met_PortRows_route (a b : Bytes) (c : Nat) : pickPort a b c 0 (routeMask (sport 1 1 true) 0 1) = some 0 := by
  have h : setBitsOf 16 (routeMask (sport 1 1 true) 0 1) = [0] := by decide +kernel
  simp [pickPort, h, Nat.mod_one]

/-- A transit queue of n bytes. -/
def stq (n : Nat) : State := { sport 1 1 true with ports := [(0, { link := true, transit := [List.replicate n 0] })] }

theorem test_met_PortRows_transit : frameIn (sport 1 1 true) 0 true true true 1 0 ∧ arrived (sport 1 1 true) 0 = sport 1 1 true ∧ shimOk (sport 1 1 true) 0 = true ∧ shimTaken (sport 1 1 true) 0 = sport 1 1 true
    ∧ transitHeld (stq 0) 0 + pkt.length ≤ 2 ^ 22 := by
  unfold frameIn; decide +kernel

/-- An empty queue has room, and one of 4 MiB has none, whatever the share. -/
theorem test_met_PortRows_share : transitBytes (stq 0) 0 < transitShare 0 ∧ transitShare 0 ≤ transitBytes (stq (2 ^ 22)) 0 := by
  have h : ∀ n, transitBytes (stq n) 0 = n := by
    intro n
    show [List.replicate n (0 : Byte)].foldl (fun a p => a + p.length) 0 = n
    simp
  have hm : Config.transitShare 0 % 2 ^ 22 < 2 ^ 22 := Nat.mod_lt _ (by decide)
  rw [h, h, transitShare]
  omega

theorem test_met_CvuRows : accepts {} (.host none) = true ∧ barWake {} (.host none) = {} ∧ (∀ p ∈ [0, 1], cvuPoly (regs [(rCvuCfg 0, 2 * p)] {}) 0 0 = decide (p = 1)) ∧ bit (rd (regs [(rCvuCfg 0, 0)] {}) (rCvuCfg 0)) 0 ≠ true
    ∧ bit (rd (regs [(rCvuCfg 0, 1)] {}) (rCvuCfg 0)) 0 = true := by decide +kernel

/-- Stack 0 online and patrolled. -/
def shb : State := regs [(rMemHstat 0, 2048), (rMemScrub 0, 1)] {}
/-- A mailbox command of die 0 under way. -/
def smb (c : Nat) : State := { mbox := [(0, { cmd := c, stack := 0 })] }
/-- The same where the stack has used its two spare PCs. -/
def smbFull : State := regs [(rMemHstat 0, 2 ^ 15)] (smb 4)

theorem test_met_HbmRows : ((0 : BitVec 48).toNat < hbmEnd ∧ stackOn shb (hbmStack (0 : BitVec 48).toNat) = true)
    ∧ (bit (rd shb (rMemScrub (0 / 4))) 0 = true ∧ stackOn shb 0 = true ∧ fld shb rPwrStat 2 0 < 2 ∧ patrolReady shb 0 = true)
    ∧ stackState shb 0 ≠ 0 ∧ stackState shb 0 ≠ 3 ∧ accepts shb (.mgc 0) = true ∧ shb.chain.die1Bad = false
    ∧ (∀ p < 8, ptnRuns shb p = false ∨ halfBase 0 + hbmHalf ≤ (ptnHbm shb p).1 ∨ (ptnHbm shb p).2 ≤ halfBase 0)
    ∧ (bits 3 7 0 = 3 ∧ bit (rd shb (rMboxCtl 0)) 3 = false)
    ∧ (∀ c ∈ [1, 2, 3, 4, 5, 6], tget (smb c).mbox 0 = some { cmd := c, stack := 0 })
    ∧ fld (smb 4) (rMemHstat 0) 15 14 < 2 ∧ (smb 4).spared.contains (0, 0) = false
    ∧ (tget smbFull.mbox 0 = some { cmd := 4, stack := 0 } ∧ 2 ≤ fld smbFull (rMemHstat 0) 15 14 ∧ smbFull.spared.contains (0, 0) = false) := by decide +kernel

/-- A power ladder in the given place. -/
def spw (steps : Nat) (ent lea : Bool) (goal : Nat := 0) (lost : Bool := false) : State := { power := { steps := steps, entering := ent, leaving := lea, goal := goal }, pins := { drumLost := lost } }
/-- Idle since cycle 0, AUTO_REST set with IDLE 0. -/
def sidle : State := { regs [(rPwrCtl, 8)] {} with power := { idleAt := some 0 } }
/-- Partition 0, at K 12, runs a context at k 12 and wants w; the cadence step off and on; the cycle is two seconds after boot. -/
def scad (on : Bool) (w : Nat) : State :=
  { regs [(rMemCadence, 1), (rDbtPeriod 0, 1 + 12 * 16)] (at0 { cx {} with kMan := 12 }) with parts := [(0, { resident := some 0, kWant := w, kRaised := some 0 })], thermal := { hbmCad := on }, cycle := 2000 * 1600 * 1250 }
/-- A throttle step with a duty, ten milliseconds on. -/
def sthr (d : Nat) : State := { regs [(rMemCadence, d * 2 ^ 24)] {} with thermal := { pkgThr := true }, cycle := 10 * 1600 * 1250 }

theorem test_met_PowerRows : accepts {} (.mgc 0) = true ∧ bits (0x10004 : BitVec 32).toNat 2 0 ≤ 4 ∧ bits (0x10004 : BitVec 32).toNat 31 16 ≠ 0 ∧ 4 < bits (5 : BitVec 32).toNat 2 0
    ∧ ((spw 0 true false 1).power.entering = true ∧ (spw 0 true false 1).power.leaving = false ∧ (spw 0 true true 0).power.leaving = true)
    ∧ ((spw 8 false true 0 true).power.entering = false ∧ (spw 8 false true 0 true).power.leaving = true ∧ (spw 8 false true 0 true).power.steps = 8 ∧ (spw 8 false true 0 true).pins.drumLost = true)
    ∧ ((spw 3 false true 0).power.entering = false ∧ (spw 3 false true 0).power.leaving = true ∧ (spw 3 false true 0).power.goal < (spw 3 false true 0).power.steps - 1)
    ∧ ((spw 1 false true 0).power.entering = false ∧ (spw 1 false true 0).power.leaving = true ∧ (spw 1 false true 0).power.steps - 1 ≤ (spw 1 false true 0).power.goal)
    ∧ begunState (spw 1 false false).power = 1 ∧ begunState (spw 6 false false).power = 3 ∧ 1 < (spw 6 false false).power.steps
    ∧ (sidle.power.idleAt = some 0 ∧ 0 * 1000 + fld sidle rPwrCtl 31 16 * msCycles sidle ≤ sidle.cycle * 1000 ∧ bit (rd sidle rPwrCtl) 3 = true ∧ moving sidle = false ∧ sidle.power.steps = 0 ∧ idleRow sidle = true)
    ∧ bit (rd (regs [(rPwrStat, 1024)] {}) rPwrStat) 10 = true
    ∧ (∀ b ∈ [false, true], resident (scad b 12) 0 = some (0, { cx {} with kMan := 12 }) ∧ resident (scad b 14) 0 = some (0, { cx {} with kMan := 12 }))
    ∧ (cadOn (scad true 12) = true ∧ raiseDue (scad true 12) (part (scad true 12) 0) = true ∧ (part (scad true 12) 0).kWant < 26)
    ∧ (cadOn (scad false 14) = false ∧ lowerDue (scad false 14) (part (scad false 14) 0) = true ∧ 12 < (part (scad false 14) 0).kWant)
    ∧ (∀ d ∈ [1, 6], thrOn (sthr d) = true ∧ fld (sthr d) rMemCadence 26 24 < 7 ∧ fld (sthr d) rMemCadence 26 24 ≠ 0 ∧ (sthr d).thermal.dutyAt + 10 * msCycles (sthr d) ≤ (sthr d).cycle
        ∧ (sthr d).thermal.thrNext ≤ (sthr d).cycle) := by decide +kernel

/-- References seen: DRUM_REF count, last pulse, time. -/
def sref (drum : Nat) (time : Option (Nat × Nat)) : State := { refs := { drum := drum, lastPulse := some 5, time := time } }
/-- Long after the last kick, heartbeat and report, with firmware running on both dies. -/
def slate : State := { cycle := 100 * 1600 * 1250, boot := { step := 9 }, chain := { die1Bad := true, bridge := [(0, 3)] } }

theorem test_met_ClockRows : ({} : State).power.steps ≠ 8 ∧ (spw 8 false false).power.steps = 8 ∧ ({ boot := { held := 2 } } : State).boot.held = 2
    ∧ (∀ d ∈ [6, 2 ^ 20 + 4], (sref d none).boot.held ≠ 2 ∧ (sref d none).refs.lastPulse = some 5 ∧ (sref d none).refs.drum - 5 ≠ 2 ^ 20 ∧ domain1 (sref d none) = false)
    ∧ ((sref (2 ^ 20 + 5) (some (64, 0))).refs.drum - 5 = 2 ^ 20 ∧ domain1 (sref (2 ^ 20 + 5) (some (64, 0))) = false ∧ (sref (2 ^ 20 + 5) (some (64, 0))).refs.time = some (64, 0))
    ∧ ({} : State).refs.lastPulse = none ∧ 5 + 2 ^ 21 ≤ (sref (2 ^ 21 + 5) none).refs.drum
    ∧ accepts {} (.mgc 0) = true ∧ barWake {} (.mgc 0) = {} ∧ bit (65536 : BitVec 32).toNat 16 = true
    ∧ slate.boot.held = 0 ∧ die1Runs slate = true ∧ tgetD slate.chain.kicks 0 0 + fld slate (rWdog 0) 15 0 * msCycles slate ≤ slate.cycle
    ∧ slate.chain.beat + 10 * msCycles slate ≤ slate.cycle ∧ slate.chain.die1Bad = true ∧ slate.chain.badAt + 100 * msCycles slate ≤ slate.cycle
    ∧ slate.chain.bridgeDown = false ∧ 4 ≤ tgetD slate.chain.bridge 0 0 + 1
    ∧ ((at0 (cx {})).chain.bridgeDown = false ∧ tgetD (at0 (cx {})).chain.bridge 0 0 + 1 < 4 ∧ resident (at0 (cx {})) 0 = some (0, cx {})) := by decide +kernel

/-- The smallest valid profile. -/
def pushProf : Profile := { ledgerPop := 2, wardKey := List.replicate 48 0, sealAuth := List.replicate 48 0 }
/-- A signature under the private key 1, and its public key. -/
def sig1 (b : Bytes) : Bytes := ecdsaSign 1 1 (sha384 b)
def key1 : Bytes := publicKey 1
def pkgRow (t o n : Nat) : Bytes := leBytes 2 t ++ leBytes 6 0 ++ leBytes 8 o ++ leBytes 8 n ++ leBytes 8 0
/-- A package of six sections: an IMAGE of nothing, its signature, no certificates, a PROFILE and its signature. -/
def pkgOf (pr sig sigO : Bytes) : Bytes :=
  leBytes 4 0x46374E46 ++ leBytes 2 1 ++ leBytes 2 6 ++ leBytes 8 (557 + pr.length) ++ leBytes 48 0
    ++ pkgRow 1 256 12 ++ pkgRow 2 268 96 ++ pkgRow 3 268 0 ++ pkgRow 4 268 0 ++ pkgRow 5 364 pr.length ++ pkgRow 6 (364 + pr.length) 193 ++ imageBytes {} ++ sig ++ pr ++ sigO
def pkg1 (p : Profile) : Bytes := pkgOf (profileBytes p) (sig1 (imageBytes {})) (key1 ++ sig1 (profileBytes p))
/-- A push of a package with a profile. -/
def push (b : Bytes) (p : Profile) (chain record : Bool) : FwPush := { pkg := some b, prof := p, chainOk := chain, signKey := key1, recordOk := record, devKey := devIdKey [] }
/-- The boot at a step. -/
def sbt (n : Nat) (warm : Bool := false) : State := { boot := { step := n, warm := warm } }

theorem test_met_ResetAndBootRows : (({ pins := { por := true } } : State).pins.por = true ∧ ({ pins := { rst := true } } : State).pins.rst = true)
    ∧ (hostStrap {} = true ∧ ({ pins := { perst := true } } : State).pins.perst = true ∧ hostStrap { pins := { perst := true } } = true)
    ∧ (({ pins := { pwrEn := true, railWait := 0 } } : State).pins.pwrEn = true ∧ ({ pins := { pwrEn := false } } : State).pins.pwrEn = false ∧ ({ pins := { supply := true } } : State).pins.supply = true ∧ 0 < ({ pins := { railWait := 5 } } : State).pins.railWait)
    ∧ (accepts (sbt 3) (.host none) = true ∧ barWake (sbt 3) (.host none) = sbt 3 ∧ bit (rd (sbt 3) rHifFwctl) 1 = false ∧ fld (sbt 3) rPwrStat 13 11 = 0 ∧ (sbt 3).boot.step = 3)
    ∧ (∀ n ∈ [1, 2, 5, 6, 7, 8], (sbt n).boot.held = 0 ∧ fld (sbt n) rPwrStat 13 11 = 0 ∧ (sbt n).boot.step = n) ∧ hostStrap (sbt 2) = true ∧ (sbt 7).sec.entWait = false
    ∧ (∀ b, b = regs [(rHifFwctl, 2), (rBootstat, 64)] (sbt 4) → bit (rd b rHifFwctl) 1 = true ∧ bit (rd b rBootstat) 6 = true ∧ profileOk b pushProf = true ∧ profileOk b {} = false) := by
  refine ⟨by decide +kernel, by decide +kernel, by decide +kernel, by decide +kernel, by decide +kernel, by decide +kernel, by decide +kernel, ?_⟩
  rintro b rfl; decide +kernel

/-- Packages that fail one check after the other, and one that passes all. -/
theorem test_met_ResetAndBootRows_push : pkgOk [] 0 = false
    ∧ (∀ p ∈ [pushProf, {}, { pushProf with svnMin := 1 }], pkgOk (pkg1 p) (557 + (profileBytes p).length) = true ∧ pkgSec (pkg1 p) 1 = imageBytes {} ∧ pkgSec (pkg1 p) 5 = profileBytes p)
    ∧ (push (pkg1 pushProf) pushProf false true).chainOk = false ∧ (push (pkg1 pushProf) pushProf true true).chainOk = true ∧ (push (pkg1 pushProf) pushProf true false).recordOk = false
    ∧ (push (pkg1 pushProf) { pushProf with svnMin := 1 } true true).fw.svn < (push (pkg1 pushProf) { pushProf with svnMin := 1 } true true).prof.svnMin
    ∧ pkgOk (pkgOf (profileBytes pushProf) (List.replicate 96 0) (List.replicate 193 0)) (557 + (profileBytes pushProf).length) = true
    ∧ ecdsaOk key1 (sha384 (imageBytes {})) (List.replicate 96 0) = false ∧ ecdsaOk (List.replicate 97 0) (sha384 (profileBytes pushProf)) (List.replicate 96 0) = false := by
  and_intros <;> decide +kernel

theorem test_met_ResetAndBootRows_signatures : (push (pkg1 pushProf) pushProf true true).devKey = devIdKey (push (pkg1 pushProf) pushProf true true).helper
    ∧ (∀ p ∈ [pushProf, {}, { pushProf with svnMin := 1 }], ecdsaOk key1 (sha384 (pkgSec (pkg1 p) 1)) (pkgSec (pkg1 p) 2) = true
      ∧ ecdsaOk ((pkgSec (pkg1 p) 6).take 97) (sha384 (pkgSec (pkg1 p) 5)) ((pkgSec (pkg1 p) 6).drop 97) = true) := by
  refine ⟨by simp only [push], ?_⟩
  decide +kernel

/-- A function in a TDI state, with an open session and a keyed IDE stream; the device has no peers. -/
def stdi (n : Nat) : State := { regs [(rSecTdi 0, n)] {} with sec := { sessions := [(0, 1)], ide := [(2, 1, true)] } }
/-- Partition 0 with the given contexts and seal control. -/
def sseal (c : Tbl Ctx) (v : Nat) : State := { regs [(rSealctl 0, v)] {} with ctxs := c }
/-- A gateway of three peers with the link up. -/
def sgwUp : State := { sgw with pins := { pcieUp := true } }
/-- The link up. -/
def sup : State := { pins := { pcieUp := true } }

theorem test_met_SecurityRows : bit (rd (regs [(rBootstat, 64)] {}) rBootstat) 6 = true
    ∧ (∀ n ∈ [0, 1, 2, 4], (stdi n).sec.sessions.any (fun e => e.1 = (0 : Fin 64).val) = true ∧ tdiState (stdi n) 0 = n ∧ tget (stdi n).sec.ide 2 = some (1, true) ∧ isTdi (stdi n) 0 = true)
    ∧ (4 ≤ ({ sec := { sessions := [(0, 1), (0, 2), (0, 3), (0, 4)] } } : State).sec.sessions.length ∧ (stdi 0).sec.sessions.length < 4)
    ∧ (sup.pins.pcieUp = true ∧ isTdi sup 0 = true ∧ (tget sup.sec.cfg (cfgKey 0 (.bar 0))).getD 0 ≠ cfgValue (.bar 0) (BitVec.ofNat 32 (2 ^ 31)))
    ∧ ((sgwUp.pins.pcieUp = true) ∧ (3 : BitVec 32).toNat ≤ totalVfs sgwUp ∧ (tget sgwUp.sec.cfg (cfgKey 0 .numVfs)).getD 0 ≠ (3 : BitVec 32))
    ∧ (accepts {} (.host none) = true ∧ barWake {} (.host none) = {})
    ∧ (bit 2 1 = true ∧ bit 2 0 = false ∧ bit 1 0 = true ∧ bit (rd (sseal [(0, cx {})] 0) (rSealctl 0)) 7 = false)
    ∧ (bits 1 31 11 = 0 ∧ (bit (rd (sseal [(0, cx {})] 64) (rSealctl 0)) 6 = true ∧ bit 1 1 = false) ∧ ctxNone (sseal [] 0) 0 0 = true ∧ accepts (sseal [(0, cx {})] 64) (.host none) = true
      ∧ barWake (sseal [(0, cx {})] 64) (.host none) = sseal [(0, cx {})] 64)
    ∧ (bit (rd (sseal [(0, cx {})] 0) (rSealctl 0)) 6 = false ∧ ctxNone (sseal [(0, cx {})] 0) 0 0 = false ∧ winFits (sseal [(0, cx {})] 0) 0 0 (rd (sseal [(0, cx {})] 0) (rSealwin 0)) = true
      ∧ winFits (regs [(rSealwin 0, 2 ^ 49)] (sseal [(0, cx {})] 0)) 0 0 (2 ^ 49) = false)
    ∧ (∀ l ∈ [([], false), ([(0, cx {})], true)], bit (rd (sseal l.1 128) (rSealctl 0)) 7 = true
      ∧ ctxNone (setFld (sseal l.1 128) (rSealctl 0) 7 7 0) 0 (fld (setFld (sseal l.1 128) (rSealctl 0) 7 7 0) (rSealctl 0) 5 2) = !l.2) := by decide +kernel

/-- HBM of the whole first half for partition 0. -/
def sptn : State := regs [(rPtnHbm 0, 2 ^ 32)] {}
/-- The description of a register. -/
def dsc (off : Nat) : RegDesc := (regFind off).getD { base := 0, blk := 0, width := 0, flds := [] }

theorem test_met_RegisterRows : (accepts {} (.host none) = true ∧ barWake {} (.host none) = {} ∧ accepts (regs [(rSecTdi 0, 1)] {}) (.host none) = false)
    ∧ (barShape rPwrLimit 4 = true ∧ barShape (rHifSqbase 0) 8 = true ∧ barShape rPwrLimit 2 = false ∧ (dsc rPwrLimit).width = 32 ∧ regFind (rPwrLimit - 4) = none ∧ (dsc (rHifSqbase 0)).width = 64)
    ∧ (∀ x ∈ [(rPwrLimit, 1000, true), (rHifSqbase 0, 4096, true), (rHifSqbase 0, 64, false)],
        (regFind x.1).isSome = true ∧ regIdx (dsc x.1) x.1 = some (0, 0) ∧ x.2.1 % 2 ^ (dsc x.1).width = x.2.1 ∧ clearsEn {} (dsc x.1) x.1 x.2.1 = false ∧ ownRow {} (dsc x.1) x.1 x.2.1 = false
      ∧ fldsOk (dsc x.1) x.2.1 = true ∧ ruleBad {} (dsc x.1) 0 0 x.1 x.2.1 = !x.2.2)
    ∧ ((regFind (rPwrLimit)).isSome = true ∧ fldsOk (dsc rPwrLimit) 4096 = false)
    ∧ (accepts sgw (.host none) = true ∧ barWake sgw (.host none) = sgw ∧ fldsOk (dsc (rDbtPeriod 0)) (2 ^ 20) = false)
    ∧ (∀ x ∈ [(0, 192), (1, 192), (1, 193)], cwPart (rDbtPeriod 0) = some 0 ∧ (regFind (rDbtPeriod 0)).isSome = true
      ∧ x.2 % 2 ^ (dsc (rDbtPeriod 0)).width = x.2 ∧ fldsOk (dsc (rDbtPeriod 0)) x.2 = true
      ∧ (bit (rd (regs [(rDbtPeriod 0, x.1)] {}) (rDbtPeriod 0)) 0 = true ∨ bit x.2 0 = false))
    ∧ (bit (rd {} (rDbtPeriod 0)) 0 = false ∧ (∀ v ∈ [193, 417], (BitVec.ofNat 32 v).getLsbD 0 = true ∧ 12 ≤ bits (BitVec.ofNat 32 v).toNat 8 4 ∧ bits (BitVec.ofNat 32 v).toNat 8 4 ≤ 26))
    ∧ (bit (rd sptn (rPtnCfg 0)) 0 = false ∧ ptnOk sptn 0 (3 : BitVec 64).toNat = true)
    ∧ (∀ v ∈ [2 ^ 36 + 1, 2 ^ 51 + 131071 * 2 ^ 16 + 95 * 64 + 17], bit (rd {} (rBelCfg 0)) 0 = false ∧ belCfgOk v = true ∧ (BitVec.ofNat 64 v).getLsbD 0 = true ∧ (BitVec.ofNat 64 v).toNat = v)
    ∧ (bit (rd (regs [(rBelCfg 0, 1)] {}) (rBelCfg 0)) 0 = true ∧ bellRuns (regs [(rBelCfg 0, 1)] {}) 0 = false) := by
  and_intros <;> decide +kernel

/-- Partition 0 with a ledger region, a ledger ring and a snapshot ring of 16 units, and ledger QP 0. -/
def sldg (en : Nat) (r : Ring) (holds : List Hold := []) : State :=
  { regs [(rLdgMemcfg, 2), (rLdgRegion 0, ledgerBase + 2 ^ 48 * 16), (rLdgBase 0, ledgerBase), (rLdgSize 0, 16), (rSnapBase 0, ledgerBase + 2 ^ 20), (rSnapSize 0, 16), (rLdgCtrl 0, en + 4 * 2 ^ 16),
      (rHifQpcfg 0, flds [(0, 1), (1, 1), (6, 4), (11, 9)])] {} with
    parts := [(0, { ring := r, points := 9, snap := { written := [(128, 128, false)] } })], qps := [(0, { st := 1 })], holds := holds }
def wrec (n : Nat) : LWait := { body := List.replicate n 0, ctx := some 3 }
def bpH : Hold := { id := 0, unit := 9, term := 0, cause := 5, ctx := some 3, u := 0, endAt := none, held := 0, tol := 0 }
/-- A ring that holds almost as much as it can. -/
def rfull : Ring := { waiting := [wrec 256], written := [(32, 1048544, false)], blockedAt := none }

/-- Two records wait to be streamed. -/
def sstr : State := sldg 3 { written := [(0, 32, true), (32, 256, false)] }
/-- Backpressure since the given point. -/
def sbp (n : Nat) : State := sldg 1 { rfull with blockedAt := some n } [bpH]

theorem test_met_LedgerRows : (bit (rd (sldg 1 { waiting := [wrec 256] }) (rLdgCtrl 0)) 0 = true ∧ (part (sldg 1 { waiting := [wrec 256] }) 0).ring.waiting ≠ [] ∧ ringRoom (sldg 1 { waiting := [wrec 256] }) 0 = true)
    ∧ (bit (rd (sldg 1 rfull) (rLdgCtrl 0)) 0 = true ∧ (part (sldg 1 rfull) 0).ring.waiting ≠ [] ∧ ringRoom (sldg 1 rfull) 0 = false ∧ waitingCtxs (sldg 1 rfull) 0 = 3 :: [] ∧ bpHold (sldg 1 rfull) 0 = false)
    ∧ (bit (rd sstr (rLdgCtrl 0)) 1 = true ∧ dropPads (part sstr 0).ring.written = (32, 256, false) :: [] ∧ ledgerQp sstr 0 = some 0
      ∧ 1 + (256 + 63) / 64 ≤ qpSlots sstr 0 ∧ cqRoom sstr 0 (1 + (256 + 63) / 64) = true)
    ∧ (∀ n ∈ [0, 5], (part (sbp n) 0).ring.blockedAt = some n ∧ bpHold (sbp n) 0 = true ∧ n + fld (sbp n) (rLdgCtrl 0) 31 16 ≤ (part (sbp n) 0).points)
    ∧ (accepts (sldg 0 {}) (.mgc 1) = true ∧ barWake (sldg 0 {}) (.mgc 1) = sldg 0 {} ∧ bit (rd (sldg 0 {}) (rLdgCtrl 0)) 0 = false ∧ (65537 : BitVec 32).getLsbD 0 = true ∧ bits (65537 : BitVec 32).toNat 31 16 ≠ 0 ∧ ledgerOk (sldg 0 {}) 0 = true)
    ∧ (bit (rd (sldg 1 {}) (rLdgCtrl 0)) 0 = true ∧ (65536 : BitVec 32).getLsbD 0 = false ∧ bits (65536 : BitVec 32).toNat 31 16 ≠ 0)
    ∧ (bit (rd (sldg 0 {}) (rSnapCtrl 0)) 0 = false ∧ snapOk (sldg 0 {}) 0 = true)
    ∧ (bits (0 : BitVec 64).toNat 60 32 = fld (sldg 0 {}) (rSnapPtr 0) 28 0 ∧ bits (BitVec.ofNat 64 (2 ^ 33)).toNat 60 32 ≠ fld (sldg 0 {}) (rSnapPtr 0) 28 0
      ∧ fromRecord (bits (BitVec.ofNat 64 (2 ^ 33)).toNat 60 32 * 64) (part (sldg 0 {}) 0).snap.written = some [(128, 128, false)])
    ∧ ldgRegionOk (sldg 0 {}) 0 (at_ (bits (BitVec.ofNat 64 (ledgerBase + 2 ^ 48)).toNat 47 20) 20 + at_ (bits (BitVec.ofNat 64 (ledgerBase + 2 ^ 48)).toNat 63 48) 48) = true
    ∧ ((sldg 0 {}).sec.entWait = false ∧ ({ sldg 0 {} with sec := { entWait := true } } : State).sec.entWait = true) := by
  and_intros <;> decide +kernel

theorem test_met_Int8Saturates : (∀ b, Rnd.sr8 255 = .sr8 b → b < 256) ∧ (rndUnits .rne 3 0 0).1 = 3 ∧ 127 < (rndUnits .rne 200 0 0).1 ∧ 128 < (rndUnits .rne 200 0 0).1 := by
  refine ⟨?_, by decide +kernel⟩
  rintro b h; cases h; decide

theorem test_met_SatAndOvfModes : (∀ b, Rnd.sr8 255 = .sr8 b → b < 256)
    ∧ ∀ x ∈ [(Fmt.fp32, (128 : Int)), (.bf16, 128), (.fp16, 16), (.e4m3, 9), (.e5m2, 16)], magGt (rndUnits .rne 1 x.2 (quantum x.1 1 x.2)).1 (quantum x.1 1 x.2) (maxFin x.1).1 (maxFin x.1).2 = true := by
  refine ⟨?_, by decide +kernel⟩
  rintro b h; cases h; decide

theorem test_met_RepresentableValuesKeep : (∀ b, Rnd.sr8 0 = .sr8 b → b < 256)
    ∧ ∀ f ∈ [Fmt.fp32, .bf16, .fp16, .e4m3, .e5m2, .int8], ∃ neg m e, decodeF f 1 = .fin neg m e := by
  refine ⟨?_, ?_⟩
  · rintro b h; cases h; decide
  · intro f hf; simp only [List.mem_cons, List.not_mem_nil, or_false] at hf
    rcases hf with rfl | rfl | rfl | rfl | rfl | rfl <;> exact ⟨_, _, _, rfl⟩

/-- A COPY_OUT of 8,192 bytes from 1 MiB, with unit 69 of them poisoned; the range is sealed in the second state. -/
def coSlot : Bytes := leBytes 1 7 ++ leBytes 15 0 ++ leBytes 8 4096 ++ leBytes 8 1048576 ++ leBytes 8 8192
def coSeal : Seal := { ctx := 0, setId := [], key := [] }
def coDev (sealed : Bool) : State := { regs [(rSealwin 0, 2 ^ 20 + 2 ^ 48)] dev with poison := [16384 + 69], seals := if sealed then [(0, coSeal)] else [] }

theorem test_met_CopyOutStopsAtPoison : (∀ z ∈ [true, false], manUp (qm coSlot (coDev z)) 0 7 0x2C (man coSlot) (up coSlot (coDev z)) ∧ (qm coSlot (coDev z)).sec.entWait = false
      ∧ (qp (qm coSlot (coDev z)) 0).mans.find? (fun m => m.stage = 1 && fieldB m.slot 0 1 = 7) = none
      ∧ copyCheck (up coSlot (coDev z)) 0 (man coSlot) false = 0 ∧ 4096 = fieldB (man coSlot).slot 0x10 8 ∧ 1048576 = fieldB (man coSlot).slot 0x18 8 ∧ 8192 = fieldB (man coSlot).slot 0x20 8
      ∧ 69 < 8192 / 64 ∧ (up coSlot (coDev z)).poison.contains (1048576 / 64 + 69) = true ∧ ∀ j < 69, (up coSlot (coDev z)).poison.contains (1048576 / 64 + j) = false)
    ∧ (∀ z f, copyWay (up coSlot (coDev false)) (qpPtn (up coSlot (coDev false)) 0) 1048576 8192 ≠ .sealed z f)
    ∧ copyWay (up coSlot (coDev true)) (qpPtn (up coSlot (coDev true)) 0) 1048576 8192 = .sealed coSeal 0 ∧ 1 = 64 * 69 / 4096 ∧ coSeal.chunks + 1 ≤ 2 ^ 32 := by
  refine ⟨fun z _ => ⟨up_ok _ _ _ _ ?_ (by decide +kernel), ?_⟩, copyWay_plain (by decide +kernel), by decide +kernel, by decide, by decide⟩
  · cases z
    · exact .inr (by decide +kernel)
    · exact .inr (by decide +kernel)
  · cases z <;> and_intros <;> decide +kernel

/-- An idle device at a cycle, with some power steps done. -/
def sidl (c n : Nat) : State := { cycle := c, power := { steps := n } }

theorem test_met_TickRows : ({ boot := { held := 1 } } : State).boot.held ≠ 0
    ∧ (∀ x ∈ [(0, 8), (0, 6), (2 ^ 64 - 1, 5), (2 ^ 64 - 2, 0)], (sidl x.1 x.2).pending = [] ∧ (sidl x.1 x.2).boot.held = 0)
    ∧ 8 ≤ (sidl 0 8).power.steps ∧ (6 ≤ (sidl 0 6).power.steps ∧ (sidl 0 6).power.steps < 8)
    ∧ ((sidl (2 ^ 64 - 1) 5).power.steps < 6 ∧ 2 ^ 64 ≤ (sidl (2 ^ 64 - 1) 5).cycle + 1)
    ∧ ((sidl (2 ^ 64 - 2) 0).power.steps < 6 ∧ (sidl (2 ^ 64 - 2) 0).cycle + 1 < 2 ^ 64) := by
  refine ⟨by decide, ?_, by decide, by decide, ?_, ?_⟩
  · intro x _; exact ⟨rfl, rfl⟩
  · show 5 < 6 ∧ 2 ^ 64 ≤ 2 ^ 64 - 1 + 1; decide
  · show 0 < 6 ∧ 2 ^ 64 - 2 + 1 < 2 ^ 64; decide

/-! ### Worked examples of the manual

Each expected value below stands in the manual at the place named. -/

def digits : Bytes := [0x31, 0x32, 0x33, 0x34, 0x35, 0x36, 0x37, 0x38, 0x39]
/-- 02, "Digests": the check value of CRC-64. -/
theorem test_crc64_check : crc64 digits = 0x6C40DF5F0B497347 := by decide +kernel
/-- 08 R190: the check value of CRC-32C. -/
theorem test_crc32c_check : crc32c digits = 0xE3069283 := by decide +kernel
/-- 07, test vector 1. -/
theorem test_tambour_1 : tambour (List.replicate 16 0) (List.replicate 8 0)
    = [0xADE0B876, 0x903DF1A0, 0xE56A5D40, 0x28BD8653, 0xB819D2BD, 0x1AED8DA0, 0xCCEF36A8, 0xC70D778B] := by decide +kernel
/-- 07, test vector 2. -/
def tvSeed : Bytes := (List.range 16).map byte
def tvTen : Tensor := { vt := 0x1D1C1B1A1918, lotShift := 36, fmt := 5, elems := 2 ^ 40, layer := 0, role := 0, gradOf := 0 }
theorem test_tambour_2 : tambour tvSeed (ctrBlock 0x1716151413121110 0x1D1C1B1A1918 0x1F1E 1 0 9 0x4A000000)
    = [0xE4E7F110, 0x15593BD1, 0x1FDD0F50, 0xC47120A3, 0xC7F4D1C7, 0x0368C033, 0x9AAA2204, 0x4E6CD4C3] := by decide +kernel
theorem test_tambour_2_element : drawAt tvSeed 0x1716151413121110 tvTen 0x1F1E 0 9 0x1940000005 = some 0x3B := by decide +kernel
/-- 07, test vector 3: RFILL BERN8 with THRESH 0x40 into a BITS slot at SP 0 writes 0xA1. -/
def tvVc : Vcore := { slots := [(0, (op [(12, 0), (38, 7), (87, 1)], op [(12, 1), (64, 0x1940000000)]))] }
def tvOp : BitVec 128 := op [(12, 3), (16, 9), (24, 0x1F1E), (40, 0x40)]
def tvCtx : Ctx := { cx tvVc with seed := tvSeed, gen := 0x1716151413121110, prog := { pr with tensors := [tvTen] } }
theorem test_rfill_3 : (match exec (.rfill 0 0 tvOp) (at0 tvCtx) with | .next t => memGet t.mem (spBase 0) | _ => 0) = 0xA1 := by decide +kernel

/-- 03, "a tie, its stochastic neighbour, and the top of E4M3": FP32 code, RNE under SAT, RNE under OVF. -/
theorem test_e4m3_ties : ∀ x ∈ [(0x3F880000, 0x38, 0x38), (0x3F980000, 0x3A, 0x3A), (0x43E60000, 0x7E, 0x7E), (0x43E80000, 0x7E, 0x7E), (0x43EB0000, 0x7E, 0x7F)],
    (convertF .e4m3 .rne false (f32 x.1)).1 = x.2.1 ∧ (convertF .e4m3 .rne true (f32 x.1)).1 = x.2.2 := by decide +kernel
/-- The same table: the random byte from which SR8 rounds up. -/
theorem test_e4m3_sr8 : ∀ x ∈ [(0x3F880000, 128, 0x38, 0x39), (0x3F980000, 128, 0x39, 0x3A), (0x43E60000, 160, 0x7E, 0x7F), (0x43E80000, 128, 0x7E, 0x7F), (0x43EB0000, 80, 0x7E, 0x7F)],
    (convertF .e4m3 (.sr8 (x.2.1 - 1)) true (f32 x.1)).1 = x.2.2.1 ∧ (convertF .e4m3 (.sr8 x.2.1) true (f32 x.1)).1 = x.2.2.2 := by decide +kernel
/-- 03, "expanding one INT4W group": header 0x68. -/
theorem test_int4w_group : ∀ x ∈ [(0, 0xB8), (3, 0xB2), (8, 0), (9, 0x20), (15, 0x36)], (convertF .e4m3 .rne false (int4wVal 0x68 x.1)).1 = x.2 := by decide +kernel

/-- 04, "the tree is not a correctly rounded sum". -/
def treeLeaves : List FVal :=
  (List.range 256).map (fun k => let v := fun n => decodeF .bf16 n
    if k = 0 then fmul (v 0x3F80) (v 0x3F80) else if k = 128 then fmul (v 0x3980) (v 0x3980) else if k = 64 || k = 192 then fmul (v 0x3100) (v 0x3100) else fzero false)
theorem test_tree_example : (rne32 (treeSum treeLeaves)).1 = 0x3F800000 := by decide +kernel
/-- 04, "cover of one K-block": E4M3 by E4M3, M 256, KT_COUNT 16; then the MDRAIN of the 256 rows. -/
theorem test_mma_cover : mxeCover (op [(0, 1), (4, 3), (8, 3), (21, 16), (35, 255)]).toNat = 4248 ∧ drainCover { m := 256 } (op [(0, 2)]).toNat = 269 := by decide +kernel

/-- 05, "four addends in two orders". -/
theorem test_tally_example : blockByte [(0x3F800000, false), (0x33800000, false)] = 0x7F ∧ byteExp 0x7F = 1
    ∧ (quantise false 1 0x3F800000).1 = 2 ^ 42 ∧ (quantise false 1 0x33800000).1 = 2 ^ 18 ∧ (quantise false 1 0x33800001).1 = 2 ^ 18 ∧ (quantise false 1 0xBF800000).1 = -(2 ^ 42)
    ∧ (tallyResult false 1 (2 ^ 19) 8).1 = 0x34000000 := by decide +kernel
/-- 05, "cover of a cluster-local sum": LOCAL_N 32, 64 blocks. -/
theorem test_tally_cover : cruCover { tag := 0, fmt := 0, blocks := 63, nAdd := 0, scope := 0, bell := 0, dest := 0, hasGroup := false, outerTag := 0, outerIdx := 0, dVcore := 0, dOff := 0, chime := 0, plan := [] } 32
    = 2076 := by decide +kernel

/-- 12, "one address to its cells": 0x0000_1234_5678. -/
theorem test_hbm_cells : hbmStack 0x12345678 = 3 ∧ pcOf 0x12345678 = 7 ∧ hbmStack 0x12345778 = 2 ∧ pcOf 0x12345778 = 7 ∧ unmapPc 3 7 0x123478 = 0x12345678 := by decide +kernel
/-- 12 R285: an error in one byte of a sector is corrected, and one in two bytes is detected. -/
theorem test_outer_code : rsDecode (List.replicate 68 0) = (List.replicate 64 0, 0) ∧ rsDecode ((List.replicate 68 0).set 5 0x5A) = (List.replicate 64 0, 1)
    ∧ (rsDecode (((List.replicate 68 0).set 5 0x5A).set 40 1)).2 = 2 := by decide +kernel

/-- 14, "one reduce-scatter, three algorithms": the costs times g × β, at α 510, β 52, g 8, 512 KiB, and the choice. -/
theorem test_map_costs : (treeCost 2 8 510 52 524288 + 208) / (8 * 52) = 62025 ∧ ringCost 8 510 52 524288 / (8 * 52) = 12392 ∧ hdCost 8 510 52 524288 / (8 * 52) = 10352
    ∧ pickAlg 0 0 8 510 52 524288 = 2 := by decide +kernel

/-- FIPS 197, appendix C.3: AES-256. -/
theorem test_aes : aesBlock (aesKeys ((List.range 32).map byte)) ((List.range 16).map (fun i => byte (17 * i))) = beBytes 16 0x8EA2B7CA516745BFEAFC49904B496089 := by decide +kernel
/-- IEEE 1619, annex B, vector 10, its first block: XTS-AES-256 of data unit 0xFF. -/
theorem test_xts : aesXts (beBytes 32 0x2718281828459045235360287471352662497757247093699959574966967627) (beBytes 32 0x3141592653589793238462643383279502884197169399375105820974944592)
    0xFF ((List.range 16).map byte) = beBytes 16 0x1C3B3A102F770386E4836C99E370CF9B := by decide +kernel
/-- The GCM specification, test case 13: AES-256-GCM of nothing. -/
theorem test_gcm : gcmSeal (List.replicate 32 0) (List.replicate 12 0) [] [] = beBytes 16 0x530F8AFBC74536B9A963B4F1C4CB738B := by decide +kernel

/-! ### One step -/

/-- A step on the one command and the state it leaves. -/
def one (c : Instr) (s : State) : State := match step { s with pending := [c] } with | .next t => t | _ => {}

/-- 15 R375: two commands leave the queue in their order. -/
theorem test_queue_order : (match step { ({} : State) with pending := [.refclkLoss, .die1Heartbeat] } with | .next t => t.pending | _ => []) = [.die1Heartbeat] := by decide +kernel
/-- 01 R37: a rejected write changes no field, sets the error bit of its block and LAST_OFF. -/
theorem test_reg_rejected : rd (one (.regWrite 0 0x10018 4 100 (.mgc 0)) {}) rPwrLimit = 1800 ∧ bit (rd (one (.regWrite 0 0x10018 4 100 (.mgc 0)) {}) rCfgerr) 16 = true := by decide +kernel
theorem test_reg_written : rd (one (.regWrite 0 0x10018 4 1000 (.mgc 0)) {}) rPwrLimit = 1000 := by decide +kernel
/-- 06 R150: the FP32 sum of 1.0 and 1.0 is 2.0. -/
theorem test_vadd : memGet (one (.vadd 0 0 opAdd) { at0 (cx vs) with mem := [⟨spBase 0 + 2, 0x80⟩, ⟨spBase 0 + 3, 0x3F⟩] }).mem (spBase 0 + 64 + 3) = 0x40 := by decide +kernel
/-- 10 R247: an idle step is one cycle. -/
theorem test_tick : (match step ({} : State) with | .next t => t.cycle | _ => 0) = 1 := by decide +kernel
/-- The table gives none of its rows bits. -/
theorem test_no_table_word : decodeTableWord 32 0x1234 = none ∧ ({} : State).withFetchWord 32 0x1234 = {} := ⟨rfl, rfl⟩

theorem test_met_StepKeepsInv : Machine.Inv State.reset ∧ ∃ t, step State.reset = .next t := ⟨by unfold Machine.Inv; decide +kernel, _, rfl⟩

/-! ### Ill-formed commands are refused -/

theorem test_wf_mdrain : (Instr.mdrain 0 0 0 (some (List.replicate 257 []))).wf = false := by decide +kernel
theorem test_wf_cvuFeed : (Instr.cvuFeed 0 0 [1, 2, 3] (.mgc 0)).wf = false := by decide +kernel
theorem test_wf_manifestFetch : (Instr.manifestFetch 0 (some [0])).wf = false := by decide +kernel
theorem test_wf_sealInstallDone : (Instr.sealInstallDone 0 (some [])).wf = false := by decide +kernel
theorem test_wf_spdmChallenge : (Instr.spdmChallenge 0 []).wf = false := by decide +kernel
theorem test_wf_spdmGetMeasurements : (Instr.spdmGetMeasurements 0 0 []).wf = false := by decide +kernel
theorem test_wf_hbmSectorRead : (Instr.hbmSectorRead 0 (List.replicate 64 0) 0 false).wf = false := by decide +kernel
theorem test_wf_scrubRead : (Instr.scrubRead 0 [] 0 []).wf = false := by decide +kernel
theorem test_wf_sensorPoll : (Instr.sensorPoll { hbm := [], dies := [], power := 0 }).wf = false := by decide +kernel
theorem test_wf_bootStepDone : (Instr.bootStepDone true [108]).wf = false := by decide +kernel
theorem test_wf_cteMap : (Instr.cteMap 0 { node := 2 ^ 20, dsidx := 0, ssidx := 0 }).wf = false := by decide +kernel
theorem test_wf_cvtFrame : (Instr.cvtData 0 { node := 0, dsidx := 65536, ssidx := 0 }).wf = false := by decide +kernel
theorem test_wf_cvtAck : (Instr.cvtAck 0 { node := 0, dsidx := 0, ssidx := 0, payload := List.replicate 4097 0 } none).wf = false := by decide +kernel
theorem test_wf_wardReset : (Instr.wardReset 0 { target := 2 ^ 20, source := 0 }).wf = false := by decide +kernel
theorem test_wf_wardReset_tag : (Instr.wardReset 0 { target := 0, source := 0, tag := [0] }).wf = false := by decide +kernel
theorem test_wf_doorbell : (Instr.doorbell 0 0 0 3 0 none).wf = false := by decide +kernel
theorem test_wf_neighborDiscovery : (Instr.neighborDiscovery 0 true 0 [] []).wf = false := by decide +kernel
theorem test_wf_transitFrame : (Instr.transitFrame 0 [] true).wf = false := by decide +kernel
theorem test_wf_holdTest : (Instr.holdTest 0 16 0 0 0 0 false).wf = false := by decide +kernel
theorem test_wf_accepts : (Instr.cvuFeed 0 0 [1, 2] (.mgc 0)).wf = true ∧ (Instr.vadd 0 0 0).wf = true := by decide +kernel

end Sys2Proof.Tests
end

section
/-! SUPPORT. What a conversion puts in the place of a NaN, an infinity, an overflow and a value in range (03 R75 to R78), and the statements about SAT, OVF and INT8 destinations. -/

open Sys2Proof Sys2Proof.Machine

namespace Sys2Proof.NumberFormats

/-! ### INT8 codes -/

/-- A code up to 127 stands for itself (03 R68). -/
theorem decodeF_int8_nonneg {t : Nat} (h : t ≤ 127) : decodeF .int8 t = .fin false t 0 := by
  have hs : sint 8 t = t := by simp only [sint]; omega
  simp [decodeF, hs]

/-- The two's complement code of a negative value stands for that value (03 R68). -/
theorem decodeF_int8_unsint_neg {t : Nat} (h0 : t ≠ 0) (h : t ≤ 128) : decodeF .int8 (unsint 8 (-(t : Int))) = .fin true t 0 := by
  have hu : unsint 8 (-(t : Int)) = 256 - t := by simp only [unsint]; omega
  have hs : sint 8 (256 - t) = -(t : Int) := by simp only [sint]; omega
  have hneg : decide (-(t : Int) < 0) = true := decide_eq_true (by omega)
  simp only [decodeF, hu, hs, hneg, Int.natAbs_neg, Int.natAbs_natCast]

/-! ### `convertF`, an equation per kind of value -/

/-- What a floating-point format takes for an infinity of a sign: under OVF its infinity code, under SAT its largest finite code (03 R76, R77). -/
def beyondCode (f : Fmt) (ovf neg : Bool) : Nat := if ovf then infCode f neg else maxCode f + signBit f neg

/-- A finite value in INT8: the rounded magnitude, cut at 128 or 127 (03 R78). -/
theorem convertF_int8_fin (r : Rnd) (ovf neg : Bool) (m : Nat) (e : Int) :
    (convertF .int8 r ovf (.fin neg m e)).1 =
      if neg then (if 128 < (rndUnits r m e 0).1 then 0x80 else unsint 8 (-((rndUnits r m e 0).1 : Int)))
      else (if 127 < (rndUnits r m e 0).1 then 0x7F else (rndUnits r m e 0).1) := by
  simp only [convertF, gt_iff_lt]
  split_ifs <;> rfl

theorem convertF_nan (f : Fmt) (r : Rnd) (ovf : Bool) : (convertF f r ovf .nan).1 = canonNaN f := by
  cases f <;> rfl

theorem convertF_inf {f : Fmt} (h8 : f ≠ .int8) (r : Rnd) (ovf neg : Bool) : (convertF f r ovf (.inf neg)).1 = beyondCode f ovf neg := by
  simp only [convertF, beyondCode]
  split_ifs <;> rfl

theorem convertF_zero {f : Fmt} (h8 : f ≠ .int8) (r : Rnd) (ovf neg : Bool) (e : Int) : (convertF f r ovf (.fin neg 0 e)).1 = signBit f neg := by
  simp [convertF]

/-- A nonzero finite value is rounded on its own grid; only then is the result held against the largest finite value (03 R75). -/
theorem convertF_fin {f : Fmt} (h8 : f ≠ .int8) (r : Rnd) (ovf neg : Bool) {m : Nat} (hm : m ≠ 0) (e : Int) :
    (convertF f r ovf (.fin neg m e)).1 =
      if magGt (rndUnits r m e (quantum f m e)).1 (quantum f m e) (maxFin f).1 (maxFin f).2 then beyondCode f ovf neg
      else encodeMag f (rndUnits r m e (quantum f m e)).1 (quantum f m e) + signBit f neg := by
  simp only [convertF, hm, beyondCode, if_false]
  split_ifs <;> rfl

/-! ### Magnitudes within range have codes below the infinity's -/

/-- Multiplying by a power of two moves the logarithm by its exponent. -/
theorem log2_mul_two_pow {n : Nat} (hn : n ≠ 0) (k : Nat) : (n * 2 ^ k).log2 = n.log2 + k := by
  have hp := Nat.two_pow_pos k
  rw [Nat.log2_eq_iff (Nat.mul_ne_zero hn hp.ne'), Nat.add_right_comm, Nat.pow_add, Nat.pow_add 2 (n.log2 + 1)]
  exact ⟨Nat.mul_le_mul_right _ (Nat.log2_self_le hn), Nat.mul_lt_mul_of_pos_right Nat.lt_log2_self hp⟩

/-- A magnitude that is not above another has no larger binary exponent. -/
theorem flog2_le_of_not_magGt {a b : Nat} {ea eb : Int} (ha : a ≠ 0) (hb : b ≠ 0) (h : magGt a ea b eb = false) : flog2 a ea ≤ flog2 b eb := by
  simp only [magGt, decide_eq_false_iff_not, not_lt, gt_iff_lt] at h
  have hlog : (a * 2 ^ (ea - min ea eb).toNat).log2 ≤ (b * 2 ^ (eb - min ea eb).toNat).log2 := by
    simpa only [Nat.log2_eq_log_two] using Nat.log_mono_right h
  rw [log2_mul_two_pow ha, log2_mul_two_pow hb] at hlog
  simp only [flog2]
  omega

/-- A value's quantum is never below that of the subnormal values. -/
theorem le_quantum (f : Fmt) (m : Nat) (e : Int) : 1 - ((fmtLayout f).2.2 : Int) - (fmtLayout f).2.1 ≤ quantum f m e :=
  sub_le_sub_right (le_max_right _ _) _

/-- The significand that `encodeMag` cuts or widens to the mantissa has one bit above the mantissa. -/
theorem significand_lt {t mw : Nat} {sh : Int} (h : (t.log2 : Int) = mw + sh) :
    (if 0 ≤ sh then t / 2 ^ sh.toNat else t * 2 ^ (-sh).toNat) < 2 ^ (mw + 1) := by
  have ht : t < 2 ^ (t.log2 + 1) := Nat.lt_log2_self
  split_ifs with hsh
  · rw [Nat.div_lt_iff_lt_mul (Nat.two_pow_pos _), ← Nat.pow_add]
    rwa [show mw + 1 + sh.toNat = t.log2 + 1 by omega]
  · rw [show mw + 1 = t.log2 + 1 + (-sh).toNat by omega, Nat.pow_add]
    exact Nat.mul_lt_mul_of_pos_right ht (Nat.two_pow_pos _)

/-- A magnitude on the grid of the format, with its exponent below `E` once biased, has a code with an exponent field below `E`. -/
theorem encodeMag_lt {f : Fmt} {t E : Nat} {q : Int} (hE : 0 < E) (hq : 1 - ((fmtLayout f).2.2 : Int) - (fmtLayout f).2.1 ≤ q)
    (hl : t ≠ 0 → flog2 t q + (fmtLayout f).2.2 < E) : encodeMag f t q < E * 2 ^ (fmtLayout f).2.1 := by
  obtain ⟨⟨ew, mw, bias⟩, hfl⟩ : ∃ l, fmtLayout f = l := ⟨_, rfl⟩
  simp only [hfl] at hq hl
  simp only [encodeMag, hfl]
  have hmw := Nat.two_pow_pos mw
  by_cases ht : t = 0
  · rw [if_pos ht]
    exact Nat.mul_pos hE hmw
  rw [if_neg ht]
  by_cases hsub : flog2 t q < 1 - (bias : Int)
  · rw [if_pos hsub]
    have hlog : t.log2 + 1 + (q - (1 - (bias : Int) - mw)).toNat ≤ mw := by simp only [flog2] at hsub; omega
    calc t * 2 ^ (q - (1 - (bias : Int) - mw)).toNat
        < 2 ^ (t.log2 + 1) * 2 ^ (q - (1 - (bias : Int) - mw)).toNat := Nat.mul_lt_mul_of_pos_right Nat.lt_log2_self (Nat.two_pow_pos _)
      _ ≤ 2 ^ mw := by rw [← Nat.pow_add]; exact Nat.pow_le_pow_right (by decide) hlog
      _ ≤ E * 2 ^ mw := Nat.le_mul_of_pos_left _ hE
  · rw [if_neg hsub]
    have hsig := significand_lt (t := t) (mw := mw) (sh := flog2 t q - mw - q) (by simp only [flog2]; omega)
    rw [Nat.pow_succ] at hsig
    have hexp : (flog2 t q + bias).toNat + 1 ≤ E := by have := hl ht; omega
    calc _ < (flog2 t q + bias).toNat * 2 ^ mw + 2 ^ mw := by omega
      _ = ((flog2 t q + bias).toNat + 1) * 2 ^ mw := by ring
      _ ≤ E * 2 ^ mw := Nat.mul_le_mul_right _ hexp

/-! ### The floating-point formats -/

/-- The floating-point formats of 03 R64. -/
def floatFmts : List Fmt := [.fp32, .bf16, .fp16, .e4m3, .e5m2]

theorem ne_int8_of_float {f : Fmt} (hf : f ∈ floatFmts) : f ≠ .int8 := by
  rintro rfl
  exact absurd hf (by decide)

theorem decodeF_maxCode : ∀ f ∈ floatFmts, ∀ neg, decodeF f (maxCode f + signBit f neg) = .fin neg (maxFin f).1 (maxFin f).2 := by decide

theorem decodeF_infCode : ∀ f ∈ floatFmts, ∀ neg, decodeF f (infCode f neg) = if f = .e4m3 then .nan else .inf neg := by decide

theorem decodeF_canonNaN : ∀ f ∈ floatFmts, decodeF f (canonNaN f) = .nan := by decide

/-- The largest finite value has the last exponent below the field that is all ones; E4M3 alone uses that field for finite values (03 R65). -/
theorem flog2_maxFin : ∀ f ∈ floatFmts, f ≠ .e4m3 →
    (maxFin f).1 ≠ 0 ∧ flog2 (maxFin f).1 (maxFin f).2 + (fmtLayout f).2.2 < (2 ^ (fmtLayout f).1 - 1 : Nat) := by decide

theorem decodeF_e4m3_ne_inf (n : Nat) (neg : Bool) : decodeF .e4m3 n ≠ .inf neg := by
  simp only [decodeF]
  split_ifs <;> simp

/-- The sign bit stands right above the exponent field (03 R64). -/
theorem signBit_eq : ∀ f ∈ floatFmts, ∀ neg, signBit f neg = b2n neg * 2 ^ ((fmtLayout f).1 + (fmtLayout f).2.1) := by decide

theorem onesExp_pos : ∀ f ∈ floatFmts, 0 < 2 ^ (fmtLayout f).1 - 1 := by decide

/-- The exponent field of a code without its sign is not disturbed by the sign bit. -/
theorem expField_add_sign {c ew mw : Nat} (hc : c < (2 ^ ew - 1) * 2 ^ mw) (s : Nat) :
    bits (c + s * 2 ^ (ew + mw)) (ew + mw - 1) mw ≠ 2 ^ ew - 1 := by
  have hew : ew ≠ 0 := by
    rintro rfl
    simp at hc
  have hdiv : (c + s * 2 ^ (ew + mw)) / 2 ^ mw = c / 2 ^ mw + s * 2 ^ ew := by
    rw [Nat.pow_add, ← Nat.mul_assoc, Nat.add_mul_div_right _ _ (Nat.two_pow_pos mw)]
  have hexp : c / 2 ^ mw < 2 ^ ew - 1 := (Nat.div_lt_iff_lt_mul (Nat.two_pow_pos mw)).2 hc
  have hlow : bits (c + s * 2 ^ (ew + mw)) (ew + mw - 1) mw = c / 2 ^ mw := by
    rw [bits, Nat.shiftRight_eq_div_pow, hdiv, show ew + mw - 1 + 1 - mw = ew by omega, Nat.add_mul_mod_self_right, Nat.mod_eq_of_lt (hexp.trans_le (Nat.sub_le _ _))]
  omega

/-- A format with infinities reads one only where the exponent field is all ones (03 R65). -/
theorem expField_of_decodeF_inf {f : Fmt} {n : Nat} {neg : Bool} (h : decodeF f n = .inf neg) :
    f ≠ .e4m3 ∧ bits n ((fmtLayout f).1 + (fmtLayout f).2.1 - 1) (fmtLayout f).2.1 = 2 ^ (fmtLayout f).1 - 1 := by
  cases f with
  | e4m3 => exact absurd h (decodeF_e4m3_ne_inf n neg)
  | int8 | int4w | lut4w => simp [decodeF, fzero] at h
  | fp32 | bf16 | fp16 | e5m2 =>
    simp only [decodeF, reduceCtorEq, if_false] at h
    split_ifs at h with hones <;> exact ⟨by decide, hones⟩

/-- A code whose magnitude is below that of the infinity does not stand for an infinity (03 R65). -/
theorem decodeF_ne_inf_of_lt {f : Fmt} (hf : f ∈ floatFmts) {c : Nat} (hc : f ≠ .e4m3 → c < (2 ^ (fmtLayout f).1 - 1) * 2 ^ (fmtLayout f).2.1) (s neg : Bool) :
    decodeF f (c + signBit f s) ≠ .inf neg := by
  intro h
  obtain ⟨hne, hones⟩ := expField_of_decodeF_inf h
  rw [signBit_eq f hf] at hones
  exact expField_add_sign (hc hne) _ hones

/-- SAT never produces an infinity from a finite value: the result is cut at the largest finite value, or is below the infinity's code (03 R76). -/
theorem decodeF_sat_fin_ne_inf {f : Fmt} (hf : f ∈ floatFmts) (r : Rnd) (s : Bool) (m : Nat) (e : Int) (neg : Bool) :
    decodeF f (convertF f r false (.fin s m e)).1 ≠ .inf neg := by
  have h8 := ne_int8_of_float hf
  by_cases hm : m = 0
  · rw [hm, convertF_zero h8, ← Nat.zero_add (signBit f s)]
    exact decodeF_ne_inf_of_lt hf (fun _ => Nat.mul_pos (onesExp_pos f hf) (Nat.two_pow_pos _)) s neg
  rw [convertF_fin h8 r false s hm]
  by_cases hover : magGt (rndUnits r m e (quantum f m e)).1 (quantum f m e) (maxFin f).1 (maxFin f).2 = true
  · rw [if_pos hover]
    simp [beyondCode, decodeF_maxCode f hf]
  · rw [if_neg hover]
    refine decodeF_ne_inf_of_lt hf (fun hne => ?_) s neg
    obtain ⟨hpos, hlast⟩ := flog2_maxFin f hf hne
    exact encodeMag_lt (onesExp_pos f hf) (le_quantum f m e) fun ht =>
      lt_of_le_of_lt (Int.add_le_add_right (flog2_le_of_not_magGt ht hpos (by simpa using hover)) _) hlast

/-- SAT never produces an infinity (03 R76). -/
theorem decodeF_sat_ne_inf {f : Fmt} (hf : f ∈ floatFmts) (r : Rnd) (x : FVal) (neg : Bool) : decodeF f (convertF f r false x).1 ≠ .inf neg := by
  cases x with
  | nan => simp [convertF_nan, decodeF_canonNaN f hf]
  | inf s => simp [convertF_inf (ne_int8_of_float hf), beyondCode, decodeF_maxCode f hf]
  | fin s m e => exact decodeF_sat_fin_ne_inf hf r s m e neg

/-- What the code put in the place of an infinity or an overflow stands for, in each mode (03 R76, R77). -/
theorem decodeF_beyondCode {f : Fmt} (hf : f ∈ floatFmts) (neg : Bool) :
    decodeF f (beyondCode f false neg) = .fin neg (maxFin f).1 (maxFin f).2
    ∧ decodeF f (beyondCode f true neg) = (if f = .e4m3 then .nan else .inf neg)
    ∧ (f = .e4m3 → beyondCode f true neg = 0x7F) :=
  ⟨decodeF_maxCode f hf neg, decodeF_infCode f hf neg, by rintro rfl; rfl⟩

/-! ### The statements -/

/-- Settles O56: an overflow and an infinity take the same code, and a result in range keeps below the infinity's. -/
theorem satAndOvfModes : Obligations.SatAndOvfModes := by
  intro f hf r _
  have h8 : f ≠ .int8 := ne_int8_of_float hf
  refine ⟨fun neg m e hm hover => ?_, fun neg => ?_, decodeF_sat_ne_inf hf r, ?_⟩
  · simpa only [convertF_fin h8 r _ neg hm, if_pos hover] using decodeF_beyondCode hf neg
  · simpa only [convertF_inf h8] using decodeF_beyondCode hf neg
  · rw [convertF_nan]
    exact decodeF_canonNaN f hf

/-- Settles O55, by the sign of the value and whether its rounded magnitude fits. -/
theorem int8Saturates : Obligations.Int8Saturates := by
  intro r ovf _
  refine ⟨fun neg m e => ?_, rfl, rfl, rfl⟩
  rw [convertF_int8_fin]
  cases neg with
  | false =>
    by_cases hover : 127 < (rndUnits r m e 0).1
    · exact .inr (.inl ⟨rfl, hover, if_pos hover⟩)
    · simp [hover, decodeF_int8_nonneg (not_lt.1 hover)]
  | true =>
    by_cases hover : 128 < (rndUnits r m e 0).1
    · exact .inr (.inr ⟨rfl, hover, if_pos hover⟩)
    · refine .inl (or_iff_not_imp_right.2 fun h0 => ?_)
      simp [hover, decodeF_int8_unsint_neg h0 (not_lt.1 hover)]

end Sys2Proof.NumberFormats
end

section
/-! SUPPORT. Where a COPY_OUT stops: at the end of its range or at its first poisoned unit (15 R384, 18 R463); and the statement about it. -/

open Sys2Proof Sys2Proof.Machine

namespace Sys2Proof.CopyOut

/-! ### A copy touches no context -/

@[simp] theorem setMan_ctxs (s : State) (q seq : Nat) (f : Man → Man) : (setMan s q seq f).ctxs = s.ctxs := rfl

@[simp] theorem hbmUse_ctxs (s : State) (p a n : Nat) : (hbmUse s p a n).ctxs = s.ctxs := by unfold hbmUse; split <;> rfl

@[simp] theorem hostWrite_ctxs (s : State) (a : Nat) (b : Bytes) : (hostWrite s a b).ctxs = s.ctxs := by unfold hostWrite; split <;> rfl

/-- Whatever becomes of it, a COPY_OUT leaves the contexts alone: refused at its head, sealed (waiting for a draw, out of chunks, moved), or not sealed. -/
@[simp] theorem copyOut_ctxs (s : State) (q : Nat) (m : Man) : (copyOut s q m).ctxs = s.ctxs := by
  unfold copyOut
  dsimp only
  by_cases hcheck : copyCheck s q m false = 0
  · rw [if_neg (not_not.2 hcheck)]
    match copyWay s (qpPtn s q) (fieldB m.slot 0x18 8) (fieldB m.slot 0x20 8) with
    | .sealed _ _ =>
      dsimp only
      split_ifs
      · exact setMan_ctxs ..
      · exact finishMan_ctxs ..
      · split <;> simp only [finishMan_ctxs, drawn_ctxs, hostWrite_ctxs, hbmUse_ctxs]
    | .plain | .bad =>
      dsimp only
      split <;> simp only [finishMan_ctxs, hostWrite_ctxs, hbmUse_ctxs]
  · rw [if_pos hcheck]
    exact finishMan_ctxs ..

/-! ### The first poisoned unit -/

/-- Unit i of a range, counted from its first byte, is its first poisoned one (12 R288). -/
def FirstPoison (s : State) (dev len i : Nat) : Prop :=
  i < len / 64 ∧ s.poison.contains (dev / 64 + i) = true ∧ ∀ j < i, s.poison.contains (dev / 64 + j) = false

/-- The search that a COPY_OUT makes finds it. -/
theorem FirstPoison.find {s : State} {dev len i : Nat} (h : FirstPoison s dev len i) :
    (List.range (len / 64)).find? (fun j => s.poison.contains (dev / 64 + j)) = some i := by
  obtain ⟨hi, hp, hbefore⟩ := h
  exact List.find?_range_eq_some.2 ⟨hp, List.mem_range.2 hi, fun j hj => by rw [hbefore j hj]; rfl⟩

/-! ### What a COPY_OUT with a poisoned unit does -/

section
variable {s : State} {q i : Nat} {m : Man}

/-- A range that is not sealed moves up to its first poisoned unit. -/
theorem copyOut_plain_poison (hcheck : copyCheck s q m false = 0) (hpoison : FirstPoison s (fieldB m.slot 0x18 8) (fieldB m.slot 0x20 8) i)
    (hway : ∀ z f, copyWay s (qpPtn s q) (fieldB m.slot 0x18 8) (fieldB m.slot 0x20 8) ≠ .sealed z f) :
    copyOut s q m = finishMan (hostWrite (hbmUse s (qpPtn s q) (fieldB m.slot 0x18 8) (64 * i)) (fieldB m.slot 0x10 8) (outBytes s (qpPtn s q) (fieldB m.slot 0x18 8) (64 * i)))
      q m.seq 10 (copyResult (64 * i) (64 * i)) := by
  unfold copyOut
  simp only [hcheck, hpoison.find]
  match hw : copyWay s (qpPtn s q) (fieldB m.slot 0x18 8) (fieldB m.slot 0x20 8) with
  | .sealed z f => exact absurd hw (hway z f)
  | .plain | .bad => rfl

/-- A sealed range moves the whole chunks before its first poisoned unit, each under a draw of its own. -/
theorem copyOut_sealed_poison {z : Seal} {f n : Nat} (hcheck : copyCheck s q m false = 0) (hpoison : FirstPoison s (fieldB m.slot 0x18 8) (fieldB m.slot 0x20 8) i)
    (hway : copyWay s (qpPtn s q) (fieldB m.slot 0x18 8) (fieldB m.slot 0x20 8) = .sealed z f) (hwait : s.sec.entWait = false)
    (hn : n = 64 * i / 4096) (hroom : z.chunks + n ≤ 2 ^ 32) :
    copyOut s q m = finishMan
      { drawn (hostWrite (hbmUse s (qpPtn s q) (fieldB m.slot 0x18 8) (4096 * n)) (fieldB m.slot 0x10 8) (sealChunks z s.draws f (outBytes s (qpPtn s q) (fieldB m.slot 0x18 8) (4096 * n)))) n with
        seals := tmod s.seals (qpPtn s q) (fun x => { x with chunks := x.chunks + n }) }
      q m.seq 10 (copyResult (4096 * n) (64 * i)) := by
  subst hn
  unfold copyOut
  simp only [hcheck, hpoison.find, hway, hwait, Option.map_some, Option.getD_some, if_neg (not_lt.2 hroom)]
  rfl

end

/-! ### The statement -/

theorem manUp_started {s u : State} {q type lo : Nat} {m : Man} (h : manUp s q type lo m u) : u = setMan s q m.seq (fun x => { x with stage := 1 }) := by
  obtain ⟨-, -, -, -, hu⟩ := h
  exact hu

/-- With no COPY_OUT of the QP in progress, the one that may start runs. -/
theorem exec_copyOut_up {s u : State} {q : Fin 64} {m : Man} (hnone : (qp s q).mans.find? (fun m => m.stage = 1 && fieldB m.slot 0 1 = 7) = none)
    (hup : manUp s q 7 0x2C m u) : exec (.copyOut q) s = .next (copyOut u q m) := by
  show execCopyOut q s = _
  rw [execCopyOut, hnone, onMan_up hup]

/-- Settles O58: a COPY_OUT that starts is `copyOut` of the started state, which stops at the unit its search finds. -/
theorem copyOutStopsAtPoison : Obligations.CopyOutStopsAtPoison := by
  rintro q s u m host dev len i hnone hup hwait hcheck rfl rfl rfl hi hp hbefore
  have hpoison : FirstPoison u _ _ i := ⟨hi, hp, hbefore⟩
  have hu := manUp_started hup
  have hwait' : u.sec.entWait = false := by rw [hu]; exact hwait
  rw [exec_copyOut_up hnone hup]
  refine ⟨fun hway => ?_, fun z f n v hway hn hroom hv => ?_, fun t ht => ?_⟩
  · rw [copyOut_plain_poison hcheck hpoison hway]
  · rw [hv, copyOut_sealed_poison hcheck hpoison hway hwait' hn hroom]
  · cases ht
    rw [copyOut_ctxs, hu, setMan_ctxs]

end Sys2Proof.CopyOut
end

section
/-! SUPPORT. What a step does: it takes the front command, always has a next state for a command, and keeps the invariant; the statements about steps and reset. -/

open Sys2Proof Sys2Proof.Machine

namespace Sys2Proof.Steps

/-- Settles O1, by the definition of a step on a queue that is not empty. -/
theorem stepTakesTheFrontCommand : Obligations.StepTakesTheFrontCommand := fun _ _ _ => rfl

/-- Settles O2: the memories and the list of poisoned units are empty after reset. -/
theorem resetMeetsInv : Obligations.ResetMeetsInv := ⟨Memory.wf_nil, Memory.wf_nil, rfl⟩

/-- Every command, on every state, answers a next state with the same queue that keeps the invariant: one lemma per row (`Laws.Runs`). -/
theorem keepsR_exec (c : Instr) (s : State) : KeepsR s (exec c s) := by
  open Laws.Runs in
  cases c
  exacts [mma .., mdrain .., vsdA .., vsdB .., vstat .., vadd .., vsub .., vmul .., vfma .., vmax .., vmin .., vabs .., vneg .., vcvt .., vcmp .., vexp2 ..,
    vlog2 .., vrcp .., vrsq .., vtanh .., verf .., vrsum .., vrmax .., vrmin .., vgath .., scatadd .., scataddFast .., vmask .., rfill .., wsput ..,
    wsget .., wscheck .., wsSpillDone .., usgd .., uadam .., ulion .., snap .., copy .., send .., chime .., cdigStart .., cdigFold .., gathaccUnord ..,
    cexp .., cexpDue .., tgroup .., agather .., agatherPartTimeout .., permute .., nop .., fend .., condSend .., loop .., halt .., bell .., dsamp ..,
    instrFetch .., entryStart .., entryComplete .., chimeSignal .., coverViolation .., gridPoint .., rotationCopyDone .., holdTest .., resultReturn ..,
    holdGateClose .., holdGateOpen .., holdTolFault .., bellRelease .., bellTimeout .., musterArrive .., musterAnchor .., musterTimeout ..,
    deadlockDetect .., tallyAddend .., tallyExponentRound .., tallyQuantise .., tallyIntegerRound .., tallyConvert .., cteArrive .., cteRelease ..,
    cteExpUp .., cteExpDown .., cteIntUp .., cteIntDown .., ctePart .., cteCadence .., cteMap .., cteSummary .., ledgerRecordWrite .., ledgerStream ..,
    ledgerOverrun .., cvtData .., cvtChime .., cvtAck .., cvtSack .., cvtOpen .., cvtAccept .., cvtRefuse .., cvtClose .., cvtProbe .., cvtProbeReply ..,
    probeTimer .., transitFrame .., ackDelayTimer .., rtoExpiry .., openResend .., streamOpenTimeout .., runoutEnd .., llrHello .., llrHelloTimer ..,
    llrFrame .., llrNak .., llrCtrlTimer .., llrAckTimeout .., portLinkUp .., portLinkDown .., neighborDiscovery .., rocePacket .., wardToll ..,
    tollResend .., wardVerdict .., tollVerdictTimeout .., wardReset .., wardTunnel .., bridgeReplay .., hbmSectorRead .., scrubRead .., innerEccPoll ..,
    hbmStackFail .., sensorPoll .., cadenceRaise .., cadenceLower .., throttleDutyStep .., thermalTrip .., echoThirdRun .., sentinelPassDone ..,
    stowDone .., restoreDone .., zeroingDone .., doorbell .., manifestFetch .., completionWrite .., msixCoalTimer .., manifestNop .., start .., endCmd ..,
    streamOpen .., streamClose .., streamFree .., copyIn .., copyInLand .., copyOut .., snapRead .., roceCreate .., roceConnect .., roceDestroy ..,
    rocePostSend .., rocePostRdmaWrite .., rocePostRdmaWriteImm .., rocePostRdmaRead .., stow .., restore .., peerReadTimeout .., vfFlr .., regWrite ..,
    shadowWrite .., cfgerrClear .., ledgerEnable .., ledgerDisable .., snapRingEnable .., snapRptrWrite .., ledgerRegionWrite .., drumEnable ..,
    bellEnable .., bellDisable .., tstorePeakClear .., poisonlogClear .., mboxTake .., mboxRelease .., eccLog .., sppr .., hppr .., pcSpare .., mbist ..,
    readMr .., mboxCmdDone .., portEnable .., portDisable .., cvuFeed .., cvuInit .., cvuModeChange .., cvuRunLoad .., qpEnable .., qpDisable ..,
    fwPushGo .., fwPushDone .., peerReset .., partitionEnable .., sealInstall .., sealClear .., watchdogKick .., watchdogExpire .., die1Heartbeat ..,
    die1HeartbeatLoss .., powerTarget .., powerStepDone .., powerWake .., autoRestTimer .., porN .., rstN .., perstN .., supplyFault .., bootStepDone ..,
    drumRefLoss .., drumRefReturn .., drumSyncPulse .., drumSyncSilence .., serdesRefLoss .., refclkLoss .., entropyFail .., entropyReseed ..,
    spdmGetCertificate .., spdmChallenge .., spdmGetMeasurements .., spdmKeyExchange .., spdmHeartbeat .., ideKmKeySetGo .., ideTlpFail ..,
    tdispLockInterface .., tdispStartInterface .., tdispStopInterface .., tdiScrubDone .., ieee1588TimeUpdate .., throttleWindow .., die1ReportTimeout ..,
    sealInstallDone .., hbmRewriteDone .., configurationRequest .., jtagInstruction ..]

/-- Settles O3, from the lemma of each row. -/
theorem everyCommandRuns : Obligations.EveryCommandRuns := by
  intro c s
  obtain ⟨t, ht, hkeeps⟩ := keepsR_exec c s
  exact ⟨t, ht, hkeeps.queue⟩

/-- Settles O4: a step is a command, which keeps the invariant on every state, or a tick. -/
theorem stepKeepsInv : Obligations.StepKeepsInv := by
  intro s t hinv hstep
  unfold step at hstep
  split at hstep
  next c rest _ =>
    obtain ⟨u, hu, hkeeps⟩ := keepsR_exec c { s with pending := rest }
    rw [hu] at hstep
    cases hstep
    exact hkeeps.inv hinv
  next => exact (keeps_tick s t hstep).inv hinv

end Sys2Proof.Steps
end

section
/-! SUPPORT. The fields of a finite code, its place on the grid of its format, and the statement that a value of a format converts to itself (03 R64, R65, R71 to R73). -/

open Sys2Proof Sys2Proof.Machine

namespace Sys2Proof.NumberFormats

/-! ### A value on the grid is exact under every rounding -/

/-- A magnitude counted in its own quantum is not rounded: nothing is left over, and a random byte alone never carries (03 R72, R73). -/
theorem rndUnits_same {r : Rnd} (hr : ∀ b, r = .sr8 b → b < 256) (m : Nat) (e : Int) : rndUnits r m e e = (m, true) := by
  cases r with
  | rne => simp [rndUnits, rneUnits, Machine.toUnits]
  | sr8 b =>
    have hb : ¬ 256 ≤ b := not_le.2 (hr b rfl)
    simp [rndUnits, sr8Units, Machine.toUnits, hb]

/-! ### The fields of a code -/

/-- A code is its mantissa, its exponent field and its sign bit, each at its place (03 R64). -/
theorem code_eq_fields {n ew mw : Nat} (hew : 0 < ew) (hmw : 0 < mw) (hn : n < 2 ^ (ew + mw + 1)) :
    n = bits n (ew + mw - 1) mw * 2 ^ mw + bits n (mw - 1) 0 + b2n (bit n (ew + mw)) * 2 ^ (ew + mw) := by
  have htop : n / 2 ^ (ew + mw) < 2 := by
    rw [Nat.div_lt_iff_lt_mul (Nat.two_pow_pos _), ← Nat.pow_succ']
    exact hn
  have hsign : b2n (bit n (ew + mw)) = n / 2 ^ (ew + mw) := by
    simp only [bit, bits, Nat.shiftRight_eq_div_pow, Nat.add_sub_cancel_left, Nat.pow_one, Nat.mod_eq_of_lt htop]
    interval_cases n / 2 ^ (ew + mw) <;> rfl
  have hcut := nat_cut n mw ew
  rw [hsign]
  simp only [bits, Nat.shiftRight_eq_div_pow, show ew + mw - 1 + 1 - mw = ew by omega, show mw - 1 + 1 - 0 = mw by omega, Nat.pow_zero, Nat.div_one]
  omega

/-- The exponent field of the largest finite value (03 R65): E4M3 alone has finite values under the field that is all ones. -/
def topExp (f : Fmt) : Nat := if f = .e4m3 then 15 else 2 ^ (fmtLayout f).1 - 2

/-- Code n holds mantissa M under exponent field E with a sign, and stands for m × 2^e (03 R64): the field 0 holds the subnormal values. -/
structure FiniteCode (f : Fmt) (n : Nat) (neg : Bool) (m : Nat) (e : Int) (E M : Nat) : Prop where
  code : n = E * 2 ^ (fmtLayout f).2.1 + M + signBit f neg
  mant : M < 2 ^ (fmtLayout f).2.1
  top : E ≤ topExp f
  last : E = topExp f → m ≤ (maxFin f).1
  value : E = 0 ∧ m = M ∧ e = 1 - ((fmtLayout f).2.2 : Int) - (fmtLayout f).2.1
    ∨ 0 < E ∧ m = M + 2 ^ (fmtLayout f).2.1 ∧ e = (E : Int) - (fmtLayout f).2.2 - (fmtLayout f).2.1

/-- A code of a finite value: its sign, and the fields that give its value (03 R64, R65). -/
theorem fields_of_decodeF {f : Fmt} (hf : f ∈ floatFmts) {n : Nat} {neg : Bool} {m : Nat} {e : Int} (h : decodeF f n = .fin neg m e) {E M : Nat}
    (hE : E = bits n ((fmtLayout f).1 + (fmtLayout f).2.1 - 1) (fmtLayout f).2.1) (hM : M = bits n ((fmtLayout f).2.1 - 1) 0) :
    neg = bit n ((fmtLayout f).1 + (fmtLayout f).2.1) ∧ (if f = .e4m3 then ¬ (E = 15 ∧ M = 7) else E ≠ 2 ^ (fmtLayout f).1 - 1)
    ∧ (E = 0 ∧ m = M ∧ e = 1 - ((fmtLayout f).2.2 : Int) - (fmtLayout f).2.1
      ∨ 0 < E ∧ m = M + 2 ^ (fmtLayout f).2.1 ∧ e = (E : Int) - (fmtLayout f).2.2 - (fmtLayout f).2.1) := by
  subst hE hM
  simp only [floatFmts, List.mem_cons, List.not_mem_nil, or_false] at hf
  rcases hf with rfl | rfl | rfl | rfl | rfl
  all_goals
    simp only [decodeF, fmtLayout, reduceCtorEq, if_false, if_true, Bool.and_eq_true, decide_eq_true_eq] at h ⊢
    split_ifs at h <;> cases h
    · exact ⟨rfl, by simp_all, .inl ⟨by assumption, rfl, rfl⟩⟩
    · exact ⟨rfl, by simp_all, .inr ⟨Nat.pos_of_ne_zero (by assumption), rfl, rfl⟩⟩

/-- The widths of a floating-point format and its largest finite value (03 R64, R65). -/
theorem maxFin_layout : ∀ f ∈ floatFmts, 0 < (fmtLayout f).1 ∧ 0 < (fmtLayout f).2.1
    ∧ 2 ^ ((fmtLayout f).2.1 + 1) ≤ (maxFin f).1 + (if f = .e4m3 then 2 else 1)
    ∧ (maxFin f).2 = (topExp f : Int) - (fmtLayout f).2.2 - (fmtLayout f).2.1 ∧ 1 < topExp f ∧ 0 < (maxFin f).1
    ∧ topExp f + (if f = .e4m3 then 1 else 2) = 2 ^ (fmtLayout f).1 ∧ (f = .e4m3 → 2 ^ (fmtLayout f).2.1 = 8 ∧ topExp f = 15) := by decide

/-- A code that stands for a finite value has such fields. -/
theorem finiteCode_of_decodeF {f : Fmt} (hf : f ∈ floatFmts) {n : Nat} (hn : n < 2 ^ ((fmtLayout f).1 + (fmtLayout f).2.1 + 1)) {neg : Bool} {m : Nat} {e : Int}
    (h : decodeF f n = .fin neg m e) : ∃ E M, FiniteCode f n neg m e E M := by
  obtain ⟨hew, hmw, hmax, -, htop, -, hones, h3⟩ := maxFin_layout f hf
  obtain ⟨hneg, hfin, hvalue⟩ := fields_of_decodeF hf h rfl rfl
  have hcode := code_eq_fields hew hmw hn
  have hE := bits_lt n ((fmtLayout f).1 + (fmtLayout f).2.1 - 1) (fmtLayout f).2.1
  have hM := bits_lt n ((fmtLayout f).2.1 - 1) 0
  rw [show (fmtLayout f).1 + (fmtLayout f).2.1 - 1 + 1 - (fmtLayout f).2.1 = (fmtLayout f).1 by omega] at hE
  rw [show (fmtLayout f).2.1 - 1 + 1 - 0 = (fmtLayout f).2.1 by omega] at hM
  rw [Nat.pow_succ] at hmax
  refine ⟨_, _, ⟨by rw [signBit_eq f hf, hneg]; exact hcode, hM, ?_, fun hlast => ?_, hvalue⟩⟩
  · split_ifs at hones hfin <;> omega
  · split_ifs at hmax hones hfin with h4
    · have := h3 h4
      omega
    · omega

/-- A finite code is not above the largest finite value (03 R75). -/
theorem FiniteCode.not_magGt {f : Fmt} (hf : f ∈ floatFmts) {n : Nat} {neg : Bool} {m : Nat} {e : Int} {E M : Nat} (h : FiniteCode f n neg m e E M) :
    magGt m e (maxFin f).1 (maxFin f).2 = false := by
  obtain ⟨-, -, hmax, htopExp, htop, hpos, -, -⟩ := maxFin_layout f hf
  obtain ⟨-, hM, hE, hlast, hvalue⟩ := h
  have he : e ≤ (maxFin f).2 := by omega
  simp only [magGt, decide_eq_false_iff_not, not_lt, gt_iff_lt, min_eq_left he, sub_self, Int.toNat_zero, Nat.pow_zero, Nat.mul_one]
  by_cases hetop : e = (maxFin f).2
  · rw [hetop, sub_self, Int.toNat_zero, Nat.pow_zero, Nat.mul_one]
    exact hlast (by omega)
  · have hm : m ≤ (maxFin f).1 * 2 := by rw [Nat.pow_succ] at hmax; split_ifs at hmax <;> omega
    refine hm.trans (Nat.mul_le_mul_left _ (Nat.le_self_pow (by omega) 2))

/-- A finite code is its own encoding (03 R64). -/
theorem FiniteCode.encodeMag {f : Fmt} {n : Nat} {neg : Bool} {m : Nat} {e : Int} {E M : Nat} (h : FiniteCode f n neg m e E M) (hm : m ≠ 0) :
    quantum f m e = e ∧ Machine.encodeMag f m e + signBit f neg = n := by
  obtain ⟨hcode, hM, -, -, hvalue⟩ := h
  obtain ⟨⟨ew, mw, bias⟩, hfl⟩ : ∃ l, fmtLayout f = l := ⟨_, rfl⟩
  simp only [hfl] at hcode hM hvalue
  simp only [quantum, Machine.encodeMag, hfl, flog2, if_neg hm]
  rcases hvalue with ⟨rfl, rfl, rfl⟩ | ⟨hE, rfl, rfl⟩
  · have hlog : m.log2 < mw := (Nat.log2_lt hm).2 hM
    rw [if_pos (by omega)]
    constructor
    · omega
    · simp only [sub_self, Int.toNat_zero, Nat.pow_zero]; omega
  · have hlog : (M + 2 ^ mw).log2 = mw := (Nat.log2_eq_iff hm).2 ⟨by omega, by rw [Nat.pow_succ]; omega⟩
    simp only [hlog]
    rw [if_neg (by omega), if_pos (by omega)]
    constructor
    · omega
    · rw [show ((mw : Int) + ((E : Int) - bias - mw) - mw - ((E : Int) - bias - mw)).toNat = 0 by omega, Nat.pow_zero, Nat.div_one,
        show ((mw : Int) + ((E : Int) - bias - mw) + bias).toNat = E by omega]
      omega

/-! ### The statement -/

/-- A floating-point value converts to its own code. -/
theorem convertF_decodeF_float {f : Fmt} (hf : f ∈ floatFmts) {r : Rnd} (hr : ∀ b, r = .sr8 b → b < 256) (ovf : Bool) {n : Nat} (hn : n < 2 ^ ((fmtLayout f).1 + (fmtLayout f).2.1 + 1))
    {neg : Bool} {m : Nat} {e : Int} (h : decodeF f n = .fin neg m e) : convertF f r ovf (.fin neg m e) = (n, {}) := by
  obtain ⟨E, M, hcode⟩ := finiteCode_of_decodeF hf hn h
  have h8 := ne_int8_of_float hf
  by_cases hm : m = 0
  · have hzero : E = 0 ∧ M = 0 := by obtain ⟨-, -, -, -, hvalue⟩ := hcode; have := Nat.two_pow_pos (fmtLayout f).2.1; omega
    have hcode := hcode.code
    rw [hzero.1, hzero.2, Nat.zero_mul, Nat.zero_add] at hcode
    simp [convertF, hm, hcode]
  · obtain ⟨hq, hself⟩ := hcode.encodeMag hm
    simp [convertF, hm, hq, rndUnits_same hr, hcode.not_magGt hf, hself]

/-- An INT8 value converts to its own code (03 R68, R78). -/
theorem convertF_decodeF_int8 {r : Rnd} (hr : ∀ b, r = .sr8 b → b < 256) (ovf : Bool) {n : Nat} (hn : n < 2 ^ 8) : convertF .int8 r ovf (decodeF .int8 n) = (n, {}) := by
  by_cases hhalf : n < 128
  · rw [decodeF_int8_nonneg (by omega)]
    simp [convertF, rndUnits_same hr, show ¬ 127 < n by omega]
  · have hs : sint 8 n = (n : Int) - 256 := by simp only [sint]; omega
    have habs : ((n : Int) - 256).natAbs = 256 - n := by omega
    have hu : unsint 8 (-((256 - n : Nat) : Int)) = n := by simp only [unsint]; omega
    simp [decodeF, convertF, hs, habs, rndUnits_same hr, show (n : Int) < 256 by omega, show ¬ 128 < 256 - n by omega, hu]

/-- Settles O57: a value of a format lies on the format's grid and within its range, so its rounding is exact and its encoding the code that it came from. -/
theorem representableValuesKeep : Obligations.RepresentableValuesKeep := by
  intro fw hfw r ovf neg n m e hr hn h
  by_cases h8 : fw.1 = .int8
  · have hw : fw.2 = 8 := by revert h8; fin_cases hfw <;> decide
    rw [h8]
    exact convertF_decodeF_int8 hr ovf (hw ▸ hn)
  · have hf : fw.1 ∈ floatFmts ∧ fw.2 = (fmtLayout fw.1).1 + (fmtLayout fw.1).2.1 + 1 := by revert h8; fin_cases hfw <;> decide
    rw [h]
    exact convertF_decodeF_float hf.1 hr ovf (hf.2 ▸ hn) h

end Sys2Proof.NumberFormats
end

section
/-! SUPPORT. How a row opens: the next state of a command whose vcore, engine, conductor word or manifest is as its meaning asks. -/

open Sys2Proof Sys2Proof.Machine

namespace Sys2Proof.Openers

/-- An engine row whose operation the engine takes. -/
theorem next_atEngine {s t : State} {p v q o k : Nat} {c : Ctx} {vc : Vcore} {f : Nat → Ctx → Vcore → State} (hat : atEngine s p v k q o c vc) (h : f k c vc = t) :
    (.next (onEngine s p v q o f) : Res) = .next t := by
  rw [onEngine_atEngine hat, h]

/-- A conductor row whose word may issue. -/
theorem next_atWord {s t : State} {p v k w cop : Nat} {c : Ctx} {vc : Vcore} {f : Nat → Ctx → Vcore → Nat → Vcore → State} (hat : atWord s p v k c vc w cop)
    (h : f k c vc w (stepCia s vc w) = t) : (.next (onCond s p v cop f) : Res) = .next t := by
  rw [onCond_atWord hat, h]

/-- A manifest row whose manifest may start. -/
theorem next_manUp {s t u : State} {q type lo : Nat} {m : Man} {f : State → Man → State} (hup : manUp s q type lo m u) (h : f u m = t) :
    (.next (onMan s q type lo f) : Res) = .next t := by
  rw [onMan_up hup, h]

/-- A row of a vcore at work. -/
theorem next_atWork {s t : State} {p v k : Nat} {c : Ctx} {vc : Vcore} {f : Nat → Ctx → Vcore → State} (hat : atWork s p v k c vc) (h : f k c vc = t) :
    (.next (onVcore s p v f) : Res) = .next t := by
  rw [onVcore_atWork hat, h]

end Sys2Proof.Openers
end

section
/-! SUPPORT. The rows of the vector stream engine: slots, chains, and gathers and scatters; and the statements about them (chapter 06). -/

open Sys2Proof Sys2Proof.Machine Sys2Proof.Openers

namespace Sys2Proof.VectorEngine

/-! ### Operations that stand alone -/

theorem vFieldProb_none {c : Ctx} {vc : Vcore} {v o : Nat} (h : vseBad c.prog.tensors.length o = none) : vFieldProb c vc v o = none := by
  rw [vFieldProb, h]

/-- An operation that stands alone runs where no chain is open and its fields are good (06 R143). -/
theorem doAlone_runs {s : State} {k v : Nat} {c : Ctx} {vc : Vcore} {op : BitVec 128} {f : State → State} (hopen : vc.chain = [])
    (hfld : vseBad c.prog.tensors.length op.toNat = none) (hchain : vChain op.toNat = false) : doAlone s k c vc v op f = f s :=
  onAlone hopen (vFieldProb_none hfld) hchain

/-- Where its store stays in SP, a VSTAT writes the accumulators and clears them if it says so (06 R153). -/
theorem doVstat_frame {s : State} {k v : Nat} {c : Ctx} {vc : Vcore} {op : BitVec 128} (hroom : bits op.toNat 22 7 * 64 + 8 ≤ spLimit) :
    (doVstat s k c vc v op).mem = memWrite s.mem (spBase (pcoreOf c v) + bits op.toNat 22 7 * 64) ((List.range 8).map (fun a => byte (tgetD vc.accum a 0)))
    ∧ (doVstat s k c vc v op).ctxs = (if bit op.toNat 6 then modVc s k v (fun x => { x with accum := [] }) else s).ctxs
    ∧ { doVstat s k c vc v op with mem := s.mem, poison := s.poison, pword := s.pword, ctxs := s.ctxs } = s := by
  unfold doVstat
  rw [if_neg (not_lt.2 hroom)]
  cases bit op.toNat 6 <;> exact ⟨rfl, rfl, rfl⟩

/-- Settles O5: each of the three stands alone, and what it does is its definition. -/
theorem vseSlotRows : Obligations.VseSlotRows := by
  intro p v op s k c vc hopen
  have alone (n : Nat) (hn : n < 8) (f : State → State) (hfld : vseBad c.prog.tensors.length (withOpc op n).toNat = none) :
      doAlone s k c vc v (withOpc op n) f = f s := doAlone_runs hopen hfld (vChain_alone op n hn)
  refine ⟨fun hat hfld => ?_, fun hat hfld => ?_, fun hat hfld hroom => ?_⟩
  · refine next_atEngine hat ((alone 1 (by decide) _ hfld).trans ?_)
    rw [doVsdA, bits_withOpc op 1 11 6 (by decide)]
  · refine next_atEngine hat ((alone 2 (by decide) _ hfld).trans ?_)
    rw [doVsdB, bits_withOpc op 2 11 6 (by decide)]
  · rw [← bits_withOpc op 3 22 7 (by decide)] at hroom ⊢
    rw [← bit_withOpc op 3 6 (by decide)]
    exact ⟨_, next_atEngine hat (alone 3 (by decide) _ hfld), doVstat_frame hroom⟩

/-! ### Chains -/

/-- Every row that may stand in a chain runs as `chainRow` of its operation code. -/
theorem exec_chainRows : ∀ r ∈ chainRows, ∀ p v op s, exec (r.1 p v op) s = chainRow p v op r.2 s := by
  intro r hr
  fin_cases hr <;> intros <;> rfl

/-- An operation with CHAIN 1 joins the open chain while that has room (06 R143). -/
theorem doChainOp_joins {s : State} {k v : Nat} {c : Ctx} {vc : Vcore} {op : BitVec 128} (hchain : vChain op.toNat = true) (hroom : vc.chain.length < 15) :
    doChainOp s k c vc v op = modVc s k v (fun x => { x with chain := vc.chain ++ [op] }) := by
  have hlen : (vc.chain ++ [op]).length ≤ 16 := by rw [List.length_append, List.length_singleton]; omega
  simp only [doChainOp, hchain, hlen, Bool.true_and, decide_true, if_true]

/-- An operation with CHAIN 0 ends the chain and runs it (06 R143). -/
theorem doChainOp_runs {s : State} {k v : Nat} {c : Ctx} {vc : Vcore} {op : BitVec 128} (hchain : vChain op.toNat = false) :
    doChainOp s k c vc v op = runChain (modVc s k v (fun x => { x with chain := [] })) k c vc v ((vc.chain ++ [op]).map (·.toNat)) := by
  simp only [doChainOp, hchain, Bool.false_and, Bool.false_eq_true, if_false]

/-- A chain that passes its checks runs over its geometry; a problem that it meets faults its context beside (06 R143 to R154). -/
theorem runChain_good {s : State} {k v inner outer : Nat} {c : Ctx} {vc : Vcore} {ops : List Nat} (hgood : vChainProb c vc v ops = none)
    (hgeom : chainGeom vc ops = some (inner, outer)) :
    runChain s k c vc v ops = faultIf (vFlagsInto (vRun s c (pcoreOf c v) v vc ops inner outer).s k v (pcoreOf c v) (vRun s c (pcoreOf c v) v vc ops inner outer).flags) k
      ((vRun s c (pcoreOf c v) v vc ops inner outer).prob.map (vLocate vc)) := by
  rw [runChain, hgood, hgeom]

/-- Settles O6, by CHAIN: the operation joins, or the chain runs. -/
theorem vseChainRows : Obligations.VseChainRows := by
  intro r hr p v op s k c vc hat
  rw [exec_chainRows r hr]
  refine ⟨fun hchain hroom => next_atEngine hat (doChainOp_joins hchain hroom), ?_⟩
  rintro inner outer hchain hgood hgeom _ rfl t w ht rfl
  have hrun := (doChainOp_runs (s := s) (k := k) hchain).trans (runChain_good hgood hgeom)
  rw [← ht] at hrun
  refine ⟨fun hprob => next_atEngine hat ?_, fun pr hprob => next_atEngine hat ?_⟩
  · rw [hrun, hprob]; rfl
  · rw [hrun, hprob]; rfl

/-! ### Gathers and scatters -/

/-- A gather without overlap commits its row (06 R152). -/
theorem doVgath_commits {s : State} {k v o : Nat} {c : Ctx} {vc : Vcore} {l : List (Nat × Nat × Bool × Nat)} (hlap : gathOverlap vc o = false) (hgood : gathProb vc v o = none)
    (hl : gathElems s c vc v o (slotNum (vB o)) = (l, none)) (hprob : (gathAcc s c vc v o l).prob = none) :
    doVgath s k c vc v o = vCommit s k v (pcoreOf c v) vc (gathAcc s c vc v o l) := by
  simp only [doVgath, hgood, hlap, hl, hprob, Bool.false_eq_true, if_false]
  rfl

/-- A scatter without overlap folds its updates in their order (06 R152). -/
theorem doScat_folds {s : State} {k v o : Nat} {c : Ctx} {vc : Vcore} {order : List (Nat × Nat × Bool × Nat) → List (Nat × Nat × Bool × Nat)} {l : List (Nat × Nat × Bool × Nat)}
    (hlap : gathOverlap vc o = false) (hgood : gathProb vc v o = none) (hl : gathElems s c vc v o (slotNum (vD o)) = (l, none)) :
    doScat s k c vc v o order = (order l).foldl (fun t e => scatOne t k (pcoreOf c v) v vc o s e) s := by
  simp only [doScat, hgood, hlap, hl, Bool.false_eq_true, if_false]
  rfl

/-- An update of a scatter faults no context. -/
theorem scatOne_probs (t src : State) (k pc v : Nat) (vc : Vcore) (o : Nat) (e : Nat × Nat × Bool × Nat) : probsOf (scatOne t k pc v vc o src e) k = probsOf t k := by
  unfold scatOne
  split
  · rfl
  · exact vFlagsInto_probs ..

theorem foldl_scatOne_probs (src : State) (k pc v : Nat) (vc : Vcore) (o : Nat) (l : List (Nat × Nat × Bool × Nat)) (t : State) :
    probsOf (l.foldl (fun t e => scatOne t k pc v vc o src e) t) k = probsOf t k := by
  induction l generalizing t with
  | nil => rfl
  | cons e l ih => rw [List.foldl_cons, ih, scatOne_probs]

/-- The layer of the tensor that the destination slot of a scatter names. -/
def rowLayer (c : Ctx) (vc : Vcore) (o : Nat) : Nat :=
  match tensorOf c (slotTid vc (slotNum (vD o))) with
  | some x => x.layer
  | none => 0xFFFFFFFF

/-- SCATADD.FAST, where the program may vary, folds its updates as they arrive and records its use (06 R148, 02 R48, R49). -/
theorem doScatFast_records {s t : State} {k v o : Nat} {c : Ctx} {vc : Vcore} {l : List (Nat × Nat × Bool × Nat)} (hvar : c.prog.canon = true → bit c.prog.varGrant 0 = true)
    (hlap : gathOverlap vc o = false) (hgood : gathProb vc v o = none) (hl : gathElems { s with draws := s.draws + 1 } c vc v o (slotNum (vD o)) = (l, none))
    (ht : t = (arrivalOrder s.draws l).foldl (fun t e => scatOne t k (pcoreOf c v) v vc o { s with draws := s.draws + 1 } e) { s with draws := s.draws + 1 })
    (hpoison : ∀ i, i < sgInner (slotA vc (slotNum (vD o))) →
      devPoison t (spBase (pcoreOf c v) + sgBase (slotA vc (slotNum (vD o))) + i * fmtBytes (vDstFmt vc o)) (fmtBytes (vDstFmt vc o)) = false) :
    doScatFast s k c vc v o = recVar t k 1 1 v
      (rowLayer c vc o) c.frame
      (crc64 (devRead t (spBase (pcoreOf c v) + sgBase (slotA vc (slotNum (vD o)))) (sgInner (slotA vc (slotNum (vD o))) * fmtBytes (vDstFmt vc o)))) := by
  have hmay : ¬ ((c.prog.canon && !bit c.prog.varGrant 0) = true) := by
    cases hcanon : c.prog.canon
    · simp
    · simp [hvar hcanon]
  have hfold : doScat { s with draws := s.draws + 1 } k c vc v o (arrivalOrder s.draws) = t := by rw [ht]; exact doScat_folds hlap hgood hl
  have hprobs : ¬ probsOf t k ≠ probsOf s k := by rw [ht, foldl_scatOne_probs]; exact fun h => h rfl
  rw [doScatFast, if_neg hmay]
  simp only [hfold]
  rw [if_neg hprobs, find_none hpoison]
  rfl

/-- Settles O8: each row stands alone and runs as its definition says; the overlap decides between all elements at once and group by group. -/
theorem vseIndexRows : Obligations.VseIndexRows := by
  intro p v op s k c vc l hopen
  refine ⟨?_, ?_, ?_, ?_, ?_⟩
  · rintro o rfl hat hlap hfld hchain hgood hl hprob
    exact next_atEngine hat ((doAlone_runs hopen hfld hchain).trans (doVgath_commits hlap hgood hl hprob))
  · rintro o r rfl hat hlap hfld hchain hgood rfl
    refine next_atEngine hat ((doAlone_runs hopen hfld hchain).trans ?_)
    rw [doVgath, hgood]
    exact if_pos hlap
  · rintro o rfl hat hlap hfld hchain hgood hl
    exact next_atEngine hat ((doAlone_runs hopen hfld hchain).trans (doScat_folds hlap hgood hl))
  · rintro o r rfl hat hlap hfld hchain hgood rfl
    refine next_atEngine hat ((doAlone_runs hopen hfld hchain).trans ?_)
    rw [doScat, hgood]
    exact if_pos hlap
  · rintro o u t rfl hat hlap hfld hchain hgood hvar rfl hl ht hpoison
    exact next_atEngine hat ((doAlone_runs hopen hfld hchain).trans (doScatFast_records hvar hlap hgood hl ht hpoison))

end Sys2Proof.VectorEngine
end

section
/-! SUPPORT. One element of an element-wise row of the vector stream engine, from its operands to the state after its write; and the statement about it (06 R141 to R154). -/

open Sys2Proof Sys2Proof.Machine Sys2Proof.Openers

namespace Sys2Proof.VectorEngine

/-! ### One element -/

/-- Whether an operand that the operation uses is poisoned (06 R150, 12 R289). -/
def poisonIn (opc : Nat) (x y z : FVal × Bool) : Bool := x.2 || ((vUses opc).2.1 && y.2) || ((vUses opc).2.2 && z.2)

/-- Whether an operand that the operation uses is NaN (06 R154). -/
def nanIn (opc : Nat) (x y z : FVal × Bool) : Bool := x.1 = .nan || ((vUses opc).2.1 && y.1 = .nan) || ((vUses opc).2.2 && z.1 = .nan)

/-- The exact result of an operation on what it uses of its operands, with the flags of a reference function. -/
def elemExact (opc : Nat) (x y z : FVal × Bool) : FVal × Nat :=
  vExact opc x.1 (if (vUses opc).2.1 then y.1 else fzero false) (if (vUses opc).2.2 then z.1 else fzero false)

/-- The flags of an element: poison alone, or those of the operation, of the conversion and of a NaN that was read (06 R154). -/
def elemFlags (opc : Nat) (x y z : FVal × Bool) (fl : CFlags) : Nat :=
  if poisonIn opc x y z then 64 else (elemExact opc x y z).2 ||| cfBits fl ||| (if nanIn opc x y z then 32 else 0)

theorem elemFlags_lt (opc : Nat) (x y z : FVal × Bool) (fl : CFlags) : elemFlags opc x y z fl < 2 ^ 64 := by
  unfold elemFlags
  split
  · decide
  · have hnan : (if nanIn opc x y z then 32 else 0) < 2 ^ 64 := by split <;> decide
    exact Nat.or_lt_two_pow (Nat.or_lt_two_pow ((vExact_lt ..).trans (by decide)) ((cfBits_lt fl).trans (by decide))) hnan

/-- What an element-wise operation needs to write element (0, 0) of slot d: no mask, no draw for its rounding, and not a comparison or a mask row. -/
structure Unmasked (o d : Nat) : Prop where
  mask : bits o 13 12 = 0
  round : bits o 7 6 ≠ 1
  dest : vD o = .slot d
  cmp : vOpc o ≠ 0x11
  vmask : vOpc o ≠ 0x30
  reduce : isReduce o = false

theorem vConvert_slot {c : Ctx} {vc : Vcore} {o d : Nat} (h : Unmasked o d) (r i : Nat) (e : FVal) :
    vConvert c vc o r i e = some ((convertCvc (vDstFmt vc o) (bits o 8 6) 0 e).1, cfBits (convertCvc (vDstFmt vc o) (bits o 8 6) 0 e).2) := by
  have hround : bits (bits o 8 6) 1 0 ≠ 1 := by rw [bits_bits o 8 6 1 0 (by decide) (by decide)]; exact h.round
  simp [vConvert, vDstFmt, h.dest, hround]

/-- An unmasked element is read, computed, converted and put, with its flags (06 R144, R150, R154). -/
theorem vElem_unmasked {s : State} {c : Ctx} {pc v : Nat} {vc : Vcore} {o d : Nat} (h : Unmasked o d) {x y z : FVal × Bool}
    (hx : x = vRead s pc vc [] o 0 0 (vA o)) (hy : y = vRead s pc vc [] o 0 0 (vB o)) (hz : z = vRead s pc vc [] o 0 0 (vC o)) {code : Nat} {fl : CFlags}
    (hcode : (code, fl) = convertCvc (vDstFmt vc o) (bits o 8 6) 0 (elemExact (vOpc o) x y z).1) :
    vElem s c pc v vc o 0 0 {} [] = ({
      segs := [(spBase pc + slotOff (slotA vc d) 0 0, (leBytes (fmtBytes (vDstFmt vc o)) code).map (fun b => (b, poisonIn (vOpc o) x y z)))]
      flags := [(bits o 11 9, elemFlags (vOpc o) x y z fl)] }, []) := by
  have hact : vActive s pc v vc [] o 0 0 = (true, none) := by simp [vActive, h.mask]
  have hconv := vConvert_slot (c := c) (vc := vc) h 0 0 (elemExact (vOpc o) x y z).1
  rw [← hcode] at hconv
  unfold elemExact at hconv
  unfold vElem
  simp only [Option.isSome_none, Bool.false_eq_true, if_false, h.vmask, h.cmp, hact, ← hx, ← hy, ← hz, hconv]
  simp only [vPut, h.dest, vFlag, tput, tgetD, tget_nil, Option.getD_none, Nat.zero_or, List.nil_append]
  rfl

/-! ### A chain of one operation over one element -/

/-- One operation over one element: its chain is one group of one lane, which nothing overlaps (06 R141, R142). -/
theorem vRun_one {s : State} {c : Ctx} {pc v : Nat} {vc : Vcore} {o : Nat} (hred : isReduce o = false) {seg : Seg} {fsel flags : Nat}
    (helem : vElem s c pc v vc o 0 0 {} [] = ({ segs := [seg], flags := [(fsel, flags)] }, [])) :
    vRun s c pc v vc [o] 1 1 = { s := devSeg s seg, flags := [(fsel, flags)] } := by
  have hw : chainGroups (chainWidth vc [o]) 1 1 = [(0, 0, 1)] := by
    unfold chainWidth
    split <;> rfl
  have heval : groupEval s c pc v vc [o] 1 [] (0, 0, 1) = ({ segs := [seg], flags := [(fsel, flags)] }, []) := by
    simp [groupEval, hred, vGroup, vLanes, List.range_one, helem]
  have hlap : chainOverlap vc [o] 1 [(0, 0, 1)] [] = false := by simp [chainOverlap]
  simp only [vRun, hw, hlap, Bool.false_eq_true, if_false, runGroups, List.foldl_cons, List.foldl_nil, groupStep, VRun.settle, Option.isSome_none, heval, vWrite, devSegs, joinSegs,
    tput, tgetD, tget_nil, Option.getD_none, Nat.zero_or, List.nil_append, List.flatMap_nil]

/-- The state after one element: its bytes, its flags in VSE_STATUS, and in the accumulators of its vcore. -/
theorem flagsInto_devSeg_frame {s : State} (hinv : Machine.Inv s) (k v pc adr fsel flags : Nat) (hflags : flags < 2 ^ 64) (g : Vcore → Vcore) (b : Bytes) (po : Bool) {t : State}
    (ht : t = vFlagsInto (devSeg (modVc s k v g) (adr, b.map (fun x => (x, po)))) k v pc [(fsel, flags)]) :
    devRead t adr b.length = b ∧ memBut adr b.length s t ∧ rd t (rVseStatus pc) = rd s (rVseStatus pc) ||| flags ∧ regsBut [rVseStatus pc] s t
      ∧ { t with mem := s.mem, poison := s.poison, pword := s.pword, regs := s.regs, stickNow := s.stickNow, ctxs := s.ctxs } = s := by
  have hmem : t.mem = (devSeg s (adr, b.map (fun x => (x, po)))).mem := by rw [ht]; rfl
  have hregs (a : Nat) : rd t a = rd (orReg s (rVseStatus pc) flags) a := by
    rw [ht]
    simp only [vFlagsInto, List.foldl_cons, List.foldl_nil, Nat.zero_or]
    rfl
  refine ⟨?_, fun a ha => ?_, ?_, fun a ha => ?_, by rw [ht]; rfl⟩
  · rw [devRead_of_mem hmem]
    simpa [Function.comp_def] using devRead_devSeg s adr (b.map (fun x => (x, po))) hinv.1
  · rw [hmem, memGet_devSeg_other _ _ _ _ (by simpa using ha)]
  · rw [hregs, rd_orReg_same _ _ _ hflags]
  · rw [hregs, rd_orReg_other _ _ _ _ (by simpa using ha)]

/-! ### The statement -/

theorem leBytes_length (n x : Nat) : (leBytes n x).length = n := by
  induction n generalizing x with
  | zero => rfl
  | succ n ih => rw [leBytes, List.length_cons, ih]

/-- An element-wise row is in the chain rows, and its operation code is that of no comparison, mask or reduction. -/
theorem elementRows_code : ∀ r ∈ elementRows, r ∈ chainRows ∧ r.2 < 64 ∧ r.2 ≠ 0x11 ∧ r.2 ≠ 0x30 ∧ ¬ (0x20 ≤ r.2 ∧ r.2 ≤ 0x22) := by
  intro r hr
  refine ⟨List.mem_append_left _ hr, ?_⟩
  fin_cases hr <;> decide

/-- Settles O7: the row is a chain of one operation over one element, which `vElem_unmasked` computes. -/
theorem vseElementRows : Obligations.VseElementRows := by
  intro r hr p v op s k c vc d x y z o adr w code flags ho hat hinv hopen hchain hgood hgeom hmask hround hdest hx hy hz hadr hw e f1 fl hexact hcode hflags
  obtain ⟨hrow, hlt, hcmp, hvmask, hred⟩ := elementRows_code r hr
  have hopc : vOpc o = r.2 := by rw [ho, vOpc_withOpc op r.2 hlt]
  have hun : Unmasked o d := ⟨hmask, hround, hdest, hopc ▸ hcmp, hopc ▸ hvmask, by simpa [isReduce, hopc] using hred⟩
  have he : (e, f1) = elemExact (vOpc o) x y z := by rw [hopc]; exact hexact
  have hcode' : (code, fl) = convertCvc (vDstFmt vc o) (bits o 8 6) 0 (elemExact (vOpc o) x y z).1 := by rw [hcode, ← he]
  have hflags' : flags = elemFlags (vOpc o) x y z fl := by
    rw [hflags, elemFlags, ← he, hopc]
    rfl
  have helem := vElem_unmasked (s := modVc s k v (fun x => { x with chain := [] })) (c := c) (v := v) hun hx hy hz hcode'
  have hops : (vc.chain ++ [withOpc op r.2]).map (·.toNat) = [o] := by rw [hopen, ho]; rfl
  have hrun := runChain_good (s := modVc s k v (fun x => { x with chain := [] })) (k := k) hgood hgeom
  rw [vRun_one hun.reduce helem, ← hflags'] at hrun
  have hframe := flagsInto_devSeg_frame hinv k v (pcoreOf c v) adr (bits o 11 9) flags (hflags' ▸ elemFlags_lt ..) (fun x => { x with chain := [] }) (leBytes w code)
    (poisonIn (vOpc o) x y z) rfl
  rw [leBytes_length, hadr, hw] at hframe
  rw [exec_chainRows r hrow, hadr, hw]
  refine ⟨_, next_atEngine (ho ▸ hat) ((doChainOp_runs (ho ▸ hchain)).trans ?_), hframe⟩
  rw [hops, hrun]
  rfl

end Sys2Proof.VectorEngine
end

section
/-! SUPPORT. The rows of the matrix engine: what echo leaves of the state beside an MMA, and the statements about MMA and MDRAIN (chapter 04, 17 R424 to R430). -/

open Sys2Proof Sys2Proof.Machine Sys2Proof.Openers

namespace Sys2Proof.MatrixEngine

/-! ### What echo leaves alone -/

/-- Between two states the regions, memory, its poison and every register but the echo register of a core are the same. -/
structure EchoOnly (pc : Nat) (s t : State) : Prop where
  mxe : t.mxe = s.mxe
  mem : t.mem = s.mem
  poison : t.poison = s.poison
  regs : ∀ a, a ≠ rCoreEcho pc → rd t a = rd s a

theorem EchoOnly.refl (pc : Nat) (s : State) : EchoOnly pc s s := ⟨rfl, rfl, rfl, fun _ _ => rfl⟩

theorem EchoOnly.trans {pc : Nat} {s t u : State} (h : EchoOnly pc s t) (g : EchoOnly pc t u) : EchoOnly pc s u :=
  ⟨g.mxe.trans h.mxe, g.mem.trans h.mem, g.poison.trans h.poison, fun a ha => (g.regs a ha).trans (h.regs a ha)⟩

theorem EchoOnly.ite {pc : Nat} {s a b : State} {c : Prop} [Decidable c] (h : EchoOnly pc s a) (g : EchoOnly pc s b) : EchoOnly pc s (if c then a else b) := by
  split
  · exact h
  · exact g

theorem echoOnly_setFld (s : State) (pc hi lo v : Nat) : EchoOnly pc s (setFld s (rCoreEcho pc) hi lo v) :=
  ⟨rfl, rfl, rfl, fun _ ha => rd_setFld_other _ _ _ _ _ _ ha⟩

theorem echoOnly_resumePass (s : State) (pc q since : Nat) : EchoOnly pc s (resumePass s q since) := by
  unfold resumePass
  split
  · exact .refl pc s
  · exact ⟨rfl, rfl, rfl, fun _ _ => rfl⟩

/-- The end of an echo resumes passes and may put its core under probe (17 R428). -/
theorem echoOnly_echoEnd (s : State) (pc r : Nat) : EchoOnly pc s (echoEnd s pc r) := by
  unfold echoEnd
  split
  · exact .refl pc s
  next e _ =>
    have hdel : EchoOnly pc s { s with echo := tdel s.echo (pc * 2 + r) } := ⟨rfl, rfl, rfl, fun _ _ => rfl⟩
    dsimp only
    split_ifs
    · exact hdel.trans (echoOnly_resumePass ..)
    · exact (hdel.trans (echoOnly_resumePass _ _ _ e.since)).trans (echoOnly_setFld ..)
    · refine .trans ?_ (echoOnly_resumePass ..)
      exact ⟨rfl, rfl, rfl, fun _ _ => rfl⟩

/-- After its end a region has no echo. -/
theorem echoEnd_echo (s : State) (pc r : Nat) : tget (echoEnd s pc r).echo (pc * 2 + r) = none := by
  have hresume (t : State) (q since : Nat) : (resumePass t q since).echo = t.echo := by unfold resumePass; split <;> rfl
  unfold echoEnd
  split
  · assumption
  · dsimp only
    split_ifs <;> simp [underProbe, hresume]

/-- A K-block that opens ends the echo before it and may be selected for one of its own (17 R424). -/
theorem echoOnly_echoOpen (s : State) (k : Nat) (c : Ctx) (vc : Vcore) (v pc r : Nat) : EchoOnly pc s (echoOpen s k c vc v pc r) := by
  have hblk : EchoOnly pc s (modVc (echoEnd s pc r) k v (fun x => { x with kblk := x.kblk + 1 })) := (echoOnly_echoEnd s pc r).trans ⟨rfl, rfl, rfl, fun _ _ => rfl⟩
  have hprobe : EchoOnly pc s (if fld (modVc (echoEnd s pc r) k v (fun x => { x with kblk := x.kblk + 1 })) (rCoreEcho pc) 63 56 > 0
      then setFld (modVc (echoEnd s pc r) k v (fun x => { x with kblk := x.kblk + 1 })) (rCoreEcho pc) 63 56
        (fld (modVc (echoEnd s pc r) k v (fun x => { x with kblk := x.kblk + 1 })) (rCoreEcho pc) 63 56 - 1)
      else modVc (echoEnd s pc r) k v (fun x => { x with kblk := x.kblk + 1 })) := .ite (hblk.trans (echoOnly_setFld ..)) hblk
  exact .ite hprobe (hprobe.trans ⟨rfl, rfl, rfl, fun _ _ => rfl⟩)

/-- After it opens, the region has no echo until its shadow is found. -/
theorem echoOpen_echo (s : State) (k : Nat) (c : Ctx) (vc : Vcore) (v pc r : Nat) : tget (echoOpen s k c vc v pc r).echo (pc * 2 + r) = none := by
  have hend := echoEnd_echo s pc r
  unfold echoOpen
  dsimp only
  split_ifs <;> exact hend

/-- The echo copy of an MMA changes no region and no register. -/
theorem echoBytes_frame (s : State) (pc r : Nat) (b : Bytes) : (echoBytes s pc r b).mxe = s.mxe ∧ ∀ a, rd (echoBytes s pc r b) a = rd s a := by
  unfold echoBytes
  split_ifs
  · exact ⟨rfl, fun _ => rfl⟩
  · split <;> exact ⟨rfl, fun _ => rfl⟩

/-- Where no shadow echoes the region, the echo copy changes no memory. -/
theorem echoBytes_noShadow {s : State} {pc r : Nat} (b : Bytes) (h : tget s.echo (pc * 2 + r) = none) : (echoBytes s pc r b).mem = s.mem ∧ (echoBytes s pc r b).poison = s.poison := by
  unfold echoBytes
  split_ifs
  · exact ⟨rfl, rfl⟩
  · rw [h]
    exact ⟨rfl, rfl⟩

/-- The echo copy goes behind what the shadow's scratchpad already holds (17 R426). -/
theorem echoBytes_shadow {s : State} {pc r : Nat} {e : Echo} (b : Bytes) (h : tget s.echo (pc * 2 + r) = some e) :
    memBut (spBase e.shadow + e.bytes) (spLimit - e.bytes) s (echoBytes s pc r b) := by
  intro x hx
  unfold echoBytes
  split_ifs
  · rfl
  · rw [h]
    refine memGet_memWrite_other _ _ _ _ (hx.imp id fun hx => ?_)
    rw [List.length_take]
    omega

/-! ### MMA -/

/-- The region after an MMA (04 R103, R104). -/
def mmaRegion (s : State) (pc o r : Nat) (cls : PairClass) : MxeRegion :=
  { st := if bit o 26 then .closed else .opened, nextTile := bits o 20 17 + bits o 25 21, m := bits o 43 35 + 1, n := bits o 50 44 + 1, cls := cls, passes := bits o 13 12,
    acc := (addTiles s pc o cls (List.range (bits o 25 21)) (region s pc r).acc 0).1 }

/-- The state after the tiles of an MMA are added: its region, and its flags in MXE_STATUS (04 R103, R112). -/
def mmaAdded (s : State) (pc o r : Nat) (cls : PairClass) : State :=
  orReg { s with mxe := tput s.mxe (pc * 2 + r) (mmaRegion s pc o r cls) } (rMxeStatus pc) (addTiles s pc o cls (List.range (bits o 25 21)) (region s pc r).acc 0).2

/-- The state after the K-block of an MMA with tile 0 has opened, for which a shadow may be asked (17 R424). -/
def mmaOpened (s : State) (k : Nat) (c : Ctx) (vc : Vcore) (v o : Nat) (cls : PairClass) : State :=
  if bits o 20 17 = 0 then echoOpen (mmaAdded s (pcoreOf c v) o (bits o 16 16) cls) k c vc v (pcoreOf c v) (bits o 16 16) else mmaAdded s (pcoreOf c v) o (bits o 16 16) cls

theorem echoOnly_mmaOpened (s : State) (k : Nat) (c : Ctx) (vc : Vcore) (v o : Nat) (cls : PairClass) :
    EchoOnly (pcoreOf c v) (mmaAdded s (pcoreOf c v) o (bits o 16 16) cls) (mmaOpened s k c vc v o cls) := .ite (echoOnly_echoOpen ..) (.refl ..)

/-- An MMA that passes its checks adds its tiles, opens its echo with tile 0, and sends the echo copy. -/
theorem doMma_good {s : State} {k v o : Nat} {c : Ctx} {vc : Vcore} {cls : PairClass} (hbad : mmaBad o = none) (hpair : pairOf (bits o 7 4) (bits o 11 8) (bits o 13 12) = some cls)
    (hcursor : cursorBad (region s (pcoreOf c v) (bits o 16 16)) o cls = none) (hreach : ∀ x ∈ mmaReach o cls, x.2 ≤ spLimit) (hscale : badScale s (pcoreOf c v) o = none) :
    doMma s k c vc v o = echoBytes (mmaOpened s k c vc v o cls) (pcoreOf c v) (bits o 16 16) (mmaOperands (mmaOpened s k c vc v o cls) (pcoreOf c v) o cls) := by
  have hfind : (mmaReach o cls).find? (fun x => x.2 > spLimit) = none := List.find?_eq_none.2 fun x hx => by simpa using hreach x hx
  simp only [doMma, hbad, hpair, hcursor, hfind, hscale]
  rfl

theorem region_of_mxe {s t : State} (h : t.mxe = s.mxe) (q i : Nat) : region t q i = region s q i := by rw [region, region, h]

theorem region_mmaAdded_same (s : State) (pc o r : Nat) (cls : PairClass) : region (mmaAdded s pc o r cls) pc r = mmaRegion s pc o r cls := by
  simp [region, mmaAdded]

theorem region_mmaAdded_other (s : State) {pc o r q i : Nat} (cls : PairClass) (h : q * 2 + i ≠ pc * 2 + r) : region (mmaAdded s pc o r cls) q i = region s q i := by
  simp [region, mmaAdded, h]

theorem rd_mmaAdded_status (s : State) (pc o r : Nat) (cls : PairClass) :
    rd (mmaAdded s pc o r cls) (rMxeStatus pc) = (rd s (rMxeStatus pc) ||| (addTiles s pc o cls (List.range (bits o 25 21)) (region s pc r).acc 0).2) % 2 ^ 64 :=
  rd_setReg_same ..

theorem rd_mmaAdded_other (s : State) {pc o r a : Nat} (cls : PairClass) (h : a ≠ rMxeStatus pc) : rd (mmaAdded s pc o r cls) a = rd s a := by
  rw [mmaAdded, rd_orReg_other _ _ _ _ h]
  rfl

/-- Settles O9: the tiles are added first, and what echo does beside them changes no region, no register but its own, and no memory but the shadow's scratchpad. -/
theorem mmaAccumulates : Obligations.MmaAccumulates := by
  rintro p v op s k c vc o pc r cls rfl hat rfl rfl hbad hpair hcursor hreach hscale
  refine ⟨_, next_atEngine hat (doMma_good hbad hpair hcursor hreach hscale), ?_⟩
  generalize setBits op.toNat 3 0 1 = o at *
  have hopen := echoOnly_mmaOpened s k c vc v o cls
  obtain ⟨hmxe, hrd⟩ := echoBytes_frame (mmaOpened s k c vc v o cls) (pcoreOf c v) (bits o 16 16) (mmaOperands (mmaOpened s k c vc v o cls) (pcoreOf c v) o cls)
  have hregion := region_of_mxe (hmxe.trans hopen.mxe)
  refine ⟨(hregion _ _).trans (region_mmaAdded_same ..), fun q i hne => (hregion _ _).trans (region_mmaAdded_other s cls hne), ?_, fun a ha => ?_, fun hecho => ?_, fun e hfirst he => ?_⟩
  · rw [hrd, hopen.regs _ (by unfold rMxeStatus rCoreEcho; omega), rd_mmaAdded_status]
  · simp only [List.mem_cons, List.not_mem_nil, or_false, not_or] at ha
    rw [hrd, hopen.regs _ ha.2, rd_mmaAdded_other s cls ha.1]
  · have hnone : tget (mmaOpened s k c vc v o cls).echo (pcoreOf c v * 2 + bits o 16 16) = none := by
      unfold mmaOpened
      split_ifs with hfirst
      · exact echoOpen_echo ..
      · exact hecho.resolve_left hfirst
    obtain ⟨hmem, hpoison⟩ := echoBytes_noShadow (mmaOperands (mmaOpened s k c vc v o cls) (pcoreOf c v) o cls) hnone
    exact ⟨hmem.trans hopen.mem, hpoison.trans hopen.poison⟩
  · rw [mmaOpened, if_neg hfirst]
    exact echoBytes_shadow (s := mmaAdded s (pcoreOf c v) o (bits o 16 16) cls) _ he

/-! ### MDRAIN -/

/-- The flags that a drain raises: those of its elements, and poison (04 R112). -/
def drainFlags (es : List (List (Bytes × Bool × Nat))) : Nat := es.foldl (fun a row => row.foldl (fun a e => a ||| e.2.2 ||| 32 * b2n e.2.1) a) 0

/-- Rows of which every element has formed hold no gap. -/
theorem formed_noGap (es : List (List (Bytes × Bool × Nat))) (n : Nat) (f : Nat → Nat → Nat) :
    (List.range n).findSome? (fun m => (((es.map (·.map some)).getD m []).findIdx? (·.isNone)).map (f m)) = none := by
  refine findSome_none fun m _ => ?_
  rw [Option.map_eq_none_iff, List.findIdx?_eq_none_iff]
  rw [List.getD_eq_getElem?_getD, List.getElem?_map]
  cases es[m]? with
  | none => simp
  | some row =>
    intro x hx
    obtain ⟨e, -, rfl⟩ := List.mem_map.1 hx
    rfl

theorem formed_elements (es : List (List (Bytes × Bool × Nat))) : (es.map (·.map some)).map (·.filterMap id) = es := by
  simp [Function.comp_def]

theorem or_noDiff (x : Nat) : x ||| 32 * b2n (none : Option Nat).isSome = x := Nat.or_zero x

/-- The state in which the rows of a drain go out: its flags are in MXE_STATUS. -/
def drained (s : State) (pc : Nat) (es : List (List (Bytes × Bool × Nat))) : State := orReg s (rMxeStatus pc) (drainFlags es)

section
variable {s : State} {k v o : Nat} {c : Ctx} {vc : Vcore} {sh : Option (List Bytes)} {es : List (List (Bytes × Bool × Nat))}

/-- What a drain of a region that no shadow echoes meets: good fields, a closed region, one core for the lot, scales in SP, and rows that have formed (04 R106 to R110). -/
structure DrainGood (s : State) (c : Ctx) (vc : Vcore) (v o : Nat) (es : List (List (Bytes × Bool × Nat))) : Prop where
  fields : mdrainBad o = none
  closed : (region s (pcoreOf c v) (bits o 11 11)).st = .closed
  lot : lotSplit c v o = false
  echo : tget s.echo (pcoreOf c v * 2 + bits o 11 11) = none
  formed : drainRows s c vc (pcoreOf c v) o (region s (pcoreOf c v) (bits o 11 11)) = es.map (·.map some)
  scales : bit o 12 = true → bits o 47 32 * 64 + 4 * (region s (pcoreOf c v) (bits o 11 11)).n ≤ spLimit

/-- To SP, a drain writes row after row at the stride (04 R107). -/
theorem doMdrain_sp (h : DrainGood s c vc v o es) (hsp : bit o 14 = false) (htid : bits o 9 8 = 1 → slotTid vc 63 ≠ 0)
    (hstride : (region s (pcoreOf c v) (bits o 11 11)).n * fmtBytes ((fmtOf (bits o 7 4)).getD .fp32) ≤ bits o 95 80 * 64)
    (hroom : ∀ m < (region s (pcoreOf c v) (bits o 11 11)).m, bits o 31 16 * 64 + m * (bits o 95 80 * 64)
      + (region s (pcoreOf c v) (bits o 11 11)).n * fmtBytes ((fmtOf (bits o 7 4)).getD .fp32) ≤ spLimit) :
    doMdrain s k c vc v o sh = (List.range (region s (pcoreOf c v) (bits o 11 11)).m).foldl (fun s m =>
      devSeg s (spBase (pcoreOf c v) + bits o 31 16 * 64 + m * (bits o 95 80 * 64), (es.getD m []).flatMap (fun e => e.1.map (fun b => (b, e.2.1)))))
      (drained s (pcoreOf c v) es) := by
  obtain ⟨hfld, hclosed, hlot, hecho, hformed, hscale⟩ := h
  have hfind := find_none fun m hm => decide_eq_false (not_lt.2 (hroom m hm))
  have htid' : ¬ ((decide (bits o 9 8 = 1) && decide (slotTid vc 63 = 0)) = true) := by simpa using htid
  have hscale' : ¬ ((bit o 12 && decide (bits o 47 32 * 64 + 4 * (region s (pcoreOf c v) (bits o 11 11)).n > spLimit)) = true) := by simpa using hscale
  simp only [doMdrain, hfld, hclosed, hlot, hsp, hecho, hformed, formed_noGap, formed_elements, or_noDiff, Bool.not_false, Bool.true_and, ne_eq, not_true_eq_false, if_false,
    if_true, Bool.false_eq_true, decide_eq_true_eq, if_neg htid', if_neg hscale', if_neg (not_lt.2 hstride), hfind, gt_iff_lt, Bool.or_false]
  rfl

/-- To tally, a drain puts one addend for each block in flight and leaves memory alone (04 R107, 05 R126). -/
theorem doMdrain_tally (h : DrainGood s c vc v o es) (htally : bit o 14 = true) {bl : List (List TElem)}
    (hbl : bl = drainBlocks c (bits o 111 96) ((List.range (region s (pcoreOf c v) (bits o 11 11)).m).flatMap (fun m => (es.getD m []).map (fun e => (leNat e.1, e.2.1))))) :
    doMdrain s k c vc v o sh = modCtx (drained s (pcoreOf c v) es) k (fun c' => { c' with
      flights := c'.flights ++ (List.range bl.length).map (fun j => (⟨clusterOf (pcoreOf c v), bits o 111 96, j, bl.getD j [], v⟩ : Flight)), lotCore := lotCoreOf c' v o }) := by
  subst hbl
  obtain ⟨hfld, hclosed, hlot, hecho, hformed, hscale⟩ := h
  have hscale' : ¬ ((bit o 12 && decide (bits o 47 32 * 64 + 4 * (region s (pcoreOf c v) (bits o 11 11)).n > spLimit)) = true) := by simpa using hscale
  simp only [doMdrain, hfld, hclosed, hlot, htally, hecho, hformed, formed_noGap, formed_elements, or_noDiff, Bool.not_true, Bool.false_and, ne_eq, not_true_eq_false, if_false,
    Bool.false_eq_true, if_neg hscale', find_none (fun _ _ => rfl), Bool.or_false]
  rfl

end

/-- Settles O10, by where the rows go: to SP or to tally. -/
theorem mdrainWrites : Obligations.MdrainWrites := by
  rintro p v op sh s k c vc o pc r g es rfl hat rfl rfl rfl hbad hclosed hlot hecho hformed hscale _ rfl
  have hgood : DrainGood s c vc v (setBits op.toNat 3 0 2) es := ⟨hbad, hclosed, hlot, hecho, hformed, hscale⟩
  refine ⟨fun w hsp hw htid hstride hroom => ?_, fun bl htally hbl => ?_⟩
  · subst hw
    exact next_atEngine hat (doMdrain_sp hgood hsp htid hstride hroom)
  · exact next_atEngine hat (doMdrain_tally hgood htally hbl)

end Sys2Proof.MatrixEngine
end

section
/-! SUPPORT. The rows of the waystation: their passes, and one block read back; and the statements about them (08 R187 to R195). -/

open Sys2Proof Sys2Proof.Machine Sys2Proof.Openers

namespace Sys2Proof.Waystation

theorem sdmWord_code (op : BitVec 128) {n : Nat} (h : n < 64) : bits (sdmWord op n) 5 0 = n := by
  rw [sdmWord, bits_setBits_same _ _ _ _ (by decide)]
  exact Nat.mod_eq_of_lt h

/-- A waystation operation in its segment and in SP runs its blocks (08 R188). -/
theorem doWs_runs {s t : State} {k v o : Nat} {c : Ctx} {vc : Vcore} {f : State → Nat → Except Prob State} (hbad : wsBad o = none)
    (hseg : (if bits o 5 0 = 0x31 then [0] else [1]).contains (segmentOf c) = true) (hreach : wsReach o = none)
    (hrun : wsRun f (List.range (bits o 31 24 + 1)) (modWay s k v (fun w => { w with spilt := tdel w.spilt o })) = (t, none)) : doWs s k c vc v o f = t := by
  simp only [doWs, hbad, inSegment, hseg, if_true, hreach, hrun]

/-- Outside its segment it takes the pass-order fault (08 R183). -/
theorem doWs_order {s : State} {k v o : Nat} {c : Ctx} {vc : Vcore} {f : State → Nat → Except Prob State} (hbad : wsBad o = none)
    (hseg : (if bits o 5 0 = 0x31 then [0] else [1]).contains (segmentOf c) = false) : doWs s k c vc v o f = fault1 s k (engProb vc v 4 3 0xB (segmentOf c)) := by
  simp only [doWs, hbad, inSegment, hseg, Bool.false_eq_true, if_false]

/-- Settles O12, row by row: WSPUT belongs to the forward segment, WSGET and WSCHECK to the backward one. -/
theorem waystationRows : Obligations.WaystationRows := by
  intro p v op s k c vc
  have put : bits (sdmWord op 0x31) 5 0 = 0x31 := sdmWord_code op (by decide)
  have get : bits (sdmWord op 0x32) 5 0 = 0x32 := sdmWord_code op (by decide)
  have check : bits (sdmWord op 0x33) 5 0 = 0x33 := sdmWord_code op (by decide)
  refine ⟨?_, ?_, ?_, ?_, fun hat => next_atWork hat rfl⟩
  · rintro o t rfl hat hbad hseg hreach hrun
    exact next_atEngine hat (doWs_runs hbad (by rw [put, hseg]; rfl) hreach hrun)
  · rintro o t rfl hat hbad hseg hreach hrun
    exact next_atEngine hat (doWs_runs hbad (by rw [get, hseg]; rfl) hreach hrun)
  · rintro o t rfl hat hbad hseg hreach hrun
    exact next_atEngine hat (doWs_runs hbad (by rw [check, hseg]; rfl) hreach hrun)
  · rintro o rfl hat hbad hseg
    exact next_atEngine hat (doWs_order hbad (by simp [put, hseg]))

/-- The copy of a block to SP, and the spill read that it may need (08 R190, R195). -/
def fetchBlock (s : State) (k : Nat) (c : Ctx) (v o b : Nat) (t : WayTag) (a : Nat) (sp : Bool) : State :=
  if sp then spill (devCopy s a (spBase (pcoreOf c v) + wsOff o b) 16384) k c v o t.dord true else devCopy s a (spBase (pcoreOf c v) + wsOff o b) 16384

theorem fetchBlock_frame (s : State) (k : Nat) (c : Ctx) (v o b : Nat) (t : WayTag) (a : Nat) (sp : Bool) :
    (fetchBlock s k c v o b t a sp).mem = (devCopy s a (spBase (pcoreOf c v) + wsOff o b) 16384).mem ∧ (fetchBlock s k c v o b t a sp).regs = s.regs := by
  unfold fetchBlock
  split
  · exact ⟨spill_mem .., (spill_regs ..).trans (devCopy_regs ..)⟩
  · exact ⟨rfl, devCopy_regs ..⟩

/-- WSGET of an unpoisoned block under a readable tag: its check value is held against the tag before the block is fetched (08 R190). -/
theorem wsGetOne_unpoisoned {s : State} {k v o b : Nat} {c x : Ctx} {vc : Vcore} {t : WayTag} {a : Nat} {sp : Bool} (hx : ctxOf s k = some x) (hvc : vcoreOf x v = some vc)
    (htag : readableTag vc.ws (bits o 55 32 + b) (bits o 95 64) true = some t) (ha : blockAddr c v t = (a, sp)) (hflag : bit t.flags 3 = false)
    (hpoison : devPoison s a 16384 = false) :
    wsGetOne s k c v o b = if crc32c (devRead s a 16384) ≠ t.crc then .error (engProb vc v 7 3 0x17 (bits o 95 64) (bits o 55 32 + b) (b2n sp))
      else .ok (modWay (fetchBlock s k c v o b t a sp) k v (fun w => if bit o 7 then orTag w (bits o 55 32 + b) 4 else w)) := by
  have hvc' : (ctxOf s k).bind (fun x => vcoreOf x v) = some vc := by rw [hx]; exact hvc
  simp only [wsGetOne, hvc', htag, ha, hflag, hpoison, Bool.or_self, Bool.not_false, Bool.true_and, decide_eq_true_eq]
  rfl

/-- Settles O13: an unpoisoned block is checked against its tag, and only then copied. -/
theorem waystationBlockReadBack : Obligations.WaystationBlockReadBack := by
  rintro s k c x vc v o b t ⟨a, sp⟩ ⟨hmem, -, -⟩ hx hvc htag ha hflag hpoison
  rw [wsGetOne_unpoisoned hx hvc htag ha.symm hflag hpoison]
  obtain ⟨hm, hr⟩ := fetchBlock_frame s k c v o b t a sp
  refine ⟨fun hcrc => if_pos hcrc, fun hcrc => ⟨_, if_neg (not_not.2 hcrc), ?_, fun i hi => ?_, hr⟩⟩
  · exact (devRead_of_mem hm ..).trans (devRead_devCopy _ _ _ _ hmem)
  · exact (congrArg (memGet · i) hm).trans (memGet_devCopy_other _ _ _ _ _ hi)

end Sys2Proof.Waystation
end

section
/-! SUPPORT. The rows of the SDM that move data, feed digests and draw; and the statements about them (13 R325 to R329, 07 R177, 08 R205 to R207, 11 R265). -/

open Sys2Proof Sys2Proof.Machine Sys2Proof.Openers

namespace Sys2Proof.DataMovers

theorem sdmChecked_good {s f : State} {k v : Nat} {vc : Vcore} {bad : Option Nat} (h : bad = none) : sdmChecked s k vc v bad f = f := by rw [h]; rfl

/-! ### COPY -/

theorem hbmUse_memory (s : State) (p a n : Nat) : (hbmUse s p a n).mem = s.mem ∧ (hbmUse s p a n).poison = s.poison ∧ (hbmUse s p a n).pword = s.pword := by
  unfold hbmUse
  split <;> exact ⟨rfl, rfl, rfl⟩

theorem hbmMove_memory (s : State) (p a d n : Nat) : (hbmMove s p a d n).mem = s.mem ∧ (hbmMove s p a d n).poison = s.poison ∧ (hbmMove s p a d n).pword = s.pword := by
  obtain ⟨hm, hp, hw⟩ := hbmUse_memory (hbmUse s p a n) p d n
  obtain ⟨hm', hp', hw'⟩ := hbmUse_memory s p a n
  exact ⟨hm.trans hm', hp.trans hp', hw.trans hw'⟩

/-- Beside memory a copy leaves what the controllers owe for it. -/
theorem devCopy_rest {s u : State} (a d n : Nat) (h : u.mem = s.mem ∧ u.poison = s.poison ∧ u.pword = s.pword) :
    { devCopy u a d n with mem := s.mem, poison := s.poison, pword := s.pword } = u := by
  obtain ⟨hm, hp, hw⟩ := h
  rw [← hm, ← hp, ← hw]
  rfl

/-- Ranges that do not overlap are copied as they are (13 R327). -/
theorem moveBytes_apart {s : State} {p a d n : Nat} (h : d + n ≤ a ∨ a + n ≤ d) : moveBytes s p a d n = devCopy (hbmMove s p a d n) a d n := by
  have hno : ¬ ((decide (a < d + n) && decide (d < a + n) && decide (a ≠ d)) = true) := by
    simp only [Bool.and_eq_true, decide_eq_true_eq]
    omega
  rw [moveBytes, if_neg hno]

/-- What a copy's channel takes of the copied bytes, where CH names one (13 R329). -/
def channelFed (s : State) (k v : Nat) (b : Bytes) : Option Nat → State
  | none => s
  | some ch => feedDig s k v ch b

/-- Settles O21: the copy is one `devCopy`, whose frame is that of a write to the destination. -/
theorem copyMoves : Obligations.CopyMoves := by
  rintro p v op s k c vc o n a d rfl hat ⟨hinv, -, -⟩ hbad rfl hsrc hdst hapart hpoison
  generalize hn : 64 * (bits (sdmWord op 1) 28 9 + 1) = n at *
  have hmem := hbmMove_memory s (k / 16) a d n
  have hread : devRead (devCopy (hbmMove s (k / 16) a d n) a d n) d n = devRead s a n := by
    rw [devRead_devCopy _ _ _ _ (hmem.1 ▸ hinv), devRead_of_mem hmem.1]
  have hfind : (List.range (n / 64)).find? (fun i => (copyCh (sdmWord op 1)).isSome && devPoison s (a + 64 * i) 64) = none := by
    refine find_none fun i hi => ?_
    cases hch : copyCh (sdmWord op 1) with
    | none => rfl
    | some ch => simpa using hpoison (by simp [hch]) i hi
  refine ⟨devCopy (hbmMove s (k / 16) a d n) a d n, next_atEngine hat ?_, hread, fun x hx => ?_, devCopy_rest a d n hmem⟩
  · show _ = channelFed (devCopy (hbmMove s (k / 16) a d n) a d n) k v (devRead s a n) (copyCh (sdmWord op 1))
    rw [doCopy, sdmChecked_good hbad]
    simp only [hn, hsrc, hdst, hfind, moveBytes_apart hapart, hread]
    rfl
  · rw [memGet_devCopy_other _ _ _ _ _ hx, hmem.1]

/-! ### SEND and CHIME -/

/-- Settles O22: an open stream that may start takes the frames. -/
theorem streamSends : Obligations.StreamSends := by
  intro p v op s k c vc o x st hat hst hopen hstart
  constructor
  · rintro n a fs rfl hbad rfl hsrc rfl
    refine next_atEngine hat ?_
    rw [doSend, sdmChecked_good hbad]
    simp only [hst, hopen, hsrc, hstart, if_true, Bool.not_true, Bool.false_eq_true, if_false]
  · rintro rfl hbad
    refine next_atEngine hat ?_
    rw [doChime, sdmChecked_good hbad]
    simp only [hst, hopen, hstart, ne_eq, not_true_eq_false, if_false, Bool.not_true, Bool.false_eq_true]

/-! ### CDIG -/

/-- The target that a fold XORs its value into (13 R329). -/
def foldTarget (s u : State) (k target a x : Nat) : State :=
  match target with
  | 0 => modRec u k (fun r => { r with inDig := r.inDig ^^^ x })
  | 1 => modRec u k (fun r => { r with lossDig := r.lossDig ^^^ x })
  | _ => devWrite u a (leBytes 8 (leNat (devRead s a 8) ^^^ x))

/-- What keeps a fold from running, in the order of its checks: a channel fed past its end, a target outside SP, a poisoned target (13 R329). -/
theorem doCdigFold_runs {s : State} {k v o : Nat} {c : Ctx} {vc : Vcore} (hbad : cdigBad o = none) (hfed : (tgetD vc.dig (bits o 8 7) {}).fed ≤ (tgetD vc.dig (bits o 8 7) {}).endLen)
    (hsp : bits o 10 9 = 2 → 64 * bits o 26 11 < spLimit ∧ devPoison s (spBase (pcoreOf c v) + 64 * bits o 26 11) 8 = false) {d : DigCh} (hd : d = tgetD vc.dig (bits o 8 7) {})
    {x : Nat} (hx : x = crc64Zeros d.val (d.endLen - d.fed)) {u : State}
    (hu : u = modVc s k v (fun vc => { vc with dig := tput vc.dig (bits o 8 7) { d with val := x, fed := d.endLen } })) :
    doCdigFold s k c vc v o = foldTarget s u k (bits o 10 9) (spBase (pcoreOf c v) + 64 * bits o 26 11) x := by
  have hfar : ¬ ((decide (bits o 10 9 = 2) && decide (64 * bits o 26 11 ≥ spLimit)) = true) := by
    simp only [Bool.and_eq_true, decide_eq_true_eq, not_and, not_le]
    exact fun h => (hsp h).1
  have hclean : ¬ ((decide (bits o 10 9 = 2) && devPoison s (spBase (pcoreOf c v) + 64 * bits o 26 11) 8) = true) := by
    simp only [Bool.and_eq_true, decide_eq_true_eq, not_and]
    exact fun h => by simp [(hsp h).2]
  subst hd hx hu
  rw [doCdigFold, sdmChecked_good hbad]
  simp only [gt_iff_lt, if_neg (not_lt.2 hfed), if_neg hfar, List.append_nil, List.isEmpty_nil, Bool.not_true, Bool.false_eq_true, if_false, if_neg hclean]
  rfl

/-- Settles O23, by the target of the fold. -/
theorem digestChannels : Obligations.DigestChannels := by
  rintro p v op s k c vc o ch hat rfl
  refine ⟨?_, ?_⟩
  · rintro rfl hbad
    exact next_atEngine hat (sdmChecked_good hbad)
  · rintro d x u a rfl hbad hd hfed hx hu rfl
    have hfed' := hd ▸ hfed
    refine ⟨fun hin => ?_, fun hloss => ?_, fun hmem hroom hclean => ?_⟩
    · refine next_atEngine hat ((doCdigFold_runs hbad hfed' (by simp [hin]) hd hx hu).trans ?_)
      rw [hin]
      rfl
    · refine next_atEngine hat ((doCdigFold_runs hbad hfed' (by simp [hloss]) hd hx hu).trans ?_)
      rw [hloss]
      rfl
    · refine next_atEngine hat ((doCdigFold_runs hbad hfed' (fun _ => ⟨hroom, hclean⟩) hd hx hu).trans ?_)
      rw [hmem]
      rfl

/-! ### GATHACC.UNORD -/

section
variable {s : State} {k v o : Nat} {c : Ctx} {vc : Vcore} {src : Nat → Nat}

/-- Indices in SP, unpoisoned and of mapped blocks, and a destination in SP: nothing faults (13 R326, R328). -/
theorem gathaccProbs_none (hidx : 64 * bits o 21 6 + 4 * (bits o 37 22 + 1) ≤ spLimit) (hdst : 64 * bits o 53 38 + 1024 ≤ spLimit)
    (hclean : ∀ i < bits o 37 22 + 1, devPoison s (spBase (pcoreOf c v) + 64 * bits o 21 6 + 4 * i) 4 = false)
    (hsrc : ∀ i < bits o 37 22 + 1,
      mapRange s k c (64 * bits o 95 54 + 1024 * leNat (devRead s (spBase (pcoreOf c v) + 64 * bits o 21 6 + 4 * i) 4)) 1024 = .ok (src i)) :
    gathaccProbs s k c vc v o = [] := by
  have hsome : (List.range (bits o 37 22 + 1)).isEmpty = false := by simp
  rw [gathaccProbs]
  dsimp only
  rw [if_neg (not_lt.2 hidx), if_neg (not_lt.2 hdst), find_none hclean, hsome, List.findSome?_eq_none_iff.2]
  · rfl
  · intro i hi
    rw [hsrc i (List.mem_range.1 (List.mem_of_mem_filter hi))]

/-- A good GATHACC.UNORD of a program that may vary adds its blocks as they arrive and records its use (13 R328, 02 R48, R49). -/
theorem doGathacc_records {d : Nat} {u : State} (hfld : bits o 127 96 = 0) (hvar : c.prog.canon = true → bit c.prog.varGrant 1 = true)
    (hidx : 64 * bits o 21 6 + 4 * (bits o 37 22 + 1) ≤ spLimit) (hd : d = spBase (pcoreOf c v) + 64 * bits o 53 38) (hdst : 64 * bits o 53 38 + 1024 ≤ spLimit)
    (hclean : ∀ i < bits o 37 22 + 1, devPoison s (spBase (pcoreOf c v) + 64 * bits o 21 6 + 4 * i) 4 = false)
    (hsrc : ∀ i < bits o 37 22 + 1,
      mapRange s k c (64 * bits o 95 54 + 1024 * leNat (devRead s (spBase (pcoreOf c v) + 64 * bits o 21 6 + 4 * i) 4)) 1024 = .ok (src i))
    (hu : u = (arrivalOrder s.draws ((List.range (bits o 37 22 + 1)).map src)).foldl (fun t a => addBlock (hbmUse t (k / 16) a 1024) d a) { s with draws := s.draws + 1 })
    (hres : ∀ i < 16, devPoison u (d + 64 * i) 64 = false) : doGathacc s k c vc v o = recVar u k 2 3 v 0xFFFFFFFF c.frame (crc64 (devRead u d 1024)) := by
  have hmay : ¬ ((c.prog.canon && !bit c.prog.varGrant 1) = true) := by
    cases hcanon : c.prog.canon
    · simp
    · simp [hvar hcanon]
  rw [doGathacc, sdmChecked_good (by simp [firstBad, hfld]), if_neg hmay]
  dsimp only
  rw [gathaccProbs_none hidx hdst hclean hsrc, filterMap_ok (g := src), ← hd, ← hu, find_none hres]
  · rfl
  · intro i hi
    rw [hsrc i hi]

end

/-- Settles O24, by `doGathacc_records`. -/
theorem gathaccAddsBlocks : Obligations.GathaccAddsBlocks := by
  rintro p v op s k c vc o n io d src u rfl hat hfld hvar rfl rfl hidx hd hdst hclean hsrc hu hres
  exact next_atEngine hat (doGathacc_records hfld hvar hidx hd hdst hclean hsrc hu hres)

/-! ### RFILL -/

section
variable {s : State} {k v o : Nat} {c : Ctx} {vc : Vcore} {t : Tensor} {x : Nat → Nat → Nat}

/-- The value that each element of an RFILL takes (07 R177). -/
def fillVal (o : Nat) (x : Nat → Nat → Nat) (r i : Nat) : Nat := rfillVal (bits o 14 12) (bits o 71 40) (x r i)

/-- The runs that an RFILL writes: mask bytes or elements, row by row (07 R177). -/
def fillSegs (s : State) (pc o g : Nat) (x : Nat → Nat → Nat) : List Seg :=
  if sgBits g then (List.range (sgOuter g)).flatMap (fun r => maskSeg s pc g (sgInner g) r ((List.range (sgInner g)).map (fun i => (i, decide (fillVal o x r i = 1), false))))
  else (List.range (sgOuter g)).flatMap (fun r => (List.range (sgInner g)).map (fun i =>
    (spBase pc + slotOff g r i, (leBytes (fmtBytes ((fmtOf (sgFmt g)).getD .fp32)) (fillVal o x r i)).map (fun b => (b, false)))))

/-- Two flat lists of rows are the same where their cells are. -/
theorem flatMap_cells_congr {α : Type} {m n : Nat} {f g : Nat → Nat → α} (h : ∀ r < m, ∀ i < n, f r i = g r i) :
    (List.range m).flatMap (fun r => (List.range n).map (f r)) = (List.range m).flatMap (fun r => (List.range n).map (g r)) :=
  List.flatMap_congr fun r hr => List.map_congr_left fun i hi => h r (List.mem_range.1 hr) i (List.mem_range.1 hi)

/-- An RFILL of a tensor's slot whose elements all have a draw writes them (07 R177). -/
theorem doRfill_writes {g w : Nat} (hbad : rfillBad o = none) (hslot : rfillSlotBad vc o = false) (hg : g = setBits (slotA vc (bits o 11 6)) 86 86 0)
    (hreach : slotReach g (sgOuter g) = none) (ht : tensorOf c (slotTid vc (bits o 11 6)) = some t) (hw : w = (if bits o 14 12 = 0 || bits o 14 12 = 3 then 0 else 1))
    (hdraw : ∀ r < sgOuter g, ∀ i < sgInner g, drawAt c.seed c.gen t (bits o 39 24) w (bits o 23 16) (slotPos vc (bits o 11 6) r i) = some (x r i)) :
    doRfill s k c vc v o = devSegs s (fillSegs s (pcoreOf c v) o g x) := by
  have hfar : ((List.range (sgOuter g)).flatMap (fun r => (List.range (sgInner g)).map (fun i => (r, i)))).find? (fun e =>
      (drawAt c.seed c.gen t (bits o 39 24) w (bits o 23 16) (slotPos vc (bits o 11 6) e.1 e.2)).isNone) = none := by
    simp only [List.find?_eq_none, List.mem_flatMap, List.mem_map, List.mem_range]
    rintro _ ⟨r, hr, i, hi, rfl⟩
    simp [hdraw r hr i hi]
  subst hg hw
  rw [doRfill, sdmChecked_good hbad]
  simp only [hslot, ht, hreach, Option.bind_some, hfar, Option.isNone_some, Bool.false_eq_true, if_false, List.append_nil, List.isEmpty_nil, Bool.not_true]
  unfold fillSegs
  split
  · congr 1
    refine List.flatMap_congr fun r hr => congrArg _ (List.map_congr_left fun i hi => ?_)
    rw [hdraw r (List.mem_range.1 hr) i (List.mem_range.1 hi)]
    rfl
  · rw [List.map_flatMap]
    simp only [List.map_map]
    congr 1
    refine flatMap_cells_congr fun r hr i hi => ?_
    simp only [Function.comp_apply, hdraw r hr i hi]
    rfl

end

/-- Settles O25, by `doRfill_writes`; the slot's kind says which runs are written. -/
theorem rfillDraws : Obligations.RfillDraws := by
  rintro p v op s k c vc o n w g t x rfl hat hbad hslot rfl hg hreach ht hw hdraw
  have hrow := doRfill_writes (s := s) (k := k) (v := v) hbad hslot hg hreach ht hw hdraw
  constructor <;> intro hbits <;> rw [fillSegs, hbits] at hrow <;> exact next_atEngine hat hrow

/-! ### SNAP -/

section
variable {s : State} {k v o da src n a io : Nat} {c : Ctx} {vc : Vcore} {d : Bytes}

/-- The bytes of a snapshot record behind its header (08 R206, 18 R463). -/
def snapBody (s : State) (k n : Nat) : Nat := match tget s.seals (k / 16) with | some _ => (n + 4095) / 4096 * 4160 | none => roundUp n 64

/-- Whether the key of the partition has no chunks left for a snapshot (18 R463). -/
def keySpent (s : State) (k n : Nat) : Bool := match tget s.seals (k / 16) with | some q => decide (2 ^ 32 < q.chunks + (n + 4095) / 4096) | none => false

/-- What a snapshot does behind its descriptor: it counts a drop or places its record (08 R206, R207). -/
def snapTaken (s : State) (k : Nat) (c : Ctx) (vc : Vcore) (v n a src : Nat) (d : Bytes) : State :=
  let p := k / 16
  if !bit (rd s (rSnapCtrl p)) 0 || keySpent s k n || !snapFits s p (128 + snapBody s k n) then snapDrop s p
  else match (List.range ((n + 63) / 64)).find? (fun i => devPoison s (a + 64 * i) 64) with
    | some i => fault1 s k (consumed vc v (src + 64 * i))
    | none =>
      let b := devRead s a n
      let io := fieldB d 0x10 8
      let il := fieldB d 0x18 8
      let w := if io + n > il then Config.openDigest s.draws else posDigest io b il
      let step := if segmentOf c = 2 then c.step else c.step - 1
      let data := match tget s.seals p with | some q => sealChunks q (s.draws + 1) 0 b | none => padTo (roundUp n 64) b
      let u := { drawn (hbmUse s p a n) (1 + (n + 4095) / 4096) with seals := tmod s.seals p (fun q => { q with chunks := q.chunks + (n + 4095) / 4096 }) }
      snapPlace u k c p (128 + snapBody s k n) (fun sq ep => snapHdr u k c sq ep 0 n step (w % 2 ^ 64) d ++ data)

/-- A snapshot with a good descriptor, source and segment comes to its ring (08 R205, R206). -/
theorem doSnap_taken (hfld : bits o 127 22 = 0) (hseg : segmentOf c = 0 ∨ segmentOf c = 2) (hoff : 64 * bits o 21 6 < spLimit)
    (hclean : devPoison s (spBase (pcoreOf c v) + 64 * bits o 21 6) 64 = false) (hd : d = devRead s (spBase (pcoreOf c v) + 64 * bits o 21 6) 64)
    (hmap : mapRange s k c (fieldB d 0 8) (fieldB d 8 8) = .ok a)
    (hhbm : vspBase 0 ≤ fieldB d 0 8 → c.hbmBase ≤ fieldB d 0 8 ∧ fieldB d 0 8 < c.hbmBase + c.hbmMib * 1048576) :
    doSnap s k c vc v o = snapTaken s k c vc v (fieldB d 8 8) a (fieldB d 0 8) d := by
  have hin : (decide (fieldB d 0 8 ≥ vspBase 0) && !(decide (c.hbmBase ≤ fieldB d 0 8) && decide (fieldB d 0 8 < c.hbmBase + c.hbmMib * 1048576))) = false := by
    rw [Bool.and_eq_false_imp, decide_eq_true_iff]
    intro h
    obtain ⟨hlo, hhi⟩ := hhbm h
    simp [hlo, hhi]
  have hok : [0, 2].contains (segmentOf c) = true := by
    rcases hseg with h | h <;> rw [h] <;> rfl
  rw [doSnap, sdmChecked_good (by simp [firstBad, hfld]), inSegment, if_pos hok]
  subst hd
  simp only [Nat.not_le.2 hoff, ge_iff_le, if_false, hclean, Bool.false_eq_true, hmap]
  simp only [ge_iff_le] at hin
  rw [if_neg (by rw [hin]; exact Bool.false_ne_true)]
  rfl

/-- A snapshot counts a drop where its ring is disabled, has no room, or its key is spent (08 R207, 18 R463). -/
theorem snapTaken_drops (h : bit (rd s (rSnapCtrl (k / 16))) 0 = false ∨ keySpent s k n = true ∨ snapFits s (k / 16) (128 + snapBody s k n) = false) :
    snapTaken s k c vc v n a src d = satFld s (rSnapCtrl (k / 16)) 31 16 1 := by
  unfold snapTaken
  rw [if_pos (by rcases h with h | h | h <;> simp [h])]
  rfl

/-- The bytes of a snapshot's record: the source with its padding, or the sealed chunks of it (08 R206, 18 R463). -/
def snapData (s : State) (p a n : Nat) : Bytes :=
  match tget s.seals p with
  | some q => sealChunks q (s.draws + 1) 0 (devRead s a n)
  | none => padTo (roundUp n 64) (devRead s a n)

/-- A snapshot that has room and reads no poison places its record (08 R206). -/
theorem snapTaken_places (hon : bit (rd s (rSnapCtrl (k / 16))) 0 = true) (hkey : keySpent s k n = false) (hfit : snapFits s (k / 16) (128 + snapBody s k n) = true)
    (hclean : ∀ i < (n + 63) / 64, devPoison s (a + 64 * i) 64 = false) {u : State} {w : Nat} {data : Bytes}
    (hu : u = { drawn (hbmUse s (k / 16) a n) (1 + (n + 4095) / 4096) with seals := tmod s.seals (k / 16) (fun q => { q with chunks := q.chunks + (n + 4095) / 4096 }) })
    (hw : w = (if fieldB d 0x18 8 < fieldB d 0x10 8 + n then Config.openDigest s.draws else posDigest (fieldB d 0x10 8) (devRead s a n) (fieldB d 0x18 8)))
    (hdata : data = snapData s (k / 16) a n) :
    snapTaken s k c vc v n a src d = snapPlace u k c (k / 16) (128 + snapBody s k n)
      (fun sq ep => snapHdr u k c sq ep 0 n (if segmentOf c = 2 then c.step else c.step - 1) (w % 2 ^ 64) d ++ data) := by
  subst hu hw hdata
  unfold snapTaken
  rw [if_neg (by simp [hon, hkey, hfit])]
  simp only [find_none hclean]
  rfl

end

/-- Settles O26, by `doSnap_taken`: what comes to the ring counts a drop or is placed. -/
theorem snapRecords : Obligations.SnapRecords := by
  intro p v op s k c vc o da src n a io pages body d full ho hat hfld hseg hoff hent hda hclean hd hsrc hn hio hmap hhbm hpages hbody hfull
  subst ho hda hsrc hn hio hpages hbody hfull
  have hexec : exec (.snap p v op) s = .next (onEngine s p v 3 (sdmWord op 0x34) (fun k c vc => doSnap s k c vc v (sdmWord op 0x34))) := by
    refine if_neg ?_
    rcases hent with h | h <;> simp [h, thas]
  have hrun := doSnap_taken (s := s) (k := k) (v := v) (vc := vc) hfld hseg hoff hclean hd hmap hhbm
  rw [hexec, onEngine_atEngine hat, hrun]
  refine ⟨fun h => congrArg _ (snapTaken_drops h), fun hon hkey hfit hsrc u w data hu hw hdata => ?_⟩
  exact congrArg _ (snapTaken_places hon hkey hfit hsrc hu hw hdata)

end Sys2Proof.DataMovers
end

section
/-! SUPPORT. The conductor, the queues and their covers; and the statements about them (09 R225 to R233, 11 R260). -/

open Sys2Proof Sys2Proof.Machine Sys2Proof.Openers

namespace Sys2Proof.Conductors

/-! ### What the waits of a word take -/

/-- A fold of decrements leaves what it does not name. -/
theorem tgetD_waits_other (l : List (Nat × Nat)) {j : Nat} (hj : j ∉ l.map (·.1)) (t : Tbl Nat) :
    tgetD (l.foldl (fun t x => tput t x.1 (tgetD t x.1 0 - x.2)) t) j 0 = tgetD t j 0 := by
  induction l generalizing t with
  | nil => rfl
  | cons x l ih =>
    obtain ⟨hx, hl⟩ := not_or.1 (mt List.mem_cons.2 hj)
    rw [List.foldl_cons, ih hl, tgetD_tput_other _ _ _ _ _ hx]

/-- A fold of decrements of different chimes takes each count once. -/
theorem tgetD_waits_named (l : List (Nat × Nat)) {ch n : Nat} (hin : (ch, n) ∈ l) (hnd : (l.map (·.1)).Nodup) (t : Tbl Nat) :
    tgetD (l.foldl (fun t x => tput t x.1 (tgetD t x.1 0 - x.2)) t) ch 0 = tgetD t ch 0 - n := by
  induction l generalizing t with
  | nil => cases hin
  | cons x l ih =>
    obtain ⟨hx, hl⟩ := List.nodup_cons.1 hnd
    rw [List.foldl_cons]
    rcases List.mem_cons.1 hin with rfl | hin
    · rw [tgetD_waits_other l hx, tgetD_tput_same]
    · have hne : ch ≠ x.1 := fun h => hx (List.mem_map.2 ⟨_, hin, h⟩)
      rw [ih hin hl, tgetD_tput_other _ _ _ _ _ hne]

/-- What the waits of a word leave of the chimes of a vcore (11 R260). -/
theorem consume_chime_other (vc : Vcore) (w : Nat) {j : Nat} (hj : j ∉ (wWaits w).map (·.1)) : tgetD (consume vc w).chime j 0 = tgetD vc.chime j 0 :=
  tgetD_waits_other _ hj _

/-- A chime that a word waits for falls by its count (11 R260). -/
theorem consume_chime_named {vc : Vcore} {w ch n : Nat} (hmet : waitsMet vc w = true) (hin : (ch, n) ∈ wWaits w) (hnd : ((wWaits w).map (·.1)).Nodup) :
    tgetD (consume vc w).chime ch 0 + n = tgetD vc.chime ch 0 := by
  have hle : n ≤ tgetD vc.chime ch 0 := of_decide_eq_true (List.all_eq_true.1 hmet (ch, n) hin)
  have htake : tgetD (consume vc w).chime ch 0 = tgetD vc.chime ch 0 - n := tgetD_waits_named _ hin hnd _
  omega

/-- A vcore that its conductor puts back stands in its context. -/
theorem ctxOf_putVc {s : State} {k v : Nat} {c : Ctx} {vc x : Vcore} (hc : ctxOf s k = some c) (hv : vcoreOf c v = some vc) :
    ∃ d, ctxOf (putVc s k v x) k = some d ∧ vcoreOf d v = some x := by
  refine ⟨{ { c with vc := tmod c.vc v (fun _ => x) } with stall := 0 }, ?_, ?_⟩
  · simp only [putVc, unstall, modVc, ctxOf_modCtx_same, hc, Option.map_some]
  · unfold vcoreOf at hv ⊢
    simp only [tget_tmod_same, hv, Option.map_some]

/-- Settles O28, by the fold of the waits over the chimes of the vcore. -/
theorem waitsAreConsumed : Obligations.WaitsAreConsumed := by
  intro p v s t k c vc w ch n hat hin hnd hrun
  have hput : putVc s k v (stepCia s vc w) = t := Host.Outcome.next.inj ((next_atWord hat rfl).symm.trans hrun)
  obtain ⟨⟨hres, hvc, -⟩, -, -, -, -, -, -, hmet, -⟩ := hat
  obtain ⟨d, hd, hx⟩ := ctxOf_putVc (x := stepCia s vc w) (ctxOf_resident hres) hvc
  exact ⟨d, stepCia s vc w, hput ▸ hd, hx, consume_chime_named hmet hin hnd, rfl, fun j hj => consume_chime_other vc w hj⟩

/-! ### Conductor operations -/

/-- Settles O27, operation by operation. -/
theorem conductorRows : Obligations.ConductorRows := by
  rintro p v s k c vc w x rfl
  refine ⟨fun h => next_atWord h rfl, fun h => next_atWord h rfl, fun u y h hq hlast hu hy => next_atWord h ?_, fun h hq hlast => next_atWord h ?_,
    fun h => next_atWord h rfl, fun u y h hq hu hy => next_atWord h ?_, fun h hout => next_atWord h ?_, fun h hout => next_atWord h ?_, fun u h hreach hu => next_atWord h ?_⟩
  · subst hu
    simp only [hq, hlast, hy, Bool.not_true, Bool.false_eq_true, if_false, not_true_eq_false, ne_eq]
  · simp only [hq, Bool.not_true, Bool.false_eq_true, if_false]
    exact if_pos hlast
  · subst hu
    simp only [hq, hy, Bool.not_true, Bool.false_eq_true, if_false]
  · exact if_neg (by rw [hout]; exact Bool.false_ne_true)
  · exact if_pos hout
  · subst hu
    exact if_neg (Nat.not_lt.2 hreach)

/-! ### Fetch, start and completion -/

/-- Settles O29: the word that comes, the head that starts, the entry that completes. -/
theorem queueRows : Obligations.QueueRows := by
  intro p v s k c vc hat
  refine ⟨fun i hi hclean u hu => next_atWork hat ?_, fun i a hi ha hpois => next_atWork hat ?_, fun q e rest x hst hbeg hrun hcan hnow hq hway hx => next_atWork hat ?_,
    fun q n e u hst hn hbusy hu => next_atWork hat ?_⟩
  · subst hu
    simp only [hi, hclean, Bool.false_eq_true, if_false]
  · subst ha
    simp only [hi, hpois, if_true]
  · subst hx
    simp only [hst, hbeg, hrun, hcan, hnow, hq, hway]
    rfl
  · have hgo : (stands s && (decide (q.val ≠ 3) || decide (bits (wOp e.word.toNat) 5 0 = 0x30) || isWs (wOp e.word.toNat))) = false := by
      rw [Bool.and_eq_false_imp]
      intro h
      obtain ⟨h3, h30, hws⟩ := hst h
      simp [h3, h30, hws]
    subst hu
    simp only [hn, hgo, hbusy, Bool.or_false, Bool.false_eq_true, if_false]

/-! ### Covers -/

/-- Settles O30: the entry, or the sum, that is past its cover. -/
theorem coverViolations : Obligations.CoverViolations := by
  intro p v term tag s k c hres
  refine ⟨fun vc q e n hq hvc hover => ⟨_, rfl, ?_⟩, fun d x a n hd hx hclock hlate => ?_⟩
  · have hne : q.val ≠ 4 := Nat.ne_of_lt hq
    simp only [exec, execCoverViolation, hres, hne, if_false, hvc, hover]
  · simp only [exec, execCoverViolation, hres, hd, hx, hclock, Nat.not_le.2 hlate, if_false]
    rfl

end Sys2Proof.Conductors
end

section
/-! SUPPORT. The reset values of the register tables (01 R37, 19 R482). -/

open Sys2Proof Sys2Proof.Machine

namespace Sys2Proof.ResetValues

/-- The registers with reset values other than zero: first offset, count, stride, second count, second stride, and the value of the whole register. -/
def resetTable : List (Nat × Nat × Nat × Nat × Nat × Nat) :=
  [(0x0, 1, 0x0, 1, 0x0), (0x18, 1, 0x0, 1, 0x0), (0x30000, 8, 0x100, 1, 0x0), (0x40000, 64, 0x10, 1, 0x0), (0x40800, 8, 0x8, 1, 0x0), (0x40900, 1, 0x0, 1, 0x0),
   (0x2002000, 108, 0x10000, 1, 0x0), (0x2004000, 108, 0x10000, 1, 0x0), (0x70000, 8, 0x100, 1, 0x0), (0x50028, 8, 0x100, 1, 0x0), (0x61000, 64, 0x40, 1, 0x0),
   (0x2003000, 108, 0x10000, 1, 0x0), (0x28, 1, 0x0, 1, 0x0), (0x40, 2, 0x8, 1, 0x0), (0x50038, 8, 0x100, 1, 0x0), (0x50040, 8, 0x100, 1, 0x0), (0x1300000, 2, 0x800000, 1, 0x0),
   (0x1100800, 2, 0x800000, 1, 0x0), (0x1100818, 2, 0x800000, 1, 0x0), (0x1200000, 2, 0x800000, 1, 0x0), (0x1000800, 2, 0x800000, 1, 0x0), (0x1000C00, 1, 0x0, 1, 0x0),
   (0x1001000, 2, 0x800000, 8, 0x8), (0x10000, 1, 0x0, 1, 0x0), (0x10010, 1, 0x0, 1, 0x0), (0x10018, 1, 0x0, 1, 0x0)].map
    (fun g => (g.1, g.2.1, g.2.2.1, g.2.2.2.1, g.2.2.2.2, resetOf g.1))

/-- Every register of an array has the reset value of its first one: the kernel looks each offset up in the register tables. -/
theorem resetTable_uniform : ∀ r ∈ resetTable, ∀ i < r.2.1, ∀ j < r.2.2.2.1, resetOf (r.1 + i * r.2.2.1 + j * r.2.2.2.2.1) = r.2.2.2.2.2 := by
  decide +kernel

/-- Whether a field of the table of reset values lies in a register of `resetTable` whose value has it. -/
def inTable (x : Nat × Nat × Nat × Nat × Nat × Nat × Nat × Nat) : Bool :=
  resetTable.any (fun r => (r.1, r.2.1, r.2.2.1, r.2.2.2.1, r.2.2.2.2.1) = (x.1, x.2.1, x.2.2.1, x.2.2.2.1, x.2.2.2.2.1) && bits r.2.2.2.2.2 x.2.2.2.2.2.1 x.2.2.2.2.2.2.1 = x.2.2.2.2.2.2.2)

/-- A field that lies in the table reads as its reset value, in every register of its array: the tables of the state after reset are empty. -/
theorem fld_reset_of_inTable {l : List (Nat × Nat × Nat × Nat × Nat × Nat × Nat × Nat)} (hl : l.all inTable = true) :
    ∀ x ∈ l, ∀ i < x.2.1, ∀ j < x.2.2.2.1, fld State.reset (x.1 + i * x.2.2.1 + j * x.2.2.2.2.1) x.2.2.2.2.2.1 x.2.2.2.2.2.2.1 = x.2.2.2.2.2.2.2 := by
  intro x hx i hi j hj
  obtain ⟨r, hr, heq⟩ := List.any_eq_true.1 (List.all_eq_true.1 hl x hx)
  simp only [Bool.and_eq_true, decide_eq_true_eq, Prod.mk.injEq] at heq
  obtain ⟨⟨hb, hn, hs, hn', hs'⟩, hv⟩ := heq
  have hread := resetTable_uniform r hr i (hn ▸ hi) j (hn' ▸ hj)
  rw [hb, hs, hs'] at hread
  calc fld State.reset (x.1 + i * x.2.2.1 + j * x.2.2.2.2.1) x.2.2.2.2.2.1 x.2.2.2.2.2.2.1
      = bits (resetOf (x.1 + i * x.2.2.1 + j * x.2.2.2.2.1)) x.2.2.2.2.2.1 x.2.2.2.2.2.2.1 := rfl
    _ = x.2.2.2.2.2.2.2 := by rw [hread, hv]

/-- Settles O60: every field of the statement lies in the table. -/
theorem resetRegisters : Obligations.ResetRegisters :=
  fld_reset_of_inTable (by decide +kernel)

end Sys2Proof.ResetValues
end

section
/-! SUPPORT. Grid points, beats and the cycle; and the statements about them (10 R241 to R247, 11 R276, 17 R432, 19 R471, R474). -/

open Sys2Proof Sys2Proof.Machine

namespace Sys2Proof.DrumBeat

/-! ### Grid points -/

section
variable {s : State} {p k : Nat} {c : Ctx} {sel : Bool}

/-- A pending point of a partition without a resident context takes its beat (10 R243). -/
theorem decidePoint_empty (hp : (part s p).point = some sel) (hres : resident (modPart s p (fun x => { x with point := none })) p = none) :
    decidePoint s p = takeBeat (modPart s p (fun x => { x with point := none })) p sel := by
  simp only [decidePoint, hp, hres]

/-- What the point of a resident context does that leaves no open chain: it takes the beat where the frame has not begun, has ended or has faulted. -/
theorem decidePoint_takes (hp : (part s p).point = some sel) (hres : resident (modPart s p (fun x => { x with point := none })) p = some (k, c))
    (h : sel = false ∨ c.began = false ∨ c.probs ≠ [] ∨ (frameComplete c = true ∧ openChainProbs c = [])) :
    decidePoint s p = takeBeat (modPart s p (fun x => { x with point := none })) p sel := by
  have hopen : (sel && c.began && c.probs.isEmpty && frameComplete c && !(openChainProbs c).isEmpty) = false := by
    rcases h with h | h | h | ⟨-, h⟩ <;> simp [h]
  have htake : (!sel || !c.began || frameComplete c || !c.probs.isEmpty) = true := by
    rcases h with h | h | h | ⟨h, -⟩ <;> simp [h]
  simp only [decidePoint, hp, hres, hopen, htake, Bool.false_eq_true, if_false, if_true]

/-- A complete frame with a chain that nothing has ended faults, and takes its beat (06 R145). -/
theorem decidePoint_openChain (hp : (part s p).point = some true) (hres : resident (modPart s p (fun x => { x with point := none })) p = some (k, c))
    (hbeg : c.began = true) (hok : c.probs = []) (hdone : frameComplete c = true) (hopen : openChainProbs c ≠ []) :
    decidePoint s p = takeBeat (faultCtx (modPart s p (fun x => { x with point := none })) k (openChainProbs c)) p true := by
  simp [decidePoint, hp, hres, hbeg, hok, hdone, hopen]

/-- An unfinished frame meets the detector, then its maximum stretch, and else skips the point (11 R276, 09 R232, 10 R252). -/
theorem decidePoint_unfinished {w : State} (hp : (part s p).point = some true) (hw : w = modPart s p (fun x => { x with point := none })) (hres : resident w p = some (k, c))
    (hbeg : c.began = true) (hok : c.probs = []) (hdone : frameComplete c = false) :
    decidePoint s p = if deadlocked w p k c then takeBeat (deadlock w p k c) p true
      else if 2 ^ ptnK w p ≤ frameRun w c then takeBeat (faultCtx w k (overrunProbs w c)) p true else skipPoint w p k c := by
  subst hw
  simp [decidePoint, hp, hres, hbeg, hok, hdone]

end

/-- Settles O31: the point itself, what the end of its cycle decides, the detector and the end of a rotation. -/
theorem gridPoints : Obligations.GridPoints := by
  refine ⟨fun p s u hgrid hu => ?_, fun s w p sel hp hw => ?_, fun p s k c hres hpoint hpos hle hstall hok => ?_, fun s h _ _ _ _ _ => rfl⟩
  · subst hu
    refine ⟨fun hres => ?_, fun k c hres => ?_⟩
    · simp only [exec, execGridPoint, hgrid, hres, Bool.not_true, Bool.false_eq_true, if_false]
    · simp only [exec, execGridPoint, hgrid, hres, Bool.not_true, Bool.false_eq_true, if_false]
  · subst hw
    refine ⟨decidePoint_empty hp, fun k c hres => ⟨decidePoint_takes hp hres, fun hsel hbeg hok hdone hopen => ?_, fun hsel hbeg hok hdone => ?_⟩⟩
    · exact decidePoint_openChain (hsel ▸ hp) hres hbeg hok hdone hopen
    · exact decidePoint_unfinished (hsel ▸ hp) rfl hres hbeg hok hdone
  · simp [exec, execDeadlockDetect, hres, hpoint, deadlocked, hpos, hle, hstall, hok]

/-! ### The cycle -/

/-- Settles O59, by the power states in their order. -/
theorem tickRows : Obligations.TickRows := by
  intro s hq
  have hstep : step s = tick s := by
    unfold step
    rw [hq]
  rw [hstep, tick]
  refine ⟨fun hh => if_pos hh, fun hh hdeep => ?_, fun hh hdorm hlt => ?_, fun hh hrun hlast => ?_, fun u hh hrun hmore hu => ?_⟩
  · rw [if_neg (not_not.2 hh), if_pos hdeep]
  · rw [if_neg (not_not.2 hh), if_neg (Nat.not_le.2 hlt), if_pos hdorm]
  · rw [if_neg (not_not.2 hh), if_neg (by omega), if_neg (Nat.not_le.2 hrun), if_pos hlast]
  · rw [hu]
    exact (if_neg (not_not.2 hh)).trans ((if_neg (by omega)).trans ((if_neg (Nat.not_le.2 hrun)).trans (if_neg (Nat.not_le.2 hmore))))

end Sys2Proof.DrumBeat
end

section
/-! SUPPORT. Tally sums in the cluster reduce units, their messages between devices and TGROUP; and the statements about them (05 R119 to R133, 14 R351 to R355). -/

open Sys2Proof Sys2Proof.Machine Sys2Proof.Openers

namespace Sys2Proof.TallySums

/-- A row of the reduce units of a partition with a resident context. -/
theorem next_onCru {s t : State} {p k : Nat} {c : Ctx} {f : Nat → Ctx → State} (hst : stands s = false) (hres : resident s p = some (k, c)) (h : f k c = t) :
    (.next (onCru s p f) : Res) = .next t := by
  rw [onCru_resident hst hres, h]

/-! ### Stages 1 and 2: an addend -/

/-- An addend that keeps the rules joins its block; the last one of the last block advances its sum (05 R132). -/
theorem doAddend_joins {s u : State} {k i : Nat} {c : Ctx} {f : Flight} {d : TallyDesc} {x : TSum} {full : Bool} (hf : c.flights[i]? = some f) (hd : tDesc c f.tag = some d)
    (hgood : addendBad c f = none)
    (hx : x = { (sumOf c f.cluster f.tag).getD {} with
      blks := tput ((sumOf c f.cluster f.tag).getD {}).blks f.block
        { tgetD ((sumOf c f.cluster f.tag).getD {}).blks f.block {} with staged := (tgetD ((sumOf c f.cluster f.tag).getD {}).blks f.block {}).staged ++ [f.elems] },
      lastAt := s.run })
    (hfull : full = (List.range (tBlocks d)).all (fun j => decide ((tgetD x.blks j {}).staged.length = tLocalN d f.cluster)))
    (hu : u = syncTstore (tallyFlags (putSum (modCtx s k (fun c => { c with flights := c.flights.eraseIdx i })) k f.cluster f.tag
      (if full then { x with stage := 2, stageAt := s.run } else x)) k f.cluster (addendFlags f.elems)) f.cluster) :
    doAddend s k c i = if (full && decide (d.scope = 0)) = true then
      finalBytes u k d f.cluster (localBytes d (if full then { x with stage := 2, stageAt := s.run } else x)) (tLocalN d f.cluster) else u := by
  subst hu hfull hx
  simp only [doAddend, hf, hgood, hd]
  rfl

/-- Settles O14: an addend that breaks the rules, and one that joins its block. -/
theorem tallyAddendStages : Obligations.TallyAddendStages := by
  intro p i s k c f d x full u hres hf hd hst
  refine ⟨fun pr hbad => next_onCru hst hres ?_, fun hgood hx hfull hu => next_onCru hst hres ?_⟩
  · simp only [doAddend, hf, hbad]
  · rw [doAddend_joins hf hd hgood hx hfull hu]
    cases full <;> simp

/-! ### The stages behind -/

section
variable {s : State} {k cl tag : Nat} {c : Ctx} {d : TallyDesc} {x o : TSum}

/-- Stage 4 of a sum whose accumulators fit: its blocks take their integers under the final exponents (05 R132). -/
theorem doQuantise_fits (hd : tDesc c tag = some d) (hx : sumOf c cl tag = some x) (hstage : x.stage = 3) (hn : tLocalN d cl ≠ 0) (hfit : accOver d x cl = none) :
    doQuantise s k c cl tag =
      (let r := (List.range (tBlocks d)).map (fun j => (j, quantBlock (tT32 d) (tgetD x.fexp j 0) (tgetD x.blks j {}).staged))
       syncTstore (tallyFlags (putSum (peakTstore s cl (accLines d * tBlocks d)) k cl tag
        { x with stage := 4, stageAt := s.run, blks := r.map (fun e => (e.1, ({ acc := e.2.1, codes := e.2.2.1 } : TBlk))) }) k cl (r.foldl (fun a e => a ||| e.2.2.2) 0)) cl) := by
  simp only [doQuantise, hd, hx, hstage, hn, hfit]
  rfl

/-- One whose accumulators do not fit faults (05 R131). -/
theorem doQuantise_over {b : Nat} (hd : tDesc c tag = some d) (hx : sumOf c cl tag = some x) (hstage : x.stage = 3) (hn : tLocalN d cl ≠ 0) (hover : accOver d x cl = some b) :
    doQuantise s k c cl tag = fault1 s k (cruProb 0x14 tag b 0) := by
  simp only [doQuantise, hd, hx, hstage, hn, hover]
  rfl

/-- Stage 6: the blocks are converted, the sum is freed and delivered (05 R124, R132). -/
theorem doConvert_delivers (hd : tDesc c tag = some d) (hx : sumOf c cl tag = some x) (hstage : x.stage = 5) :
    doConvert s k c cl tag =
      (let r := x.blks.map (fun e => (e.1, convBlock (tT32 d) (tgetD x.fexp e.1 0) e.2))
       let u := freeSum (tallyFlags s k cl (r.foldl (fun a e => a ||| (if e.2.any (·.2.2) then 4 else 0) ||| (if e.2.any (·.2.1) then 16 else 0)) 0)) k d cl
       deliver (if d.scope = 3 then satFld u (rCteCount (cl / 6)) 31 0 1 else u) k c d cl (r.map (fun e => (e.1, e.2.map (fun y => (y.1, y.2.1)))))) := by
  simp only [doConvert, hd, hx, hstage]
  rfl

/-- Stage 3 where the sum would become live at an owner whose lines another holds (05 R131). -/
theorem doExpRound_overlaps (hd : tDesc c tag = some d) (hx : sumOf c cl tag = some x) (hstage : x.stage = 2) (hscope : d.scope ≠ 0) (hnew : sumOf c (tOwnerOf d cl) tag = none)
    (hover : overlapLive c d (tOwnerOf d cl) = true) (hfrom : (({} : TSum).expFrom).contains cl = false) :
    doExpRound s k c cl tag = fault1 s k (cruProb 0x14 tag 0 0) := by
  simp only [doExpRound, hd, hx, hstage, hscope, hnew, hover, Option.getD_none, hfrom]
  rfl

/-- Stage 3 hands the bytes and the count of a cluster to the owner, which goes on with the last of them (05 R132). -/
theorem doExpRound_hands (hd : tDesc c tag = some d) (hx : sumOf c cl tag = some x) (ho : o = (sumOf c (tOwnerOf d cl) tag).getD {}) (hstage : x.stage = 2) (hscope : d.scope ≠ 0)
    (hfrom : o.expFrom.contains cl = false) (hlive : ¬ (sumOf c (tOwnerOf d cl) tag = none ∧ overlapLive c d (tOwnerOf d cl) = true)) {n : TSum} {all : Bool} {u : State}
    (hall : all = allIn (o.expFrom ++ [cl]) (ownParties d (tOwnerOf d cl)))
    (hn : n = { o with expFrom := o.expFrom ++ [cl], comb := maxBytes o.comb (localBytes d x), cnt := o.cnt + tLocalN d cl, inst := c.step
                       due := if d.scope = 3 ∧ all = true then some (jobDueAt s k c d (tOwnerOf d cl)) else o.due })
    (hu : u = putSum s k (tOwnerOf d cl) tag n) :
    doExpRound s k c cl tag = if all = false then u
      else if d.scope = 3 then drainEarly (tryExp u k d (tOwnerOf d cl)) k 3 tag else finalBytes u k d (tOwnerOf d cl) n.comb n.cnt := by
  have hdead : ((sumOf c (tOwnerOf d cl) tag).isNone && overlapLive c d (tOwnerOf d cl)) = false := by
    simpa using hlive
  have hrun : ¬ ((decide (x.stage ≠ 2) || decide (d.scope = 0) || o.expFrom.contains cl) = true) := by
    simpa [hstage, hscope] using hfrom
  subst hu hn
  simp only [doExpRound, hd, hx, ← ho]
  rw [if_neg hrun, hdead, ← hall]
  cases all <;> by_cases h3 : d.scope = 3 <;> simp [h3, ← hall]

/-- Stage 5 where the owner has no addends and no lines for the integers (05 R131). -/
theorem doIntRound_over {b : Nat} (hd : tDesc c tag = some d) (hx : sumOf c cl tag = some x) (ho : sumOf c (tOwnerOf d cl) tag = some o) (hstage : x.stage = 4) (hn : tLocalN d cl ≠ 0)
    (hfrom : o.intFrom.contains cl = false) (hready : 3 ≤ o.stage) (hown : tLocalN d (tOwnerOf d cl) = 0) (hover : accOver d {} (tOwnerOf d cl) = some b) :
    doIntRound s k c cl tag = fault1 s k (cruProb 0x14 tag b 0) := by
  have hrun : ¬ ((decide (x.stage ≠ 4) || decide (tLocalN d cl = 0) || o.intFrom.contains cl || decide (o.stage < 3)) = true) := by
    simpa [hstage, hn, Nat.not_lt.2 hready] using hfrom
  simp only [doIntRound, hd, hx, ho]
  rw [if_neg hrun, if_neg (by simp [hown]), if_pos (by simp [hown, hover]), hover]
  rfl

/-- Stage 5 adds the integers of a cluster at the owner, which goes on with the last of them (05 R132). -/
theorem doIntRound_adds {blks : Tbl TBlk} {u : State} (hd : tDesc c tag = some d) (hx : sumOf c cl tag = some x) (ho : sumOf c (tOwnerOf d cl) tag = some o) (hstage : x.stage = 4)
    (hn : tLocalN d cl ≠ 0) (hfrom : o.intFrom.contains cl = false) (hready : 3 ≤ o.stage) (hfit : tLocalN d (tOwnerOf d cl) = 0 → accOver d {} (tOwnerOf d cl) = none)
    (hown : tLocalN d (tOwnerOf d cl) ≠ 0 → cl ≠ tOwnerOf d cl → o.stage = 4)
    (hblks : blks = (if cl = tOwnerOf d cl then o.blks else x.blks.foldl (fun t e => tput t e.1 (addBlk (tgetD t e.1 {}) e.2)) o.blks))
    (hu : u = putSum s k (tOwnerOf d cl) tag { o with intFrom := o.intFrom ++ [cl], blks := blks, stage := 4 }) :
    doIntRound s k c cl tag = if allIn (o.intFrom ++ [cl]) (ownParties d (tOwnerOf d cl)) = false then u
      else if d.scope = 3 then drainEarly (tryInt u k d (tOwnerOf d cl) (List.range (tBlocks d))) k 5 tag else finalInts u k c d (tOwnerOf d cl) blks := by
  have hrun : ¬ ((decide (x.stage ≠ 4) || decide (tLocalN d cl = 0) || o.intFrom.contains cl || decide (o.stage < 3)) = true) := by
    simpa [hstage, hn, Nat.not_lt.2 hready] using hfrom
  have hturn : ¬ ((decide (tLocalN d (tOwnerOf d cl) ≠ 0) && decide (cl ≠ tOwnerOf d cl) && decide (o.stage ≠ 4)) = true) := by
    simpa [and_assoc] using hown
  have hroom : ¬ ((decide (tLocalN d (tOwnerOf d cl) = 0) && (accOver d {} (tOwnerOf d cl)).isSome) = true) := by
    simpa using hfit
  subst hu hblks
  simp only [doIntRound, hd, hx, ho]
  rw [if_neg hrun, if_neg hturn, if_neg hroom]
  cases allIn (o.intFrom ++ [cl]) (ownParties d (tOwnerOf d cl)) <;> by_cases h3 : d.scope = 3 <;> simp [h3]

end

/-- Settles O15, stage by stage. -/
theorem tallyStages : Obligations.TallyStages := by
  intro p cl tag s k c d x hres hst hd hx
  refine ⟨fun r hstage hn hfit hr => next_onCru hst hres ?_, fun b hstage hn hover => next_onCru hst hres (doQuantise_over hd hx hstage hn hover),
    fun r u hstage hr hu => next_onCru hst hres ?_, fun own o hown ho hstage hscope hfrom => ⟨fun hnew hover => next_onCru hst hres ?_, fun u n all hlive hall hn hu => next_onCru hst hres ?_⟩,
    fun own o hown ho hstage hn hfrom hready => ⟨fun b hown0 hover => next_onCru hst hres ?_, fun blks u hfit hown4 hblks hu => next_onCru hst hres ?_⟩⟩
  · subst hr
    exact doQuantise_fits hd hx hstage hn hfit
  · subst hu hr
    exact doConvert_delivers hd hx hstage
  · subst hown
    exact doExpRound_overlaps hd hx hstage hscope hnew hover rfl
  · subst hown
    exact doExpRound_hands hd hx ho hstage hscope hfrom hlive hall hn hu
  · subst hown
    exact doIntRound_over hd hx ho hstage hn hfrom hready hown0 hover
  · subst hown
    exact doIntRound_adds hd hx ho hstage hn hfrom hready hfit hown4 hblks hu

/-! ### TGROUP -/

section
variable {s : State} {k v o : Nat} {c : Ctx} {vc : Vcore} {d : TallyDesc}

/-- Whether the local bytes of a sum are final in every cluster that takes part (14 R352). -/
def locallyFinal (c : Ctx) (d : TallyDesc) : Bool :=
  let parties := (List.range 12).filter (fun x => tLocalN d x ≠ 0)
  !parties.isEmpty && parties.all (fun cl => match sumOf c cl d.tag with | some x => decide (x.stage ≥ 2) | none => false)

/-- Whether a setting of this step differs from another one of it (14 R352). -/
def settingClash (c : Ctx) (d : TallyDesc) (g : Nat × Nat × Nat) : Bool := match tget c.tgroups d.tag with | some h => h.1 = c.step && h ≠ g | none => false

/-- A cluster that still stages keeps the bytes of a sum from being final. -/
theorem locallyFinal_staging (h : ∃ cl, cl < 12 ∧ tLocalN d cl ≠ 0 ∧ (∀ x, sumOf c cl d.tag = some x → x.stage < 2)) : locallyFinal c d = false := by
  obtain ⟨cl, hlt, hn, hstage⟩ := h
  have hin : cl ∈ (List.range 12).filter (fun x => tLocalN d x ≠ 0) := by simp [hlt, hn]
  rw [locallyFinal, Bool.and_eq_false_imp]
  intro _
  refine List.all_eq_false.2 ⟨cl, hin, ?_⟩
  cases hx : sumOf c cl d.tag with
  | none => simp
  | some x => simpa using hstage x hx

/-- A TGROUP that passes its checks sets the group, or takes the protocol fault (14 R352). -/
theorem doTgroup_checked (hbad : tgroupBad c o = none) (hd : tDesc c (bits o 23 8) = some d) :
    doTgroup s k c vc v o = if locallyFinal c d || settingClash c d (c.step, bits o 7 6, bits o 24 24) || c.finals.contains d.tag then fault1 s k (engProb vc v 11 3 0x12 d.tag 0 v)
      else modVc (modCtx s k (fun c' => { c' with tgroups := tput c'.tgroups d.tag (c.step, bits o 7 6, bits o 24 24) })) k v (fun x => { x with ords := tput x.ords 0 (tgetD x.ords 0 0 + 1) }) := by
  simp only [doTgroup, hbad, hd]
  rfl

end

/-- Settles O17, by `doTgroup_checked`. -/
theorem tgroupSets : Obligations.TgroupSets := by
  intro p v op s k c vc o d g ho hat hbad hd hg
  subst ho hg
  refine ⟨fun hstaging hsame hfin => next_atEngine hat ?_, fun hlate => next_atEngine hat ?_⟩
  · have hclash : settingClash c d (c.step, bits (setBits op.toNat 5 0 0x20) 7 6, bits (setBits op.toNat 5 0 0x20) 24 24) = false := by
      unfold settingClash
      cases hh : tget c.tgroups d.tag with
      | none => rfl
      | some h => simpa using hsame h hh
    rw [doTgroup_checked hbad hd, locallyFinal_staging hstaging, hclash, hfin]
    rfl
  · rw [doTgroup_checked hbad hd, if_pos]
    rcases hlate with ⟨h, hh, hstep, hne⟩ | hfin
    · simp [settingClash, hh, hstep, hne]
    · rw [hfin, Bool.or_true]

end Sys2Proof.TallySums
end

section
/-! SUPPORT. The messages of tally sums between devices; and the statement about them (14 R352 to R355, R362). -/

open Sys2Proof Sys2Proof.Machine

namespace Sys2Proof.CollectiveMessages

/-- Every CTE row takes its frame as one of its kind (14 R349). -/
theorem cteRow_exec (port : Fin 32) (f : CvtFrame) (s : State) : ∀ r ∈ cteRows, exec (r.1 port f) s = .next (rxCte s port r.2 f) := by
  intro r hr
  fin_cases hr <;> rfl

/-! ### What the tally kinds do to a context -/

theorem applyCte_expUp {s : State} {k : Nat} {c : Ctx} (hc : ctxOf s k = some c) (port : Nat) (m : CteMsg) : applyCte s k port 3 m = onExpUp s k port c m := by simp only [applyCte, hc]
theorem applyCte_expDown {s : State} {k : Nat} {c : Ctx} (hc : ctxOf s k = some c) (port : Nat) (m : CteMsg) : applyCte s k port 4 m = onExpDown s k c m := by simp only [applyCte, hc]
theorem applyCte_intUp {s : State} {k : Nat} {c : Ctx} (hc : ctxOf s k = some c) (port : Nat) (m : CteMsg) : applyCte s k port 5 m = onIntUp s k port c m := by simp only [applyCte, hc]
theorem applyCte_intDown {s : State} {k : Nat} {c : Ctx} (hc : ctxOf s k = some c) (port : Nat) (m : CteMsg) : applyCte s k port 6 m = onIntDown s k c m := by simp only [applyCte, hc]

section
variable {s : State} {k port : Nat} {c : Ctx} {m : CteMsg} {d : TallyDesc} {x : TSum}

/-- Whether member `m` may hand block b here: once, and on the way of the sum's algorithm (14 R363). -/
def blockDue (c : Ctx) (d : TallyDesc) (x : TSum) (m : CteMsg) (b : Nat) : Bool :=
  let gm := (sumGroup c d.tag).1
  !x.kidsInt.contains (m.rank * 65536 + b)
    && (upFrom (sumAlg c x.inst d) (faninOf c x.inst gm) (tBlocks d) (groupSize c gm) (groupIdx c gm c.rank) b).any (fun i => memberRank c gm i = m.rank)

/-- Whether an integer message up is refused: its fields, the sum it names, its count or one of its blocks (14 R354, 05 R133). -/
def intUpRefused (c : Ctx) (d : TallyDesc) (x : TSum) (m : CteMsg) : Bool :=
  cteAlien c m || !intBegun c d (ownerCluster d) m.step || cteBad c d m || m.addends ≠ x.cnt || !(intBlocks d m).all (fun e => blockDue c d x m e.1)

/-- Whether an integer message down is refused. -/
def intDownRefused (c : Ctx) (d : TallyDesc) (x : TSum) (m : CteMsg) : Bool :=
  cteAlien c m || !intBegun c d (ownerCluster d) m.step || cteBad c d m || m.addends ≠ x.cnt || (intBlocks d m).any (fun e => x.fin.contains e.1 || !x.up.contains e.1)

/-- A block that has come, or that its member does not hand here, is not due. -/
theorem blockDue_false {b : Nat} (h : x.kidsInt.contains (m.rank * 65536 + b) = true
    ∨ (upFrom (sumAlg c x.inst d) (faninOf c x.inst (sumGroup c d.tag).1) (tBlocks d) (groupSize c (sumGroup c d.tag).1) (groupIdx c (sumGroup c d.tag).1 c.rank) b).any
      (fun i => memberRank c (sumGroup c d.tag).1 i = m.rank) = false) : blockDue c d x m b = false := by
  unfold blockDue
  dsimp only
  rcases h with h | h
  · rw [h]
    rfl
  · rw [h, Bool.and_false]

theorem intUpRefused_block {e : Nat × TBlk} (hin : e ∈ intBlocks d m) (h : blockDue c d x m e.1 = false) : intUpRefused c d x m = true := by
  have hall : (intBlocks d m).all (fun e => blockDue c d x m e.1) = false := List.all_eq_false.2 ⟨e, hin, by rw [h]; exact Bool.false_ne_true⟩
  rw [intUpRefused, hall, Bool.not_false, Bool.or_true]

theorem intUpRefused_false (hal : cteAlien c m = false) (hbd : cteBad c d m = false) (hbeg : intBegun c d (ownerCluster d) m.step = true) (hcnt : m.addends = x.cnt)
    (hdue : ∀ e ∈ intBlocks d m, blockDue c d x m e.1 = true) : intUpRefused c d x m = false := by
  have hall : (intBlocks d m).all (fun e => blockDue c d x m e.1) = true := List.all_eq_true.2 hdue
  simp only [intUpRefused, hal, hbd, hbeg, hcnt, hall]
  simp

theorem intDownRefused_block {e : Nat × TBlk} (hin : e ∈ intBlocks d m) (h : x.fin.contains e.1 = true ∨ x.up.contains e.1 = false) : intDownRefused c d x m = true := by
  have hany : (intBlocks d m).any (fun e => x.fin.contains e.1 || !x.up.contains e.1) = true :=
    List.any_eq_true.2 ⟨e, hin, by rcases h with h | h <;> rw [h] <;> simp⟩
  rw [intDownRefused, hany, Bool.or_true]

theorem intDownRefused_false (hal : cteAlien c m = false) (hbd : cteBad c d m = false) (hbeg : intBegun c d (ownerCluster d) m.step = true) (hcnt : m.addends = x.cnt)
    (hdue : ∀ e ∈ intBlocks d m, x.fin.contains e.1 = false ∧ x.up.contains e.1 = true) : intDownRefused c d x m = false := by
  have hany : (intBlocks d m).any (fun e => x.fin.contains e.1 || !x.up.contains e.1) = false := by
    refine List.any_eq_false.2 fun e he => ?_
    obtain ⟨hfin, hup⟩ := hdue e he
    rw [hfin, hup]
    exact Bool.false_ne_true
  simp only [intDownRefused, hal, hbd, hbeg, hcnt, hany]
  simp

/-- EXP_UP that is early is kept. -/
theorem onExpUp_early (hd : tDesc c m.id = some d) (he : cteEarly c 3 m = true) : onExpUp s k port c m = keepEarly s k port 3 m := by
  simp only [onExpUp, hd, he, if_true]

theorem onExpUp_refused (hd : tDesc c m.id = some d) (he : cteEarly c 3 m = false) (h : cteAlien c m = true ∨ cteBad c d m = true) :
    onExpUp s k port c m = fault1 s k (cteProb m.id m.first m.node) := by
  simp only [onExpUp, hd, he, Bool.false_eq_true, if_false]
  rw [if_pos (by rcases h with h | h <;> simp [h])]
  rfl

theorem onExpDown_refused (hd : tDesc c m.id = some d) (hx : sumOf c (ownerCluster d) d.tag = some x) (h : cteAlien c m = true ∨ cteBad c d m = true) :
    onExpDown s k c m = fault1 s k (cteProb m.id m.first m.node) := by
  simp only [onExpDown, hd, hx]
  rw [if_pos (by rcases h with h | h <;> simp [h])]
  rfl

/-- INT_UP that is early is kept. -/
theorem onIntUp_early (hd : tDesc c m.id = some d) (he : cteEarly c 5 m = true) : onIntUp s k port c m = keepEarly s k port 5 m := by
  simp only [onIntUp, hd, he, if_true]

/-- INT_UP that has begun is refused, or adds its blocks (14 R354). -/
theorem onIntUp_begun (hd : tDesc c m.id = some d) (hx : sumOf c (ownerCluster d) d.tag = some x) (he : cteEarly c 5 m = false) :
    onIntUp s k port c m = if intUpRefused c d x m then fault1 s k (cteProb m.id m.first m.node)
      else tryInt (modSum s k (ownerCluster d) d.tag (fun y =>
        { y with blks := (intBlocks d m).foldl (fun t e => tput t e.1 (addBlk (tgetD t e.1 {}) e.2)) y.blks, kidsInt := y.kidsInt ++ (intBlocks d m).map (fun e => m.rank * 65536 + e.1) }))
        k d (ownerCluster d) ((intBlocks d m).map (·.1)) := by
  simp only [onIntUp, hd, hx, he, Bool.false_eq_true, if_false]
  rfl

/-- INT_DOWN is refused, or takes its blocks and passes them on (14 R354). -/
theorem onIntDown_eq (hd : tDesc c m.id = some d) (hx : sumOf c (ownerCluster d) d.tag = some x) :
    onIntDown s k c m = if intDownRefused c d x m then fault1 s k (cteProb m.id m.first m.node)
      else intDone ((intBlocks d m).foldl (fun s e => sendMsgs s k (ownerCluster d) (sumGroup c d.tag).1
        ((downTo (sumAlg c x.inst d) (faninOf c x.inst (sumGroup c d.tag).1) (tBlocks d) (groupSize c (sumGroup c d.tag).1) (groupIdx c (sumGroup c d.tag).1 c.rank) e.1).map
          (memberRank c (sumGroup c d.tag).1))
        (intMsgs (cteRoom s (ownerCluster d / 6)) c d 6 x.inst x.cnt [e]))
        (modSum s k (ownerCluster d) d.tag (fun y => { y with blks := (intBlocks d m).foldl (fun t e => tput t e.1 e.2) y.blks, fin := y.fin ++ (intBlocks d m).map (·.1) })))
        k d (ownerCluster d) := by
  simp only [onIntDown, hd, hx]
  rfl

end

/-- Settles O16, kind by kind. -/
theorem cteTallyMessages : Obligations.CteTallyMessages := by
  refine ⟨fun port f s st hst r hr => ?_, fun m s k port own gm c d x b hc hd hown hx hb hgm => ?_⟩
  · rw [cteRow_exec port f s r hr, rxCte_meets hst]
  subst hown hb hgm
  refine ⟨fun kind hk he => ?_, fun kind hk he hbad => ?_, fun he hal hbd hbeg u hu => ?_, fun fe u hal hbd hbeg hff hfe hu => ?_, fun bs he hal hbd hbeg hcnt hbs hdue => ?_,
    fun e hin he hdup => ?_, fun kind hk he hcnt => ?_, fun bs u hal hbd hbeg hcnt hbs hdue hu => ?_, fun e hin hdup => ?_⟩
  · fin_cases hk
    · rw [applyCte_expUp hc, onExpUp_early hd he]
    · rw [applyCte_intUp hc, onIntUp_early hd he]
  · fin_cases hk
    · rw [applyCte_expUp hc, onExpUp_refused hd he hbad]
    · rw [applyCte_expDown hc, onExpDown_refused hd hx hbad]
    · rw [applyCte_intUp hc, onIntUp_begun hd hx he, if_pos]
      rcases hbad with h | h <;> simp [intUpRefused, h]
    · rw [applyCte_intDown hc, onIntDown_eq hd hx, if_pos]
      rcases hbad with h | h <;> simp [intDownRefused, h]
  · subst hu
    rw [applyCte_expUp hc]
    have hfresh : ∀ b : Bool, ∀ n l : Nat, (if (!b) = true then n else l) = if b = true then l else n := by
      intro b n l
      cases b <;> rfl
    simp only [onExpUp, hd, he, hal, hbd, hbeg, hfresh]
    rfl
  · subst hu hfe
    rw [applyCte_expDown hc]
    simp only [onExpDown, hd, hx, hal, hbd, hbeg, hff]
    rfl
  · subst hbs
    have hok : intUpRefused c d x m = false := intUpRefused_false hal hbd hbeg hcnt fun e he => by
      obtain ⟨hnew, hway⟩ := hdue e he
      rw [blockDue, hnew, hway]
      rfl
    rw [applyCte_intUp hc, onIntUp_begun hd hx he, hok]
    rfl
  · rw [applyCte_intUp hc, onIntUp_begun hd hx he, if_pos (intUpRefused_block hin (blockDue_false hdup))]
  · fin_cases hk
    · rw [applyCte_intUp hc, onIntUp_begun hd hx he, if_pos]
      simp [intUpRefused, hcnt]
    · rw [applyCte_intDown hc, onIntDown_eq hd hx, if_pos]
      simp [intDownRefused, hcnt]
  · subst hbs hu
    rw [applyCte_intDown hc, onIntDown_eq hd hx, intDownRefused_false hal hbd hbeg hcnt hdue]
    rfl
  · rw [applyCte_intDown hc, onIntDown_eq hd hx, if_pos (intDownRefused_block hin hdup)]

end Sys2Proof.CollectiveMessages
end

section
/-! SUPPORT. Echo and sentinels, holds, chimes and bell timeouts; and the statements about them (17 R428 to R430, R433, 10 R246 to R250, 11 R259 to R265, R270). -/

open Sys2Proof Sys2Proof.Machine Sys2Proof.Openers

namespace Sys2Proof.HoldsAndChimes

/-! ### Echo and sentinels -/

/-- A core that a strike or a failed pass takes out of service is retired, no sentinel, and named in the unit map (17 R433). -/
theorem retire_effects (s : State) (pc : Nat) : pc ∈ (retire s pc).retired ∧ (retire s pc).sentinels = sdel s.sentinels pc ∧ (retire s pc).unitMap = s.unitMap ||| 2 ^ pc :=
  ⟨mem_sput_self _ _, rfl, rfl⟩

/-- The march test of a pass touches neither the sentinels nor the unit map. -/
theorem marchOver_units (s : State) (pc : Nat) : (marchOver s pc).sentinels = s.sentinels ∧ (marchOver s pc).unitMap = s.unitMap := by
  unfold marchOver
  split
  · exact ⟨rfl, rfl⟩
  · exact ⟨devWrite_sentinels .., devWrite_unitMap ..⟩

/-- Settles O18: the oldest third run, and a sentinel's pass. -/
theorem echoAndSentinelRows : Obligations.EchoAndSentinelRows := by
  refine ⟨fun pc s x rest y u hthirds hy hu => ?_, fun pc s u kat hsent hfree hdie hu => ?_⟩
  · subst hy hu
    refine ⟨fun r hr hne => ?_, fun r hr hne => ?_, fun r hr => ?_⟩
    · simp only [exec, execEchoThirdRun, hthirds, hr, hne, ne_eq, not_false_eq_true, decide_true, Bool.and_self, if_true]
    · simp only [exec, execEchoThirdRun, hthirds, hr, hne.symm, ne_eq, not_true_eq_false, not_false_eq_true, decide_true, decide_false, Bool.and_self,
        Bool.false_eq_true, if_false, if_true]
    · cases r with
      | none => simp only [exec, execEchoThirdRun, hthirds, underProbe]
      | some w =>
        have hboth := hr w rfl
        have hfirst : (decide (w.toNat = x.r1) && decide (w.toNat ≠ x.r2)) = false := by
          rw [Bool.and_eq_false_imp, decide_eq_true_eq]
          intro h
          simp [hboth.1 h]
        have hsecond : (decide (w.toNat = x.r2) && decide (w.toNat ≠ x.r1)) = false := by
          rw [Bool.and_eq_false_imp, decide_eq_true_eq]
          intro h
          simp [hboth.2 h]
        simp only [exec, execEchoThirdRun, hthirds, hfirst, hsecond, Bool.false_eq_true, if_false, underProbe]
  · have hmay : (!s.sentinels.contains pc.val || !spareFree s pc || (decide (54 ≤ pc.val) && s.chain.die1Bad)) = false := by
      rw [hsent, hfree]
      simpa using hdie
    subst hu
    refine ⟨fun hkat hlong => ?_, ?_⟩
    · simp only [exec, execSentinelPassDone, hmay, hkat, Nat.not_lt.2 hlong, decide_false, Bool.and_false, Bool.or_self, Bool.false_eq_true, if_false, Bool.and_self, if_true]
    · obtain ⟨hgone, hsd, hmap⟩ := retire_effects (setFld (setReg { marchOver s pc with passAt := tput s.passAt pc.val s.cycle } (rCoreRbg pc) (if kat then 1 else 2)) (rCoreEcho pc) 55 54 3) pc
      obtain ⟨hsent', hmap'⟩ := marchOver_units s pc
      refine ⟨_, ?_, hgone, hsd.trans (congrArg (sdel · pc.val) hsent'), hmap.trans (congrArg (· ||| 2 ^ pc.val) hmap')⟩
      simp only [exec, execSentinelPassDone, hmay, Bool.false_and, Bool.or_self, Bool.false_eq_true, if_false]

/-! ### Holds -/

/-- Every row of an engine answers the engine's meaning of its operation. -/
theorem exec_engineRows (sh : Option (List Bytes)) : ∀ r ∈ engineRows sh, ∀ (p : Fin 8) (v : Fin 96) (op : BitVec 128) (s : State),
    ∃ f, exec (r.1 p v op) s = .next (onEngine s p v r.2.1 (r.2.2 op) f) := by
  intro r hr
  fin_cases hr <;> intros <;> exact ⟨_, rfl⟩

/-- A result that is owed and in raises no hold, and one that is absent raises one (10 R246). -/
theorem execHoldTest_owed {s : State} {p : Fin 8} {unit term cause obj u cs d k : Nat} {ready : Bool} {c : Ctx} (hres : resident s p = some (k, c))
    (howed : owedResult s k c unit term cause obj u = some (cs, d)) (hdue : d ≤ s.run + 96)
    (hnone : s.holds.any (fun h => h.unit = unit && h.term = term && h.obj = obj && h.ctx = some k && h.u = d) = false) :
    execHoldTest p unit term cause obj u ready s = .next (if (resultIn s k c unit term obj u).getD ready then s
      else raiseHold s unit term cs obj (some k) d (tolOr s p unit term (holdVariant c unit term))) := by
  simp only [execHoldTest, hres, howed, hnone, Nat.not_lt.2 hdue, decide_false, Bool.false_or, Bool.or_false]

/-- Units 0 to 7 owe nothing under a variable term (09 R225). -/
theorem owedResult_static {unit : Nat} (h : unit ≤ 7) (s : State) (k : Nat) (c : Ctx) (term cause obj u : Nat) : owedResult s k c unit term cause obj u = none := by
  unfold owedResult
  interval_cases unit <;> rfl

/-- A hold whose result is in ends on its return path, and still acts in this cycle (10 R247). -/
theorem returned_mem {s : State} {id : Nat} {h : Hold} (hh : h ∈ s.holds) (hid : h.id = id) (hopen : h.endAt = none) (hin : (holdIn s h).getD true = true) :
    { h with endAt := some (s.cycle + 96) } ∈ (gateEval (returnHolds s (fun h => h.id = id && (holdIn s h).getD true))).holds := by
  refine List.mem_filter.2 ⟨List.mem_map.2 ⟨h, hh, ?_⟩, ?_⟩
  · rw [if_pos (by simp [hid, hopen, hin])]
  · simp [holdDone, returnHolds]

/-- A return that no hold waits for changes none. -/
theorem returnHolds_none {s : State} {id : Nat} (hout : ∀ h ∈ s.holds, h.id = id → (holdIn s h).getD true = false) :
    returnHolds s (fun h => h.id = id && (holdIn s h).getD true) = s := by
  have hsame : s.holds.map (fun h => if h.endAt = none && (decide (h.id = id) && (holdIn s h).getD true) then { h with endAt := some (s.cycle + 96) } else h) = s.holds := by
    refine (List.map_congr_left fun h hh => if_neg ?_).trans (List.map_id _)
    by_cases hid : h.id = id
    · simp [hout h hh hid]
    · simp [hid]
  exact congrArg (fun l => { s with holds := l }) hsame

/-- Settles O19, row by row. -/
theorem holdRows : Obligations.HoldRows := by
  refine ⟨fun p unit term cause obj u cs d ready s k c hres howed hdue hnone => ⟨fun hin => ?_, fun hin w hw => ?_⟩, fun p unit term cause obj u ready s hunit => ?_,
    fun id s h hh hid hopen hin => ?_, fun id s hout => ?_, fun sh r hr p v op s k c vc h => ?_, fun s hacts => ⟨gateEval s, congrArg _ (if_pos hacts), hacts⟩, fun s hacts => ?_,
    fun id s h k hfind hctx hopen hpos hover => ?_⟩
  · refine (execHoldTest_owed hres howed hdue hnone).trans ?_
    rw [if_pos hin]
  · subst hw
    refine (execHoldTest_owed hres howed hdue hnone).trans ?_
    rw [if_neg (by rw [hin]; exact Bool.false_ne_true)]
    rfl
  · cases hres : resident s p with
    | none => simp only [exec, execHoldTest, hres]
    | some kc => simp only [exec, execHoldTest, hres, owedResult_static hunit]
  · exact ⟨_, rfl, returned_mem hh hid hopen hin⟩
  · show (.next (gateEval (returnHolds s _)) : Res) = _
    rw [returnHolds_none hout]
  · obtain ⟨f, hf⟩ := exec_engineRows sh r hr p v op s
    rw [hf]
    rcases h with hst | ⟨hat, hno⟩
    · rw [onEngine_stands hst]
    · by_cases hst : stands s = true
      · rw [onEngine_stands hst]
      · rw [onEngine_waits (Bool.eq_false_iff.2 hst) hat hno]
  · refine ⟨gateEval s, ?_, hacts, rfl, rfl⟩
    exact congrArg _ (if_neg (by rw [hacts]; exact Bool.false_ne_true))
  · simp only [exec, execHoldTolFault, hfind, hctx, hopen]
    rw [if_neg (by simp [Nat.pos_iff_ne_zero.1 hpos, Nat.not_le.2 hover])]

end Sys2Proof.HoldsAndChimes
end

section
/-! SUPPORT. Chimes, bells and the muster; and the statements about them (11 R259 to R274, 14 R353, R363). -/

open Sys2Proof Sys2Proof.Machine Sys2Proof.Openers

namespace Sys2Proof.BellsAndMuster

/-! ### Signals of one chime -/

/-- A list of one value alone has it once. -/
theorem eraseDups_const {α : Type} [BEq α] [LawfulBEq α] {l : List α} {a : α} (hne : l ≠ []) (h : ∀ x ∈ l, x = a) : l.eraseDups = [a] := by
  cases l with
  | nil => exact absurd rfl hne
  | cons x r =>
    obtain rfl := h x (by simp)
    have hrest : r.filter (fun b => !b == x) = [] := List.filter_eq_nil_iff.2 fun y hy => by
      simp [h y (List.mem_cons_of_mem _ hy)]
    rw [List.eraseDups_cons, hrest, List.eraseDups_nil]

/-- Signals to one chime have one target, and are all counted for it. -/
theorem sigTargets_const {l : List Sig} {v ch : Nat} (hne : l ≠ []) (h : ∀ g ∈ l, (g.vcore, g.chime) = (v, ch)) :
    sigTargets l = [(v, ch)] ∧ l.filter (fun g => (g.vcore, g.chime) = (v, ch)) = l := by
  refine ⟨eraseDups_const (by simpa using hne) fun x hx => ?_, List.filter_eq_self.2 fun g hg => by rw [h g hg]; exact decide_eq_true rfl⟩
  obtain ⟨g, hg, rfl⟩ := List.mem_map.1 hx
  exact h g hg

/-- A cycle whose signals all go to one chime adds them to it, or overflows it (11 R259 to R261). -/
theorem countCtx_oneChime {s : State} {k v ch : Nat} {c : Ctx} {l : List Sig} (hc : ctxOf s k = some c) (hne : l ≠ [])
    (hall : ∀ g ∈ l, (g.vcore, g.chime) = (v, ch)) (hcnt : c.counted = l) (hland : c.landed = []) :
    countCtx s k = countChime (modCtx s k (fun c => { c with counted := [], landed := [] })) k v ch l := by
  obtain ⟨htgt, hfilt⟩ := sigTargets_const hne hall
  have hsome : (l.isEmpty && ([] : List Sig).isEmpty) = false := by simp [hne]
  simp only [countCtx, hc, hland, hcnt, hsome, Bool.false_eq_true, if_false, htgt, List.foldl_cons, List.foldl_nil, hfilt]
  rfl

/-- Settles O20: signals and their count, timeouts, and expectations. -/
theorem chimesAndTimeouts : Obligations.ChimesAndTimeouts := by
  refine ⟨fun p v ch n s k c l rest hres htake => ?_, fun s k v ch c vc l hc hv hne hall hcnt hland u total hu htot => ?_, fun b s k hctx hjob hrel hover => ?_,
    fun b s k c hctx hlocal hc hover => ?_, fun p v op s k c vc => ⟨fun o ho hat hbad => ?_, fun i e hst hat hready he => ?_⟩⟩
  · simp only [exec, execChimeSignal, hres, htake]
  · subst hu htot
    have hv' : ((ctxOf (modCtx s k (fun c => { c with counted := [], landed := [] })) k).bind (fun c => vcoreOf c v)) = some vc := by
      rw [ctxOf_modCtx_same, hc]
      exact hv
    rw [countCtx_oneChime hc hne hall hcnt hland]
    simp only [countChime, hv', gt_iff_lt]
  · simp only [exec, execBellTimeout, hctx, hjob, hrel, hover]
    rfl
  · simp only [exec, execBellTimeout, hctx, hlocal, hc, hover, decide_false, Bool.false_and, Bool.false_eq_true, if_false, if_true]
  · subst ho
    refine next_atEngine hat ?_
    rw [doCexp, hbad]
    rfl
  · show (.next (onGate s p v _) : Res) = _
    rw [onGate_open hst hat]
    simp only [hready, he, Option.bind_some, Option.map_some]

/-! ### The muster and the messages of bells -/

section
variable {s : State} {k port : Nat} {c : Ctx} {m : CteMsg}

theorem applyCte_arrive (hc : ctxOf s k = some c) (port : Nat) (m : CteMsg) : applyCte s k port 1 m = onArrive s k c m := by simp only [applyCte, hc]
theorem applyCte_release (hc : ctxOf s k = some c) (port : Nat) (m : CteMsg) : applyCte s k port 2 m = onRelease s k c m := by simp only [applyCte, hc]

/-- Whether an arrival is of a child at its own node that has not arrived for the parity (11 R271). -/
def freshChild (s : State) (c : Ctx) (m : CteMsg) : Bool :=
  (treeKids c m.step 0).contains m.rank && nodeOfRank c m.rank = m.node && !(nodeOf (bell s m.id) m.parity).contains m.rank

theorem freshChild_true (hkid : (treeKids c m.step 0).contains m.rank = true) (hnode : nodeOfRank c m.rank = m.node)
    (hnew : (nodeOf (bell s m.id) m.parity).contains m.rank = false) : freshChild s c m = true := by
  rw [freshChild, hkid, hnew, decide_eq_true hnode]
  rfl

theorem freshChild_false (h : (treeKids c m.step 0).contains m.rank = false ∨ nodeOfRank c m.rank ≠ m.node ∨ (nodeOf (bell s m.id) m.parity).contains m.rank = true) :
    freshChild s c m = false := by
  unfold freshChild
  rcases h with h | h | h
  · rw [h]
    rfl
  · rw [decide_eq_false h, Bool.and_false]
    rfl
  · rw [h, Bool.not_true, Bool.and_false]

/-- The first mismatch of the muster that a subtree has seen: the one noted already, or the child's own, or the one it reports (02 R45). -/
def badSeen (s : State) (m : CteMsg) (c : Ctx) : Option Nat :=
  match c.musterBad with
  | some n => some n
  | none => if beNat (sliceB m.arg 0 8) ≠ rd s rArv then some m.node else if fieldB m.arg 17 1 ≠ 0 then some (beNat (sliceB m.arg 18 4)) else none

/-- An arrival at a bell of the context by its rules (11 R267, R271, R273). -/
theorem onArrive_bell (hlt : m.id < 64) (hctx : (bell s m.id).ctx = some k) :
    onArrive s k c m = if freshChild s c m = false then discardArrival s m.id
      else if c.muster = .waiting || c.muster = .arrived then
        (if musterBell c ≠ some m.id || m.parity then discardArrival s m.id
         else musterStep (modBell (modCtx s k (fun c => { c with musterBad := badSeen s m c })) m.id
            (fun y => { y with node0 := y.node0 ++ [m.rank] })) k m.id)
      else nodeStep (modBell s m.id (fun y => setNode y m.parity (nodeOf y m.parity ++ [m.rank]))) k m.id m.parity [] := by
  have hown : (decide (m.id ≥ 64) || decide ((bell s m.id).ctx ≠ some k)) = false := by simp [hctx, hlt]
  have hfresh : (!((treeKids c m.step 0).contains m.rank && decide (nodeOfRank c m.rank = m.node)) || (nodeOf (bell s m.id) m.parity).contains m.rank) = !freshChild s c m := by
    simp [freshChild]
  simp only [onArrive, Nat.mod_eq_of_lt hlt, hown, hfresh, Bool.false_eq_true, if_false, Bool.not_eq_true']
  rfl

/-- The release of a bell's phase goes to the children (11 R267). -/
def passRelease (s : State) (k : Nat) (c : Ctx) (m : CteMsg) : State :=
  cteSendAll s k (treeKids c m.step 0) 2 (cteHdr 2 (cteMode 0 0 m.parity false 0) m.id 0 m.step 0 0 c.rank 0 0 m.arg)

/-- A release at a bell of the context by its rules (11 R267, R273). -/
theorem onRelease_bell (hlt : m.id < 64) (hctx : (bell s m.id).ctx = some k) :
    onRelease s k c m = if treeParent c m.step 0 ≠ some m.rank then fault1 s k (cteProb m.id m.first m.node)
      else if c.muster = .arrived then
        (if musterBell c ≠ some m.id || m.parity then fault1 s k (cteProb m.id m.first m.node)
         else if fieldB m.arg 17 1 ≠ 0 then fault1 (passRelease s k c m) k (arvProb s (beNat (sliceB m.arg 18 4)))
         else musterRelease (passRelease s k c m) k c (beNat (sliceB m.arg 0 8)))
      else if m.parity ≠ (bell s m.id).parity || (bell s m.id).jobRel || !(nodeOf (bell s m.id) (bell s m.id).parity).contains c.rank then fault1 s k (cteProb m.id m.first m.node)
      else modBell (passRelease s k c m) m.id (fun y => { y with jobRel := true }) := by
  have hown : (decide (m.id ≥ 64) || decide ((bell s m.id).ctx ≠ some k)) = false := by simp [hctx, hlt]
  simp only [onRelease, Nat.mod_eq_of_lt hlt, hown, Bool.false_eq_true, if_false]
  rfl

end

/-- How a context takes part in the muster: alone, or by the job's bell (11 R273, R274). -/
def musterPart (s : State) (k : Nat) (c : Ctx) : Option Nat → Res
  | none => .next (musterRelease s k c (s.refcnt + 64 * fld s rBelMuster 15 0))
  | some b =>
    if c.prog.plan.devices ≤ 1 then .next (musterRelease s k c (s.refcnt + 64 * fld s rBelMuster 15 0))
    else .next (musterStep (modBell (modCtx s k (fun c => { c with muster := .arrived })) b (fun y => { y with node0 := y.node0 ++ [c.rank] })) k b)

/-- A waiting context whose partition is free takes part in the muster (11 R273, R274). -/
theorem musterArrive_goes {s : State} {p : Fin 8} {n : Nat} {c : Ctx} (hin : (part s p).letIn = some n) (hc : ctxOf s (ctxKey p n) = some c) (hwait : c.muster = .waiting)
    (hzero : (part s p).zeroing = false) (hres : (part s p).resident = none) (hquiet : ∀ e ∈ s.ctxs, e.1 / 16 = p.val → e.2.st ≠ 3 ∧ e.2.st ≠ 6)
    (hvalid : bit (rd s rBelMuster) 17 = true) :
    exec (.musterArrive p) s = musterPart s (ctxKey p n) c (musterBell c) := by
  have hbusy : (s.ctxs.any (fun e => decide (e.1 / 16 = p.val) && (decide (e.2.st = 3) || decide (e.2.st = 6)))) = false := by
    refine List.any_eq_false.2 fun e he => ?_
    by_cases hp : e.1 / 16 = p.val
    · obtain ⟨h3, h6⟩ := hquiet e he hp
      simp [h3, h6]
    · simp [hp]
  have hgo : ¬ ((decide (c.muster ≠ .waiting) || (part s p).zeroing || ((part s p).resident.isSome
      || s.ctxs.any (fun e => decide (e.1 / 16 = p.val) && (decide (e.2.st = 3) || decide (e.2.st = 6)))) || !bit (rd s rBelMuster) 17) = true) := by
    rw [hbusy, hzero, hres, hvalid]
    simp [hwait]
  simp only [exec, execMusterArrive, hin, hc]
  rw [if_neg hgo]
  cases musterBell c <;> rfl

/-- Settles O32, row by row and message by message. -/
theorem bellAndMusterRows : Obligations.BellAndMusterRows := by
  refine ⟨fun b s k u hctx hdue hle hscope => ?_, fun p s n c hin hc => ⟨fun hwait hzero hres hquiet hvalid => ⟨fun halone => ?_, fun b hb hmany => ?_⟩, fun rm a hrel hle ha u hu w hw => ?_⟩,
    fun p s k c hlate => ?_, fun port k b m s c hc hb hlt hctx => ?_⟩
  · have hgo : (decide (u ≤ s.run) && (decide (belScope s b = 0) || (bell s b).jobRel)) = true := by
      rcases hscope with h | h <;> simp [hle, h]
    simp only [exec, execBellRelease, hctx, hdue, hgo, if_true]
  · rw [musterArrive_goes hin hc hwait hzero hres hquiet hvalid]
    rcases halone with h | h
    · simp only [h, musterPart]
    · cases musterBell c with
      | none => rfl
      | some b => simp only [musterPart, h, if_true]
  · rw [musterArrive_goes hin hc hwait hzero hres hquiet hvalid]
    simp only [hb, musterPart, Nat.not_le.2 hmany, if_false]
  · subst hw hu ha
    cases hman : c.sman with
    | none => simp only [exec, execMusterAnchor, hin, hc, hrel, hman, Option.bind_some, Option.map_some, Nat.not_lt.2 hle, if_false]
    | some m => simp only [exec, execMusterAnchor, hin, hc, hrel, hman, Option.bind_some, Option.map_some, Nat.not_lt.2 hle, if_false]
  · simp only [exec, execMusterTimeout, hlate, List.foldl_cons, List.foldl_nil]
  · subst hb
    rw [applyCte_arrive hc, applyCte_release hc, onArrive_bell hlt hctx, onRelease_bell hlt hctx]
    refine ⟨fun h => if_pos ?_, fun hkid hnode hnew => ⟨fun hnw hna => ?_, fun bad u hst hbell hpar hbad hu => ?_⟩, fun u hpar hu => ⟨fun hna hp hj hn => ?_, fun ha hbell hp => ?_⟩, fun h => ?_⟩
    · exact freshChild_false h
    · rw [if_neg (by rw [freshChild_true hkid hnode hnew]; decide), if_neg (by simp [hnw, hna])]
    · have hmust : (decide (c.muster = .waiting) || decide (c.muster = .arrived)) = true := by
        rcases hst with h | h <;> simp [h]
      subst hu hbad
      rw [if_neg (by rw [freshChild_true hkid hnode hnew]; decide), if_pos hmust, if_neg (by simp [hbell, hpar])]
      rfl
    · subst hu
      rw [if_neg (not_not.2 hpar), if_neg hna, if_neg (by rw [hj, hn]; simp [hp])]
      rfl
    · subst hu
      rw [if_neg (not_not.2 hpar), if_pos ha, if_neg (by simp [hbell, hp])]
      rfl
    · by_cases hpar : treeParent c m.step 0 = some m.rank
      · rw [if_neg (not_not.2 hpar)]
        rcases h with h | ⟨ha, h⟩ | ⟨hna, h⟩
        · exact absurd hpar h
        · rw [if_pos ha, if_pos]
          rcases h with h | h <;> simp [h]
        · rw [if_neg hna, if_pos]
          rcases h with h | h | h
          · simp [h]
          · rw [h, Bool.or_true, Bool.true_or]
          · rw [h, Bool.not_false, Bool.or_true]
      · rw [if_pos hpar]

end Sys2Proof.BellsAndMuster
end

section
/-! SUPPORT. All-gather, permute, and the messages of cadence, map and summary; and the statements about them (14 R356 to R366, 12 R296). -/

open Sys2Proof Sys2Proof.Machine Sys2Proof.Openers

namespace Sys2Proof.Gathers

/-! ### Parts -/

section
variable {s : State} {k port : Nat} {c : Ctx} {m : CteMsg} {x : Gather}

theorem applyCte_part (hc : ctxOf s k = some c) (port : Nat) (m : CteMsg) : applyCte s k port 7 m = onPart s k port c m := by simp only [applyCte, hc]

/-- Whether a piece of a part does not fit its gather (14 R356). -/
def partMisfit (x : Gather) (m : CteMsg) : Bool :=
  m.gmode ≠ x.gmode || m.first ≥ x.g || x.got.contains m.first || m.count * 64 ≠ m.data.length || (tgetD x.fill m.first (0, 0)).1 + m.data.length > x.len || m.data.length = 0

theorem partMisfit_true (h : m.gmode ≠ x.gmode ∨ x.g ≤ m.first ∨ x.got.contains m.first = true ∨ m.count * 64 ≠ m.data.length
    ∨ x.len < (tgetD x.fill m.first (0, 0)).1 + m.data.length ∨ m.data.length = 0) : partMisfit x m = true := by
  unfold partMisfit
  rcases h with h | h | h | h | h | h
  · simp [h]
  · simp [h]
  · rw [h, Bool.or_true, Bool.true_or, Bool.true_or, Bool.true_or]
  · simp [h]
  · simp [h]
  · simp [h]

theorem partMisfit_false (hmode : m.gmode = x.gmode) (hfirst : m.first < x.g) (hgot : x.got.contains m.first = false) (hcount : m.count * 64 = m.data.length)
    (hroom : (tgetD x.fill m.first (0, 0)).1 + m.data.length ≤ x.len) (hpos : 0 < m.data.length) : partMisfit x m = false := by
  unfold partMisfit
  rw [hgot]
  simp [hmode, hfirst, hcount, hroom, Nat.pos_iff_ne_zero.1 hpos]

/-- The gather once a piece of a part has landed behind those before it (14 R356). -/
def pieceLanded (s : State) (k : Nat) (x : Gather) (m : CteMsg) : State :=
  let old := tgetD x.fill m.first (0, 0)
  let n := m.data.length
  let a := x.dst + m.first * x.len + old.1
  modGather (hbmUse (landData s a m.pmask m.data) (k / 16) a n) k x.v x.ord (fun y => { y with fill := tput y.fill m.first (old.1 + n, crc64From old.2 m.data) })

/-- A piece of a known gather faults, or lands; the last one makes the part whole (14 R359). -/
theorem onPart_known (hx : c.gathers.find? (fun x => x.v = m.id && x.ord = m.inst) = some x) :
    onPart s k port c m = if partMisfit x m then fault1 s k (cteProb m.id m.first m.node)
      else if (tgetD x.fill m.first (0, 0)).1 + m.data.length < x.len then pieceLanded s k x m
      else partWhole (pieceLanded s k x m) k port x m (crc64From (tgetD x.fill m.first (0, 0)).2 m.data) := by
  simp only [onPart, hx]
  rfl

/-- A part of a gather that has not begun here is kept (14 R355). -/
theorem onPart_early (hx : c.gathers.find? (fun x => x.v = m.id && x.ord = m.inst) = none) (he : cteEarly c 7 m = true) : onPart s k port c m = keepEarly s k port 7 m := by
  simp only [onPart, hx, he, if_true]

end

/-! ### AGATHER -/

section
variable {s : State} {k v o src dst n g : Nat} {c : Ctx} {vc : Vcore} {d : Bytes}

/-- A gather that passes its checks is recorded, its own part is placed and sent, and the parts that came early are taken (14 R356). -/
theorem doAgather_gathers {dig ord own : Nat} {x : Gather} {t : State} (hbad : agatherBad o = none) (hoff : 64 * bits o 23 8 < spLimit)
    (hclean : devPoison s (spBase (pcoreOf c v) + 64 * bits o 23 8) 64 = false) (hd : d = devRead s (spBase (pcoreOf c v) + 64 * bits o 23 8) 64) (hdesc : gatherDescBad d = false)
    (hg : g = max 1 (groupSize c (bits o 7 6))) (hvers : fieldB d 0x20 1 = 0 ∨ fieldB d 0x1C 4 + g ≤ 65536) (hsrc : mapRange s k c (fieldB d 0 8) (fieldB d 0x10 8) = .ok src)
    (hdst : mapRange s k c (fieldB d 8 8) (g * fieldB d 0x10 8) = .ok dst) (hpoison : ∀ i < fieldB d 0x10 8 / 64, devPoison s (src + 64 * i) 64 = false)
    (hdig : dig = crc64 (devRead s src (fieldB d 0x10 8))) (hord : ord = tgetD vc.ords 0 0) (hown : own = groupIdx c (bits o 7 6) c.rank)
    (hx : x = { v := v, ord := ord, gmode := bits o 7 6, own := own, g := g, dst := dst, len := fieldB d 0x10 8, layer := fieldB d 0x18 4, vidx := fieldB d 0x1C 4, vmode := fieldB d 0x20 1,
                got := [own], count := (part s (k / 16)).points, cia := runCia vc, step := c.step })
    (ht : t = takeOrd (modCtx s k (fun c => { c with gathers := c.gathers ++ [x] })) k v) :
    doAgather s k c vc v o = drainParts (versionStep (partSend (if src = dst + own * fieldB d 0x10 8 then t else moveBytes t (k / 16) src (dst + own * fieldB d 0x10 8) (fieldB d 0x10 8))
      k c x own dig (partTargets c x own c.rank)) k x own dig) k v ord := by
  have hvers' : ¬ ((decide (fieldB d 0x20 1 ≠ 0) && decide (fieldB d 0x1C 4 + g > 65536)) = true) := by
    rcases hvers with h | h
    · simp [h]
    · simp [Nat.not_lt.2 h]
  subst ht hx hord hown hdig
  rw [doAgather, DataMovers.sdmChecked_good hbad]
  simp only [← hd, ← hg]
  rw [if_neg (Nat.not_le.2 hoff), if_neg (by rw [hclean]; exact Bool.false_ne_true), if_neg (by rw [hdesc]; exact Bool.false_ne_true), if_neg hvers']
  simp only [hsrc, hdst, find_none hpoison]

end

/-- Settles O33: AGATHER, its timeout, and the pieces of a part. -/
theorem gatherRows : Obligations.GatherRows := by
  refine ⟨fun p v op s k c vc o d n gm g src dst dig ord own x t ho hat hbad hoff hclean hd hdesc hn hgm hg hvers hsrc hdst hpoison hdig hord hown hx ht => ?_,
    fun p v s k c vc x hat hx => next_atWork hat ?_, fun m s k port c x n a old hc hx hn hold ha => ?_⟩
  · subst ho hn hgm
    exact next_atEngine hat (doAgather_gathers hbad hoff hclean hd hdesc hg hvers hsrc hdst hpoison hdig hord hown hx ht)
  · simp only [hx]
  · subst hn hold ha
    rw [applyCte_part hc, onPart_known hx]
    refine ⟨fun h => if_pos (partMisfit_true h), fun u crc hmode hfirst hgot hcount hroom hpos hcrc hu => ?_, fun y hy he => ?_⟩
    · subst hcrc
      have hu' : u = pieceLanded s k x m := hu
      rw [if_neg (by rw [partMisfit_false hmode hfirst hgot hcount hroom hpos]; exact Bool.false_ne_true)]
      refine ⟨fun hmore => ?_, fun w z y hlast hw hz hy e he => ?_⟩
      · rw [if_pos hmore, hu']
      · rw [if_neg (by omega), ← hu']
        subst hw hz
        simp only [partWhole, ← hy, he]
    · rw [applyCte_part hc, onPart_early hy he]

/-! ### PERMUTE -/

/-- What an out entry of a PERMUTE does: its frames go to its stream, which the entry notes, or its bytes move here (14 R361). -/
def entryMoved (k v cia : Nat) (s : State) (e : Option (Nat × Nat × Nat × Nat) × Option (Nat × Nat × Nat)) : State :=
  match e with
  | (some (x, a, dst, len), _) =>
    match stream s x with
    | none => s
    | some st =>
      let fs := sendFrames s (maxPay s (dieOfSidx x)) a dst len true
      let mark : SendOp := { cia := cia, sidx := x, seq := seqAdd st.sndNxt (fs.length - 1) }
      if fs.isEmpty then s else queueFrames (modCtx s k (fun c => { c with permutes := c.permutes.map (fun q => if q.v = v && q.phase = 1 then { q with sends := q.sends ++ [mark] } else q) })) x fs
  | (none, some (a, b, len)) => moveBytes s (k / 16) a b len
  | (none, none) => s

/-- A PERMUTE with a readable table takes all its faults, or makes all its moves (14 R360, R361). -/
theorem doPermute_eq {s : State} {k v o da n nout : Nat} {c : Ctx} {vc : Vcore} {hd : Bytes} {outB inB : List Bytes}
    {outs : List (Except (List Prob) (Option (Nat × Nat × Nat × Nat) × Option (Nat × Nat × Nat)))} {ins : List (Except (List Prob) (Nat × Nat × Nat))} {probs : List Prob}
    (hbad : permuteBad c o = none) (hda : da = spBase (pcoreOf c v) + 64 * bits o 27 12) (hhd : hd = devRead s da 64) (hn : n = 64 + 32 * (fieldB hd 0 4 + fieldB hd 4 4))
    (hroom : 64 * bits o 27 12 + n ≤ spLimit) (hclean : devPoison s da 64 = false) (hpoison : ∀ i < (n + 63) / 64, devPoison s (da + 64 * i) 64 = false) (hnout : nout = fieldB hd 0 4)
    (houtB : outB = (List.range nout).map (fun i => devRead s (da + 64 + 32 * i) 32)) (hinB : inB = (List.range (fieldB hd 4 4)).map (fun i => devRead s (da + 64 + 32 * (nout + i)) 32))
    (houts : outs = outB.map (outEntry s k c vc v)) (hins : ins = inB.map (inEntry s k c vc v (fieldB hd 8 8) (fieldB hd 0x10 8)))
    (hprobs : probs = oneEach (permuteDesc c vc v hd outB inB ++ errs outs ++ errs ins)) :
    doPermute s k c vc v o = if (!probs.isEmpty) = true then faultCtx s k probs
      else permuteArrive ((oks outs).foldl (entryMoved k v (runCia vc)) (takeOrd (modCtx s k (fun c =>
        { c with permutes := c.permutes ++ [{ v := v, bell := bits o 11 6, cia := runCia vc, copies := oks ins, outB := outB.foldl (fun a e => a + fieldB e 8 8) 0 }] })) k v)) k := by
  have hfirst : 64 * bits o 27 12 + 64 ≤ spLimit := by omega
  rw [doPermute, DataMovers.sdmChecked_good hbad]
  simp only [← hda, ← hhd, ← hn]
  rw [if_neg (Nat.not_lt.2 hfirst), if_neg (by rw [hclean]; exact Bool.false_ne_true), if_neg (Nat.not_lt.2 hroom)]
  simp only [find_none hpoison, ← hnout, ← houtB, ← hinB, ← houts, ← hins, ← hprobs]
  rfl

/-- Settles O34, by `doPermute_eq`. -/
theorem permuteRow : Obligations.PermuteRow := by
  intro p v op s k c vc o da n nout hd ho hat hbad hda hhd hn hroom hclean hpoison hnout outB inB outs ins probs houtB hinB houts hins hprobs
  subst ho
  have hrow := doPermute_eq hbad hda hhd hn hroom hclean hpoison hnout houtB hinB houts hins hprobs
  refine ⟨fun hne => next_atEngine hat (hrow.trans (if_pos ?_)), fun hnil => next_atEngine hat (hrow.trans (if_neg ?_))⟩
  · simpa using hne
  · simp [hnil]

/-! ### Cadence, map and summary -/

section
variable {s : State} {k port : Nat} {c : Ctx} {m : CteMsg}

theorem applyCte_cadence (hc : ctxOf s k = some c) (port : Nat) (m : CteMsg) : applyCte s k port 8 m = onCadence s k c m := by simp only [applyCte, hc]
theorem applyCte_map (hc : ctxOf s k = some c) (port : Nat) (m : CteMsg) : applyCte s k port 9 m = onMap s k c m := by simp only [applyCte, hc]
theorem applyCte_summary (hc : ctxOf s k = some c) (port : Nat) (m : CteMsg) : applyCte s k port 10 m = onSummary s k c m := by simp only [applyCte, hc]

/-- A message of a kind that 14 R362 reserves faults its context. -/
theorem applyCte_reserved (hc : ctxOf s k = some c) {kind : Nat} (h : kind = 0 ∨ 10 < kind) : applyCte s k port kind m = cteFault s k m := by
  obtain rfl | ⟨n, rfl⟩ : kind = 0 ∨ ∃ n, kind = n + 11 := h.imp_right fun h => ⟨kind - 11, by omega⟩
  · simp only [applyCte, hc]
  · simp only [applyCte, hc]

end

/-- Settles O35, kind by kind and sender by sender. -/
theorem treeMessageRows : Obligations.TreeMessageRows := by
  intro port m s k c hc
  rw [applyCte_cadence hc, applyCte_map hc, applyCte_summary hc]
  refine ⟨fun hpar => ⟨fun hall => ?_, ?_⟩, fun hpar hall hkid => ?_, fun hkid => ?_, fun hpar hkid kind hk => ?_, fun halone => ?_, fun kind hk => applyCte_reserved hc hk⟩
  · simp only [onCadence, hall, hpar, Bool.false_eq_true, if_false, if_true]
  · simp only [onMap, hpar, ne_eq, not_true_eq_false, if_false]
  · simp only [onCadence, hall, hpar, hkid, Bool.false_eq_true, if_false, if_true]
  · simp only [onSummary, hkid, Bool.not_true, Bool.false_eq_true, if_false]
  · fin_cases hk
    · rw [applyCte_cadence hc, onCadence, hkid, if_neg hpar]
      simp only [Bool.false_eq_true, if_false, ite_self]
      rfl
    · rw [applyCte_map hc, onMap, if_pos hpar]
      rfl
    · rw [applyCte_summary hc, onSummary, hkid]
      rfl
  · rw [onCadence, if_pos halone]
    rfl

end Sys2Proof.Gathers
end

section
/-! SUPPORT. START, END, STOW and RESTORE; and the statements about them (15 R380, R381, 16 R408, R409). -/

open Sys2Proof Sys2Proof.Machine Sys2Proof.Openers

namespace Sys2Proof.ContextCommands

/-! ### START -/

section
variable {u : State} {q : Nat} {m : Man} {bytes : Bytes} {x : Loaded} {areas : List (Nat × Nat)} {led : Bool}

/-- A context placed with its code and bells, where its partition no longer keeps an image of it (15 R380). -/
def placedCtx (a : State) (p k : Nat) (c : Ctx) (code : Bytes) : State :=
  modPart (installProg (setCtx a k c) k c code) p (fun y => { y with exported := sdel y.exported (k % 16), codes := tdel y.codes (k % 16) })

/-- A started context takes its cover table and, on a free partition, its muster (15 R380, 11 R273). -/
def startedCtx (w : State) (p k id : Nat) : State :=
  let y := if runsOther w p k then w else installCover w p id
  if coresFree y p && (part y p).letIn.isNone then admitMuster y p (k % 16) else y

/-- A well-formed START whose binary loads places its context (15 R380). -/
theorem startMan_starts {k : Nat} {a : State} (hk : k = manCtx u q m) (hlen : fieldB m.slot 0x18 8 = bytes.length) (hflags : fieldB m.slot 0x66 1 ≤ 3) (hlo : 12 ≤ fieldB m.slot 0x65 1)
    (hhi : fieldB m.slot 0x65 1 ≤ 26) (hhost : hostBad (fieldB m.slot 0x10 8) = false) (hnew : ctxOf u k = none) (hreg : regionOk u (qpPtn u q) (fieldB m.slot 0x58 8) (fieldB m.slot 0x60 4) = true)
    (ha : a = (if bit (fieldB m.slot 0x66 1) 0 then u else devZero u (fieldB m.slot 0x58 8) (fieldB m.slot 0x60 4 * 1048576)))
    (hload : loadCheck a { p := qpPtn u q, k := k, pl := fieldB m.slot 0x64 1, kMan := fieldB m.slot 0x65 1, roster := fieldB m.slot 0x50 8, base := fieldB m.slot 0x58 8, mib := fieldB m.slot 0x60 4 } bytes = .ok x)
    (harea : imageArea a k (startCtx q m x a (qpPtn u q)) = some (areas, led)) :
    startMan u q m (some bytes) = startedCtx (placedCtx a (qpPtn u q) k { startCtx q m x a (qpPtn u q) with areas := areas, inLedger := led } x.code) (qpPtn u q) k x.prog.coverId := by
  have hform : ¬ ((decide (fieldB m.slot 0x66 1 > 3) || decide (fieldB m.slot 0x65 1 < 12) || decide (26 < fieldB m.slot 0x65 1)) = true) := by
    simp [Nat.not_lt.2 hflags, Nat.not_lt.2 hlo, Nat.not_lt.2 hhi]
  subst hk
  unfold startMan
  dsimp only
  rw [if_neg hform, if_neg (by rw [hhost]; exact Bool.false_ne_true), if_neg (by rw [hnew]; exact Bool.false_ne_true), if_neg (by rw [hreg]; exact Bool.false_ne_true)]
  simp only [← ha, hlen, if_true, hload, harea]
  rfl

end

/-! ### STOW -/

/-- Whether a STOW asks for the next point (16 R408). -/
def stowNext (m : Man) : Bool := decide (fieldB m.slot 0x10 8 = 2 ^ 64 - 1)

/-- What a STOW asks to be kept (16 R408). -/
def stowReq (q : Nat) (m : Man) : StowReq :=
  { point := if stowNext m then none else some (fieldB m.slot 0x10 8, fieldB m.slot 0x18 4), exp := bit (fieldB m.slot 0x1C 1) 0, host := fieldB m.slot 0x20 8, hlen := fieldB m.slot 0x28 8, qp := q, seq := m.seq }

/-- The restore that a context waits for ends with STATE (16 R408). -/
def restoreDropped (u : State) (c : Ctx) : State := match c.rman with | some (q, n) => finishMan u q n 4 | none => u

/-- A context that waits for its restore is held again, and its STOW completes (16 R408). -/
def heldAgain (u : State) (q k : Nat) (m : Man) (c : Ctx) : State :=
  let w := modCtx (restoreDropped u c) k (fun c => { c with st := 5, rman := none })
  finishMan (modPart w (k / 16) (fun x => { x with letIn := if x.letIn = some (k % 16) then none else x.letIn })) q m.seq 0

section
variable {u : State} {q k : Nat} {m : Man} {c : Ctx}

/-- A well-formed STOW by the state of its context (16 R408). -/
theorem stowMan_formed (hk : k = manCtx u q m) (hflags : fieldB m.slot 0x1C 1 ≤ 1) (hzero : zeroB m.slot 0x1D 0x20 = true)
    (hno : bit (fieldB m.slot 0x1C 1) 0 = false → fieldB m.slot 0x20 8 = 0 ∧ fieldB m.slot 0x28 8 = 0)
    (hexp : bit (fieldB m.slot 0x1C 1) 0 = true → hostBad (fieldB m.slot 0x20 8) = false ∧ fieldB m.slot 0x20 8 % 4096 = 0) (hc : ctxOf u k = some c) :
    stowMan u q m = if !stowNext m && decide (c.prog.frames ≤ fieldB m.slot 0x18 4) then finishMan u q m.seq 1
      else if c.st = 1 || c.st = 5 || c.stow.isSome || (!stowNext m && pointPassed c (fieldB m.slot 0x10 8, fieldB m.slot 0x18 4)) then finishMan u q m.seq 4
      else if c.st = 4 then heldAgain u q k m c
      else modCtx u k (fun c => { c with stow := some (stowReq q m) }) := by
  have hform : ¬ ((decide (fieldB m.slot 0x1C 1 > 1) || !zeroB m.slot 0x1D 0x20
      || (!bit (fieldB m.slot 0x1C 1) 0 && (decide (fieldB m.slot 0x20 8 ≠ 0) || decide (fieldB m.slot 0x28 8 ≠ 0)))) = true) := by
    simpa [hzero, Nat.not_lt.2 hflags] using hno
  have haddr : ¬ ((bit (fieldB m.slot 0x1C 1) 0 && (hostBad (fieldB m.slot 0x20 8) || decide (fieldB m.slot 0x20 8 % 4096 ≠ 0))) = true) := by
    simpa using hexp
  subst hk
  unfold stowMan
  dsimp only
  rw [if_neg hform, if_neg haddr]
  simp only [hc, stowNext, stowReq, heldAgain, decide_eq_true_eq]
  rfl

/-- A STOW of a running, stowing or restoring context whose point is not passed is kept. -/
theorem stowMan_kept (hk : k = manCtx u q m) (hflags : fieldB m.slot 0x1C 1 ≤ 1) (hzero : zeroB m.slot 0x1D 0x20 = true)
    (hno : bit (fieldB m.slot 0x1C 1) 0 = false → fieldB m.slot 0x20 8 = 0 ∧ fieldB m.slot 0x28 8 = 0)
    (hexp : bit (fieldB m.slot 0x1C 1) 0 = true → hostBad (fieldB m.slot 0x20 8) = false ∧ fieldB m.slot 0x20 8 % 4096 = 0) (hc : ctxOf u k = some c)
    (h1 : c.st ≠ 1) (h4 : c.st ≠ 4) (h5 : c.st ≠ 5) (hstow : c.stow = none)
    (hpt : stowNext m = false → fieldB m.slot 0x18 4 < c.prog.frames ∧ pointPassed c (fieldB m.slot 0x10 8, fieldB m.slot 0x18 4) = false) :
    stowMan u q m = modCtx u k (fun c => { c with stow := some (stowReq q m) }) := by
  have hframe : ¬ ((!stowNext m && decide (c.prog.frames ≤ fieldB m.slot 0x18 4)) = true) := by
    simpa using fun h => (hpt h).1
  have hstate : ¬ ((decide (c.st = 1) || decide (c.st = 5) || c.stow.isSome || (!stowNext m && pointPassed c (fieldB m.slot 0x10 8, fieldB m.slot 0x18 4))) = true) := by
    simpa [h1, h5, hstow] using fun h => (hpt h).2
  rw [stowMan_formed hk hflags hzero hno hexp hc, if_neg hframe, if_neg hstate, if_neg h4]

/-- A STOW at the next point of a context that waits for its restore holds it again. -/
theorem stowMan_waiting (hk : k = manCtx u q m) (hnext : stowNext m = true) (hflags : fieldB m.slot 0x1C 1 = 0) (hzero : zeroB m.slot 0x1D 0x20 = true) (hhost : fieldB m.slot 0x20 8 = 0)
    (hlen : fieldB m.slot 0x28 8 = 0) (hc : ctxOf u k = some c) (h4 : c.st = 4) (hstow : c.stow = none) : stowMan u q m = heldAgain u q k m c := by
  rw [stowMan_formed hk (by omega) hzero (fun _ => ⟨hhost, hlen⟩) (fun h => absurd h (by rw [hflags]; decide)) hc, hnext, if_neg (by simp), if_neg (by simp [h4, hstow]), if_pos h4]

end

/-! ### RESTORE -/

/-- RESTORE of a stowed context admits it (16 R409). -/
theorem restoreMan_admits {u : State} {q k : Nat} {m : Man} {c : Ctx} {img bin : Option Bytes} (hk : k = manCtx u q m) (himg : fieldB m.slot 0x10 8 = 0) (hzero : zeroB m.slot 0x18 128 = true)
    (hc : ctxOf u k = some c) (h5 : c.st = 5) (hrman : c.rman = none) :
    restoreMan u q m img bin = modCtx u k (fun c => { c with st := if gang c then 5 else 4, rman := some (q, m.seq) }) := by
  subst hk
  simp only [restoreMan, himg, hzero, hc, h5, hrman]
  rfl

/-- RESTORE with an image address imports it (16 R417). -/
theorem restoreMan_imports {u : State} {q : Nat} {m : Man} {img bin : Option Bytes} (himg : fieldB m.slot 0x10 8 ≠ 0) : restoreMan u q m img bin = importMan u q m img bin := if_pos himg

/-- Settles O36, manifest by manifest. -/
theorem contextManifests : Obligations.ContextManifests := by
  intro q bin img s u m k hk
  refine ⟨fun bytes a x c areas led w y hup hbin hlen hflags hlo hhi hhost hnew hreg ha hload hc harea hw hy => ?_, fun c hup hc hend => ?_, fun c hup hc => ?_,
    fun c next hup hnext hflags hzero hno hexp hc h1 h4 h5 hstow hpt => ?_, fun c hup himg hzero hc h5 hrman => next_manUp hup (restoreMan_admits hk himg hzero hc h5 hrman),
    fun hup himg => next_manUp hup (restoreMan_imports himg)⟩
  · subst hbin hc hy hw
    exact next_manUp hup (startMan_starts hk hlen hflags hlo hhi hhost hnew hreg ha hload harea)
  · subst hk
    refine next_manUp hup ?_
    simp only [hc, hend]
    rfl
  · subst hk
    refine next_manUp hup ?_
    rcases hc with hc | ⟨hc, hend⟩
    · simp only [hc]
    · simp only [hc, hend, if_true]
  · subst hnext
    exact next_manUp hup (stowMan_kept hk hflags hzero hno hexp hc h1 h4 h5 hstow hpt)

end Sys2Proof.ContextCommands
end

section
/-! SUPPORT. What START, END, STOW and RESTORE leave of their context; and the statement about it (15 R380, R381, 16 R408, R409). -/

open Sys2Proof Sys2Proof.Machine Sys2Proof.Openers Sys2Proof.ContextCommands

namespace Sys2Proof.ContextOutcomes

/-! ### What sending and opening leave of the contexts -/

theorem routeBody_ctxs (s : State) (d : Nat) (group : Option Nat) (node dscp flow sidx : Nat) (ack : Bool) (body : Bytes) :
    (routeBody s d group node dscp flow sidx ack body).ctxs = s.ctxs := by
  unfold routeBody
  split
  · rfl
  · cases ack <;> rfl

theorem sendOpen_ctxs (s : State) (x : Nat) : (sendOpen s x).ctxs = s.ctxs := by
  unfold sendOpen sendBare
  split
  · rfl
  · exact routeBody_ctxs ..

theorem openWith_ctxs (s : State) (x : Nat) : (openWith s x).ctxs = s.ctxs := by
  unfold openWith
  rw [sendOpen_ctxs, modStream_ctxs, drawn_ctxs]

theorem openEntry_ctxs {s t : State} {d : Nat} {e : Stream} (h : openEntry s d e = .ok t) : t.ctxs = s.ctxs := by
  unfold openEntry at h
  dsimp only at h
  split at h
  · cases h
  · split_ifs at h <;> cases h
    · rfl
    · rfl
    · rw [openWith_ctxs]

theorem installBell_ctxs (s : State) (k : Nat) (code : Bytes) (g : Prog) (b : Nat) : (installBell s k code g b).ctxs = s.ctxs := by
  unfold installBell
  dsimp only
  split_ifs <;> rfl

/-- A fold whose every step leaves the contexts alone does. -/
theorem foldl_ctxs {α : Type} (f : State → α → State) (h : ∀ s a, (f s a).ctxs = s.ctxs) (l : List α) (s : State) : (l.foldl f s).ctxs = s.ctxs := by
  induction l generalizing s with
  | nil => rfl
  | cons a l ih => rw [List.foldl_cons, ih, h]

theorem installProg_ctxs (s : State) (k : Nat) (c : Ctx) (code : Bytes) : (installProg s k c code).ctxs = s.ctxs := by
  unfold installProg
  rw [foldl_ctxs _ fun s b => installBell_ctxs s k code c.prog b]
  unfold hbmUse
  split <;> rfl

/-! ### What a started context keeps -/

/-- Context k of a state is LOADED with the program, the placement, the identity and the step of c. -/
def LoadedAs (c : Ctx) (k : Nat) (s : State) : Prop :=
  ∃ d, ctxOf s k = some d ∧ d.st = 1 ∧ d.prog = c.prog ∧ d.vtab = c.vtab ∧ d.startId = c.startId ∧ d.step = c.step ∧ d.sman = c.sman

section
variable {c : Ctx} {k : Nat} {s t : State}

theorem LoadedAs.of_ctxs (h : LoadedAs c k s) (hctxs : t.ctxs = s.ctxs) : LoadedAs c k t := by
  unfold LoadedAs ctxOf
  rw [hctxs]
  exact h

/-- A change of the context that touches none of these. -/
theorem LoadedAs.modCtx (h : LoadedAs c k s) {f : Ctx → Ctx}
    (hf : ∀ d, (f d).st = d.st ∧ (f d).prog = d.prog ∧ (f d).vtab = d.vtab ∧ (f d).startId = d.startId ∧ (f d).step = d.step ∧ (f d).sman = d.sman) : LoadedAs c k (modCtx s k f) := by
  obtain ⟨d, hd, hst, hprog, hvtab, hid, hstep, hsman⟩ := h
  obtain ⟨fst, fprog, fvtab, fid, fstep, fsman⟩ := hf d
  exact ⟨f d, by rw [ctxOf_modCtx_same, hd, Option.map_some], fst.trans hst, fprog.trans hprog, fvtab.trans hvtab, fid.trans hid, fstep.trans hstep, fsman.trans hsman⟩

theorem LoadedAs.foldl {α : Type} (f : State → α → State) (hf : ∀ s a, LoadedAs c k s → LoadedAs c k (f s a)) (l : List α) (h : LoadedAs c k s) : LoadedAs c k (l.foldl f s) := by
  induction l generalizing s with
  | nil => exact h
  | cons a l ih => exact ih (hf s a h)

/-- Collective streams that open, or that find no room, leave a context LOADED as it is. -/
theorem LoadedAs.openColl (h : LoadedAs c k s) (fans : Ctx → List Nat) : LoadedAs c k (openColl s k fans) := by
  unfold Machine.openColl
  split
  · exact h
  · split
    · exact h
    · refine LoadedAs.foldl _ (fun s e hs => ?_) _ h
      dsimp only
      split
      · exact hs
      · split
        · next hopen => exact hs.of_ctxs ((setReg_ctxs ..).trans (openEntry_ctxs hopen))
        · exact hs.modCtx fun d => ⟨rfl, rfl, rfl, rfl, rfl, rfl⟩

theorem LoadedAs.admitMuster (h : LoadedAs c k s) {p n : Nat} (hk : ctxKey p n = k) : LoadedAs c k (admitMuster s p n) := by
  unfold Machine.admitMuster
  rw [hk]
  refine LoadedAs.openColl ?_ _
  exact LoadedAs.modCtx (h.of_ctxs rfl) fun d => ⟨rfl, rfl, rfl, rfl, rfl, rfl⟩

/-- A started context is LOADED, whether it is admitted at once or not. -/
theorem startedCtx_loaded {p id : Nat} (h : LoadedAs c k s) (hk : ctxKey p (k % 16) = k) : LoadedAs c k (startedCtx s p k id) := by
  have hcover : LoadedAs c k (if runsOther s p k then s else installCover s p id) := by
    split
    · exact h
    · exact h.of_ctxs rfl
  unfold startedCtx
  generalize (if runsOther s p k then s else installCover s p id) = y at hcover ⊢
  dsimp only
  split
  · exact hcover.admitMuster hk
  · exact hcover

/-- A placed context is the one that was placed. -/
theorem placedCtx_loaded (a : State) (p k : Nat) (c : Ctx) (code : Bytes) (hst : c.st = 1) : LoadedAs c k (placedCtx a p k c code) := by
  refine ⟨c, ?_, hst, rfl, rfl, rfl, rfl, rfl⟩
  unfold placedCtx ctxOf
  rw [modPart_ctxs, installProg_ctxs, setCtx_ctxs, tget_tput_same]

end

/-- The key of a manifest's context names its partition and its number. -/
theorem manCtx_key (u : State) (q : Nat) (m : Man) : ctxKey (qpPtn u q) (manCtx u q m % 16) = manCtx u q m := by
  unfold manCtx ctxKey
  omega

/-! ### What a STOW of a waiting context leaves -/

theorem finishMan_parts (s : State) (q seq st : Nat) (b : Bytes) : (finishMan s q seq st b).parts = s.parts := by
  unfold finishMan complete
  split
  · rfl
  · split_ifs
    · rfl
    · dsimp only
      split_ifs <;> rfl

theorem restoreDropped_ctxs (u : State) (c : Ctx) : (restoreDropped u c).ctxs = u.ctxs := by
  unfold restoreDropped
  split
  · exact finishMan_ctxs ..
  · rfl

theorem heldAgain_outcome {u : State} {q k : Nat} {m : Man} {c : Ctx} (hc : ctxOf u k = some c) :
    ctxOf (heldAgain u q k m c) k = some { c with st := 5, rman := none } ∧ (part (heldAgain u q k m c) (k / 16)).letIn ≠ some (k % 16) := by
  constructor
  · unfold heldAgain ctxOf
    rw [finishMan_ctxs, modPart_ctxs, modCtx_ctxs, restoreDropped_ctxs, tget_tmod_same]
    unfold ctxOf at hc
    rw [hc, Option.map_some]
  · unfold heldAgain part
    rw [finishMan_parts]
    unfold modPart
    rw [tgetD_tput_same]
    dsimp only
    split_ifs with hin
    · exact (Option.some_ne_none _).symm
    · exact hin

/-- Settles O37, by what each manifest's meaning leaves. -/
theorem contextCommandsRun : Obligations.ContextCommandsRun := by
  intro q bin img s u m k hk
  refine ⟨fun bytes x ask hup hbin hlen hflags hlo hhi hhost hnew hreg hkeep hask hload harea => ?_, fun c hup hc hend => ?_,
    fun c r hup hc hpt hflags hzero hhost hlen hstow => ⟨fun hst hr => ?_, fun h4 => ?_⟩, fun c hup himg hzero hc h5 hrman => ?_⟩
  · subst hbin hask
    obtain ⟨⟨areas, led⟩, hareas⟩ := Option.isSome_iff_exists.1 harea
    have hstart := startMan_starts hk hlen hflags hlo hhi hhost hnew hreg (if_pos hkeep).symm hload hareas
    obtain ⟨d, hd, hst, hprog, hvtab, hid, hstep, hsman⟩ := startedCtx_loaded (p := qpPtn u q) (id := x.prog.coverId)
      (placedCtx_loaded u (qpPtn u q) k { startCtx q m x u (qpPtn u q) with areas := areas, inLedger := led } x.code rfl) (hk ▸ manCtx_key u q m)
    exact ⟨_, d, next_manUp hup hstart, hd, hst, hprog, hvtab, hid, hstep, hsman⟩
  · subst hk
    refine ⟨modCtx u (manCtx u q m) (fun c => { c with ending := some (q.val, m.seq) }), next_manUp hup ?_, by rw [ctxOf_modCtx_same, hc, Option.map_some]⟩
    simp only [hc, hend]
    rfl
  · have hnext : stowNext m = true := decide_eq_true hpt
    have hreq : stowReq q m = r := by
      rw [hr, stowReq, hnext, hflags, hhost, hlen]
      rfl
    have hkept := stowMan_kept (q := q) hk (by omega) hzero (fun _ => ⟨hhost, hlen⟩) (fun h => absurd h (by rw [hflags]; decide)) hc (by omega) (by omega) (by omega) hstow
      (fun h => absurd (hnext.symm.trans h) (by decide))
    exact ⟨_, next_manUp hup hkept, by rw [ctxOf_modCtx_same, hc, Option.map_some, hreq]⟩
  · have hnext : stowNext m = true := decide_eq_true hpt
    obtain ⟨hctx, hlet⟩ := heldAgain_outcome (q := q) (m := m) hc
    exact ⟨_, next_manUp hup (stowMan_waiting hk hnext hflags hzero hhost hlen hc h4 hstow), by rw [hctx], hlet⟩
  · exact ⟨_, next_manUp hup (restoreMan_admits hk himg hzero hc h5 hrman), by rw [ctxOf_modCtx_same, hc, Option.map_some]⟩

end Sys2Proof.ContextOutcomes
end

section
/-! SUPPORT. The ends of a runout, a stow, a restore and a zeroing; and the statement about them (13 R342, 16 R410 to R417, 18 R458). -/

open Sys2Proof Sys2Proof.Machine

namespace Sys2Proof.StowEnds

section
variable {p : Fin 8} {s : State} {k : Nat} {c : Ctx}

/-- A runout ends once every stream is quiet, or at its limit (13 R342). -/
theorem execRunoutEnd_parks (hin : ctxIn s p 3 = some (k, c)) (hdrain : c.draining = true) (hcopy : copying s k = false)
    (h : (∀ e ∈ ctxStreams s k, streamQuiet s e.2 = true) ∨ c.drainAt + max (rd s (rNetRunout 0)) (rd s (rNetRunout 1)) ≤ s.cycle) :
    execRunoutEnd p s = .next (turnStreams (modCtx s k (fun c => { c with draining := false })) k .draining .parked) := by
  have hover : ¬ ((!(ctxStreams s k).all (fun e => streamQuiet s e.2) && decide (s.cycle < c.drainAt + max (rd s (rNetRunout 0)) (rd s (rNetRunout 1)))) = true) := by
    rcases h with h | h
    · rw [List.all_eq_true.2 h]
      exact Bool.false_ne_true
    · rw [decide_eq_false (Nat.not_lt.2 h), Bool.and_false]
      exact Bool.false_ne_true
  simp only [execRunoutEnd, hin, hdrain, hcopy, Bool.not_true, Bool.or_self, Bool.false_eq_true, if_false]
  rw [if_neg hover]

/-- The image of a stowed context leaves, where the context is still there (16 R417). -/
def imageOut (y : State) (k corr : Nat) (bad : List Nat) (r : StowReq) : State :=
  match ctxOf y k with
  | some e => exportImage (imageReport y e corr bad) k e r
  | none => y

/-- How a stow ends that has landed what was in flight: alone, with its completion, or with its image (16 R410). -/
def stowEnd (y : State) (k corr : Nat) (bad : List Nat) : Option StowReq → State
  | none => y
  | some r => if r.exp then imageOut y k corr bad r else finishMan y r.qp r.seq 0

/-- A stow that has drained lands what is in flight and ends. -/
theorem execStowDone_drained {corr : Nat} {bad : List Nat} {d : Ctx} (hin : ctxIn s p 3 = some (k, c)) (hdrain : c.draining = false) (hd : ctxOf (landFlights s k) k = some d) :
    execStowDone p corr bad s = .next (stowEnd (finishStow (landFlights s k) k d) k corr bad c.stow) := by
  simp only [execStowDone, hin, hdrain, hd, Bool.false_eq_true, if_false]
  rfl

end

/-- Settles O38, end by end. -/
theorem stowAndRestoreEnds : Obligations.StowAndRestoreEnds := by
  intro p s
  refine ⟨fun k c hin hdrain hcopy h => execRunoutEnd_parks hin hdrain hcopy h, fun k c d corr bad w hin hdrain hd hw => ?_, fun k c corr bad w hin hzero hw => ?_, fun hzero => ?_⟩
  · subst hw
    have hrow : exec (.stowDone p corr bad) s = _ := execStowDone_drained hin hdrain hd
    rw [hrow]
    refine ⟨fun h => by rw [h, stowEnd], fun r hr hexp => ?_, fun r e hr hexp he => ?_⟩
    · simp only [stowEnd, hr, hexp, Bool.false_eq_true, if_false]
    · simp only [stowEnd, imageOut, hr, hexp, he, if_true]
  · subst hw
    refine ⟨fun hsteer => ?_, fun x hsteer => ?_⟩ <;> simp only [exec, execRestoreDone, hin, hzero, hsteer, Bool.false_eq_true, if_false]
  · refine ⟨_, if_neg (by rw [hzero]; exact Bool.false_ne_true), ?_, fun u w hu hw => by rw [hw, hu]⟩
    rw [part, modPart, tgetD_tput_same]

end Sys2Proof.StowEnds
end

section
/-! SUPPORT. What a write that is taken, and one that is not, answers (18 R455, 19 R472). -/

open Sys2Proof Sys2Proof.Machine

namespace Sys2Proof.BarWrites

/-- A write that is taken has its effect on the device that it wakes. -/
theorem gate_taken {s u : State} {w : Writer} {r : State → Res} {t : Res} (h : accepts s w = true) (hu : u = barWake s w) (hr : r u = t) : gate s w r = t := by
  rw [gate, if_pos h, ← hu, hr]

/-- One that is not taken is answered, and has no other effect. -/
theorem gate_refused {s : State} {w : Writer} {r : State → Res} (h : accepts s w = false) : gate s w r = .next (refuseBar s w) := by
  rw [gate, if_neg (by rw [h]; exact Bool.false_ne_true)]

/-- A write through a peer's function goes into its tunnel where the function is enabled, its TDI takes it and its link is not cut (01 R34). -/
theorem toVf_takes {s : State} {f off : Nat} {t : Option (Fin 8)} {k : State → State} (hon : vfOn s f = true) (htdi : tdiTakes s f t = true) (hcut : s.chain.cut.contains f = false) :
    toVf s f off t k = k s := by
  rw [toVf, hon, htdi, hcut]
  rfl

/-- One that the TDI does not take is answered with Unsupported Request (18 R455). -/
theorem toVf_unsupported {s : State} {f off : Nat} {t : Option (Fin 8)} {k : State → State} (hon : vfOn s f = true) (htdi : tdiTakes s f t = false) :
    toVf s f off t k = { s with out := s.out ++ [.unsupported f] } := by
  rw [toVf, hon, htdi]
  rfl

end Sys2Proof.BarWrites
end

section
/-! SUPPORT. Queue pairs; and the statement about them (15 R376, R377, R388 to R394). -/

open Sys2Proof Sys2Proof.Machine Sys2Proof.BarWrites

namespace Sys2Proof.QueuePairs

/-! ### Doorbells -/

section
variable {q : Fin 64} {s u : State} {v : BitVec 64} {tbit : Option (Fin 8)}

/-- What a doorbell of the right shape writes (15 R391). -/
def doorbellRung (u : State) (q : Nat) (v : BitVec 64) : State :=
  let x := qp u q
  let tailOk := qpKind u q = 1 || x.st = 2 || decide ((bits v.toNat 31 0 + 2 ^ 32 - x.sqHead) % 2 ^ 32 ≤ 2 ^ fld u (rHifQpcfg q) 10 6)
  let headOk := decide ((bits v.toNat 63 32 + 2 ^ 32 - x.cqHead) % 2 ^ 32 ≤ (x.cqTail + 2 ^ 32 - x.cqHead) % 2 ^ 32)
  if x.st = 2 then (if headOk then modQp u q (fun y => { y with cqHead := bits v.toNat 63 32 }) else u)
  else if !tailOk then qpError u q 1
  else if !headOk then qpError u q 2
  else modQp u q (fun y => { y with sqTail := if qpKind u q = 1 then y.sqTail else bits v.toNat 31 0, cqHead := bits v.toNat 63 32 })

/-- A doorbell of an enabled queue pair of the device (15 R391). -/
theorem exec_doorbell_rings (hacc : accepts s (.host tbit) = true) (hu : u = barWake s (.host tbit)) (hen : qpEn u q = true) :
    exec (.doorbell 0 q 0 8 v tbit) s = .next (doorbellRung u q v) := by
  show execDoorbell 0 q 0 8 v tbit s = _
  refine gate_taken (w := .host tbit) hacc hu ?_
  have hshape : ¬ ((decide ((0 : Fin 4096).val ≠ 0) || decide ((8 : Fin 9).val ≠ 8) || !qpEn u q) = true) := by
    rw [hen]
    decide
  rw [if_neg (by decide), if_neg hshape]
  unfold doorbellRung
  dsimp only
  split_ifs <;> rfl

/-- Where its tail does not fit the ring the queue pair fails (15 R392). -/
theorem doorbellRung_tailOver (hst : (qp u q).st ≠ 2) (hkind : qpKind u q ≠ 1) (hover : 2 ^ fld u (rHifQpcfg q) 10 6 < (bits v.toNat 31 0 + 2 ^ 32 - (qp u q).sqHead) % 2 ^ 32) :
    doorbellRung u q v = qpError u q 1 := by
  unfold doorbellRung
  dsimp only
  rw [if_neg hst, if_pos (by simp only [hst, hkind, Nat.not_le.2 hover, decide_false, Bool.or_self, Bool.not_false])]

/-- Where both fit they are taken; a ledger queue pair has no submission ring (15 R391, R396). -/
theorem doorbellRung_fits (hst : (qp u q).st ≠ 2) (htail : qpKind u q = 1 ∨ (bits v.toNat 31 0 + 2 ^ 32 - (qp u q).sqHead) % 2 ^ 32 ≤ 2 ^ fld u (rHifQpcfg q) 10 6)
    (hhead : (bits v.toNat 63 32 + 2 ^ 32 - (qp u q).cqHead) % 2 ^ 32 ≤ ((qp u q).cqTail + 2 ^ 32 - (qp u q).cqHead) % 2 ^ 32) :
    doorbellRung u q v = modQp u q (fun y => { y with sqTail := if qpKind u q = 1 then y.sqTail else bits v.toNat 31 0, cqHead := bits v.toNat 63 32 }) := by
  unfold doorbellRung
  dsimp only
  have htail' : (decide (qpKind u q = 1) || decide ((qp u q).st = 2) || decide ((bits v.toNat 31 0 + 2 ^ 32 - (qp u q).sqHead) % 2 ^ 32 ≤ 2 ^ fld u (rHifQpcfg q) 10 6)) = true := by
    rcases htail with h | h <;> simp only [h, decide_true, Bool.or_true, Bool.true_or]
  rw [if_neg hst, htail', decide_eq_true hhead]
  rfl

/-- Any other access to the page of a queue pair of the device is dropped (15 R391). -/
theorem exec_doorbell_dropped {off : Fin 4096} {width : Fin 9} (hacc : accepts s (.host tbit) = true) (hu : u = barWake s (.host tbit)) (h : off ≠ 0 ∨ width ≠ 8 ∨ qpEn u q = false) :
    exec (.doorbell 0 q off width v tbit) s = .next (setEvent u 4) := by
  show execDoorbell 0 q off width v tbit s = _
  refine gate_taken (w := .host tbit) hacc hu ?_
  have hshape : (decide (off.val ≠ 0) || decide (width.val ≠ 8) || !qpEn u q) = true := by
    rcases h with h | h | h
    · simp [Fin.val_ne_zero_iff.2 h]
    · have hw : width.val ≠ 8 := fun e => h (Fin.ext e)
      simp [hw]
    · simp [h]
  rw [if_neg (by simp), if_pos hshape]

end

/-! ### Enabling and disabling -/

/-- Settles O39, row by row. -/
theorem queuePairRows : Obligations.QueuePairRows := by
  intro q s
  refine ⟨fun v tbit u hacc hu hen hst hhead => ⟨fun hkind => ?_, fun hkind htail => ?_, fun hkind hover => ?_⟩, fun off width v tbit u hacc hu h => exec_doorbell_dropped hacc hu h,
    fun vf off width v tbit u hacc hu hvf => ⟨fun hon htdi hcut => ?_, fun hon htdi => ?_⟩, fun v tbit hacc => ?_, fun b u hen hkind hst hne hu => ⟨?_, ?_⟩, rfl, fun hen hst hwait => ?_,
    fun t ht hen hun ht0 hpast => ?_, fun v w x u hacc hu hx hen hbit hready hs4 hs16 hc9 hc20 hled => ?_, fun v w u hacc hu hen hbit => ⟨fun hready hmans hwait hctx => ?_, fun h => ?_⟩⟩
  · rw [exec_doorbell_rings hacc hu hen, doorbellRung_fits hst (.inl hkind) hhead]
    simp only [hkind, if_true]
  · rw [exec_doorbell_rings hacc hu hen, doorbellRung_fits hst (.inr htail) hhead]
    simp only [hkind, if_false]
  · rw [exec_doorbell_rings hacc hu hen, doorbellRung_tailOver hst hkind hover]
  · have hvf' : vf.val ≠ 0 := Fin.val_ne_zero_iff.2 hvf
    show execDoorbell vf q off width v tbit s = _
    unfold execDoorbell
    rw [if_neg hvf]
    refine gate_taken hacc hu ?_
    rw [if_pos hvf', toVf_takes hon htdi hcut]
  · have hvf' : vf.val ≠ 0 := Fin.val_ne_zero_iff.2 hvf
    show execDoorbell vf q off width v tbit s = _
    unfold execDoorbell
    rw [if_neg hvf]
    refine gate_taken hacc hu ?_
    rw [if_pos hvf', toVf_unsupported hon htdi]
  · show execDoorbell 0 q 0 8 v tbit s = _
    exact gate_refused (w := .host tbit) hacc
  · subst hu
    simp only [exec, execManifestFetch, hen, hkind, hst, hne, Bool.not_true, ne_eq, not_true_eq_false, decide_false, Bool.or_self, Bool.false_eq_true, if_false]
  · simp only [exec, execManifestFetch, hen, hkind, hst, hne, Bool.not_true, ne_eq, not_true_eq_false, decide_false, Bool.or_self, Bool.false_eq_true, if_false]
  · have hgo : (qpEn s q && decide ((qp s q).st = 1) && !(qp s q).waiting.isEmpty) = true := by
      simp [hen, hst, hwait]
    simp only [exec, execCompletionWrite, hgo, Bool.false_eq_true, if_false, if_true]
  · subst ht
    have hgo : ¬ ((!qpEn s q || decide ((qp s q).unann = 0) || decide (fld s (rHifQpcfg q) 47 32 = 0) || !usPassed s (qp s q).unannAt (fld s (rHifQpcfg q) 47 32)) = true) := by
      simp [hen, hun, ht0, usPassed, hpast]
    exact if_neg hgo
  · show execQpEnable q v w s = _
    refine gate_taken hacc hu ?_
    subst hx
    have hform : ¬ ((!bit (rd u rHifStatus) 0 || decide (bits (v.toNat &&& qpcfgMask) 10 6 < 4) || decide (16 < bits (v.toNat &&& qpcfgMask) 10 6)
        || decide (bits (v.toNat &&& qpcfgMask) 15 11 < 9) || decide (20 < bits (v.toNat &&& qpcfgMask) 15 11)
        || (bit (v.toNat &&& qpcfgMask) 1 && ledgerQpTaken u q (bits (v.toNat &&& qpcfgMask) 4 2))) = true) := by
      simpa [hready, Nat.not_lt.2 hs4, Nat.not_lt.2 hs16, Nat.not_lt.2 hc9, Nat.not_lt.2 hc20] using hled
    dsimp only
    rw [if_neg (by rw [hen, hbit]; decide), if_neg hform]
  · show execQpDisable q v w s = _
    refine gate_taken hacc hu ?_
    rw [if_neg (by rw [hen, hbit]; decide), if_neg]
    rw [hready, List.any_eq_false.2 fun m hm => by rw [manActive, hmans m hm]; decide, List.any_eq_false.2 fun e he => by rw [hwait e he]; decide,
      List.any_eq_false.2 fun e he => by simpa using hctx e he]
    decide
  · show execQpDisable q v w s = _
    refine gate_taken hacc hu ?_
    rw [if_neg (by rw [hen, hbit]; decide), if_pos]
    rcases h with h | ⟨m, hm, hstage⟩ | ⟨e, he, hq, hp⟩
    · rw [h]
      rfl
    · have hany : (qp u q).mans.any manActive = true := List.any_eq_true.2 ⟨m, hm, by rw [manActive, hstage]; rfl⟩
      simp only [hany, Bool.or_true, Bool.true_or]
    · have hany : u.ctxs.any (fun e => decide (e.2.qp = q.val) && decide (qpPtn u q = e.1 / 16)) = true := List.any_eq_true.2 ⟨e, he, by simp [hq, hp]⟩
      rw [hany, Bool.or_true]

end Sys2Proof.QueuePairs
end

section
/-! SUPPORT. NOP, the stream manifests, copies and SNAP_READ; and the statement about them (15 R378 to R387). -/

open Sys2Proof Sys2Proof.Machine Sys2Proof.Openers

namespace Sys2Proof.CopyManifests

section
variable {u : State} {q : Nat} {m : Man}

/-- A COPY_OUT of bytes that are not sealed and have no poison moves them all (15 R384). -/
theorem copyOut_whole (hcheck : copyCheck u q m false = 0) (hway : ∀ z f, copyWay u (qpPtn u q) (fieldB m.slot 0x18 8) (fieldB m.slot 0x20 8) ≠ .sealed z f)
    (hclean : ∀ i < fieldB m.slot 0x20 8 / 64, u.poison.contains (fieldB m.slot 0x18 8 / 64 + i) = false) :
    copyOut u q m = finishMan (hostWrite (hbmUse u (qpPtn u q) (fieldB m.slot 0x18 8) (fieldB m.slot 0x20 8)) (fieldB m.slot 0x10 8)
      (outBytes u (qpPtn u q) (fieldB m.slot 0x18 8) (fieldB m.slot 0x20 8))) q m.seq 0 (copyResult (fieldB m.slot 0x20 8) 0) := by
  unfold copyOut
  dsimp only
  rw [hcheck, if_neg (not_not.2 rfl), find_none hclean]
  rcases hw : copyWay u (qpPtn u q) (fieldB m.slot 0x18 8) (fieldB m.slot 0x20 8) with _ | ⟨z, f⟩ | _
  · rfl
  · exact absurd hw (hway z f)
  · rfl

end

/-- Settles O40, manifest by manifest. -/
theorem streamAndCopyManifests : Obligations.StreamAndCopyManifests := by
  intro q s u m k hk
  refine ⟨fun hnext htype => ?_, fun hup => next_manUp hup rfl, fun x st hup hst hopen => next_manUp hup ?_, fun x st hup hst hfailed => next_manUp hup ?_,
    fun d hup hcheck hway => next_manUp hup ?_, fun n w hfind hn hw => ?_, fun hup hnone hcheck hway hclean => ?_, fun corr bad l w b hup hhost hl hw hb => next_manUp hup ?_⟩
  · have hother : ¬ ((decide (1 ≤ fieldB m.slot 0 1) && decide (fieldB m.slot 0 1 ≤ 11)) = true) := by
      rcases htype with h | h
      · simp [h]
      · simp [Nat.not_le.2 h]
    have hstatus : (if (decide (fieldB m.slot 0 1 ≠ 0) || manHeadBad m.slot || !zeroB m.slot 16 128) = true then 1 else 0)
        = if fieldB m.slot 0 1 = 0 ∧ manHeadBad m.slot = false ∧ zeroB m.slot 16 128 = true then 0 else 1 := by
      by_cases h0 : fieldB m.slot 0 1 = 0 <;> cases manHeadBad m.slot <;> cases zeroB m.slot 16 128 <;> simp [h0]
    simp only [exec, execManifestNop, hnext]
    rw [if_neg hother, hstatus]
  · subst hk
    simp only [hst, hopen, if_true]
  · subst hk
    simp only [hst, hfailed, if_true]
  · rcases hw : copyWay u (qpPtn u q) (fieldB m.slot 0x18 8) (fieldB m.slot 0x20 8) with _ | ⟨z, f⟩ | _
    · simp only [hcheck, hw, ne_eq, not_true_eq_false, if_false]
    · exact absurd hw (hway z f)
    · simp only [hcheck, hw, ne_eq, not_true_eq_false, if_false]
  · subst hn hw
    simp only [exec, execCopyInLand, hfind]
  · have hidle : (qp s q).mans.find? (fun m => decide (m.stage = 1) && decide (fieldB m.slot 0 1 = 7)) = none := by
      refine List.find?_eq_none.2 fun y hy => ?_
      simpa using hnone y hy
    have hrow : exec (.copyOut q) s = .next (onMan s q 7 0x2C (fun s m => copyOut s q m)) := by
      simp only [exec, execCopyOut, hidle]
    rw [hrow, onMan_up hup, copyOut_whole hcheck hway hclean]
  · subst hb hw hl
    cases hlast : (snapFit (fieldB m.slot 0x18 8) (part u (qpPtn u q)).snap.written).getLast? with
    | none => simp only [hhost, hlast, Bool.false_eq_true, if_false]
    | some e => simp only [hhost, hlast, Bool.false_eq_true, if_false]

end Sys2Proof.CopyManifests
end

section
/-! SUPPORT. RoCE queue pairs; and the statement about them (13 R340, R341, 15 R386). -/

open Sys2Proof Sys2Proof.Machine

namespace Sys2Proof.RoceQueuePairs

/-- A ROCE row whose manifest has its operation. -/
theorem next_onRoce {s u t : State} {q : Nat} {m : Man} {f : Nat → Nat → Bool} {g : State → Man → State} (hup : manUp s q 9 0x50 m u)
    (hf : f (fieldB m.slot 0x10 1) (fieldB m.slot 0x13 1) = true) (hg : g u m = t) : (.next (onRoce s q f g) : Res) = .next t := by
  rw [onRoce_up hup hf, hg]

/-- A well-formed ROCE_CREATE takes the first free number of its die, under a fresh key (15 R386, 18 R463). -/
theorem roceCreate_takes {q : Fin 64} {s u : State} {m : Man} {i key port : Nat} (hup : manUp s q 9 0x50 m u) (hent : s.sec.entWait = false) (hop : fieldB m.slot 0x10 1 = 0)
    (hport : port = fieldB m.slot 0x11 1) (hmtu : fieldB m.slot 0x12 1 ≤ 2) (h13 : fieldB m.slot 0x13 1 = 0) (h14 : fieldB m.slot 0x14 4 = 0) (hzero : zeroB m.slot 0x28 0x50 = true)
    (hdie : port < 4 ∨ (16 ≤ port ∧ port < 20)) (hen : bit (rd u (rNetPortcfg port)) 4 = true) (hlen : fieldB m.slot 0x20 8 ≠ 0)
    (hptn : inPtn u (qpPtn u q) (fieldB m.slot 0x18 8) (fieldB m.slot 0x18 8 + fieldB m.slot 0x20 8) = true)
    (hseal : inSeal u (qpPtn u q) (fieldB m.slot 0x18 8) (fieldB m.slot 0x20 8) = false) (hfree : (rangeFrom (256 * (port / 16)) 256).find? (fun i => !thas u.roce i) = some i)
    (hkey : key = Config.entropy u.draws % 2 ^ 32) :
    exec (.roceCreate q) s = .next (finishMan { drawn u 1 with roce := tput u.roce i { qp := q, part := qpPtn u q, port := port, mtu := fieldB m.slot 0x12 1, base := fieldB m.slot 0x18 8, len := fieldB m.slot 0x20 8, rkey := key } } q m.seq 0 (roceResult i key)) := by
  subst hkey hport
  refine (if_neg (by simp [hent])).trans (next_onRoce hup (by rw [hop]; rfl) ?_)
  have hform : ¬ ((decide (fieldB m.slot 0x10 1 ≠ 0) || decide (fieldB m.slot 0x12 1 > 2) || decide (fieldB m.slot 0x13 1 ≠ 0) || decide (fieldB m.slot 0x14 4 ≠ 0) || !zeroB m.slot 0x28 0x50
      || !(decide (fieldB m.slot 0x11 1 < 4) || (decide (16 ≤ fieldB m.slot 0x11 1) && decide (fieldB m.slot 0x11 1 < 20))) || !bit (rd u (rNetPortcfg (fieldB m.slot 0x11 1))) 4) = true) := by
    have hports : (decide (fieldB m.slot 0x11 1 < 4) || (decide (16 ≤ fieldB m.slot 0x11 1) && decide (fieldB m.slot 0x11 1 < 20))) = true := by
      simpa only [Bool.or_eq_true, Bool.and_eq_true, decide_eq_true_eq] using hdie
    rw [hop, h13, h14, hzero, hen, hports, decide_eq_false (Nat.not_lt.2 hmtu)]
    decide
  have hrange : ¬ ((decide (fieldB m.slot 0x20 8 = 0) || !inPtn u (qpPtn u q) (fieldB m.slot 0x18 8) (fieldB m.slot 0x18 8 + fieldB m.slot 0x20 8)
      || inSeal u (qpPtn u q) (fieldB m.slot 0x18 8) (fieldB m.slot 0x20 8)) = true) := by
    simp [hlen, hptn, hseal]
  dsimp only
  rw [if_neg hform, if_neg hrange]
  simp only [hfree]

/-- A well-formed post sends its message from the first PSN (13 R340). -/
theorem rocePost_sends {u : State} {q verb i a n last : Nat} {m : Man} {x : RoceQp} (hverb : fieldB m.slot 0x13 1 = verb) (hzero : zeroB m.slot 0x11 0x13 = true)
    (hzero' : zeroB m.slot 0x28 0x40 = true) (hsend : verb = 0 → zeroB m.slot 0x40 0x4C = true) (himm : verb ≠ 2 → zeroB m.slot 0x4C 0x50 = true) (hx : manRoce u q m = some (i, x))
    (hconn : x.conn = true) (ha : a = fieldB m.slot 0x18 8) (hn : n = fieldB m.slot 0x20 8) (hptn : inPtn u (qpPtn u q) a (a + n) = true) (hclean : verb ≠ 3 → devPoison u a n = false)
    (hlast : last = psnAdd x.sndPsn (rocePkts x n - 1)) :
    rocePost u q verb m = sendPost (modRoce u i (fun y => { y with sndPsn := psnAdd last 1, posts := y.posts ++ [⟨q, m.seq, verb, x.sndPsn, last, m.slot⟩] })) i x ⟨q, m.seq, verb, x.sndPsn, last, m.slot⟩ := by
  have hform : ¬ ((decide (fieldB m.slot 0x13 1 ≠ verb) || !zeroB m.slot 0x11 0x13 || !zeroB m.slot 0x28 0x40 || (decide (verb = 0) && !zeroB m.slot 0x40 0x4C)
      || (decide (verb ≠ 2) && !zeroB m.slot 0x4C 0x50)) = true) := by
    simp only [hverb, hzero, hzero', ne_eq, not_true_eq_false, decide_false, Bool.not_true, Bool.or_self, Bool.false_or, Bool.or_eq_true, Bool.and_eq_true, decide_eq_true_eq,
      Bool.not_eq_true', not_or, not_and, Bool.not_eq_false]
    exact ⟨hsend, himm⟩
  have hread : ¬ ((decide (verb ≠ 3) && devPoison u a n) = true) := by
    simpa using hclean
  subst ha hn hlast
  unfold rocePost
  dsimp only
  rw [if_neg hform]
  simp only [hx, hconn, hptn, Bool.not_true, Bool.false_eq_true, if_false]
  rw [if_neg hread]

/-- Each row of a post runs as its verb's. -/
theorem exec_rocePosts {s u : State} {q : Fin 64} {m : Man} (hup : manUp s q 9 0x50 m u) (hop : fieldB m.slot 0x10 1 = 3) :
    ∀ r ∈ [((Instr.rocePostSend : Fin 64 → Instr), 0), (.rocePostRdmaWrite, 1), (.rocePostRdmaWriteImm, 2), (.rocePostRdmaRead, 3)], fieldB m.slot 0x13 1 = r.2 →
      exec (r.1 q) s = .next (rocePost u q r.2 m) := by
  intro r hr hverb
  fin_cases hr
  · exact next_onRoce hup (by simp only [hop, hverb]; decide) rfl
  · exact next_onRoce hup (by simp only [hop, hverb]; decide) rfl
  · exact next_onRoce hup (by simp only [hop, hverb]; decide) rfl
  · exact next_onRoce hup (by simp only [hop, hverb]; decide) rfl

/-- What a packet does at its queue pair by its kind, where a mark has been answered (13 R340). -/
theorem roceTake_kind {port : Nat} {k : RocePkt} {w u : State} {x : RoceQp} (hx : tget w.roce k.qpn = some x) (hdie : x.port / 16 = port / 16) (hconn : x.conn = true)
    (hu : u = (if k.ce then emitRoce w x (roceCtl 6 0) else w)) :
    roceTake port k w = (if k.kind = 4 then roceAck u k.qpn k.psn x else if k.kind = 5 then roceResponse u k.qpn k x
      else if k.kind = 6 then modRoce { u with draws := u.draws + 1 } k.qpn (fun y => { y with cnps := y.cnps + 1, gap := y.gap + 1 + Config.roceGap u.draws })
      else if k.kind = 7 then x.posts.foldl (fun s e => sendPost s k.qpn x e) (modRoce u k.qpn (fun y => { y with wait := [] }))
      else if k.kind ≤ 3 then roceRequest u k.qpn k x else u) := by
  have hmine : ¬ ((decide (x.port / 16 ≠ port / 16) || !x.conn) = true) := by simp [hdie, hconn]
  simp only [roceTake, hx]
  rw [if_neg hmine, ← hu]
  split
  · next h => rw [if_pos h]
  · next h => rw [if_neg (by omega), if_pos h]
  · next h => rw [if_neg (by omega), if_neg (by omega), if_pos h]
  · next h => rw [if_neg (by omega), if_neg (by omega), if_neg (by omega), if_pos h]
  · next h4 h5 h6 h7 => rw [if_neg h4, if_neg h5, if_neg h6, if_neg h7]

/-- Settles O41: the manifests by their operations, and the packets. -/
theorem roceRows : Obligations.RoceRows := by
  refine ⟨fun q s u m hup => ⟨fun i key port hent hop hport hmtu h13 h14 hzero hdie hen hlen hptn hseal hfree hkey => ?_, fun n x hop hz hz' hz'' hrq hpsn hx hconn => next_onRoce hup (by rw [hop]; rfl) ?_,
    fun n x hop hz hz' hx => next_onRoce hup (by rw [hop]; rfl) ?_, fun r hr i x last a n hop hverb hz hz' hsend himm hx hconn ha hn hptn hclean hlast => ?_⟩,
    fun port k s w u x hen hudp hin hw hx hdie hconn hu => ?_⟩
  · exact roceCreate_takes hup hent hop hport hmtu h13 h14 hzero hdie hen hlen hptn hseal hfree hkey
  · rw [if_neg (by simpa [hz, hz', hz''] using ⟨hrq, hpsn⟩)]
    simp only [hx, hconn, Bool.false_eq_true, if_false]
  · simp only [hz, hz', hx, Bool.not_true, Bool.or_self, Bool.false_eq_true, if_false]
  · rw [exec_rocePosts hup hop r hr hverb, rocePost_sends hverb hz hz' hsend himm hx hconn ha hn hptn hclean hlast]
  · subst hw
    have hgo : ¬ ((!bit (rd s (rNetPortcfg port)) 4 || decide (k.udp ≠ 4791)) = true) := by simp [hen, hudp]
    refine (if_neg hgo).trans (congrArg _ ?_)
    unfold roceChecked
    rw [rxChecked_ok hin, roceTake_kind hx hdie hconn hu]

end Sys2Proof.RoceQueuePairs
end

section
/-! SUPPORT. What an update operation does in each case; and the statement about it (08 R183, R197 to R202). -/

open Sys2Proof Sys2Proof.Machine Sys2Proof.Openers

namespace Sys2Proof.UpdateEngine

/-- Outside the forward segment an update may run. -/
theorem updates_allowed {c : Ctx} (h : segmentOf c ≠ 0) : [1, 2].contains (segmentOf c) = true := by
  have hle : segmentOf c ≤ 2 := by unfold segmentOf; split <;> [omega; (split <;> omega)]
  have hcases : segmentOf c = 1 ∨ segmentOf c = 2 := by omega
  obtain h1 | h2 := hcases
  · rw [h1]; rfl
  · rw [h2]; rfl

/-- The parameters of an update, read from its parameter block (08 R198). -/
def paramsAt (s : State) (pc o i : Nat) : UVal :=
  let x := f32 (fieldB (devRead s (spBase pc + bits o 127 112 * 64) 64) (4 * i) 4)
  (x, if x = .nan then 32 else 0)

/-- The elements and the state that the writes of an update give: at once, or group by group where its arrays overlap (08 R197). -/
def written (s : State) (c : Ctx) (vc : Vcore) (pc o : Nat) (l : List UElem) : List UElem × State :=
  if upeOverlap o then upeLag { s with draws := s.draws + 1 } c pc o (slotTid vc (bits o 26 21)) (slotPos vc (bits o 26 21) 0 0) (paramsAt s pc o) (Config.groupLag s.draws)
  else (l, upeWrite s pc o 0 l)

/-- The context and the operation of an update, and what its clauses suppose of them: the slot names a tensor that holds the slice, and everything the operation reads lies in SP. -/
structure Formed (s : State) (c : Ctx) (vc : Vcore) (v o : Nat) (t : Tensor) (l : List UElem) : Prop where
  good : upeBad o = none
  seg : segmentOf c ≠ 0
  slot : sgBits (slotA vc (bits o 26 21)) = false
  tensor : tensorOf c (slotTid vc (bits o 26 21)) = some t
  fits : slotPos vc (bits o 26 21) 0 0 + upeCount o ≤ t.elems
  arrays : ∀ x ∈ upeArrays o, x.1 + x.2 ≤ spLimit
  params : devPoison s (spBase (pcoreOf c v) + bits o 127 112 * 64) 64 = false
  elems : upeElems s c (pcoreOf c v) o (slotTid vc (bits o 26 21)) (slotPos vc (bits o 26 21) 0 0)
    (paramsAt s (pcoreOf c v) o) (List.range (upeCount o)) = some l

/-- In the forward segment an update is out of its order (08 R183). -/
theorem doUpe_forward {s : State} {k v o : Nat} {c : Ctx} {vc : Vcore} (hgood : upeBad o = none) (hseg : segmentOf c = 0) :
    doUpe s k c vc v o = fault1 s k (engProb vc v 4 2 0xB 0) := by
  simp only [doUpe, hgood, inSegment, hseg]
  rfl

/-- A formed update that consumes no poison: what it has written, its flags, and the digests of a layer (08 R202). -/
theorem doUpe_formed {s : State} {k v o : Nat} {c : Ctx} {vc : Vcore} {t : Tensor} {l : List UElem} {r : List UElem × State} (h : Formed s c vc v o t l)
    (hclean : t.layer ≠ 0xFFFFFFFF → upePoisonAt s (pcoreOf c v) o = none) (hr : written s c vc (pcoreOf c v) o l = r) :
    doUpe s k c vc v o = (if t.layer ≠ 0xFFFFFFFF
      then recLayer (orReg r.2 (rUpeStatus (pcoreOf c v)) (r.1.foldl (fun a e => a ||| e.flags) 0)) k t.layer (shardAt c t.layer (slotPos vc (bits o 26 21) 0 0))
        (upeDigests o t.elems (slotPos vc (bits o 26 21) 0 0) r.1).2.1 (upeDigests o t.elems (slotPos vc (bits o 26 21) 0 0) r.1).1 (upeDigests o t.elems (slotPos vc (bits o 26 21) 0 0) r.1).2.2
      else orReg r.2 (rUpeStatus (pcoreOf c v)) (r.1.foldl (fun a e => a ||| e.flags) 0)) := by
  subst hr
  obtain ⟨hgood, hseg, hslot, htensor, hfits, harrays, hparams, helems⟩ := h
  have hreach : (upeArrays o).find? (fun x => decide (x.1 + x.2 > spLimit)) = none := List.find?_eq_none.mpr (fun x hx => by simpa using harrays x hx)
  have heaten : (if t.layer ≠ 0xFFFFFFFF then upePoisonAt s (pcoreOf c v) o else none) = none := by
    split
    · next hlayer => exact hclean hlayer
    · rfl
  unfold paramsAt at helems
  rw [doUpe, hgood]
  dsimp only
  rw [inSegment, if_pos (updates_allowed hseg)]
  simp only [hslot, htensor, Nat.not_lt.mpr hfits, gt_iff_lt, hreach, hparams, helems, heaten, Bool.false_eq_true, if_false]
  rfl

/-- The writes of an update, array by array, under its operation code. -/
theorem upeWrite_eq {s : State} {pc o n : Nat} {l : List UElem} (hop : bits o 5 0 = n) :
    ∃ x y, x = (if n = 2 then upeArr (upeArr (upeArr s pc (bits o 63 48) 4 0 l (·.w)) pc (bits o 79 64) 4 0 l (·.m)) pc (bits o 95 80) 4 0 l (·.v)
        else upeArr (upeArr s pc (bits o 63 48) 4 0 l (·.w)) pc (bits o 79 64) 4 0 l (·.m))
      ∧ y = (if bits o 12 9 ≠ 0 then upeArr x pc (bits o 111 96) (upeWb o) 0 l (·.ws) else x) ∧ upeWrite s pc o 0 l = y := by
  refine ⟨_, _, rfl, rfl, ?_⟩
  rw [upeWrite, hop]

/-- Each row of an update runs as its operation. -/
theorem exec_updates {p : Fin 8} {v : Fin 96} {op : BitVec 128} {s t : State} {k : Nat} {c : Ctx} {vc : Vcore} :
    ∀ r ∈ [((Instr.usgd : OpRow), 1), (.uadam, 2), (.ulion, 3)], atEngine s p v k 2 (setBits op.toNat 5 0 r.2) c vc → doUpe s k c vc v (setBits op.toNat 5 0 r.2) = t →
      exec (r.1 p v op) s = .next t := by
  intro r hr hat ht
  fin_cases hr
  · exact next_atEngine hat ht
  · exact next_atEngine hat ht
  · exact next_atEngine hat ht

/-- Settles O11: by the case of each clause. -/
theorem upeRows : Obligations.UpeRows := by
  intro r hr p v op s k c vc o pc ho hat hpc hgood
  subst ho hpc
  have hcode : bits (setBits op.toNat 5 0 r.2) 5 0 = r.2 := by
    rw [bits_setBits_same _ _ _ _ (by omega)]
    fin_cases hr
    all_goals rfl
  refine ⟨fun hseg => exec_updates r hr hat (doUpe_forward hgood hseg), fun t l u hseg hslot ht hfits harr hpar hel hclean hover hu => ?_,
    fun t l y hseg hslot ht hfits harr hpar hel hlayer hover hy => exec_updates r hr hat ?_⟩
  · subst hu
    obtain ⟨x, y, hx, hy, hw⟩ := upeWrite_eq (s := s) (pc := pcoreOf c v) (l := l) hcode
    have hwritten : written s c vc (pcoreOf c v) (setBits op.toNat 5 0 r.2) l = (l, y) := by
      rw [written, hover, hw]
      rfl
    exact ⟨x, y, hx, hy, exec_updates r hr hat (doUpe_formed ⟨hgood, hseg, hslot, ht, hfits, harr, hpar, hel⟩ hclean hwritten)⟩
  · have hwritten : written s c vc (pcoreOf c v) (setBits op.toNat 5 0 r.2) l = y := by
      rw [written, hover, hy]
      rfl
    rw [doUpe_formed ⟨hgood, hseg, hslot, ht, hfits, harr, hpar, hel⟩ (fun hne => absurd hlayer hne) hwritten, if_neg (not_not.mpr hlayer)]

end Sys2Proof.UpdateEngine
end

section
/-! SUPPORT. Ward frames at their target and toll checks; and the statement about them (15 R398, 17 R433 to R439). -/

open Sys2Proof Sys2Proof.Machine

namespace Sys2Proof.WardFrames

/-- A ward row whose frame arrives at its target, with the tag that the ward key gives. -/
theorem next_onWard {port op : Nat} {w : WardFrame} {t a s u : State} {k : State → State} (hin : frameIn t port w.fcsOk w.ipOk w.icrcOk 1 11) (hop : 1 ≤ w.op ∧ w.op ≤ 4) (ha : a = arrived t port)
    (hs : s = wardWake a port) (hkeyed : keyed a = true) (hpath : w.path.length ≤ w.pidx) (htarget : w.target = a.prof.node) (htag : tagFits a w op = true) (hk : k s = u) :
    (.next (onWard t port op w k) : Res) = .next u := by
  subst ha hs
  rw [onWard_at hin hop hkeyed htag hpath htarget, hk]

/-- A ward row whose frame has another tag (17 R438). -/
theorem next_onWard_otherTag {port op : Nat} {w : WardFrame} {t a : State} {k : State → State} (hin : frameIn t port w.fcsOk w.ipOk w.icrcOk 1 11) (hop : 1 ≤ w.op ∧ w.op ≤ 4) (ha : a = arrived t port)
    (hkeyed : keyed a = true) (htag : tagFits a w op = false) : (.next (onWard t port op w k) : Res) = .next (rejectWard a) := by
  have hknown : ¬ ((decide (w.op = 0) || decide (4 < w.op)) = true) := by
    simp only [Bool.or_eq_true, decide_eq_true_eq]
    omega
  subst ha
  unfold onWard
  rw [rxChecked_ok hin]
  dsimp only
  rw [if_neg hknown]
  simp only [hkeyed, htag, Bool.not_true, Bool.false_and, Bool.false_eq_true, if_false, Bool.not_false, Bool.and_self, if_true]

/-- The context whose toll a VERDICT answers (17 R437). -/
def answered (s : State) (w : WardFrame) : Option (Nat × Ctx) :=
  s.ctxs.find? (fun e => tollRuns e.2 && e.2.ranks.getD 0 0 = w.source && (match e.2.toll with | some t => t.step = w.step && t.verdict.isNone | none => false))

/-- What a VERDICT at its target does. -/
def onVerdict (w : WardFrame) (s : State) : State :=
  match answered s w with
  | some (k, c) => landVerdict s k c w.step w.code w.stop w.equal
  | none => rejectWard s

/-- What a TOLL at the root does. -/
def onToll (w : WardFrame) (s : State) : State :=
  match s.ctxs.find? (fun e => tollRuns e.2 && e.2.rank = 0 && e.2.ranks.contains w.source && tollStep s e.1 e.2 w.step && (w.step = e.2.step || thas e.2.tollIn w.step)) with
  | some (k, c) => rootToll s k w.step (c.ranks.findIdx (· = w.source)) w.t
  | none => rejectWard s

/-- What a TUNNEL at its target does. -/
def onTunnel (port : Fin 32) (w : WardFrame) (s : State) : State :=
  if s.prof.role = 1 then (match peerOfNode s w.source with | some n => fromTunnel s n (tunOf (beNat (w.tunnel.take 6)) (w.tunnel.drop 6)) | none => s)
  else fromTunnel { s with chain := { s.chain with gate := some (port.val, w.source, w.target) } } 0 (tunOf (beNat (w.tunnel.take 6)) (w.tunnel.drop 6))

section
variable {s : State} {w : WardFrame} {port : Fin 32}

theorem onVerdict_answered {k : Nat} {c : Ctx} (h : answered s w = some (k, c)) : onVerdict w s = landVerdict s k c w.step w.code w.stop w.equal := by
  rw [onVerdict, h]

theorem onTunnel_gateway {n : Nat} (hrole : s.prof.role = 1) (hpeer : peerOfNode s w.source = some n) :
    onTunnel port w s = fromTunnel s n (tunOf (beNat (w.tunnel.take 6)) (w.tunnel.drop 6)) := by
  rw [onTunnel, if_pos hrole, hpeer]

theorem onTunnel_peer (hrole : s.prof.role ≠ 1) :
    onTunnel port w s = fromTunnel { s with chain := { s.chain with gate := some (port.val, w.source, w.target) } } 0 (tunOf (beNat (w.tunnel.take 6)) (w.tunnel.drop 6)) := by
  rw [onTunnel, if_neg hrole]

end

/-- Settles O42: a frame by its tag and its operation, and the tolls that wait. -/
theorem wardRows : Obligations.WardRows := by
  refine ⟨fun port w t a s hin hop ha hs hkeyed hpath htarget => ?_, fun p s k c t hdue => ?_, fun p s k c t hres htoll n hdue hlate => ?_⟩
  · refine ⟨fun k c htag hfind => ?_, fun k c htag hfind => ?_, fun htag hlt => ?_, fun htag hle => ?_, fun n htag hrole hpeer => ?_, fun htag hrole => ?_,
      next_onWard_otherTag hin hop ha hkeyed, next_onWard_otherTag hin hop ha hkeyed, next_onWard_otherTag hin hop ha hkeyed, next_onWard_otherTag hin hop ha hkeyed⟩
    · exact next_onWard (k := onToll w) hin hop ha hs hkeyed hpath htarget htag (by rw [onToll, hfind])
    · exact next_onWard (k := onVerdict w) hin hop ha hs hkeyed hpath htarget htag (onVerdict_answered hfind)
    · exact next_onWard hin hop ha hs hkeyed hpath htarget htag (if_neg (Nat.not_le.2 hlt))
    · exact next_onWard hin hop ha hs hkeyed hpath htarget htag (if_pos hle)
    · exact next_onWard (k := onTunnel port w) hin hop ha hs hkeyed hpath htarget htag (onTunnel_gateway hrole hpeer)
    · exact next_onWard (k := onTunnel port w) hin hop ha hs hkeyed hpath htarget htag (onTunnel_peer hrole)
  · show execTollResend p s = _
    rw [execTollResend, hdue]
  · show execTollVerdictTimeout p s = _
    have hcount : c.toll.bind (·.dueCount) = some n := by rw [htoll]; exact hdue
    simp only [execTollVerdictTimeout, hres, hcount, ge_iff_le, hlate, if_true]

end Sys2Proof.WardFrames
end

section
/-! SUPPORT. The statement about peers behind a gateway (15 R372, R374, R398, R399). -/

open Sys2Proof Sys2Proof.Machine Sys2Proof.BarWrites

namespace Sys2Proof.Peers

/-- Settles O43: each row by its guard. -/
theorem peerRows : Obligations.PeerRows := by
  refine fun n s => ⟨fun w u hacc hu hrole hn hup => ?_, fun t hon => ?_, fun off wide u hon hu => ?_⟩
  · show execPeerReset n w s = _
    exact gate_taken hacc hu (if_pos (by simp [hrole, hn, hup]))
  · exact if_neg (by simp [hon])
  · subst hu
    exact if_neg (by simp [hon])

end Sys2Proof.Peers
end

section
/-! SUPPORT. What the checks of a port make of a frame, whichever row carries it; and the statement about the frames of a stream (13 R315 to R321, R343). -/

open Sys2Proof Sys2Proof.Machine

namespace Sys2Proof.PortChecks

/-- The frame that a row hands to the checks: the one that came, or the same under the row's type. -/
def Carries (f g : CvtFrame) : Prop := g = f ∨ ∃ t < 12, g = typed f t

section
variable {s : State} {port : Fin 32} {f g : CvtFrame}

/-- What a row carries is the frame as it came, or one whose types, the frame's and the row's, are no reserved ones. -/
theorem Carries.cases (h : Carries f g) : g = f ∨ ∃ t < 12, f.type < 12 ∧ g = { f with type := t } := by
  obtain rfl | ⟨t, ht, rfl⟩ := h
  · exact .inl rfl
  · rcases Nat.lt_or_ge f.type 12 with hlt | hge
    · exact .inr ⟨t, ht, hlt, typed_ok hlt t⟩
    · exact .inl (if_pos hge)

/-- A frame of another version or of a reserved type is counted as mis-steered (13 R315). -/
theorem rxChecked_discards {k : State → State} (hup : portUp s port = true) (hfcs : f.fcsOk = true) (hshim : shimOk s port = true) (hip : f.ipOk = true) (hbad : f.ver ≠ 1 ∨ 12 ≤ f.type) :
    rxChecked s port f k = satFld (shimTaken s port) (rNetPorterr port) 63 48 1 := by
  have hdrop : (decide (f.ver ≠ 1) || decide (12 ≤ f.type)) = true := by simpa using hbad
  simp only [rxChecked, hup, hfcs, hshim, hip, Bool.not_true, Bool.false_eq_true, if_false]
  rw [if_pos hdrop]
  rfl

/-- The check of a stream is one more check of a port. -/
theorem rxStream_checked (k : State → Stream → State) : ∃ k', rxStream s port f k = rxChecked s port f k' := ⟨_, rfl⟩

/-- Each row that answers to the checks of a port runs its frame through them. -/
theorem exec_checkedRows : ∀ r ∈ [(Instr.cvtData : Fin 32 → CvtFrame → Instr), .cvtChime, .cvtClose, .cvtSack, .cvtOpen, .cvtAccept, .cvtRefuse, .cvtProbe],
    ∃ g k, Carries f g ∧ exec (r port f) s = .next (rxChecked s port g k) := by
  have hordered : ∀ t < 12, ∃ g k, Carries f g ∧ (.next (rxOrdered s port (typed f t)) : Res) = .next (rxChecked s port g k) := by
    intro t ht
    obtain ⟨k, hk⟩ := rxStream_checked (s := s) (port := port) (f := typed f t) (fun s _ => rxSeq (takeAck s (typed f t).dsidx (typed f t) none) port (typed f t).dsidx (typed f t))
    exact ⟨typed f t, k, .inr ⟨t, ht, rfl⟩, congrArg _ hk⟩
  intro r hr
  fin_cases hr
  · exact hordered 0 (by decide)
  · exact hordered 1 (by decide)
  · exact hordered 7 (by decide)
  · obtain ⟨k, hk⟩ := rxStream_checked (s := s) (port := port) (f := f) _
    exact ⟨f, k, .inl rfl, congrArg _ hk⟩
  · exact ⟨_, _, .inl rfl, rfl⟩
  · exact ⟨_, _, .inl rfl, rfl⟩
  · exact ⟨_, _, .inl rfl, rfl⟩
  · exact ⟨_, _, .inl rfl, rfl⟩

/-- Each row of a stream's frames, but ACK, runs its frame through the check of its stream. -/
theorem exec_streamRows : ∀ r ∈ [(Instr.cvtData : Fin 32 → CvtFrame → Instr), .cvtChime, .cvtClose, .cvtSack],
    ∃ g k, Carries f g ∧ exec (r port f) s = .next (rxStream s port g k) := by
  intro r hr
  fin_cases hr
  · exact ⟨_, _, .inr ⟨0, by decide, rfl⟩, rfl⟩
  · exact ⟨_, _, .inr ⟨1, by decide, rfl⟩, rfl⟩
  · exact ⟨_, _, .inr ⟨7, by decide, rfl⟩, rfl⟩
  · exact ⟨_, _, .inl rfl, rfl⟩

/-- A frame that meets its stream: DATA, CHIME and CLOSE (13 R320). -/
theorem exec_seqRows {st : Stream} (h : meetsStream s port f st) : ∀ r ∈ [((Instr.cvtData : Fin 32 → CvtFrame → Instr), 0), (.cvtChime, 1), (.cvtClose, 7)],
    exec (r.1 port f) s = .next (rxSeq (takeAck (heard s port f.dsidx) f.dsidx { f with type := r.2 } none) port f.dsidx { f with type := r.2 }) := by
  have hrow : ∀ t < 12, (.next (rxOrdered s port (typed f t)) : Res) = .next (rxSeq (takeAck (heard s port f.dsidx) f.dsidx { f with type := t } none) port f.dsidx { f with type := t }) := by
    intro t ht
    rw [rxOrdered_meets (meetsStream_typed h ht), typed_ok h.1.2.2.2.2.2.2 t]
  intro r hr
  fin_cases hr
  · exact hrow 0 (by decide)
  · exact hrow 1 (by decide)
  · exact hrow 7 (by decide)

/-- A frame in order of an open stream is applied, and acknowledged with the eighth (13 R320, R321). -/
theorem rxSeq_inOrder {st y : Stream} {x : Nat} {u : State} (hst : stream s x = some st) (hopen : st.st = .opened) (htype : f.type ≠ 7) (hseq : f.seq = st.rcvNxt) (hready : rxReady s st = true)
    (hce : f.ce = false) (hgo : cteStops s st f = false) (hu : u = applyHeld 256 (applyFrame s port x f) port x) (hheld : heldClose u x = false) (hy : stream u x = some y) (halive : y.st ≠ .failed) :
    rxSeq s port x f = if 8 ≤ y.unacked then sendAck u x 0 else u := by
  have hnext : seqDiff st.rcvNxt f.seq = 0 := by simp [hseq, seqDiff]
  subst hu
  simp only [rxSeq, hst, hnext, hce, hopen, hready, hgo, htype, hheld, hy, halive, Bool.false_eq_true, if_false, if_true, decide_false, Bool.not_true, Bool.or_self, reduceCtorEq, ge_iff_le]

end

/-- Settles O44: the frames by their rows and the checks they meet. -/
theorem cvtStreamFrames : Obligations.CvtStreamFrames := by
  refine fun port f s => ⟨fun st u hmeets hu => ⟨?_, ?_, fun rtt => ?_, fun got w hgot hw => ⟨fun hnone => ?_, fun last hlast => ?_⟩⟩, fun hin hother r hr => ?_, fun hup hfcs hshim hbad r hr => ?_,
    fun hup hfcs hshim hip hbad r hr => ?_, fun st x hst hopen htype hseq hready hce hgo u hu hheld y hy halive => rxSeq_inOrder hst hopen htype hseq hready hce hgo hu hheld hy halive⟩
  · subst hu
    exact exec_seqRows hmeets
  · subst hu
    exact congrArg Host.Outcome.next (rxStream_meets hmeets)
  · subst hu
    exact congrArg Host.Outcome.next (rxStream_meets hmeets)
  · show execCvtSack port f s = _
    subst hu hw
    simp only [execCvtSack, rxStream_meets hmeets, ← hgot, hnone, List.getLast?_nil]
  · show execCvtSack port f s = _
    subst hu hw
    simp only [execCvtSack, rxStream_meets hmeets, ← hgot, hlast]
  · obtain ⟨g, k, hg, hrow⟩ := exec_streamRows (s := s) (port := port) (f := f) r hr
    rw [hrow]
    obtain rfl | ⟨t, ht, _, rfl⟩ := hg.cases
    · rw [rxStream_bad hin hother]
      rfl
    · obtain ⟨h1, h2, h3, h4, h5, h6, h7⟩ := hin
      rw [rxStream_bad (f := { f with type := t }) ⟨h1, h2, h3, h4, h5, h6, ht⟩ hother]
      rfl
  · obtain ⟨g, k, hg, hrow⟩ := exec_checkedRows (s := s) (port := port) (f := f) r hr
    rw [hrow]
    obtain rfl | ⟨t, ht, _, rfl⟩ := hg.cases
    · rw [rxChecked_bad hup hfcs hshim hbad]
    · rw [rxChecked_bad (f := { f with type := t }) hup hfcs hshim (hbad.imp_right fun h => ⟨h.1, ht, h.2.2⟩)]
  · obtain ⟨g, k, hg, hrow⟩ := exec_checkedRows (s := s) (port := port) (f := f) r hr
    rw [hrow]
    obtain rfl | ⟨t, ht, hlt, rfl⟩ := hg.cases
    · rw [rxChecked_discards hup hfcs hshim hip hbad]
    · rw [rxChecked_discards (f := { f with type := t }) hup hfcs hshim hip (.inl (hbad.resolve_right (by omega)))]

end Sys2Proof.PortChecks
end

section
/-! SUPPORT. How a stream opens, and what its timers do; and the statement about both (13 R317 to R323, 15 R382). -/

open Sys2Proof Sys2Proof.Machine

namespace Sys2Proof.StreamOpens

/-- A row whose frame passes the checks of its port. -/
theorem next_rxChecked {s t u : State} {port : Fin 32} {f : CvtFrame} {k : State → State} (hin : frameIn s port f.fcsOk f.ipOk f.icrcOk f.ver f.type) (ht : t = arrived s port) (hk : k t = u) :
    (.next (rxChecked s port f k) : Res) = .next u := by
  subst ht
  rw [rxChecked_ok hin, hk]

/-- OPEN meets a listening stream, while draws are served (13 R317, R318). -/
theorem cvtOpen_accepts {port : Fin 32} {f : CvtFrame} {s t u : State} {x : Nat} {st : Stream} (hin : frameIn s port f.fcsOk f.ipOk f.icrcOk f.ver f.type) (ht : t = arrived s port)
    (hu : u = tunReset t (port / 16) f)
    (hlisten : u.streams.find? (fun e => (dieOfSidx e.1 = port / 16 && e.2.jobkey = beNat (sliceB f.payload 0 8) && e.2.psn = beNat (sliceB f.payload 8 2) && e.2.peer = f.node) && e.2.st = .listen) = some (x, st))
    (hent : u.sec.entWait = false) :
    exec (.cvtOpen port f) s = .next (sendAccept (openedStream (modStream (drawn u 1) x
        (fun st => { st with sndUna := Config.entropy u.draws % 2 ^ 32 })) x f.ssidx (beNat (sliceB f.payload 10 4)) f.credit) x) := by
  subst hu
  refine next_rxChecked hin ht ?_
  have hdie : ((port / 16 : Fin 32) : Nat) = port / 16 := rfl
  simp only [hdie, hlisten, hent, Bool.false_eq_true, if_false]

section
variable {port : Fin 32} {f : CvtFrame} {s t : State} {st : Stream} (hin : frameIn s port f.fcsOk f.ipOk f.icrcOk f.ver f.type) (ht : t = arrived s port)
  (hst : stream t f.dsidx = some st) (hdie : dieOfSidx f.dsidx = port / 16) (hpeer : st.peer = f.node) (hopening : st.st = .opening)
include hin ht hst hdie hpeer hopening

/-- ACCEPT opens the stream that waits for it. -/
theorem cvtAccept_opens (hkey : st.jobkey = beNat (sliceB f.payload 0 8)) (hpsn : st.psn = beNat (sliceB f.payload 8 2)) :
    exec (.cvtAccept port f) s = .next (openedStream t f.dsidx f.ssidx (beNat (sliceB f.payload 10 4)) f.credit) := by
  refine next_rxChecked hin ht ?_
  simp only [hst, hdie, hpeer, hopening, hkey, hpsn, ne_eq, not_true_eq_false, decide_false, decide_true, Bool.or_self, Bool.and_self, Bool.false_eq_true, if_false, if_true]

/-- REFUSE ends the opening with the code of its reason (15 R382). -/
theorem cvtRefuse_ends (hlow : 1 ≤ fieldB f.payload 0 1) (hhigh : fieldB f.payload 0 1 ≤ 3) :
    exec (.cvtRefuse port f) s = .next (dropOpening t f.dsidx (if fieldB f.payload 0 1 = 1 then 6 else if fieldB f.payload 0 1 = 2 then 8 else 7)) := by
  refine next_rxChecked hin ht ?_
  simp only [hst, hdie, hpeer, hopening, ne_eq, not_true_eq_false, decide_false, Bool.or_self]
  have hreason : fieldB f.payload 0 1 = 1 ∨ fieldB f.payload 0 1 = 2 ∨ fieldB f.payload 0 1 = 3 := by omega
  obtain h | h | h := hreason <;> rw [h] <;> rfl

end

/-- A frame that is not acknowledged in time is sent again under a doubled timeout, or fails its stream at the limit (13 R321). -/
theorem rtoExpiry_cases {x : Fin 16384} {seq : BitVec 32} {s : State} {st : Stream} {f : TxFrame} (hst : stream s x = some st) (hf : st.tx.find? (fun f => f.seq = seq.toNat && f.sent) = some f)
    (hpark : st.peerPark = false) (halive : st.st ≠ .failed) :
    exec (.rtoExpiry x seq) s = if f.tries + 1 ≥ fld s (rNetCvtcfg (dieOfSidx x)) 55 48 then .next (failStream s x)
      else .next (modStream s x (fun y => { y with rto := if y.rto ≥ 4000000 then y.rto else min (2 * y.rto) 4000000, tx := y.tx.map (fun g => if g.seq = f.seq then { g with tries := g.tries + 1, again := true } else g) })) := by
  show execRtoExpiry x seq s = _
  simp only [execRtoExpiry, hst, hf, hpark, halive, decide_false, Bool.or_self, Bool.false_eq_true, if_false]

/-- Settles O45: the three frames of an opening, and the five timers. -/
theorem streamOpening : Obligations.StreamOpening := by
  refine ⟨fun port f s t hin ht => ⟨fun x st u hu hlisten hent => cvtOpen_accepts hin ht hu hlisten hent, fun st hst hdie hpeer hopening =>
      ⟨cvtAccept_opens hin ht hst hdie hpeer hopening, cvtRefuse_ends hin ht hst hdie hpeer hopening⟩⟩,
    fun x s st hst => ⟨fun hun halive => ?_, fun hopening hent => ?_, fun hwaits hcoll => ?_, fun seq f hf hpark halive => ⟨fun hlt => ?_, fun hle => ?_⟩⟩⟩
  · show execAckDelayTimer x s = _
    simp only [execAckDelayTimer, hst]
    exact if_pos (by simp [hun, halive])
  · show execOpenResend x s = _
    simp only [execOpenResend, hst]
    exact if_pos (by simp [hopening, hent])
  · show execStreamOpenTimeout x s = _
    simp only [execStreamOpenTimeout, hst]
    exact if_pos (by simp [hwaits, hcoll])
  · rw [rtoExpiry_cases hst hf hpark halive, if_neg (Nat.not_le.2 hlt)]
  · rw [rtoExpiry_cases hst hf hpark halive, if_pos hle]

end Sys2Proof.StreamOpens
end

section
/-! SUPPORT. What the rows of a port do in each state of its link; and the statement about them (13 R309 to R313, R324, R336 to R338). -/

open Sys2Proof Sys2Proof.Machine Sys2Proof.BarWrites Sys2Proof.StreamOpens

namespace Sys2Proof.PortLinks

section
variable {n : Fin 32} {s : State}

/-- A port that is enabled, powered and has no link comes up: plain, or with a hello where it has link retry (13 R308, R312). -/
theorem portLinkUp_comesUp (hen : portEn s n = true) (hdown : (portSt s n).link = false) (hpower : portPowered s n = true) :
    exec (.portLinkUp n) s = if bit (rd s (rNetPortcfg n)) 3 then .next (sendHello (modPort s n (fun p => { p with link := true })) n)
      else .next (setFld (modPort s n (fun p => { p with link := true })) (rNetPortstat n) 0 0 1) := by
  refine if_neg (c := (!portEn s n || (portSt s n).link || !portPowered s n) = true) ?_
  simp [hen, hdown, hpower]

/-- The replay buffer of a port with link retry: a frame's place, its acknowledgement and NAK, and the port's timers (13 R313). -/
theorem llrRows (hon : llrOn s n = true) (lseq lack : BitVec 16) (flags : BitVec 8) :
    (bit flags.toNat 6 = true → exec (.llrFrame n lseq lack flags true) s = .next (if bit flags.toNat 7 then linkReplay (takeLack s n lack.toNat) n else takeLack s n lack.toNat))
    ∧ (bit flags.toNat 6 = false → lseq.toNat = (portSt s n).expect →
      ∀ t, t = takeLack (modPort s n (fun p => { p with expect := (p.expect + 1) % 65536, shimIn := p.shimIn + 1, nak := false })) n lack.toNat →
      exec (.llrFrame n lseq lack flags true) s = .next (if bit flags.toNat 7 then linkReplay t n else t))
    ∧ (bit flags.toNat 6 = false → lseq.toNat ≠ (portSt s n).expect → exec (.llrFrame n lseq lack flags true) s = .next (nakPort (satFld s (rNetPorterr n) 63 48 1) n))
    ∧ exec (.llrFrame n lseq lack flags false) s = .next (nakPort (satFld s (rNetPorterr n) 15 0 1) n)
    ∧ exec (.llrNak n lack) s = .next (linkReplay (takeLack s n lack.toNat) n)
    ∧ exec (.llrCtrlTimer n) s = .next (queueCtl s n 0x40 [])
    ∧ exec (.llrAckTimeout n) s = .next (linkReplay s n) := by
  have hframe : ∀ ok, exec (.llrFrame n lseq lack flags ok) s = execLlrFrame n lseq lack flags ok s := fun ok => rfl
  refine ⟨fun hctl => ?_, fun hctl hseq t ht => ?_, fun hctl hseq => ?_, ?_, if_pos hon, if_pos hon, if_pos hon⟩
  · rw [hframe]
    simp only [execLlrFrame, hon, hctl, Bool.not_true, Bool.false_eq_true, if_false, if_true]
  · subst ht
    rw [hframe]
    simp only [execLlrFrame, hon, hctl, hseq, Bool.not_true, Bool.false_eq_true, ne_eq, not_true_eq_false, if_false]
  · rw [hframe]
    simp only [execLlrFrame, hon, hctl, hseq, Bool.not_true, Bool.false_eq_true, ne_eq, not_false_eq_true, if_false, if_true]
    rfl
  · rw [hframe]
    simp only [execLlrFrame, hon, Bool.not_true, Bool.false_eq_true, if_false, Bool.not_false, if_true]

/-- A frame of another node of the plane goes to the queue of its egress port (13 R336). -/
theorem transitFrame_queued {pkt : Bytes} {out : Nat} {t : State} (hup : portUp s n = true) (hshim : shimOk s n = true) (hawake : fld s rPwrStat 2 0 < 2) (ht : t = shimTaken s n)
    (hnode : beNat (sliceB pkt 32 8) / 32 ≠ s.prof.node) (hprefix : beNat (sliceB pkt 24 8) = rd t (rNetPrefix (n / 16))) (hhops : 1 < fieldB pkt 7 1)
    (hout : pickPort (sliceB pkt 8 16) (sliceB pkt 24 16) (beNat (sliceB pkt 0 4) % 2 ^ 20) (n / 16) (routeMask t (n / 16) (beNat (sliceB pkt 32 8) / 32)) = some out) :
    exec (.transitFrame n pkt true) s = .next (queueTransit t out pkt) := by
  subst ht
  show execTransitFrame n pkt true s = _
  simp only [execTransitFrame, hup, hshim, hnode, hprefix, hout, Nat.not_le.2 hawake, Nat.not_le.2 hhops, Bool.not_true, decide_false, Bool.or_self, Bool.false_eq_true, ne_eq, not_true_eq_false, if_false]

/-- A hello of a neighbour turns link retry on; without an answer the port runs without the shim (13 R312). -/
theorem helloRows (hlink : (portSt s n).link = true) (hretry : bit (rd s (rNetPortcfg n)) 3 = true) (hoff : llrOn s n = false) :
    (∀ (node : Fin 1048576) (peer : Fin 32), exec (.llrHello n node peer true) s = .next (sendHello (setFld (setFld (setFld
        (modPort s n (fun p => { p with lseq := 0, expect := 0, replay := [], shimIn := 0, nak := false })) (rNetPortstat n) 21 2 node) (rNetPortstat n) 26 22 peer) (rNetPortstat n) 1 0 3) n))
    ∧ exec (.llrHelloTimer n) s = .next (sendHello (setFld s (rNetPortstat n) 0 0 1) n) := by
  refine ⟨fun node peer => ?_, if_neg (by simp [hlink, hretry, hoff])⟩
  show execLlrHello n node peer true s = _
  simp only [execLlrHello, hlink, hretry, hoff, Bool.not_true, Bool.or_self, Bool.false_and, Bool.false_eq_true, if_false]

/-- PORT_ENABLE and PORT_DISABLE, where the write is taken (13 R307, R309). -/
theorem enableRows {v : BitVec 32} {w : Writer} {u : State} (hacc : accepts s w = true) (hu : u = barWake s w) :
    (portEn u n = false → v.getLsbD 0 = true → portCfgOk u n v.toNat = true → exec (.portEnable n v w) s = .next (setReg u (rNetPortcfg n) (v.toNat % 32)))
    ∧ (portEn u n = true → v.getLsbD 0 = false → bits v.toNat 4 1 = fld u (rNetPortcfg n) 4 1 → exec (.portDisable n v w) s = .next (setFld (portDown u n) (rNetPortcfg n) 0 0 0)) := by
  refine ⟨fun hen hbit hcfg => ?_, fun hen hbit hkeep => ?_⟩
  · show execPortEnable n v w s = _
    refine gate_taken hacc hu ?_
    rw [if_neg (by simp [hen, hbit]), if_neg (by simp [hcfg])]
  · show execPortDisable n v w s = _
    refine gate_taken hacc hu ?_
    rw [if_neg (by rw [hen, hbit]; decide), if_neg (not_not.2 hkeep)]

end

/-- Settles O46: by the port's link, its link retry, and the frame or the write. -/
theorem portRows : Obligations.PortRows := by
  refine fun n s => ⟨fun hen hdown hpower => ⟨fun hplain => ?_, fun hretry => ?_⟩, fun hup => if_pos (by simpa using hup), helloRows, fun hon => llrRows hon, fun hup =>
    ⟨fun dest => if_neg (by simp [hup]), fun f t hin ht => ⟨next_rxChecked hin ht rfl, next_rxChecked hin ht rfl⟩, fun pkt out t hshim hawake ht hnode hprefix hhops hout => ⟨fun hshare hbuf => ?_, fun hfull => ?_⟩,
      fun hoff mac src target => ?_⟩, fun v w u => enableRows⟩
  · rw [portLinkUp_comesUp hen hdown hpower, hplain]
    rfl
  · rw [portLinkUp_comesUp hen hdown hpower, hretry]
    rfl
  · rw [transitFrame_queued hup hshim hawake ht hnode hprefix hhops hout, queueTransit]
    dsimp only
    rw [if_neg (by simp only [Bool.or_eq_true, decide_eq_true_eq]; omega)]
  · rw [transitFrame_queued hup hshim hawake ht hnode hprefix hhops hout, queueTransit]
    exact congrArg _ (if_pos (by simpa only [Bool.or_eq_true, decide_eq_true_eq] using hfull))
  · show execNeighborDiscovery n true mac src target s = _
    simp only [execNeighborDiscovery, hup, hoff, Bool.not_true, Bool.or_self, Bool.false_eq_true, if_false, if_true]

end Sys2Proof.PortLinks
end

section
/-! SUPPORT. The statement about the check-value units (13 R330, R333). -/

open Sys2Proof Sys2Proof.Machine Sys2Proof.BarWrites

namespace Sys2Proof.CheckValueUnits

/-- A channel that runs takes the bytes of a write under its polynomial (13 R333). -/
theorem cvuFeed_takes {d : Fin 2} {w : Writer} {o s : State} {c : Fin 4} {data : Bytes} (hacc : accepts o w = true) (hs : s = barWake o w) (hrun : bit (rd s (rCvuCfg d)) 0 = true → c = 0) :
    exec (.cvuFeed d c data w) o = if cvuPoly s d c then .next (setCvu s d c (crc64From (cvuRaw s d c) data)) else .next (setCvu s d c (data.foldl crc32cByte (cvuRaw s d c % 2 ^ 32))) := by
  show execCvuFeed d c data w o = _
  refine gate_taken hacc hs (if_neg ?_)
  simp only [Bool.and_eq_true, decide_eq_true_eq, not_and, not_not]
  exact fun hmode => by rw [hrun hmode]; rfl

/-- A started channel holds the first value of its polynomial. -/
theorem cvuRaw_cvuInit (s : State) (d c : Nat) : cvuRaw (cvuInit s d c) d c = if cvuPoly s d c then 0 else 0xFFFFFFFF := by
  simp only [cvuRaw, cvuInit, setCvu, tgetD_tput_same]

/-- Settles O47: each row by the unit's mode. -/
theorem cvuRows : Obligations.CvuRows := by
  refine fun d w o s hacc hs => ⟨fun c data hrun => ⟨fun hpoly => ?_, fun hpoly => ?_⟩, fun v => ⟨fun hmode => ?_, fun hmode => ?_⟩, fun c _ => cvuRaw_cvuInit s d c, fun v => ⟨fun hmode => ?_, fun hmode => ?_⟩⟩
  · rw [cvuFeed_takes hacc hs hrun, hpoly]
    rfl
  · rw [cvuFeed_takes hacc hs hrun, hpoly]
    rfl
  · show execCvuInit d v w o = _
    exact gate_taken hacc hs (if_neg (not_not.2 hmode))
  · show execCvuModeChange d v w o = _
    exact gate_taken hacc hs (if_neg hmode)
  · show execCvuRunLoad d v w o = _
    exact gate_taken hacc hs (if_pos hmode)
  · show execCvuRunLoad d v w o = _
    exact gate_taken hacc hs (if_neg (by simp [hmode]))

end Sys2Proof.CheckValueUnits
end

section
/-! SUPPORT. What the rows of the HBM controllers do; and the statement about them (12 R281 to R292, R298, R299, 17 R442). -/

open Sys2Proof Sys2Proof.Machine Sys2Proof.BarWrites

namespace Sys2Proof.HbmControllers

/-- The cycle in which the pass of a patrol's n-th read was to begin. -/
def passStart (s : State) (h n : Nat) : Nat :=
  match tget s.scrubAt h with
  | none => s.cycle
  | some (t, _) => if n % stackBlocks = 0 then t + patrolCycles s (h / 4) else t

/-- The next block of a patrol that may read: its sectors, its place, and whether it is late (12 R291, R292). -/
theorem scrubRead_reads {h : Fin 8} {errs : List Bytes} {pw : BitVec 32} {later : List Bool} {s u w : State} {n b t : Nat} (hon : bit (rd s (rMemScrub (h / 4))) 0 = true) (hstack : stackOn s h = true)
    (hawake : fld s rPwrStat 2 0 < 2) (hready : patrolReady s h = true) (hn : n = tgetD s.scrubPos h 0) (hb : b = h.val * stackBlocks + n % stackBlocks)
    (hu : u = (List.range 15).foldl (fun t i => sectorRead t ((blockSectors b).getD i 0) (errs.getD i []) (later.getD i false)) (wordFlip s b pw))
    (ht : t = passStart s h n)
    (hw : w = { u with scrubPos := tput u.scrubPos h (n + 1), scrubAt := tput u.scrubAt h (t, u.cycle), scrubLate := patrolBehind u h t (n % stackBlocks + 1) }) :
    exec (.scrubRead h errs pw later) s = .next (setFld w (rMemScrub (h / 4)) 31 16 ((rangeFrom (4 * (h / 4)) 4).foldl (fun a i => min a (tgetD w.scrubPos i 0 / stackBlocks)) 0xFFFF)) := by
  subst hw hu hb ht hn
  refine if_neg (c := (!bit (rd s (rMemScrub (h / 4))) 0 || !stackOn s h || decide (fld s rPwrStat 2 0 ≥ 2) || !patrolReady s h) = true) ?_
  simp [hon, hstack, hready, hawake]

section
variable {d : Fin 2} {w : Writer} {o s : State} (hacc : accepts o w = true) (hs : s = barWake o w)
include hacc hs

/-- The mailbox is taken where no partition runs in its half (12 R298). -/
theorem mboxTake_takes (hdie : d = 1 → s.chain.die1Bad = false) (hfree : ∀ p < 8, ptnRuns s p = false ∨ halfBase d + hbmHalf ≤ (ptnHbm s p).1 ∨ (ptnHbm s p).2 ≤ halfBase d) :
    exec (.mboxTake d w) o = .next (setErr (setFld s (rMboxCtl d) 2 2 1) d 0) := by
  have hidle : ¬ ((List.range 8).any (fun p => ptnRuns s p && decide ((ptnHbm s p).1 < halfBase d + hbmHalf) && decide (halfBase d < (ptnHbm s p).2)) = true) := by
    simp only [List.any_eq_true, List.mem_range, Bool.and_eq_true, decide_eq_true_eq, not_exists, not_and]
    intro p hp hruns hlow
    rcases hfree p hp with h | h | h
    · simp [hruns] at h
    · omega
    · omega
  show execMboxTake d w o = _
  refine gate_taken hacc hs ?_
  rw [if_neg (by simpa using hdie), if_neg hidle]

theorem mboxRelease_releases (hdie : d = 1 → s.chain.die1Bad = false) : exec (.mboxRelease d w) o = .next (setErr (setFld s (rMboxCtl d) 2 2 0) d 0) := by
  show execMboxRelease d w o = _
  exact gate_taken hacc hs (if_neg (by simpa using hdie))

/-- The six commands of the mailbox, each by its code (12 R299). -/
theorem mboxCommands (v : BitVec 64) : exec (.eccLog d v w) o = .next (mboxStart s d 1 v.toNat) ∧ exec (.sppr d v w) o = .next (mboxStart s d 2 v.toNat)
    ∧ exec (.hppr d v w) o = .next (mboxStart s d 3 v.toNat) ∧ exec (.pcSpare d v w) o = .next (mboxStart s d 4 v.toNat)
    ∧ exec (.mbist d v w) o = .next (mboxStart s d 5 v.toNat) ∧ exec (.readMr d v w) o = .next (mboxStart s d 6 v.toNat) := by
  have hcmd : ∀ n, gate o w (fun s => .next (mboxStart s d n v.toNat)) = .next (mboxStart s d n v.toNat) := fun n => gate_taken hacc hs rfl
  exact ⟨hcmd 1, hcmd 2, hcmd 3, hcmd 4, hcmd 5, hcmd 6⟩

end

/-- A command starts where the mailbox is not BUSY; outside MAINT it must only read (12 R298). -/
theorem mboxStart_idle {d : Fin 2} {cmd v : Nat} {s : State} (hcmd : bits v 7 0 = cmd) (hidle : bit (rd s (rMboxCtl d)) 3 = false) (hdie : d = 1 → s.chain.die1Bad = false) :
    mboxStart s d cmd v = writeThen s (rMboxCmd d) v (fun s =>
      if cmd ≠ 6 && !bit (rd s (rMboxCtl d)) 2 then setErr s d 5
      else setErr (setFld { s with mbox := tput s.mbox d (mboxOf v) } (rMboxCtl d) 3 3 1) d 0) := by
  have hbusy : ¬ ((bit (rd s (rMboxCtl d)) 3 || (decide (d.val = 1) && s.chain.die1Bad)) = true) := by
    rw [hidle]
    simpa [Fin.ext_iff] using hdie
  rw [mboxStart, if_neg (not_not.2 hcmd), if_neg hbusy]

section
variable {d : Fin 2} {data : BitVec 64} {fail : Bool} {s u : State} {c : MboxCmd} {h : Nat} (hh : h = 4 * d.val + c.stack) (hc : tget s.mbox d = some c)
  (hu : u = setFld { s with mbox := tdel s.mbox d } (rMboxCtl d) 3 3 0)
include hh hc hu

/-- The end of a command, by its code (12 R298, R299). -/
theorem mboxCmdDone_cases : exec (.mboxCmdDone d data fail) s =
    if c.cmd = 1 || c.cmd = 5 || c.cmd = 6 then .next (setErr (setReg u (rMboxData d) data.toNat) d 0)
    else if c.cmd = 4 && fld u (rMemHstat h) 15 14 ≥ 2 && !u.spared.contains (h, c.pc) then .next (setErr u d 3)
    else .next (setErr (if c.cmd = 4 && !fail then sparePc (poisonPc u h c.pc) h c.pc else poisonPc u h c.pc) d (if fail then 4 else 0)) := by
  subst hu hh
  show execMboxCmdDone d data fail s = _
  simp only [execMboxCmdDone, hc]

theorem mboxCmdDone_reads (hcmd : c.cmd = 1 ∨ c.cmd = 5 ∨ c.cmd = 6) : exec (.mboxCmdDone d data fail) s = .next (setErr (setReg u (rMboxData d) data.toNat) d 0) := by
  rw [mboxCmdDone_cases hh hc hu, if_pos (by simpa [or_assoc] using hcmd)]

theorem mboxCmdDone_repairs (hcmd : c.cmd = 2 ∨ c.cmd = 3) : exec (.mboxCmdDone d data fail) s = .next (setErr (poisonPc u h c.pc) d (if fail then 4 else 0)) := by
  have hother : c.cmd ≠ 1 ∧ c.cmd ≠ 4 ∧ c.cmd ≠ 5 ∧ c.cmd ≠ 6 := by omega
  obtain ⟨h1, h4, h5, h6⟩ := hother
  rw [mboxCmdDone_cases hh hc hu]
  simp only [h1, h4, h5, h6, decide_false, Bool.or_self, Bool.false_and, Bool.false_eq_true, if_false]

end

theorem mboxCmdDone_spares {d : Fin 2} {data : BitVec 64} {s u : State} {c : MboxCmd} {h : Nat} (hh : h = 4 * d.val + c.stack) (hc : tget s.mbox d = some c)
    (hu : u = setFld { s with mbox := tdel s.mbox d } (rMboxCtl d) 3 3 0) (hcmd : c.cmd = 4) (hfree : fld u (rMemHstat h) 15 14 < 2 ∨ u.spared.contains (h, c.pc) = true) :
    exec (.mboxCmdDone d data false) s = .next (setErr (sparePc (poisonPc u h c.pc) h c.pc) d 0) := by
  have hspare : ¬ ((decide (c.cmd = 4) && decide (fld u (rMemHstat h) 15 14 ≥ 2) && !u.spared.contains (h, c.pc)) = true) := by
    rcases hfree with hlt | hin
    · simp [Nat.not_le.2 hlt]
    · rw [hin, Bool.not_true, Bool.and_false]
      exact Bool.false_ne_true
  rw [mboxCmdDone_cases hh hc hu, if_neg (by simp [hcmd]), if_neg hspare]
  simp only [hcmd, decide_true, Bool.not_false, Bool.and_self, if_true, Bool.false_eq_true, if_false]

theorem mboxCmdDone_noSpare {d : Fin 2} {data : BitVec 64} {fail : Bool} {s u : State} {c : MboxCmd} {h : Nat} (hh : h = 4 * d.val + c.stack) (hc : tget s.mbox d = some c)
    (hu : u = setFld { s with mbox := tdel s.mbox d } (rMboxCtl d) 3 3 0) (hcmd : c.cmd = 4) (hfull : 2 ≤ fld u (rMemHstat h) 15 14) (hnew : u.spared.contains (h, c.pc) = false) :
    exec (.mboxCmdDone d data fail) s = .next (setErr u d 3) := by
  rw [mboxCmdDone_cases hh hc hu, if_neg (by simp [hcmd]), if_pos]
  rw [hcmd, hnew, decide_eq_true hfull]
  rfl

/-- Settles O48: the reads, the patrol, the failed stack and the mailbox. -/
theorem hbmRows : Obligations.HbmRows := by
  refine ⟨fun a err pw later s hlt hon => if_neg (by simp [hlt, hon]), fun h errs pw later s u w n b t hon hstack hawake hready hn hb hu ht hw =>
      scrubRead_reads hon hstack hawake hready hn hb hu ht hw, fun h n s hst => if_neg hst, fun h s h0 h3 => if_neg (by simp [h0, h3]), fun d w o s hacc hs => ⟨?_, fun hdie =>
      ⟨mboxTake_takes hacc hs hdie, mboxRelease_releases hacc hs hdie⟩, mboxCommands hacc hs⟩, fun d cmd v s => mboxStart_idle, fun d data fail s u c h hh hc hu =>
      ⟨mboxCmdDone_reads hh hc hu, mboxCmdDone_repairs hh hc hu, mboxCmdDone_spares hh hc hu, mboxCmdDone_noSpare hh hc hu⟩⟩
  show execPoisonlogClear d w o = _
  exact gate_taken hacc hs rfl

end Sys2Proof.HbmControllers
end

section
/-! SUPPORT. Steps of the power ladder, the sensors, the cadence and the throttle; and the statement about them (12 R295 to R297, 19 R469 to R474, R482 to R484). -/

open Sys2Proof Sys2Proof.Machine

namespace Sys2Proof.PowerLadder

/-- A target that is requested, or rejected, where the write is taken (19 R484). -/
theorem powerTarget_taken {v : BitVec 32} {w : Writer} {s : State} (hacc : accepts s w = true) :
    exec (.powerTarget v w) s = if decide (bits v.toNat 2 0 > 4) || decide (bits v.toNat 31 16 = 0) then .next (reject s 16 rPwrCtl)
      else .next (requestState (setReg s rPwrCtl (bits v.toNat 3 0 + at_ (bits v.toNat 31 16) 16)) (bits v.toNat 2 0)) :=
  if_neg (by rw [hacc]; decide)

section
variable {s : State} {lpi : BitVec 32} {pme : Bool}

/-- An entry step ends: the next one goes on, or the exit that waits begins (19 R471, R473). -/
theorem powerStepDone_enters (hin : s.power.entering = true) :
    exec (.powerStepDone lpi pme) s = if s.power.leaving then .next (syncPower { entryStep s (s.power.steps + 1) lpi pme with
        power := { s.power with steps := s.power.steps + 1, entering := false, leaving := decide (s.power.goal < s.power.steps + 1) } })
      else .next (syncPower { entryStep s (s.power.steps + 1) lpi pme with power := { s.power with steps := s.power.steps + 1, entering := decide (s.power.steps + 1 < s.power.goal) } }) := if_pos hin

/-- The state that the queued target is requested of, or the last state of an exit. -/
def requestQueued (y : State) : Option Nat → State
  | some t => requestState y t
  | none => y

/-- An exit step ends, with DRUM_REF where it leaves Deep (19 R471, R473, R475). -/
theorem powerStepDone_leaves (hin : s.power.entering = false) (hout : s.power.leaving = true) (hdrum : s.power.steps = 8 → s.pins.drumLost = false) :
    exec (.powerStepDone lpi pme) s = if s.power.goal < s.power.steps - 1 then .next (syncPower { exitStep s s.power.steps with power := { s.power with steps := s.power.steps - 1 } })
      else .next (requestQueued (syncPower { exitStep s s.power.steps with power := { s.power with steps := s.power.steps - 1, leaving := false, queued := none } }) s.power.queued) := by
  have hstays : ¬ ((s.power.leaving && decide (s.power.steps = 8) && s.pins.drumLost) = true) := by simpa [hout] using hdrum
  show execPowerStepDone lpi pme s = _
  unfold execPowerStepDone
  dsimp only
  rw [if_neg (by rw [hin]; exact Bool.false_ne_true), if_neg hstays, if_pos hout]
  cases s.power.queued <;> rfl

theorem powerStepDone_losesDrum (hin : s.power.entering = false) (hout : s.power.leaving = true) (hdeep : s.power.steps = 8) (hlost : s.pins.drumLost = true) :
    exec (.powerStepDone lpi pme) s = .next (drumLoss s) := by
  show execPowerStepDone lpi pme s = _
  simp only [execPowerStepDone, hin, hout, hdeep, hlost, decide_true, Bool.and_self, Bool.false_eq_true, if_false, if_true]

/-- A device that is deeper than Run, or on its way there, wakes at what its state hears (19 R472). -/
theorem powerWakes (hdeep : begunState s.power ≠ 0) : exec (.powerWake 1) s = .next (wake s 1 0) ∧ (begunState s.power = 1 → exec (.powerWake 3) s = .next (wake s 3 0))
    ∧ (begunState s.power = 3 → exec (.powerWake 4) s = .next (wake s 4 0))
    ∧ (1 < s.power.steps ∨ s.power.entering = true ∧ 1 < s.power.goal → exec (.powerWake 5) s = .next (wake s 5 1)) :=
  ⟨congrArg _ (if_neg hdeep), fun hrest => congrArg _ (if_pos hrest), fun hdormant => if_pos hdormant, fun hstep => congrArg _ (if_pos (by simpa using hstep))⟩

/-- The automatic rest begins after IDLE microseconds of row 1 (19 R470). -/
theorem autoRest_begins {t : Nat} (hidle : s.power.idleAt = some t) (htime : t * 1000 + fld s rPwrCtl 31 16 * msCycles s ≤ s.cycle * 1000) (hon : bit (rd s rPwrCtl) 3 = true)
    (hstill : moving s = false) (hrun : s.power.steps = 0) (hrow : idleRow s = true) :
    exec .autoRestTimer s = .next (syncPower { s with power := { s.power with entering := true, goal := 1 } }) := by
  show execAutoRestTimer s = _
  simp only [execAutoRestTimer, hidle, usPassed, htime, hon, hstill, hrun, hrow, decide_true, Bool.not_false, Bool.and_self, if_true]

/-- A fold whose steps keep the thermal state keeps it. -/
theorem foldl_thermal {f : State → Nat → State} (hf : ∀ s n, (f s n).thermal = s.thermal) (l : List Nat) : ∀ s, (l.foldl f s).thermal = s.thermal := by
  induction l with
  | nil => exact fun s => rfl
  | cons n l ih => exact fun s => (ih (f s n)).trans (hf s n)

/-- The four thermal steps. -/
def thermalSteps (t : Thermal) : Bool × Bool × Bool × Bool := (t.hbmCad, t.hbmThr, t.pkgCad, t.pkgThr)

theorem syncThrottle_steps (was : Bool) (s : State) : thermalSteps (syncThrottle was s).thermal = thermalSteps s.thermal := by
  unfold syncThrottle
  split
  · rfl
  · split <;> rfl

theorem averageTenv_steps (s : State) (hot p : Nat) : thermalSteps (averageTenv s hot p).thermal = thermalSteps s.thermal := by
  unfold averageTenv
  dsimp only
  split <;> rfl

/-- The thermal steps after a poll are those of its readings (19 R482). -/
theorem sensorRegs_steps (m : Sensors) (s : State) : thermalSteps (sensorRegs m s).thermal =
    thermalSteps (pollThermal s.thermal (maxOf ((List.range 8).map (stackTemp s m))) (max (maxOf (m.dies.take 8)) (maxOf ((m.dies.drop 8).take 8))) m.power (fld s rPwrLimit 11 0)) := by
  unfold sensorRegs
  extract_lets temps hot tj0 tj1 tj thr0 polled heated refresh hs stepped ps sensed
  have hheated : heated.thermal = polled.thermal := by
    refine foldl_thermal (fun s n => ?_) _ _
    simp only [setFld_thermal]
  have hstepped : stepped.thermal = heated.thermal := by
    refine foldl_thermal (fun s n => ?_) _ _
    simp only [setFld_thermal]
  rw [syncThrottle_steps, averageTenv_steps, setReg_thermal, hstepped, hheated]

/-- A raise of a partition's wanted exponent below the largest (12 R296). -/
theorem raiseCadence_raises {p : Fin 8} {k : Nat} {c : Ctx} (hres : resident s p = some (k, c)) (hlow : (part s p).kWant < 26) :
    raiseCadence s p = cadenceVote (modPart s p (fun x => { x with kWant := x.kWant + 1, kRaised := if x.kWant + 1 ≤ ptnK s p then some s.cycle else none })) k := by
  simp only [raiseCadence, hres, hlow, if_true]

theorem cadenceRaise_due {p : Fin 8} {k : Nat} {c : Ctx} (hon : cadOn s = true) (hres : resident s p = some (k, c)) (hdue : raiseDue s (part s p) = true) :
    exec (.cadenceRaise p) s = .next (raiseCadence s p) := by
  show execCadenceRaise p s = _
  simp only [execCadenceRaise, hres, hon, hdue, Bool.and_self, if_true]

theorem cadenceLower_due {p : Fin 8} {k : Nat} {c : Ctx} (hoff : cadOn s = false) (hres : resident s p = some (k, c)) (hdue : lowerDue s (part s p) = true) (hman : c.kMan < (part s p).kWant) :
    exec (.cadenceLower p) s = .next (cadenceVote (modPart s p (fun x => { x with kWant := x.kWant - 1, kLowered := s.cycle })) k) := by
  show execCadenceLower p s = _
  simp only [execCadenceLower, hres, hoff, hdue, hman, decide_true, Bool.not_false, Bool.and_self, if_true]

theorem throttleDutyStep_due (hon : thrOn s = true) (hduty : fld s rMemCadence 26 24 < 7) (htime : s.thermal.dutyAt + 10 * msCycles s ≤ s.cycle) :
    exec .throttleDutyStep s = .next { setFld s rMemCadence 26 24 (fld s rMemCadence 26 24 + 1) with thermal := { s.thermal with dutyAt := s.cycle } } :=
  if_pos (by simp [hon, hduty, htime])

theorem throttleWindow_due {u : State} (hon : thrOn s = true) (hduty : fld s rMemCadence 26 24 ≠ 0) (htime : s.thermal.thrNext ≤ s.cycle)
    (hu : u = raiseHold { s with thermal := { s.thermal with thrNext := s.cycle + 8192 } } 15 0 6 0 none s.run 0 (some (s.cycle + fld s rMemCadence 26 24 * 1024))) :
    exec .throttleWindow s = .next (gateEval (u.parts.foldl (fun s e => match resident s e.1 with | some (k, _) => recFlag s k 1 | none => s) u)) := by
  subst hu
  exact if_neg (c := (decide (fld s rMemCadence 26 24 = 0) || !thrOn s || decide (s.cycle < s.thermal.thrNext)) = true) (by simp [hon, hduty, htime])

end

/-- Settles O49: the ladder's rows, the sensors' and the throttle's. -/
theorem powerRows : Obligations.PowerRows := by
  refine fun s => ⟨fun v w hacc hlow hidle => ?_, fun v w hacc hbad => ?_, fun lpi pme => ⟨fun u hin hu => ⟨fun hstay => ?_, fun hleave => ?_⟩, powerStepDone_losesDrum, fun u hin hout hdrum hu =>
      ⟨fun hmore => ?_, fun hdone y hy => ?_⟩⟩, powerWakes, fun t => autoRest_begins, fun hrw => if_pos hrw, fun m x u w hx hu hw => ?_, fun m u h hu hh => ?_, fun p k c => cadenceRaise_due,
    fun p k c => cadenceLower_due, fun p k c => raiseCadence_raises, throttleDutyStep_due, fun u => throttleWindow_due⟩
  · rw [powerTarget_taken hacc, if_neg (by simp [Nat.not_lt.2 hlow, hidle])]
  · rw [powerTarget_taken hacc, if_pos (by simpa using hbad)]
  · rw [powerStepDone_enters hin, hstay, hu]
    rfl
  · rw [powerStepDone_enters hin, hleave, hu]
    rfl
  · rw [powerStepDone_leaves hin hout hdrum, if_pos hmore, hu]
  · subst hy hu
    rw [powerStepDone_leaves hin hout hdrum, if_neg (Nat.not_lt.2 hdone)]
    cases s.power.queued <;> rfl
  · subst hx hu hw
    rfl
  · subst hu hh
    simpa [thermalSteps, Prod.ext_iff] using sensorRegs_steps m s

end Sys2Proof.PowerLadder
end

section
/-! SUPPORT. What the clocks, the watchdogs, the other die, the bridge and JTAG do; and the statement about them (17 R440 to R443, 19 R475 to R477, 20 R492 to R495). -/

open Sys2Proof Sys2Proof.Machine Sys2Proof.BarWrites

namespace Sys2Proof.Supervision

/-- A bit of a number in the model's words and in the library's. -/
theorem bit_eq_testBit (n i : Nat) : bit n i = n.testBit i := by
  rw [bit, bits, Nat.testBit_eq_decide_div_mod_eq, Nat.shiftRight_eq_div_pow, Nat.add_sub_cancel_left, pow_one]
  rfl

section
variable {s : State}

/-- The loss of a DRUM_REF that is needed holds the device in reset, a trip going on holding it too, and sets CLK_LOST (19 R477). -/
theorem drumLoss_holds (s : State) : (drumLoss s).boot.held = max 2 s.boot.held ∧ bit (rd (drumLoss s) rPwrStat) 14 = true := by
  have hreg : rd (drumLoss s) rPwrStat = rd (fullReset s false) rPwrStat ||| 2 ^ 14 :=
    rd_orReg_same (fullReset s false) rPwrStat (2 ^ 14) (by norm_num)
  refine ⟨rfl, ?_⟩
  rw [hreg, bit_eq_testBit, Nat.testBit_or, Nat.testBit_two_pow_self, Bool.or_true]

/-- A pulse off the grid is ignored and clears REF_VALID (11 R272). -/
theorem drumSyncPulse_offGrid {l : Nat} (hheld : s.boot.held ≠ 2) (hlast : s.refs.lastPulse = some l) (hoff : s.refs.drum - l ≠ 2 ^ 20) (hdom : domain1 s = false) :
    exec .drumSyncPulse s = .next (setRefValid { s with refs := { s.refs with good := 0, lastPulse := some s.refs.drum } } false) := by
  have hdom' : ∀ r, domain1 { s with refs := r } = false := fun r => hdom
  show execDrumSyncPulse s = _
  unfold execDrumSyncPulse
  dsimp only
  rw [if_neg hheld, hlast]
  dsimp only
  rw [if_pos hoff, hdom']
  rfl

/-- The domain of the muster does not hang on the reference counter. -/
theorem domain1_setRefcnt (s : State) (n a : Nat) : domain1 { s with refcnt := n, refAcc := a } = domain1 s := rfl

/-- Two good pulses in a row sample the known time and set REF_VALID. -/
theorem drumSyncPulse_onGrid {l : Nat} {t : Nat × Nat} {u : State} (hheld : s.boot.held ≠ 2) (hlast : s.refs.lastPulse = some l) (hon : s.refs.drum - l = 2 ^ 20) (hdom : domain1 s = false)
    (htime : s.refs.time = some t) (hu : u = { s with refs := { s.refs with good := s.refs.good + 1, lastPulse := some s.refs.drum } }) :
    exec .drumSyncPulse s = .next (setRefValid { u with refcnt := refTime u t / 2 ^ 20 * 2 ^ 20 % 2 ^ 64, refAcc := 0 } true) := by
  have hdomu : domain1 u = false := by rw [hu]; exact hdom
  have htimeu : u.refs.time = some t := by rw [hu]; exact htime
  have hsample : samplePulse u = { u with refcnt := refTime u t / 2 ^ 20 * 2 ^ 20 % 2 ^ 64, refAcc := 0 } := by
    rw [samplePulse, hdomu, htimeu]
    rfl
  have hvalid : (!domain1 (samplePulse u) && (samplePulse u).refs.time.isSome) = true := by
    rw [hsample, domain1_setRefcnt, hdomu, htimeu]
    rfl
  show execDrumSyncPulse s = _
  unfold execDrumSyncPulse
  dsimp only
  rw [if_neg hheld, hlast]
  dsimp only
  rw [if_neg (not_not.2 hon), ← hu, if_pos hvalid, hsample]

/-- The first pulse is sampled. -/
theorem drumSyncPulse_first (hheld : s.boot.held ≠ 2) (hlast : s.refs.lastPulse = none) :
    exec .drumSyncPulse s = .next (samplePulse { s with refs := { s.refs with lastPulse := some s.refs.drum, good := 0 } }) := by
  show execDrumSyncPulse s = _
  simp only [execDrumSyncPulse, hlast]
  exact if_neg hheld

theorem drumSyncSilence_due {l : Nat} (hlast : s.refs.lastPulse = some l) (hlate : l + 2 ^ 21 ≤ s.refs.drum) (hdom : domain1 s = false) :
    exec .drumSyncSilence s = .next (setRefValid { s with refs := { s.refs with good := 0, lastPulse := none } } false) := by
  show execDrumSyncSilence s = _
  unfold execDrumSyncSilence
  rw [hlast, hdom]
  exact if_pos (by simpa using hlate)

/-- A watchdog past its time, or on a device deep enough that the management cores stand, acts on its die (17 R440 to R442). -/
theorem watchdogExpire_due {d : Fin 2} {u : State} (hheld : s.boot.held = 0) (hdue : 6 ≤ s.power.steps ∨ tgetD s.chain.kicks d 0 + fld s (rWdog d) 15 0 * msCycles s ≤ s.cycle)
    (hruns : d = 1 → die1Runs s = true) (hu : u = orReg { s with chain := { s.chain with kicks := tput s.chain.kicks d s.cycle } } (rWdog d) (2 ^ 17)) :
    exec (.watchdogExpire d) s = .next (if d = 0 then romRecovery u else restartDie1 u) := by
  subst hu
  refine if_neg (c := (decide (s.boot.held ≠ 0) || (decide (s.power.steps < 6) && decide (s.cycle < tgetD s.chain.kicks d 0 + fld s (rWdog d) 15 0 * msCycles s))
    || (decide (d = 1) && !die1Runs s)) = true) ?_
  simp only [hheld, Bool.or_eq_true, Bool.and_eq_true, decide_eq_true_eq, Bool.not_eq_true', ne_eq, not_true_eq_false, false_or, not_or, not_and, Nat.not_lt, Bool.not_eq_false]
  exact ⟨fun hlow => hdue.resolve_left (by omega), hruns⟩

/-- A replay of the bridge: the fourth in a row takes it down, an earlier one that makes a flit late holds its consumer (01 R25). -/
theorem bridgeReplay_rows {dir : Fin 2} {again : Bool} {n : Nat} {u : State} (hup : s.chain.bridgeDown = false) (hn : n = (if again then tgetD s.chain.bridge dir 0 + 1 else 1))
    (hu : u = { s with chain := { s.chain with bridge := tput s.chain.bridge dir n } }) :
    (4 ≤ n → ∀ miss, exec (.bridgeReplay dir again miss) s = .next (faultRunning { u with chain := { u.chain with bridgeDown := true } } { cause := 0x1F, unit := 12, d0 := dir }))
    ∧ (n < 4 → exec (.bridgeReplay dir again none) s = .next u
      ∧ ∀ (p : Fin 8) due k c, resident u p = some (k, c) → exec (.bridgeReplay dir again (some (p, due))) s = .next (gateEval (raiseHold u 12 0 2 dir (some k) due (tolOr u p 12 0 0)))) := by
  have hopen : ¬ (s.chain.bridgeDown = true) := by rw [hup]; exact Bool.false_ne_true
  have hrow : ∀ miss, exec (.bridgeReplay dir again miss) s = execBridgeReplay dir again miss s := fun miss => rfl
  refine ⟨fun hfour miss => ?_, fun hfew => ⟨?_, fun p due k c hres => ?_⟩⟩
  · rw [hrow, execBridgeReplay, if_neg hopen]
    dsimp only
    rw [← hn, if_pos hfour, hu]
  · rw [hrow, execBridgeReplay, if_neg hopen]
    dsimp only
    rw [← hn, ← hu, if_neg (Nat.not_le.2 hfew)]
  · rw [hrow, execBridgeReplay, if_neg hopen]
    dsimp only
    rw [← hn, ← hu, if_neg (Nat.not_le.2 hfew), hres]

end

/-- Settles O50: the reference clocks, the watchdogs, die 1, the bridge and JTAG. -/
theorem clockRows : Obligations.ClockRows := by
  refine fun s => ⟨fun hneed => ⟨drumLoss _, congrArg _ (if_neg hneed), drumLoss_holds _⟩, fun hdeep => congrArg _ (if_pos hdeep), fun u hu => ?_,
    fun hheld => ⟨fun l hlast hoff hdom => drumSyncPulse_offGrid hheld hlast hoff hdom, fun l t hlast hon hdom htime u hu => drumSyncPulse_onGrid hheld hlast hon hdom htime hu,
      fun hlast => drumSyncPulse_first hheld hlast⟩, fun l => drumSyncSilence_due, fun ns u hu => ?_, fun d => rfl, rfl, fun d v w u hacc hu hkick => ?_, fun d u => watchdogExpire_due,
    fun u hruns hu => ?_, fun hheld hruns hlate => ?_, fun hbad hlate => ?_, fun dir again n u => bridgeReplay_rows, rfl, rfl⟩
  · subst hu
    show execDrumRefReturn s = _
    unfold execDrumRefReturn
    dsimp only
    split <;> rfl
  · subst hu
    show execIeee1588TimeUpdate ns s = _
    unfold execIeee1588TimeUpdate
    dsimp only
    split <;> rfl
  · show execWatchdogKick d v w s = _
    exact gate_taken hacc hu (if_neg (by simp [hkick]))
  · subst hu
    exact if_neg (by simp [hruns])
  · exact congrArg _ (if_pos (by simp [hheld, hruns, msPassed, hlate]))
  · exact congrArg _ (if_pos (by simp [hbad, msPassed, hlate]))

end Sys2Proof.Supervision
end

section
/-! SUPPORT. The reset inputs, the firmware push and the boot steps; and the statement about them (15 R396, 18 R445 to R448, 19 R478 to R483, 20 R487, R490). -/

open Sys2Proof Sys2Proof.Machine Sys2Proof.BarWrites

namespace Sys2Proof.ResetAndBoot

section
variable {s : State}

/-- POR_N and RST_N: each holds the block while low and releases it when it rises (19 R478, R479). -/
theorem resetInputs (s : State) (straps : BitVec 4) (tj : Nat) : exec (.porN true straps tj) s = .next (resetNow { s with pins := { s.pins with por := true, thermTrip := false } } true)
    ∧ (s.pins.por = true → exec (.porN false straps tj) s = .next (releaseInput { s with pins := { s.pins with por := false } } straps tj))
    ∧ exec (.rstN true straps tj) s = .next (resetNow { s with pins := { s.pins with rst := true, thermTrip := false } } false)
    ∧ (s.pins.rst = true → exec (.rstN false straps tj) s = .next (releaseInput { s with pins := { s.pins with rst := false } } straps tj)) :=
  ⟨rfl, fun hlow => if_pos hlow, rfl, fun hlow => if_pos hlow⟩

/-- PERST_N and a hot reset, of a part that attaches to a host (19 R478). -/
theorem hostResets (hhost : hostStrap s = true) : (∀ low, exec (.perstN true low) s = .next (tryBoot (resetNow s false)))
    ∧ exec (.perstN false true) s = .next (resetNow { s with pins := { s.pins with perst := true } } false)
    ∧ (s.pins.perst = true → exec (.perstN false false) s = .next (tryBoot { s with pins := { s.pins with perst := false } })) := by
  have hstrap : ¬ ((!hostStrap s) = true) := by rw [hhost]; decide
  exact ⟨fun low => if_neg hstrap, if_neg hstrap, fun hlow => (if_neg hstrap).trans (if_pos hlow)⟩

/-- A rail that is monitored: out of tolerance it holds the block, back in it it releases the block (20 R487). -/
theorem supplyFault_watched {rail : Bool} (hwatch : rail = true → s.pins.pwrEn = true ∧ s.pins.railWait = 0) :
    exec (.supplyFault rail true) s = .next (resetNow { s with pins := { s.pins with hbmOut := rail || s.pins.hbmOut, supply := true } } true)
    ∧ (s.pins.supply = true → exec (.supplyFault rail false) s = .next (tryBoot { s with pins := { s.pins with hbmOut := false, supply := false } })) := by
  have hseen : ∀ p, p.pwrEn = s.pins.pwrEn → p.railWait = s.pins.railWait → ¬ ((rail && !hbmWatched { s with pins := p }) = true) := by
    intro p hen hwait
    cases rail with
    | false => exact Bool.false_ne_true
    | true =>
      obtain ⟨h1, h2⟩ := hwatch rfl
      simp [hbmWatched, hen, hwait, h1, h2]
  refine ⟨?_, fun hlow => ?_⟩
  · cases rail with
    | false => rfl
    | true => exact if_neg (hseen { s.pins with hbmOut := true } rfl rfl)
  · have hback : exec (.supplyFault rail false) s = if (rail && !hbmWatched { s with pins := { s.pins with hbmOut := false } }) = true then .next { s with pins := { s.pins with hbmOut := false } }
        else if s.pins.supply then .next (tryBoot { s with pins := { s.pins with hbmOut := false, supply := false } }) else .next { s with pins := { s.pins with hbmOut := false } } := by
      cases rail <;> rfl
    rw [hback]
    exact (if_neg (hseen _ rfl rfl)).trans (if_pos hlow)

/-- An HBM rail before it is monitored is only noted. -/
theorem supplyFault_unwatched (hwatch : s.pins.pwrEn = false ∨ 0 < s.pins.railWait) (out : Bool) : exec (.supplyFault true out) s = .next { s with pins := { s.pins with hbmOut := out } } := by
  refine if_pos (c := (true && !hbmWatched { s with pins := { s.pins with hbmOut := out } }) = true) ?_
  rcases hwatch with h | h
  · simp [hbmWatched, h]
  · simp [hbmWatched, Nat.ne_of_gt h]

/-- A push begins at the step that waits for it, and after a failed step it begins again from reset (15 R396, 19 R481). -/
theorem fwPushGo_rows {w : Writer} {u : State} (hacc : accepts s w = true) (hu : u = barWake s w) (hidle : bit (rd u rHifFwctl) 1 = false) :
    (fld u rPwrStat 13 11 = 0 → u.boot.step = 3 → exec (.fwPushGo w) s = .next
      (setStage (setReg { u with boot := { u.boot with step := 4, fwAddr := rd u rHifFwaddr, fwLen := rd u rHifFwlen } } rHifFwctl 2) 2))
    ∧ (fld u rPwrStat 13 11 ≠ 0 → exec (.fwPushGo w) s = .next (tryBoot (resetNow u false))) := by
  have hgo : ¬ (bit (rd u rHifFwctl) 1 = true) := by rw [hidle]; exact Bool.false_ne_true
  refine ⟨fun hgood hstep => ?_, fun hbad => ?_⟩
  · show execFwPushGo w s = _
    refine gate_taken hacc hu ?_
    rw [if_neg hgo, if_neg (not_not.2 hgood), if_neg (not_not.2 hstep)]
  · show execFwPushGo w s = _
    refine gate_taken hacc hu ?_
    rw [if_neg hgo, if_pos hbad]

/-- New ledger keys leave the memory as it is. -/
theorem foldl_newKeys_mem (l : List Nat) : ∀ s, (l.foldl newKeys s).mem = s.mem := by
  induction l with
  | nil => exact fun s => rfl
  | cons p l ih => exact fun s => (ih (newKeys s p)).trans (newKeys_mem s p)

/-- The end of a boot step, where nothing holds the device and no step has failed (19 R480). -/
theorem bootSteps {ok : Bool} {bad : List Nat} (hheld : s.boot.held = 0) (hgood : fld s rPwrStat 13 11 = 0) :
    (s.boot.step = 1 → exec (.bootStepDone ok bad) s = .next (setStage { s with boot := { s.boot with step := 2 } } 1))
    ∧ (s.boot.step = 2 → hostStrap s = true → exec (.bootStepDone ok bad) s = .next { s with boot := { s.boot with step := 3 }, pins := { s.pins with pcieUp := true } })
    ∧ (s.boot.step = 5 → exec (.bootStepDone true bad) s = .next { s with boot := { s.boot with step := 6 }, chain := { s.chain with die1Bad := false, beat := s.cycle, kicks := tput s.chain.kicks 1 s.cycle } }
      ∧ exec (.bootStepDone false bad) s = .next (setFld s rPwrStat 13 11 5))
    ∧ (s.boot.step = 6 → ∃ t, exec (.bootStepDone ok bad) s = .next t ∧ t.boot.step = if s.boot.warm then 8 else 7)
    ∧ (s.boot.step = 7 → s.sec.entWait = false → ∃ t, exec (.bootStepDone true []) s = .next t ∧ t.boot.step = 8 ∧ ∀ a < hbmEnd, memGet t.mem a = 0)
    ∧ (s.boot.step = 8 → exec (.bootStepDone ok bad) s = .next (bootReady s)) := by
  have hrow : ∀ ok bad, exec (.bootStepDone ok bad) s = execBootStepDone ok bad s := fun ok bad => rfl
  have hruns : ¬ ((decide (s.boot.held ≠ 0) || decide (fld s rPwrStat 13 11 ≠ 0)) = true) := by simp [hheld, hgood]
  refine ⟨fun hstep => ?_, fun hstep hhost => ?_, fun hstep => ⟨?_, ?_⟩, fun hstep => ?_, fun hstep hent => ?_, fun hstep => ?_⟩
  · rw [hrow, execBootStepDone, if_neg hruns]
    simp only [hstep]
  · rw [hrow, execBootStepDone, if_neg hruns]
    simp only [hstep]
    exact if_pos hhost
  · rw [hrow, execBootStepDone, if_neg hruns]
    simp only [hstep, if_true]
  · rw [hrow, execBootStepDone, if_neg hruns]
    simp only [hstep, Bool.false_eq_true, if_false]
  · rw [hrow, execBootStepDone, if_neg hruns]
    simp only [hstep]
    exact ⟨_, rfl, rfl⟩
  · rw [hrow, execBootStepDone, if_neg hruns]
    simp only [hstep, hent, Bool.false_eq_true, if_false, List.any_nil, Bool.not_false, Bool.and_self, if_true]
    refine ⟨_, rfl, rfl, fun a ha => ?_⟩
    dsimp only
    rw [foldl_newKeys_mem]
    exact (memGet_memClear _ 0 hbmEnd a).trans (if_pos ⟨Nat.zero_le a, by rwa [Nat.zero_add]⟩)
  · rw [hrow, execBootStepDone, if_neg hruns]
    simp only [hstep]

/-- A trip resets the block and holds it, and sets TRIPPED (19 R482, R483). -/
theorem thermalTrip_holds {t : State} (ht : t = orReg (fullReset s false) rPwrStat (2 ^ 15)) :
    bit (rd t rPwrStat) 15 = true ∧ exec .thermalTrip s = .next { t with boot := { t.boot with held := 3 }, pins := { t.pins with thermTrip := true } } := by
  subst ht
  have hreg : rd (orReg (fullReset s false) rPwrStat (2 ^ 15)) rPwrStat = rd (fullReset s false) rPwrStat ||| 2 ^ 15 := rd_orReg_same _ _ _ (by norm_num)
  refine ⟨?_, rfl⟩
  rw [hreg, Supervision.bit_eq_testBit, Nat.testBit_or, Nat.testBit_two_pow_self, Bool.or_true]

section
variable {x : FwPush} {b : Bytes}

section
variable (hbusy : bit (rd s rHifFwctl) 1 = true)
include hbusy

/-- A push that could not be read. -/
theorem fwPushDone_unread (hpkg : x.pkg = none) : exec (.fwPushDone x) s = .next (pushFailed s 2 0) := by
  show execFwPushDone x s = _
  simp only [execFwPushDone, hbusy, hpkg, Bool.not_true, Bool.false_eq_true, if_false]

/-- A package fails at its first bad check (18 R447). -/
theorem fwPushDone_fails {n : Nat} (hpkg : x.pkg = some b) (hn : n ≠ 0) (hcheck : pushCheck s x b = n) : exec (.fwPushDone x) s = .next (pushFailed s 3 n) := by
  show execFwPushDone x s = _
  simp only [execFwPushDone, hbusy, hpkg, hcheck, hn, ne_eq, not_false_eq_true, Bool.not_true, Bool.false_eq_true, if_false, if_true]

/-- One that passes them all is installed, once the device has a seed. -/
theorem fwPushDone_installs (hpkg : x.pkg = some b) (hcheck : pushCheck s x b = 0) (hseed : bit (rd s rBootstat) 6 = true) : exec (.fwPushDone x) s = .next (takePush s x) := by
  show execFwPushDone x s = _
  simp only [execFwPushDone, hbusy, hpkg, hcheck, hseed, ne_eq, not_true_eq_false, Bool.not_true, Bool.false_eq_true, if_false]

end

/-- What the first six checks find, the push finds. -/
theorem pushCheck_of_pkgCheck {n : Nat} (hn : n ≠ 0) (hcheck : pkgCheck x b s.boot.fwLen = n) : pushCheck s x b = n := by
  simp only [pushCheck, hcheck, hn, ne_eq, not_false_eq_true, if_true]

/-- The first six checks of a package in their order, each where those before it pass (18 R447). -/
theorem pkgCheck_first (len : Nat) :
    (pkgOk b len = false → pkgCheck x b len = 1)
    ∧ (pkgOk b len = true → pkgSec b 1 = imageBytes x.fw → (x.chainOk = false → pkgCheck x b len = 2)
    ∧ (x.chainOk = true → (ecdsaOk x.signKey (sha384 (pkgSec b 1)) (pkgSec b 2) = false → pkgCheck x b len = 3)
    ∧ (ecdsaOk x.signKey (sha384 (pkgSec b 1)) (pkgSec b 2) = true → (x.recordOk = false ∨ x.devKey ≠ devIdKey x.helper → pkgCheck x b len = 4)
    ∧ (x.recordOk = true → x.devKey = devIdKey x.helper → (ecdsaOk ((pkgSec b 6).take 97) (sha384 (pkgSec b 5)) ((pkgSec b 6).drop 97) = false → pkgCheck x b len = 5)
    ∧ (ecdsaOk ((pkgSec b 6).take 97) (sha384 (pkgSec b 5)) ((pkgSec b 6).drop 97) = true → (x.fw.svn < x.prof.svnMin → pkgCheck x b len = 6)
    ∧ (x.prof.svnMin ≤ x.fw.svn → pkgCheck x b len = 0)))))) := by
  refine ⟨fun h1 => ?_, fun h1 himg => ?_⟩
  · rw [pkgCheck, if_pos (by rw [h1]; rfl)]
  rw [pkgCheck, if_neg (by simp [h1, himg])]
  refine ⟨fun h2 => if_pos (by rw [h2]; rfl), fun h2 => ?_⟩
  rw [if_neg (by simp [h2])]
  refine ⟨fun h3 => if_pos (by rw [h3]; rfl), fun h3 => ?_⟩
  rw [if_neg (by simp [h3])]
  refine ⟨fun h4 => if_pos (by simpa using h4), fun h4 hkey => ?_⟩
  rw [if_neg (by simp [h4, hkey])]
  refine ⟨fun h5 => if_pos (by rw [h5]; rfl), fun h5 => ?_⟩
  rw [if_neg (by simp [h5])]
  exact ⟨fun h6 => if_pos h6, fun h6 => if_neg (Nat.not_lt.2 h6)⟩

/-- Check 7, of a package that passes the first six. -/
theorem pushCheck_profile (hcheck : pkgCheck x b s.boot.fwLen = 0) (hprof : pkgSec b 5 = profileBytes x.prof) : pushCheck s x b = if profileOk s x.prof then 0 else 7 := by
  simp only [pushCheck, hcheck, hprof, ne_eq, not_true_eq_false, if_false, decide_false, Bool.false_or]
  cases profileOk s x.prof <;> rfl

end

end

/-- Settles O51: by the input, the check or the step. -/
theorem resetAndBootRows : Obligations.ResetAndBootRows := by
  refine fun s => ⟨resetInputs s, hostResets, fun rail => supplyFault_watched, supplyFault_unwatched, fun t => thermalTrip_holds, fun w u => fwPushGo_rows, fun x hbusy => ⟨fwPushDone_unread hbusy, fun b hpkg => ?_⟩,
    fun hheld hgood ok bad => bootSteps hheld hgood⟩
  obtain ⟨hone, hrest⟩ := pkgCheck_first (x := x) (b := b) s.boot.fwLen
  have hfails : ∀ n, n ≠ 0 → pkgCheck x b s.boot.fwLen = n → exec (.fwPushDone x) s = .next (pushFailed s 3 n) := fun n hn hc => fwPushDone_fails hbusy hpkg hn (pushCheck_of_pkgCheck hn hc)
  refine ⟨fun h1 => hfails 1 (by decide) (hone h1), fun h1 himg => ?_⟩
  obtain ⟨htwo, hrest⟩ := hrest h1 himg
  refine ⟨fun h2 => hfails 2 (by decide) (htwo h2), fun h2 => ?_⟩
  obtain ⟨hthree, hrest⟩ := hrest h2
  refine ⟨fun h3 => hfails 3 (by decide) (hthree h3), fun h3 => ?_⟩
  obtain ⟨hfour, hrest⟩ := hrest h3
  refine ⟨fun h4 => hfails 4 (by decide) (hfour h4), fun h4 hkey => ?_⟩
  obtain ⟨hfive, hrest⟩ := hrest h4 hkey
  refine ⟨fun h5 => hfails 5 (by decide) (hfive h5), fun h5 => ?_⟩
  obtain ⟨hsix, hpass⟩ := hrest h5
  refine ⟨fun h6 => hfails 6 (by decide) (hsix h6), fun h6 hprof => ?_⟩
  have hseven := pushCheck_profile (s := s) (hpass h6) hprof
  refine ⟨fun h7 => fwPushDone_fails hbusy hpkg (by decide) ?_, fun h7 hseed => ⟨fwPushDone_installs hbusy hpkg ?_ hseed, takePush_same s x⟩⟩
  · rw [hseven, h7]
    rfl
  · rw [hseven, h7]
    rfl

end Sys2Proof.ResetAndBoot
end

section
/-! SUPPORT. Entropy, attestation, IDE, the states of a TDI, configuration requests and seals; and the statement about them (15 R372, R373, 18 R449 to R463). -/

open Sys2Proof Sys2Proof.Machine Sys2Proof.BarWrites

namespace Sys2Proof.Security

/-- The keys of the key sets, where IDE_KM may have programmed set i. -/
def programmed (s : State) (i : Nat) : Option Bytes → Tbl Bytes
  | some k => tput s.sec.ideKeys i k
  | none => s.sec.ideKeys

/-- The state after the blob of an install has been read and unwrapped, for context c (18 R461). -/
def unwrapped (u : State) (p c : Nat) (b : Bytes) : State :=
  match unwrapBlob u (padTo 432 b) with
  | .error e => setSealStatus u p e
  | .ok k => setSealStatus (setFld (setFld { u with seals := tput u.seals p { ctx := c, setId := sliceB b 8 16, key := k } } (rSealctl p) 6 6 1) (rSealuse p) 31 0 0) p 1

section
variable {s : State}

/-- The requests of SPDM that the device answers, and what those that need a draw do then (18 R451 to R453). -/
theorem attestation (s : State) (f : Fin 64) :
    (∀ off len, exec (.spdmGetCertificate f off len) s = .next (spdm s f 0x82 (leBytes 4 off ++ leBytes 4 len) (fun s => answer s f 0x02 (((certChain s).drop off).take len))))
    ∧ (∀ nonce, exec (.spdmChallenge f nonce) s = .next (spdm s f 0x83 nonce (fun s => ask s f (.challenge nonce)))
      ∧ doAsk s f (.challenge nonce) = signedAnswer s f 0x03 (sha384 (certChain s)) (sha384 (certChain s) ++ nonce))
    ∧ (∀ (i : BitVec 8) nonce b, b = (if i.toNat = 255 then (rangeFrom 1 8).flatMap (measurement s f) else measurement s f i.toNat) →
      exec (.spdmGetMeasurements f i nonce) s = .next (spdm s f 0xE0 (leBytes 1 i.toNat ++ nonce) (fun s => ask s f (.measure i.toNat nonce)))
      ∧ doAsk s f (.measure i.toNat nonce) = signedAnswer s f 0x60 b (b ++ nonce)) := by
  refine ⟨fun off len => rfl, fun nonce => ⟨rfl, rfl⟩, fun i nonce b hb => ⟨rfl, ?_⟩⟩
  subst hb
  rfl

/-- A key exchange opens a session, at most four at a time; a session ends, or is beaten (18 R453). -/
theorem sessions (s : State) (f : Fin 64) :
    (∀ req n u, n = s.sec.nextSession → u = drawn s 1 → exec (.spdmKeyExchange f req) s = .next (spdm s f 0xE4 req (fun s => ask s f (.exchange req)))
      ∧ (4 ≤ s.sec.sessions.length → doAsk s f (.exchange req) = s)
      ∧ (s.sec.sessions.length < 4 → doAsk s f (.exchange req) = answer { u with sec := { u.sec with sessions := s.sec.sessions ++ [(f.val, n)], nextSession := n + 1 } } f 0x64
          (leBytes 2 n ++ Config.keyExchange s.draws (fwm s) req)))
    ∧ (∀ n, exec (.spdmHeartbeat f n true) s = .next { s with sec := { s.sec with sessions := s.sec.sessions.filter (· ≠ (f.val, n)) } }
      ∧ exec (.spdmHeartbeat f n false) s = .next (spdm s f 0xE8 (leBytes 2 n) (fun s => if s.sec.sessions.contains (f.val, n) then answer s f 0x68 (leBytes 2 n) else s))) := by
  refine ⟨fun req n u hn hu => ⟨rfl, fun hfull => if_pos hfull, fun hroom => ?_⟩, fun n => ⟨rfl, rfl⟩⟩
  subst hn hu
  exact if_neg (Nat.not_le.2 hroom)

/-- Within a secure session: a stream goes to a key set that has keys, and a TDI is locked, started, stopped and unlocked (18 R454, R455). -/
theorem sessionRows {f : Fin 64} (hopen : s.sec.sessions.any (fun e => e.1 = f.val) = true) :
    (∀ (st : Fin 9) g key i keys, i = st.val * 2 + b2n g → keys = programmed s i key →
      exec (.ideKmKeySetGo f st g key) s = .next { s with sec := { s.sec with ideKeys := keys, ide := if thas keys i then tput s.sec.ide st (b2n g, true) else s.sec.ide } })
    ∧ (∀ (st : Fin 8) k, isTdi s f = true → tdiState s f = 0 → tget s.sec.ide st = some (k, true) →
      exec (.tdispLockInterface f st) s = .next (setFld (setFld (setTdi s f 1) (rSecTdi f) 3 3 1) (rSecTdi f) 6 4 st))
    ∧ (tdiState s f = 1 → exec (.tdispStartInterface f) s = .next (setTdi s f 2))
    ∧ (tdiState s f = 2 → exec (.tdispStopInterface f) s = .next (startScrub s f 13))
    ∧ (tdiState s f = 1 → exec (.tdispStopInterface f) s = .next (setFld (setTdi s f 0) (rSecTdi f) 6 3 0)) := by
  have hstays : ¬ ((!s.sec.sessions.any (fun e => e.1 = f.val)) = true) := by rw [hopen]; decide
  refine ⟨fun st g key i keys hi hkeys => ?_, fun st k htdi hunlocked hstream => ?_, fun hlocked => ?_, fun hrun => ?_, fun hlocked => ?_⟩
  · subst hi hkeys
    exact if_neg hstays
  · show execTdispLockInterface f st s = _
    simp only [execTdispLockInterface, htdi, hunlocked, hstream, hopen, ne_eq, not_true_eq_false, decide_false, Bool.not_true, Bool.or_self, Bool.false_eq_true, if_false]
  · show execTdispStartInterface f s = _
    simp only [execTdispStartInterface, hlocked, hopen, decide_true, Bool.and_self, if_true]
  · show execTdispStopInterface f s = _
    rw [execTdispStopInterface, if_neg hstays, if_pos hrun]
  · show execTdispStopInterface f s = _
    rw [execTdispStopInterface, if_neg hstays, if_neg (by rw [hlocked]; decide), if_pos hlocked]

/-- An integrity failure turns its stream insecure, and every TDI bound to it enters ERROR (18 R454). -/
theorem ideTlpFail_secure {st : Fin 9} {k : Nat} {u : State} (hide : tget s.sec.ide st = some (k, true)) (hu : u = { s with sec := { s.sec with ide := tput s.sec.ide st (k, false) } }) :
    exec (.ideTlpFail st) s = .next ((List.range 64).foldl (fun s f => if bit (rd s (rSecTdi f)) 3 && fld s (rSecTdi f) 6 4 = st.val then tdiError s f else s) u) := by
  subst hu
  show execIdeTlpFail st s = _
  simp only [execIdeTlpFail, hide]

/-- A configuration write of a function that answers (15 R372, R373, 18 R455). -/
theorem configWrites (hup : s.pins.pcieUp = true) :
    (∀ (f : Fin 64), f.val = 0 ∨ vfOn s f = true →
      (∀ n d (v : BitVec 32), exec (.configurationRequest f (.vector n d) v) s = .next (writeVector s f n d v.toNat))
      ∧ (∀ i (v u : BitVec 32), u = cfgValue (.bar i) v → isTdi s f = true → (tget s.sec.cfg (cfgKey f (.bar i))).getD 0 ≠ u →
        exec (.configurationRequest f (.bar i) v) s = .next (((List.range 64).filter (fun n => decide (n = f.val) && isTdi s n)).foldl tdiError { s with sec := { s.sec with cfg := tput s.sec.cfg (cfgKey f (.bar i)) u } })))
    ∧ (∀ v : BitVec 32, v.toNat ≤ totalVfs s → (tget s.sec.cfg (cfgKey 0 .numVfs)).getD 0 ≠ v →
      exec (.configurationRequest 0 .numVfs v) s = .next (((List.range 64).filter (isTdi s)).foldl tdiError { s with sec := { s.sec with cfg := tput s.sec.cfg (cfgKey 0 .numVfs) v } })) := by
  refine ⟨fun f hf => ⟨fun n d v => ?_, fun i v u hu htdi hnew => ?_⟩, fun v hfits hnew => ?_⟩
  · exact if_neg (by simpa [hup, or_iff_not_imp_left] using hf)
  · subst hu
    exact (if_neg (by simpa [hup, or_iff_not_imp_left] using hf)).trans (congrArg _ (if_neg hnew))
  · exact (if_neg (by simpa [hup] using hfits)).trans (congrArg _ (if_neg hnew))

/-- SEAL_CLEAR and SEAL_INSTALL, where the write is taken (18 R460, R461). -/
theorem sealWrites {p : Fin 8} {v : BitVec 32} {w : Writer} {u : State} {c : Nat} (hacc : accepts s w = true) (hu : u = barWake s w) (hc : c = bits v.toNat 5 2) :
    (bit v.toNat 1 = true → bit v.toNat 0 = false → exec (.sealClear p v w) s = .next (writeThen u (rSealctl p) v.toNat (fun t => dropSeal t p)))
    ∧ (bit v.toNat 0 = true → bit (rd u (rSealctl p)) 7 = false →
      (bits v.toNat 31 11 = 0 → (bit (rd u (rSealctl p)) 6 = true ∧ bit v.toNat 1 = false) ∨ ctxNone u p c = true →
        exec (.sealInstall p v w) s = .next (setSealStatus (rejectOff u (rSealctl p)) p 7))
      ∧ ((bit (rd u (rSealctl p)) 6 = false ∨ bit v.toNat 1 = true) → ctxNone u p c = false →
        (winFits u p c (rd u (rSealwin p)) = false → exec (.sealInstall p v w) s = .next (rejectOff u (rSealctl p)))
        ∧ (winFits u p c (rd u (rSealwin p)) = true → exec (.sealInstall p v w) s = .next (writeThen u (rSealctl p) v.toNat (fun t =>
          let t := if bit v.toNat 1 then dropSeal t p else t
          setSealStatus (setFld t (rSealctl p) 7 7 1) p 0))))) := by
  subst hc
  have hrow : exec (.sealInstall p v w) s = execSealInstall p v w s := rfl
  refine ⟨fun hclear hinst => ?_, fun hinst hidle => ?_⟩
  · show execSealClear p v w s = _
    exact gate_taken hacc hu (if_neg (by rw [hclear, hinst]; decide))
  have hgo : ¬ ((!bit v.toNat 0 || bit (rd u (rSealctl p)) 7) = true) := by rw [hinst, hidle]; decide
  refine ⟨fun hhigh hrefused => ?_, fun hfree hctx => ?_⟩
  · rw [hrow, execSealInstall]
    refine gate_taken hacc hu ?_
    dsimp only
    rw [if_neg hgo, if_pos (by simpa [hhigh] using hrefused)]
  have hallowed : ¬ ((decide (bits v.toNat 31 11 = 0) && (bit (rd u (rSealctl p)) 6 && !bit v.toNat 1 || ctxNone u p (bits v.toNat 5 2))) = true) := by
    rcases hfree with h | h
    · rw [h, hctx, Bool.false_and, Bool.or_self, Bool.and_false]
      exact Bool.false_ne_true
    · rw [h, hctx, Bool.not_true, Bool.and_false, Bool.or_self, Bool.and_false]
      exact Bool.false_ne_true
  refine ⟨fun hwin => ?_, fun hwin => ?_⟩
  · rw [hrow, execSealInstall]
    refine gate_taken hacc hu ?_
    dsimp only
    rw [if_neg hgo, if_neg hallowed, hwin]
    rfl
  · rw [hrow, execSealInstall]
    refine gate_taken hacc hu ?_
    dsimp only
    rw [if_neg hgo, if_neg hallowed, hwin]
    rfl

/-- The install of a seal ends with its status (18 R461). -/
theorem sealInstallDone_rows {p : Fin 8} {u : State} {c : Nat} (hbusy : bit (rd s (rSealctl p)) 7 = true) (hu : u = setFld s (rSealctl p) 7 7 0) (hc : c = fld u (rSealctl p) 5 2) :
    exec (.sealInstallDone p none) s = .next (setSealStatus u p 2)
    ∧ (∀ b, ctxNone u p c = true → exec (.sealInstallDone p (some b)) s = .next (setSealStatus u p 7))
    ∧ (∀ b, ctxNone u p c = false → exec (.sealInstallDone p (some b)) s = .next (unwrapped u p c b)) := by
  subst hc hu
  have hgo : ¬ ((!bit (rd s (rSealctl p)) 7) = true) := by rw [hbusy]; decide
  refine ⟨if_neg hgo, fun b hnone => (if_neg hgo).trans (if_pos hnone), fun b hsome => ?_⟩
  refine (if_neg hgo).trans ((if_neg (by rw [hsome]; exact Bool.false_ne_true)).trans ?_)
  rw [unwrapped]
  cases unwrapBlob (setFld s (rSealctl p) 7 7 0) (padTo 432 b) <;> rfl

end

/-- Settles O52: by the part of the chapter that each row is of. -/
theorem securityRows : Obligations.SecurityRows := by
  refine fun s => ⟨fun hseed => if_pos hseed, fun u v w hu hv hw => ?_, fun f => ?_, fun st k u => ideTlpFail_secure, configWrites, fun p v w u c => sealWrites, fun p u c => sealInstallDone_rows⟩
  · subst hw hv hu
    rfl
  · obtain ⟨hcert, hchal, hmeas⟩ := attestation s f
    obtain ⟨hkey, hbeat⟩ := sessions s f
    exact ⟨hcert, hchal, hmeas, hkey, hbeat, sessionRows, fun hscrub => if_pos hscrub⟩

end Sys2Proof.Security
end

section
/-! SUPPORT. What a register write does by its register, its width and its writer; and the statement about them (01 R34, R37, 05 R138, 10 R242, R254, 11 R268, 16 R403). -/

open Sys2Proof Sys2Proof.Machine Sys2Proof.BarWrites

namespace Sys2Proof.RegisterWrites

/-- The answer to a write of a width or alignment that the BAR does not take: Completer Abort, to a host (15 R374). -/
def aborted (s : State) : Writer → State
  | .host _ => { s with out := s.out ++ [.abort 0] }
  | .mgc _ => s

section
variable {s u : State} {w : Writer}

/-- A write of one of the device's own registers has its effect by its shape. -/
theorem exec_regWrite_own (off : BitVec 32) (n : Fin 9) (v : BitVec 64) : exec (.regWrite 0 off n v w) s = gate s w (fun s =>
    if !barShape off.toNat n then .next (aborted s w) else .next (plainWrite (wideWrite s off.toNat n v.toNat).1 (wideWrite s off.toNat n v.toNat).2 s)) := by
  show execRegWrite 0 off n v w s = _
  rw [execRegWrite, if_pos rfl]
  cases w <;> rfl

/-- A write through a peer's function goes to its tunnel, where the function takes it (01 R34). -/
theorem regWrite_peer {vf : Fin 64} {off : BitVec 32} {n : Fin 9} {v : BitVec 64} {t : Option (Fin 8)} (hvf : vf ≠ 0) (hacc : accepts s (.host none) = true) (hu : u = barWake s (.host none))
    (hshape : barShape off.toNat n = true) : exec (.regWrite vf off n v (.host t)) s = .next (toVf u vf off.toNat t (fun s => toTunnel s vf 2 off.toNat (leBytes n v.toNat))) := by
  have hval : vf.val ≠ 0 := fun h => hvf (Fin.ext h)
  show execRegWrite vf off n v (.host t) s = _
  rw [execRegWrite, if_neg hvf]
  refine gate_taken hacc hu ?_
  rw [if_neg (by rw [hshape]; decide), if_pos hval]

section
variable {off : Nat} {n v : Nat}

/-- A write of 64 bits means its register and its value. -/
theorem wideWrite_whole (hn : n ≠ 4) : wideWrite u off n v = (off, v) := if_pos hn

/-- One of 32 bits at a 64-bit register is its low half, beside which the high half keeps (log entry 57). -/
theorem wideWrite_half {d : RegDesc} (hn : n = 4) (hreg : regFind off = some d) (hwidth : d.width = 64) : wideWrite u off n v = (off, v % 2 ^ 32 + otherHalf u d off true) := by
  simp only [wideWrite, hn, hreg, hwidth, ne_eq, not_true_eq_false, if_false, decide_true, if_true]

/-- One of 32 bits at a 32-bit register that is no high half. -/
theorem wideWrite_short {d : RegDesc} (hn : n = 4) (hreg : regFind off = some d) (hwidth : d.width = 32) (hlow : regFind (off - 4) = none) : wideWrite u off n v = (off, v % 2 ^ 32) := by
  have hnarrow : ¬ (decide (d.width = 64) = true) := by rw [hwidth]; decide
  simp only [wideWrite, hn, hreg, hlow, ne_eq, not_true_eq_false, if_false]
  rw [if_neg hnarrow, if_neg Bool.false_ne_true]

/-- A value that is reserved, out of range or against a rule changes no field; another is written by field (00 R8, 01 R37). -/
theorem plainWrite_rows {d : RegDesc} {i j x : Nat} (hreg : regFind off = some d) (hidx : regIdx d off = some (i, j)) (hx : x = v % 2 ^ d.width) (hclear : clearsEn u d off x = false) :
    (fldsOk d x = false → plainWrite off v u = rejectOff u off)
    ∧ (fldsOk d x = true → ownRow u d off x = false →
      (ruleBad u d i j off x = false → plainWrite off v u = afterWrite u (regApply u off d x) d i)
      ∧ (ruleBad u d i j off x = true → plainWrite off v u = rejectOff u off)) := by
  subst hx
  have hsplit : plainWrite off v u = if !fldsOk d (v % 2 ^ d.width) then rejectOff u off else if ownRow u d off (v % 2 ^ d.width) then u
      else if ruleBad u d i j off (v % 2 ^ d.width) then rejectOff u off else afterWrite u (regApply u off d (v % 2 ^ d.width)) d i := by
    simp only [plainWrite, hreg, hidx, hclear, Bool.false_eq_true, if_false]
  refine ⟨fun hbad => ?_, fun hgood hown => ⟨fun hrule => ?_, fun hrule => ?_⟩⟩
  · rw [hsplit, hbad]
    rfl
  · rw [hsplit, hgood, hown, hrule]
    rfl
  · rw [hsplit, hgood, hown, hrule]
    rfl

end

section
variable (hacc : accepts s w = true) (hu : u = barWake s w)
include hacc hu

/-- A write to a register of a commit window goes to its shadow, or is rejected (10 R254). -/
theorem shadowWrite_rows {off : BitVec 32} {v : BitVec 64} {d : RegDesc} {p x : Nat} (hpart : cwPart off.toNat = some p) (hreg : regFind off.toNat = some d) (hx : x = v.toNat % 2 ^ d.width)
    (hrow : off.toNat ≠ rDbtPeriod p ∨ bit (rd u (rDbtPeriod p)) 0 = true ∨ bit x 0 = false) :
    (fldsOk d x = true → exec (.shadowWrite off v w) s = .next (shadowWrite u p off.toNat (d.flds.foldl (fldWrite x 0) 0)))
    ∧ (fldsOk d x = false → exec (.shadowWrite off v w) s = .next (rejectOff u off.toNat)) := by
  subst hx
  have hother : ¬ ((decide (off.toNat = rDbtPeriod p) && !bit (rd u (rDbtPeriod p)) 0 && bit (v.toNat % 2 ^ d.width) 0) = true) := by
    rcases hrow with h | h | h
    · simp [h]
    · simp [h]
    · rw [h, Bool.and_false]
      exact Bool.false_ne_true
  have hsplit : exec (.shadowWrite off v w) s = if !fldsOk d (v.toNat % 2 ^ d.width) then .next (rejectOff u off.toNat)
      else .next (shadowWrite u p off.toNat (d.flds.foldl (fldWrite (v.toNat % 2 ^ d.width) 0) 0)) := by
    show execShadowWrite off v w s = _
    refine gate_taken hacc hu ?_
    simp only [hpart, hreg]
    exact if_neg hother
  refine ⟨fun hgood => ?_, fun hbad => ?_⟩
  · rw [hsplit, hgood]
    rfl
  · rw [hsplit, hbad]
    rfl

/-- Writing 1 clears the bits of CFGERR that were not set in the cycle (01 R37). -/
theorem cfgerrClear_clears (mask : BitVec 17) : ∃ t, exec (.cfgerrClear mask w) s = .next t ∧ fld t rCfgerr 16 0 = clearBits (fld u rCfgerr 16 0) mask.toNat (stuck u rCfgerr)
    ∧ (∀ h l, 16 < l → fld t rCfgerr h l = fld u rCfgerr h l) ∧ regsBut [rCfgerr] u t ∧ { t with regs := u.regs } = u := by
  have hlt : clearBits (fld u rCfgerr 16 0) mask.toNat (stuck u rCfgerr) < 2 ^ 17 := by
    have hfld : fld u rCfgerr 16 0 < 2 ^ 17 := Nat.mod_lt _ (Nat.two_pow_pos _)
    have hkept : fld u rCfgerr 16 0 &&& mask.toNat &&& stuck u rCfgerr ≤ fld u rCfgerr 16 0 &&& mask.toNat := Nat.and_le_left
    have hcleared : fld u rCfgerr 16 0 &&& mask.toNat ≤ fld u rCfgerr 16 0 := Nat.and_le_left
    unfold clearBits
    omega
  refine ⟨setFld u rCfgerr 16 0 (clearBits (fld u rCfgerr 16 0) mask.toNat (stuck u rCfgerr)), ?_, ?_, fun h l hl => fld_setFld_beside _ _ _ _ _ _ _ (by omega) (by omega) (.inr hl), fun a ha => ?_, rfl⟩
  · show execCfgerrClear mask w s = _
    exact gate_taken hacc hu rfl
  · rw [fld_setFld_same _ _ _ _ _ (by omega) (by omega), Nat.mod_eq_of_lt hlt]
  · exact rd_setFld_other _ _ _ _ _ _ (by simpa using ha)

/-- The peak of the tally store falls to its level (05 R138). -/
theorem tstorePeakClear_clears (k : Fin 12) : ∃ t, exec (.tstorePeakClear k w) s = .next t ∧ fld t (rCteTstore k) 30 16 = fld u (rCteTstore k) 14 0 ∧ regsBut [rCteTstore k] u t
    ∧ { t with regs := u.regs } = u := by
  have hlt : fld u (rCteTstore k) 14 0 < 2 ^ 15 := Nat.mod_lt _ (Nat.two_pow_pos _)
  refine ⟨setFld u (rCteTstore k) 30 16 (fld u (rCteTstore k) 14 0), ?_, ?_, fun a ha => ?_, rfl⟩
  · show execTstorePeakClear k w s = _
    exact gate_taken hacc hu rfl
  · rw [fld_setFld_same _ _ _ _ _ (by omega) (by omega), Nat.mod_eq_of_lt hlt]
  · exact rd_setFld_other _ _ _ _ _ _ (by simpa using ha)

/-- A drum is enabled: K takes effect, and the anchor is the next cycle (10 R242, R254). -/
theorem drumEnable_enables {p : Fin 8} {v : BitVec 32} (hoff : bit (rd u (rDbtPeriod p)) 0 = false) (hset : v.getLsbD 0 = true) (hlow : 12 ≤ bits v.toNat 8 4) (hhigh : bits v.toNat 8 4 ≤ 26) :
    exec (.drumEnable p v w) s = .next (modPart (setReg { u with shadow := tdel u.shadow (rDbtPeriod p), shadowLate := tdel u.shadowLate (rDbtPeriod p) } (rDbtPeriod p) (1 + at_ (bits v.toNat 8 4) 4)) p
      (fun x => { x with anchor := some (u.cycle + 1), count := 0, lastPoint := none })) := by
  show execDrumEnable p v w s = _
  refine gate_taken hacc hu ?_
  rw [if_neg (by rw [hoff, hset]; decide), if_neg (by simp only [Bool.or_eq_true, decide_eq_true_eq]; omega)]
  rfl

/-- A partition is enabled, and its tenant counts begin anew (18 R465). -/
theorem partitionEnable_enables {p : Fin 8} {v : BitVec 64} (hoff : bit (rd u (rPtnCfg p)) 0 = false) (hset : v.getLsbD 0 = true) (hok : ptnOk u p v.toNat = true) :
    exec (.partitionEnable p v w) s = .next (modPart (setReg u (rPtnCfg p) (ptnCfgVal v.toNat)) p
      (fun x => { x with trun := 0, theld := 0, held0 := rd (setReg u (rPtnCfg p) (ptnCfgVal v.toNat)) rDbtHeld })) := by
  show execPartitionEnable p v w s = _
  refine gate_taken hacc hu ?_
  rw [if_neg (by rw [hoff, hset]; decide), if_neg (by rw [hok]; decide)]

/-- A bell is enabled, or disabled while its context does not run (11 R268, R279). -/
theorem bellRows (b : Fin 64) (v : BitVec 64) :
    (bit (rd u (rBelCfg b)) 0 = false → v.getLsbD 0 = true → belCfgOk v.toNat = true →
      exec (.bellEnable b v w) s = .next (modBell (setReg u (rBelCfg b) (belCfgVal v.toNat)) b (fun x => { ctx := x.ctx, discards := x.discards })))
    ∧ (bit (rd u (rBelCfg b)) 0 = true → v.getLsbD 0 = false → bellRuns u b = false → exec (.bellDisable b v w) s = .next (setFld u (rBelCfg b) 0 0 0)) := by
  refine ⟨fun hoff hset hok => ?_, fun hon hclear hidle => ?_⟩
  · show execBellEnable b v w s = _
    refine gate_taken hacc hu ?_
    rw [if_neg (by rw [hoff, hset]; decide), if_neg (by rw [hok]; decide)]
  · show execBellDisable b v w s = _
    refine gate_taken hacc hu ?_
    rw [if_neg (by rw [hon, hclear]; decide), if_neg (by rw [hidle]; exact Bool.false_ne_true)]

end

/-- A write that is not taken is answered, whatever its row (18 R455). -/
theorem refusedWrites (hacc : accepts s w = false) : (∀ off n v, exec (.regWrite 0 off n v w) s = .next (refuseBar s w)) ∧ (∀ off v, exec (.shadowWrite off v w) s = .next (refuseBar s w))
    ∧ (∀ m, exec (.cfgerrClear m w) s = .next (refuseBar s w)) ∧ (∀ p v, exec (.drumEnable p v w) s = .next (refuseBar s w)) ∧ (∀ p v, exec (.partitionEnable p v w) s = .next (refuseBar s w))
    ∧ (∀ b v, exec (.bellEnable b v w) s = .next (refuseBar s w) ∧ exec (.bellDisable b v w) s = .next (refuseBar s w)) := by
  refine ⟨fun off n v => ?_, fun off v => ?_, fun m => ?_, fun p v => ?_, fun p v => ?_, fun b v => ⟨?_, ?_⟩⟩
  · rw [exec_regWrite_own, gate_refused hacc]
  · show execShadowWrite off v w s = _
    exact gate_refused hacc
  · show execCfgerrClear m w s = _
    exact gate_refused hacc
  · show execDrumEnable p v w s = _
    exact gate_refused hacc
  · show execPartitionEnable p v w s = _
    exact gate_refused hacc
  · show execBellEnable b v w s = _
    exact gate_refused hacc
  · show execBellDisable b v w s = _
    exact gate_refused hacc

end

/-- Settles O53: the writes that are not taken, and each register's. -/
theorem registerRows : Obligations.RegisterRows := by
  refine fun w s => ⟨refusedWrites, fun u hacc hu => ⟨fun off n v hshape => ⟨?_, fun hn => wideWrite_whole (by rw [hn]; decide), fun d hn hreg hwidth => wideWrite_half (by rw [hn]; rfl) hreg hwidth,
      fun d hn hreg hwidth hlow => wideWrite_short (by rw [hn]; rfl) hreg hwidth hlow⟩, fun off v d i j x => plainWrite_rows, fun off n v hshape => ?_,
    fun vf off n v t y => regWrite_peer, fun off v d p x => shadowWrite_rows hacc hu, cfgerrClear_clears hacc hu, tstorePeakClear_clears hacc hu,
    fun p v => drumEnable_enables hacc hu, fun p v => partitionEnable_enables hacc hu, bellRows hacc hu⟩⟩
  · rw [exec_regWrite_own]
    exact gate_taken hacc hu (if_neg (by rw [hshape]; decide))
  · rw [exec_regWrite_own]
    refine gate_taken hacc hu ((if_pos (by rw [hshape]; rfl)).trans ?_)
    cases w <;> rfl

end Sys2Proof.RegisterWrites
end

section
/-! SUPPORT. What the rows of the ledger ring and of the snapshot ring do; and the statement about them (02 R56 to R59, 08 R208 to R211, 15 R395, 18 R449). -/

open Sys2Proof Sys2Proof.Machine Sys2Proof.BarWrites

namespace Sys2Proof.LedgerRings

section
variable {p : Fin 8} {s : State}

/-- A ring that is on and that records wait for has something to do. -/
theorem ledgerRecordWrite_waits (hon : bit (rd s (rLdgCtrl p)) 0 = true) (hwait : (part s p).ring.waiting ≠ []) :
    ¬ ((!bit (rd s (rLdgCtrl p)) 0 || (part s p).ring.waiting.isEmpty) = true) := by
  simpa [hon] using hwait

/-- With room, the oldest record is placed (02 R56). -/
theorem ledgerRecordWrite_places {u : State} (hon : bit (rd s (rLdgCtrl p)) 0 = true) (hwait : (part s p).ring.waiting ≠ []) (hroom : ringRoom s p = true) (hu : u = ringPut s p) :
    exec (.ledgerRecordWrite p) s = .next (if bpHold u p then freeBackpressure u p else u) := by
  subst hu
  show execLedgerRecordWrite p s = _
  rw [execLedgerRecordWrite, if_neg (ledgerRecordWrite_waits hon hwait), if_pos hroom]

/-- Without room, a context whose record waits holds, once (02 R57). -/
theorem ledgerRecordWrite_holds {k : Nat} {l : List Nat} (hon : bit (rd s (rLdgCtrl p)) 0 = true) (hwait : (part s p).ring.waiting ≠ []) (hfull : ringRoom s p = false)
    (hctx : waitingCtxs s p = k :: l) (hnew : bpHold s p = false) :
    exec (.ledgerRecordWrite p) s = .next (gateEval (modPart (setFld (raiseHold s 9 p 5 0 (some k) s.run 0) (rLdgStatus p) 30 30 1) p
      (fun x => { x with ring := { x.ring with blockedAt := some x.points } }))) := by
  show execLedgerRecordWrite p s = _
  rw [execLedgerRecordWrite, if_neg (ledgerRecordWrite_waits hon hwait), if_neg (by rw [hfull]; exact Bool.false_ne_true), hctx]
  exact if_neg (by rw [hnew]; exact Bool.false_ne_true)

/-- The oldest record that is not streamed goes out as one completion, where its queue pair has room (15 R395). -/
theorem ledgerStream_streams {off n q corr : Nat} {b : Bool} {rest : List (Nat × Nat × Bool)} {bad : List Nat} {u : State} (hon : bit (rd s (rLdgCtrl p)) 1 = true)
    (hnext : dropPads (part s p).ring.written = (off, n, b) :: rest) (hq : ledgerQp s p = some q) (hfits : 1 + (n + 63) / 64 ≤ qpSlots s q) (hroom : cqRoom s q (1 + (n + 63) / 64) = true)
    (hu : u = gddrReport s (ringBase s p + off) n corr bad) :
    exec (.ledgerStream p corr bad) s = .next (passRecord (writeCompl u q { kind := 4, status := 0, ctx := 0, id := 0, body := streamBytes u (ringBase s p + off) n }) p rest) := by
  subst hu
  show execLedgerStream p corr bad s = _
  simp only [execLedgerStream, hon, hnext, hq, hroom, Nat.not_lt.2 hfits, Bool.not_true, Bool.false_eq_true, if_false, if_true]

/-- A backpressure hold that has lasted TIMEOUT grid points overruns the ledger (02 R58). -/
theorem ledgerOverrun_due {n : Nat} (hblocked : (part s p).ring.blockedAt = some n) (hhold : bpHold s p = true) (hdue : n + fld s (rLdgCtrl p) 31 16 ≤ (part s p).points) :
    exec (.ledgerOverrun p) s = .next (gateEval ((waitingCtxs s p).foldl (fun t k => fault1 t k (overrunProb s p))
      (modPart (setFld s (rLdgStatus p) 30 30 0) p (fun x => { x with ring := { x.ring with blockedAt := none } })))) := by
  show execLedgerOverrun p s = _
  simp only [execLedgerOverrun, hblocked, hhold, hdue, decide_true, Bool.and_self, if_true]

section
variable {w : Writer} {u : State} (hacc : accepts s w = true) (hu : u = barWake s w)
include hacc hu

/-- The rings are enabled and disabled (02 R59, 08 R211). -/
theorem ringWrites (v : BitVec 32) :
    (bit (rd u (rLdgCtrl p)) 0 = false → v.getLsbD 0 = true → bits v.toNat 31 16 ≠ 0 → ledgerOk u p = true →
      exec (.ledgerEnable p v w) s = .next (modPart (setReg (setReg u (rLdgCtrl p) (ldgCtrlVal v.toNat)) (rLdgStatus p) 0) p (fun x => { x with ring := {} })))
    ∧ (bit (rd u (rLdgCtrl p)) 0 = true → v.getLsbD 0 = false → bits v.toNat 31 16 ≠ 0 →
      exec (.ledgerDisable p v w) s = .next (gateEval (syncPtr (modPart (endBackpressure (setReg u (rLdgCtrl p) (ldgCtrlVal v.toNat)) p) p
        (fun x => { x with ring := { x.ring with waiting := [], written := [] } })) p)))
    ∧ (bit (rd u (rSnapCtrl p)) 0 = false → v.getLsbD 0 = true → snapOk u p = true →
      exec (.snapRingEnable p v w) s = .next (modPart (setReg (setReg u (rSnapCtrl p) 1) (rSnapPtr p) 0) p (fun x => { x with snap := {} }))) := by
  refine ⟨fun hoff hset htime hok => ?_, fun hon hclear htime => ?_, fun hoff hset hok => ?_⟩
  · show execLedgerEnable p v w s = _
    refine gate_taken hacc hu ?_
    rw [if_neg (by rw [hoff, hset]; decide), if_neg (by simp [htime, hok])]
  · show execLedgerDisable p v w s = _
    refine gate_taken hacc hu ?_
    rw [if_neg (by rw [hon, hclear]; decide), if_neg htime]
  · show execSnapRingEnable p v w s = _
    refine gate_taken hacc hu ?_
    rw [if_neg (by rw [hoff, hset]; decide), if_neg (by rw [hok]; decide)]

/-- The read pointer of the snapshot ring frees whole records, and the ledger region is set, or waits for entropy (08 R208, 18 R449). -/
theorem pointerWrites (v : BitVec 64) :
    (bits v.toNat 60 32 = fld u (rSnapPtr p) 28 0 → exec (.snapRptrWrite p v w) s = .next
      (modPart (setFld u (rSnapPtr p) 60 32 (bits v.toNat 60 32)) p (fun x => { x with snap := { x.snap with written := [] } })))
    ∧ (∀ l, bits v.toNat 60 32 ≠ fld u (rSnapPtr p) 28 0 → fromRecord (bits v.toNat 60 32 * 64) (part u p).snap.written = some l → exec (.snapRptrWrite p v w) s = .next
      (modPart (setFld u (rSnapPtr p) 60 32 (bits v.toNat 60 32)) p (fun x => { x with snap := { x.snap with written := l } })))
    ∧ (∀ x, x = at_ (bits v.toNat 47 20) 20 + at_ (bits v.toNat 63 48) 48 → ldgRegionOk u p x = true →
      (u.sec.entWait = false → exec (.ledgerRegionWrite p v w) s = .next (setRegion u p x))
      ∧ (u.sec.entWait = true → exec (.ledgerRegionWrite p v w) s = .next { u with sec := { u.sec with entQ := u.sec.entQ ++ [(p.val, x)] } })) := by
  refine ⟨fun hall => ?_, fun l hsome hfrom => ?_, fun x hx hok => ⟨fun hent => ?_, fun hent => ?_⟩⟩
  · show execSnapRptrWrite p v w s = _
    exact gate_taken hacc hu (if_pos hall)
  · show execSnapRptrWrite p v w s = _
    refine gate_taken hacc hu ((if_neg hsome).trans ?_)
    rw [hfrom]
  · subst hx
    show execLedgerRegionWrite p v w s = _
    exact gate_taken hacc hu ((if_neg (by rw [hok]; decide)).trans (if_neg (by rw [hent]; exact Bool.false_ne_true)))
  · subst hx
    show execLedgerRegionWrite p v w s = _
    exact gate_taken hacc hu ((if_neg (by rw [hok]; decide)).trans (if_pos hent))

end

end

/-- Settles O54: the rows of the rings and their registers. -/
theorem ledgerRows : Obligations.LedgerRows := by
  refine fun p s => ⟨fun u => ledgerRecordWrite_places, fun k l => ledgerRecordWrite_holds, fun off n b rest q corr bad u => ledgerStream_streams, fun n => ledgerOverrun_due,
    fun v w u hacc hu => ringWrites hacc hu v, fun v w u hacc hu => pointerWrites hacc hu v⟩

end Sys2Proof.LedgerRings
end
